-- ==== Sys2Proof/Word.lean ====
section
/-! DEFINITION. The plain word types of the Olunel and nothing else (R4, R8, R21, R24). -/

-- One declaration after another: declarations that wait for one another would each hold a thread.
set_option Elab.async false

namespace Sys2Proof

/-- A byte of memory. -/
abbrev Byte := BitVec 8
/-- A 32-bit register of the compute slice, or one instruction word (R8, R57). -/
abbrev Word := BitVec 32
/-- A 64-bit register of the address slice, or a register pair (R14, R21). -/
abbrev DWord := BitVec 64
/-- One bit per lane of a warp: bit L stands for lane L (R7). -/
abbrev Mask := BitVec 32
/-- The arithmetic flags of one thread (R24). -/
abbrev Afl := BitVec 8

end Sys2Proof
end

