-- ==== Sys2Proof/Machine/Bits.lean ====
section
/-! DEFINITION. Bit fields, sign extension, byte order and small list tools that every other file uses (R4, R76). -/

namespace Sys2Proof.Machine

/-- Bits hi to lo of w, both ends included (R4). -/
def bits (w hi lo : Nat) : Nat := w / 2 ^ lo % 2 ^ (hi - lo + 1)

/-- Bit n of w. -/
def bitOf (w n : Nat) : Bool := w / 2 ^ n % 2 == 1

/-- The low n bits of x (R76, zext). -/
def zext (n x : Nat) : Nat := x % 2 ^ n

/-- The low n bits of x, read in two's complement (R76, sext). -/
def sext (n x : Nat) : Int :=
  if x % 2 ^ n < 2 ^ (n - 1) then (x % 2 ^ n : Nat) else (x % 2 ^ n : Nat) - (2 ^ n : Nat)

/-- An integer reduced modulo 2^n to a natural number. -/
def wrap (n : Nat) (x : Int) : Nat := (x % (2 ^ n : Nat)).toNat

/-- The low n bits of x, sign-extended to m bits. -/
def sextTo (m n x : Nat) : Nat := wrap m (sext n x)

/-- Byte i of x, byte 0 the least significant (R4). -/
def byteOf (x i : Nat) : Nat := x / 2 ^ (8 * i) % 256

/-- The n bytes of x, least significant first (R4). -/
def toBytes : Nat → Nat → List Byte
  | 0, _ => []
  | n + 1, x => BitVec.ofNat 8 (x % 256) :: toBytes n (x / 256)

/-- The number whose bytes, least significant first, are bs (R4). -/
def ofBytes : List Byte → Nat
  | [] => 0
  | b :: bs => b.toNat + 256 * ofBytes bs

/-- The number whose bytes of n, least significant first, are f 0, f 1, and so on. -/
def gatherBytes : Nat → (Nat → Nat) → Nat
  | 0, _ => 0
  | n + 1, f => f 0 % 256 + 256 * gatherBytes n (fun i => f (i + 1))

/-- The sum of (f i) * 2^(k*i) for i below n: n fields of k bits, field 0 lowest. -/
def gatherBits : Nat → Nat → (Nat → Nat) → Nat
  | 0, _, _ => 0
  | n + 1, k, f => f 0 % 2 ^ k + 2 ^ k * gatherBits n k (fun i => f (i + 1))

/-- The number of 1 bits among the low n bits of x. -/
def popCount : Nat → Nat → Nat
  | 0, _ => 0
  | n + 1, x => x % 2 + popCount n (x / 2)

/-- The number of leading 0 bits of x read in w bits; w when x is 0. -/
def leadingZeros (w x : Nat) : Nat :=
  if x % 2 ^ w = 0 then w else w - 1 - Nat.log2 (x % 2 ^ w)

/-- The number of trailing 0 bits of x read in w bits; w when x is 0. -/
def trailingZeros : Nat → Nat → Nat
  | 0, _ => 0
  | n + 1, x => if x % 2 = 1 then 0 else 1 + trailingZeros n (x / 2)

/-- x with bit i moved to bit w-1-i. -/
def reverseBits : Nat → Nat → Nat
  | 0, _ => 0
  | n + 1, x => (x % 2) * 2 ^ n + reverseBits n (x / 2)

/-- x rounded up to a multiple of n. -/
def roundUp (n x : Nat) : Nat := (x + n - 1) / n * n

/-- 1 for true and 0 for false. -/
def b2n (b : Bool) : Nat := if b then 1 else 0

/-- The lanes of a mask in ascending order. -/
def lanesOf (m : Mask) : List Nat := (List.range 32).filter (fun l => m.getLsbD l)

/-- The mask of a list of lanes. -/
def maskOf (ls : List Nat) : Mask := ls.foldl (fun m l => m ||| (1#32 <<< l)) 0#32

/-- The mask of the lanes for which f holds. -/
def maskWhere (f : Nat → Bool) : Mask := maskOf ((List.range 32).filter f)

/-- Every lane of a warp. -/
def allLanes : Mask := 0xFFFFFFFF#32

/-- The least element of a list under a key, the first such element on a tie. -/
def minBy (key : α → Nat) : List α → Option α
  | [] => none
  | x :: xs =>
    match minBy key xs with
    | none => some x
    | some y => if key x ≤ key y then some x else some y

/-- An element put in its place in a list sorted by an order, after its equals. -/
def insertBy (before : α → α → Bool) (x : α) : List α → List α
  | [] => [x]
  | y :: ys => if before x y then x :: y :: ys else y :: insertBy before x ys

/-- A list sorted by an order, equals kept in their order. -/
def sortBy (before : α → α → Bool) (xs : List α) : List α := xs.foldl (fun acc x => insertBy before x acc) []

/-- Replaces element i of a list. -/
def setAt : List α → Nat → α → List α
  | [], _, _ => []
  | _ :: xs, 0, y => y :: xs
  | x :: xs, n + 1, y => x :: setAt xs n y

/-- The elements of a list that are there. -/
def allSome : List (Option α) → Option (List α)
  | [] => some []
  | x :: xs =>
    match x, allSome xs with
    | some a, some as => some (a :: as)
    | _, _ => none

end Sys2Proof.Machine
end

