-- ==== Sys2Proof/Syntax.lean ====
section
/-! DEFINITION. The instructions of the Olunel: one constructor for each row of the opcode table. The 248 words of
the two slices carry the fields of their formats (R65, R73); the 155 events have no word. A field holds what the word holds, as a number. -/

namespace Sys2Proof

/-- Operands: format V, BSUBS to PREVB and XFER (R65, R85). -/
structure OpV where
  /-- bit 31 -/
  bd : Nat
  /-- bits 23:22 -/
  fm : Nat
  /-- bits 21:14 -/
  d : Nat
  /-- bits 13:7 -/
  a : Nat
  /-- bits 6:0 -/
  b : Nat
deriving DecidableEq, Repr, Inhabited

/-- Operands: format VU (R107). -/
structure OpVU where
  /-- bit 31 -/
  bd : Nat
  /-- bits 23:22 -/
  fm : Nat
  /-- bits 21:14 -/
  d : Nat
  /-- bits 13:7 -/
  a : Nat
deriving DecidableEq, Repr, Inhabited

/-- Operands: SETLNK: format VU with D = 0 (R107, R110). -/
structure OpSetLnk where
  /-- bit 31 -/
  bd : Nat
  /-- bits 23:22 -/
  fm : Nat
  /-- bits 13:7 -/
  a : Nat
deriving DecidableEq, Repr, Inhabited

/-- Operands: format CV (R114). -/
structure OpCV where
  /-- bit 31 -/
  bd : Nat
  /-- bits 23:22 -/
  fm : Nat
  /-- bits 21:14 -/
  d : Nat
  /-- bits 13:7 -/
  a : Nat
  /-- bits 6:4 -/
  slot : Nat
deriving DecidableEq, Repr, Inhabited

/-- Operands: format P (R118). -/
structure OpP where
  /-- bit 31 -/
  bd : Nat
  /-- bits 23:22 -/
  fm : Nat
  /-- bits 21:17 -/
  pd : Nat
  /-- bits 16:14 -/
  cc : Nat
  /-- bits 13:7 -/
  a : Nat
  /-- bits 6:0 -/
  b : Nat
deriving DecidableEq, Repr, Inhabited

/-- Operands: FCLASS: format P with FM = 10 and CC = 0 (R119). -/
structure OpFclass where
  /-- bit 31 -/
  bd : Nat
  /-- bits 21:17 -/
  pd : Nat
  /-- bits 13:7 -/
  a : Nat
  /-- bits 6:0 -/
  mask : Nat
deriving DecidableEq, Repr, Inhabited

/-- Operands: format PL (R120). -/
structure OpPL where
  /-- bit 31 -/
  bd : Nat
  /-- bits 23:21 -/
  lop : Nat
  /-- bits 20:14 -/
  pd : Nat
  /-- bits 13:7 -/
  pa : Nat
  /-- bits 6:0 -/
  pb : Nat
deriving DecidableEq, Repr, Inhabited

/-- Operands: format CM (R121). -/
structure OpCM where
  /-- bit 31 -/
  bd : Nat
  /-- bits 23:17 -/
  ps : Nat
  /-- bit 16 -/
  n : Nat
  /-- bits 15:8 -/
  d : Nat
  /-- bits 7:0 -/
  a : Nat
deriving DecidableEq, Repr, Inhabited

/-- Operands: format SH (R122). -/
structure OpSH where
  /-- bit 31 -/
  bd : Nat
  /-- bits 23:22 -/
  md : Nat
  /-- bits 21:14 -/
  d : Nat
  /-- bits 13:7 -/
  a : Nat
  /-- bits 6:0 -/
  b : Nat
deriving DecidableEq, Repr, Inhabited

/-- Operands: format L with a predicate destination (R123). -/
structure OpVote where
  /-- bit 31 -/
  bd : Nat
  /-- bits 17:13 -/
  d : Nat
  /-- bits 12:6 -/
  a : Nat
  /-- bits 5:3 -/
  seg : Nat
deriving DecidableEq, Repr, Inhabited

/-- Operands: format L, BALLOT (R123). -/
structure OpBallot where
  /-- bit 31 -/
  bd : Nat
  /-- bits 20:13 -/
  d : Nat
  /-- bits 12:6 -/
  a : Nat
  /-- bits 5:3 -/
  seg : Nat
deriving DecidableEq, Repr, Inhabited

/-- Operands: format L, REDUX (R124). -/
structure OpRedux where
  /-- bit 31 -/
  bd : Nat
  /-- bits 23:21 -/
  op : Nat
  /-- bits 20:13 -/
  d : Nat
  /-- bits 12:6 -/
  a : Nat
  /-- bits 5:3 -/
  seg : Nat
deriving DecidableEq, Repr, Inhabited

/-- Operands: format SR (R126). -/
structure OpSR where
  /-- bit 31 -/
  bd : Nat
  /-- bits 21:14 -/
  d : Nat
  /-- bits 6:0 -/
  code : Nat
deriving DecidableEq, Repr, Inhabited

/-- Operands: VGETI: format V with A = 0 (R127). -/
structure OpVgeti where
  /-- bit 31 -/
  bd : Nat
  /-- bits 23:22 -/
  fm : Nat
  /-- bits 21:14 -/
  d : Nat
  /-- bits 6:0 -/
  b : Nat
deriving DecidableEq, Repr, Inhabited

/-- Operands: VPUTI: format V with D = 0 (R127). -/
structure OpVputi where
  /-- bit 31 -/
  bd : Nat
  /-- bits 23:22 -/
  fm : Nat
  /-- bits 13:7 -/
  a : Nat
  /-- bits 6:0 -/
  b : Nat
deriving DecidableEq, Repr, Inhabited

/-- Operands: format M (R156). -/
structure OpM where
  /-- bit 31 -/
  bd : Nat
  /-- bits 23:20 -/
  la : Nat
  /-- bits 19:17 -/
  sp : Nat
  /-- bits 16:15 -/
  w : Nat
  /-- bits 14:7 -/
  d : Nat
  /-- bits 6:0 -/
  a : Nat
deriving DecidableEq, Repr, Inhabited

/-- Operands: format AT (R162). -/
structure OpAT where
  /-- bit 31 -/
  bd : Nat
  /-- bits 23:20 -/
  la : Nat
  /-- bits 19:18 -/
  sp : Nat
  /-- bits 17:14 -/
  aop : Nat
  /-- bits 13:7 -/
  d : Nat
  /-- bits 6:0 -/
  a : Nat
deriving DecidableEq, Repr, Inhabited

/-- Operands: QPOP (R165). -/
structure OpQpop where
  /-- bit 31 -/
  bd : Nat
  /-- bits 23:20 -/
  la : Nat
  /-- bits 15:8 -/
  d : Nat
  /-- bits 7:4 -/
  q : Nat
deriving DecidableEq, Repr, Inhabited

/-- Operands: QPOPS, QPEEK and QSTAT (R165). -/
structure OpQU where
  /-- bit 31 -/
  bd : Nat
  /-- bits 23:20 -/
  la : Nat
  /-- bits 14:8 -/
  sd : Nat
  /-- bits 7:4 -/
  q : Nat
deriving DecidableEq, Repr, Inhabited

/-- Operands: QPUSH (R165, R167). -/
structure OpQpush where
  /-- bit 31 -/
  bd : Nat
  /-- bits 23:20 -/
  la : Nat
  /-- bits 15:8 -/
  reg : Nat
  /-- bits 7:4 -/
  q : Nat
  /-- bit 3 -/
  k : Nat
deriving DecidableEq, Repr, Inhabited

/-- Operands: QDROP (R165). -/
structure OpQdrop where
  /-- bit 31 -/
  bd : Nat
  /-- bits 23:20 -/
  la : Nat
  /-- bits 13:8 -/
  n : Nat
  /-- bits 7:4 -/
  q : Nat
deriving DecidableEq, Repr, Inhabited

/-- Operands: RAWAIT and RSTAT (R169). -/
structure OpRingD where
  /-- bit 31 -/
  bd : Nat
  /-- bits 23:20 -/
  la : Nat
  /-- bits 13:7 -/
  sd : Nat
  /-- bits 6:0 -/
  sh : Nat
deriving DecidableEq, Repr, Inhabited

/-- Operands: RREL (R169). -/
structure OpRrel where
  /-- bit 31 -/
  bd : Nat
  /-- bits 23:20 -/
  la : Nat
  /-- bits 6:0 -/
  sh : Nat
deriving DecidableEq, Repr, Inhabited

/-- Operands: WAITC (R170). -/
structure OpWaitc where
  /-- bit 31 -/
  bd : Nat
  /-- bits 8:6 -/
  cls : Nat
  /-- bits 5:0 -/
  n : Nat
deriving DecidableEq, Repr, Inhabited

/-- Operands: CNTRD (R170). -/
structure OpCntrd where
  /-- bit 31 -/
  bd : Nat
  /-- bits 13:7 -/
  sd : Nat
  /-- bits 2:0 -/
  cls : Nat
deriving DecidableEq, Repr, Inhabited

/-- Operands: GATHER (R170). -/
structure OpGather where
  /-- bit 31 -/
  bd : Nat
  /-- bits 23:20 -/
  la : Nat
  /-- bits 15:8 -/
  ix : Nat
  /-- bits 6:0 -/
  sb : Nat
deriving DecidableEq, Repr, Inhabited

/-- Operands: CREDUCE (R170). -/
structure OpCreduce where
  /-- bit 31 -/
  bd : Nat
  /-- bits 23:20 -/
  la : Nat
  /-- bits 15:12 -/
  opr : Nat
  /-- bits 6:0 -/
  sb : Nat
deriving DecidableEq, Repr, Inhabited

/-- Operands: MSIGN (R174). -/
structure OpMsign where
  /-- bit 31 -/
  bd : Nat
  /-- bits 23:20 -/
  la : Nat
  /-- bits 15:12 -/
  cv : Nat
  /-- bits 11:5 -/
  sb : Nat
  /-- bits 4:0 -/
  set : Nat
deriving DecidableEq, Repr, Inhabited

/-- Operands: MCLR (R174). -/
structure OpMclr where
  /-- bit 31 -/
  bd : Nat
  /-- bits 23:20 -/
  la : Nat
  /-- bits 6:0 -/
  sb : Nat
deriving DecidableEq, Repr, Inhabited

/-- Operands: MSTAT (R174). -/
structure OpMstat where
  /-- bit 31 -/
  bd : Nat
  /-- bits 23:20 -/
  la : Nat
  /-- bits 13:7 -/
  sd : Nat
  /-- bits 4:0 -/
  sel : Nat
deriving DecidableEq, Repr, Inhabited

/-- Operands: a word with no operand but B. -/
structure OpBare where
  /-- bit 31 -/
  bd : Nat
deriving DecidableEq, Repr, Inhabited

/-- Operands: BARN (R178). -/
structure OpBarn where
  /-- bit 31 -/
  bd : Nat
  /-- bits 3:0 -/
  team : Nat
deriving DecidableEq, Repr, Inhabited

/-- Operands: FENCE and GFENCE (R178, R217). -/
structure OpFence where
  /-- bit 31 -/
  bd : Nat
  /-- bits 5:4 -/
  kind : Nat
  /-- bits 2:0 -/
  scope : Nat
deriving DecidableEq, Repr, Inhabited

/-- Operands: ARRIVE (R178). -/
structure OpArrive where
  /-- bit 31 -/
  bd : Nat
  /-- bits 23:20 -/
  la : Nat
  /-- bits 15:8 -/
  cnt : Nat
  /-- bits 6:0 -/
  sa : Nat
deriving DecidableEq, Repr, Inhabited

/-- Operands: AWAIT (R178). -/
structure OpAwait where
  /-- bit 31 -/
  bd : Nat
  /-- bits 13:7 -/
  sg : Nat
  /-- bits 6:0 -/
  sa : Nat
deriving DecidableEq, Repr, Inhabited

/-- Operands: TJOIN and TLEAVE (R178). -/
structure OpTeam where
  /-- bit 31 -/
  bd : Nat
  /-- bits 23:20 -/
  la : Nat
  /-- bits 3:0 -/
  team : Nat
deriving DecidableEq, Repr, Inhabited

/-- Operands: TRIGGER (R178). -/
structure OpTrigger where
  /-- bit 31 -/
  bd : Nat
  /-- bits 23:20 -/
  la : Nat
deriving DecidableEq, Repr, Inhabited

/-- Operands: MWAIT (R178). -/
structure OpMwait where
  /-- bit 31 -/
  bd : Nat
  /-- bits 13:7 -/
  sv : Nat
  /-- bits 6:0 -/
  sa : Nat
deriving DecidableEq, Repr, Inhabited

/-- Operands: UIPOST, UIMASK and the CAP minors of the compute slice (R186, R192). -/
structure OpPair where
  /-- bit 31 -/
  bd : Nat
  /-- bits 23:20 -/
  la : Nat
  /-- bits 13:7 -/
  sd : Nat
  /-- bits 6:0 -/
  sa : Nat
deriving DecidableEq, Repr, Inhabited

/-- Operands: UIPOST and the CAP minors of the address slice (R187, R192). -/
structure OpGPair where
  /-- bit 31 -/
  bd : Nat
  /-- bits 23:20 -/
  la : Nat
  /-- bits 12:7 -/
  sd : Nat
  /-- bits 5:0 -/
  sa : Nat
deriving DecidableEq, Repr, Inhabited

/-- Operands: UIWAIT (R186). -/
structure OpUiwait where
  /-- bit 31 -/
  bd : Nat
  /-- bits 13:7 -/
  sd : Nat
deriving DecidableEq, Repr, Inhabited

/-- Operands: UIACK (R186). -/
structure OpUiack where
  /-- bit 31 -/
  bd : Nat
  /-- bits 23:20 -/
  la : Nat
  /-- bits 13:7 -/
  sd : Nat
deriving DecidableEq, Repr, Inhabited

/-- Operands: LOOKOUT (R186). -/
structure OpLookout where
  /-- bit 31 -/
  bd : Nat
  /-- bit 7 -/
  as : Nat
  /-- bits 6:0 -/
  sa : Nat
deriving DecidableEq, Repr, Inhabited

/-- Operands: SVC of the compute slice (R191). -/
structure OpSvc where
  /-- bit 31 -/
  bd : Nat
  /-- bits 15:10 -/
  n : Nat
  /-- bits 6:0 -/
  sa : Nat
deriving DecidableEq, Repr, Inhabited

/-- Operands: SVC of the address slice (R191). -/
structure OpGSvc where
  /-- bit 31 -/
  bd : Nat
  /-- bits 15:10 -/
  n : Nat
  /-- bits 5:0 -/
  sa : Nat
deriving DecidableEq, Repr, Inhabited

/-- Operands: BRC (R133). -/
structure OpBrc where
  /-- bits 23:17 -/
  ps : Nat
  /-- bit 16 -/
  n : Nat
  /-- bits 15:0 -/
  off : Nat
deriving DecidableEq, Repr, Inhabited

/-- Operands: JMP and CALL (R134). -/
structure OpJump where
  /-- bits 20:0 -/
  off : Nat
deriving DecidableEq, Repr, Inhabited

/-- Operands: JMPR (R134). -/
structure OpJmpr where
  /-- bits 7:0 -/
  d : Nat
deriving DecidableEq, Repr, Inhabited

/-- Operands: HIMM (R69). -/
structure OpHimm where
  /-- bit 31 -/
  bd : Nat
  /-- bits 19:0 -/
  imm : Nat
deriving DecidableEq, Repr, Inhabited

/-- Operands: HIMMX (R69). -/
structure OpHimmx where
  /-- bit 31 -/
  bd : Nat
  /-- bits 11:0 -/
  immx : Nat
deriving DecidableEq, Repr, Inhabited

/-- Operands: HMOD (R70). -/
structure OpHmod where
  /-- bit 31 -/
  bd : Nat
  /-- bits 19:18 -/
  rnd : Nat
  /-- bit 17 -/
  sat : Nat
  /-- bit 16 -/
  w64 : Nat
  /-- bit 15 -/
  n : Nat
  /-- bits 14:13 -/
  sz : Nat
  /-- bit 12 -/
  sgn : Nat
  /-- bit 11 -/
  nega : Nat
  /-- bit 10 -/
  absa : Nat
  /-- bit 9 -/
  negb : Nat
  /-- bit 8 -/
  absb : Nat
  /-- bits 7:6 -/
  ord : Nat
  /-- bits 5:3 -/
  scope : Nat
deriving DecidableEq, Repr, Inhabited

/-- Operands: HGRD (R69). -/
structure OpHgrd where
  /-- bit 31 -/
  bd : Nat
  /-- bits 19:13 -/
  pred : Nat
  /-- bit 12 -/
  neg : Nat
deriving DecidableEq, Repr, Inhabited

/-- Operands: HXB (R69). -/
structure OpHxb where
  /-- bit 31 -/
  bd : Nat
  /-- bit 19 -/
  xa : Nat
  /-- bit 18 -/
  xb : Nat
deriving DecidableEq, Repr, Inhabited

/-- Operands: HADR (R69). -/
structure OpHadr where
  /-- bit 31 -/
  bd : Nat
  /-- bits 19:13 -/
  sb : Nat
  /-- bits 12:0 -/
  off : Nat
deriving DecidableEq, Repr, Inhabited

/-- Operands: HKEEP (R69). -/
structure OpHkeep where
  /-- bit 31 -/
  bd : Nat
  /-- bits 19:12 -/
  k1 : Nat
  /-- bits 11:4 -/
  k2 : Nat
  /-- bit 3 -/
  v1 : Nat
  /-- bit 2 -/
  v2 : Nat
deriving DecidableEq, Repr, Inhabited

/-- Operands: HPRI (R69). -/
structure OpHpri where
  /-- bit 31 -/
  bd : Nat
  /-- bits 19:18 -/
  nudge : Nat
deriving DecidableEq, Repr, Inhabited

/-- Operands: format U (R65, R139). -/
structure OpU where
  /-- bit 31 -/
  bd : Nat
  /-- bits 20:14 -/
  sd : Nat
  /-- bits 13:7 -/
  sa : Nat
  /-- bits 6:0 -/
  sb : Nat
deriving DecidableEq, Repr, Inhabited

/-- Operands: UMOV: format U with SB = 0 (R140). -/
structure OpUmov where
  /-- bit 31 -/
  bd : Nat
  /-- bits 20:14 -/
  sd : Nat
  /-- bits 13:7 -/
  sa : Nat
deriving DecidableEq, Repr, Inhabited

/-- Operands: format UI (R141). -/
structure OpUI where
  /-- bit 31 -/
  bd : Nat
  /-- bits 20:14 -/
  sd : Nat
  /-- bits 13:0 -/
  imm : Nat
deriving DecidableEq, Repr, Inhabited

/-- Operands: format UC (R142). -/
structure OpUC where
  /-- bit 31 -/
  bd : Nat
  /-- bits 23:21 -/
  cc : Nat
  /-- bits 20:14 -/
  sd : Nat
  /-- bits 13:7 -/
  sa : Nat
  /-- bits 6:0 -/
  sb : Nat
deriving DecidableEq, Repr, Inhabited

/-- Operands: TRAP and GTRAP (R143, R220). -/
structure OpCode where
  /-- bit 31 -/
  bd : Nat
  /-- bits 15:0 -/
  code : Nat
deriving DecidableEq, Repr, Inhabited

/-- Operands: BKPT (R143). -/
structure OpBkpt where
  /-- bit 31 -/
  bd : Nat
  /-- bit 19 -/
  snap : Nat
  /-- bits 15:0 -/
  code : Nat
deriving DecidableEq, Repr, Inhabited

/-- Operands: XACQ (R143). -/
structure OpXacq where
  /-- bit 31 -/
  bd : Nat
  /-- bits 2:0 -/
  n : Nat
deriving DecidableEq, Repr, Inhabited

/-- Operands: FORK (R143). -/
structure OpFork where
  /-- bit 31 -/
  bd : Nat
  /-- bits 19:13 -/
  sd : Nat
  /-- bits 12:6 -/
  sa : Nat
deriving DecidableEq, Repr, Inhabited

/-- Operands: JOIN (R143). -/
structure OpJoin where
  /-- bit 31 -/
  bd : Nat
  /-- bits 19:13 -/
  sa : Nat
deriving DecidableEq, Repr, Inhabited

/-- Operands: USWIN (R143). -/
structure OpUswin where
  /-- bit 31 -/
  bd : Nat
  /-- bits 1:0 -/
  wb : Nat
deriving DecidableEq, Repr, Inhabited

/-- Operands: AFLCLR (R143). -/
structure OpAflclr where
  /-- bit 31 -/
  bd : Nat
  /-- bits 7:0 -/
  mask : Nat
deriving DecidableEq, Repr, Inhabited

/-- Operands: GOPA (R199). -/
structure OpGA where
  /-- bit 31 -/
  bd : Nat
  /-- bits 19:14 -/
  gd : Nat
  /-- bits 13:8 -/
  ga : Nat
  /-- bits 7:2 -/
  gb : Nat
deriving DecidableEq, Repr, Inhabited

/-- Operands: GOPI (R200). -/
structure OpGI where
  /-- bit 31 -/
  bd : Nat
  /-- bits 20:15 -/
  gd : Nat
  /-- bits 14:9 -/
  ga : Nat
  /-- bits 8:0 -/
  imm : Nat
deriving DecidableEq, Repr, Inhabited

/-- Operands: GMOVI and GMOVK (R201). -/
structure OpGM where
  /-- bit 31 -/
  bd : Nat
  /-- bits 23:18 -/
  gd : Nat
  /-- bits 17:16 -/
  sh : Nat
  /-- bits 15:0 -/
  imm : Nat
deriving DecidableEq, Repr, Inhabited

/-- Operands: GLD and GST (R202). -/
structure OpGL where
  /-- bit 31 -/
  bd : Nat
  /-- bits 23:20 -/
  la : Nat
  /-- bits 19:17 -/
  sp : Nat
  /-- bits 16:15 -/
  w : Nat
  /-- bits 14:9 -/
  gd : Nat
  /-- bits 8:3 -/
  ga : Nat
  /-- bit 2 -/
  sgn : Nat
deriving DecidableEq, Repr, Inhabited

/-- Operands: GLDQ (R204). -/
structure OpGldq where
  /-- bit 31 -/
  bd : Nat
  /-- bits 23:20 -/
  la : Nat
  /-- bits 19:17 -/
  sp : Nat
  /-- bits 16:15 -/
  w : Nat
  /-- bits 14:12 -/
  q : Nat
  /-- bits 11:6 -/
  ga : Nat
deriving DecidableEq, Repr, Inhabited

/-- Operands: GLDQV (R204). -/
structure OpGldqv where
  /-- bit 31 -/
  bd : Nat
  /-- bits 23:20 -/
  la : Nat
  /-- bits 19:17 -/
  sp : Nat
  /-- bits 16:15 -/
  q : Nat
  /-- bits 14:9 -/
  ga : Nat
  /-- bits 8:3 -/
  gb : Nat
deriving DecidableEq, Repr, Inhabited

/-- Operands: GQOP (R206). -/
structure OpGQ where
  /-- bit 31 -/
  bd : Nat
  /-- bits 20:15 -/
  gd : Nat
  /-- bits 14:11 -/
  q : Nat
deriving DecidableEq, Repr, Inhabited

/-- Operands: GQCLOSE: GD = 0 (R206). -/
structure OpGqclose where
  /-- bit 31 -/
  bd : Nat
  /-- bits 14:11 -/
  q : Nat
deriving DecidableEq, Repr, Inhabited

/-- Operands: GBR (R210). -/
structure OpGB where
  /-- bit 31 -/
  bd : Nat
  /-- bits 20:15 -/
  ga : Nat
  /-- bits 14:0 -/
  off : Nat
deriving DecidableEq, Repr, Inhabited

/-- Operands: GJMP and GCALL (R211). -/
structure OpGJ where
  /-- bit 31 -/
  bd : Nat
  /-- bits 21:0 -/
  off : Nat
deriving DecidableEq, Repr, Inhabited

/-- Operands: GRET (R211). -/
structure OpGret where
  /-- bit 31 -/
  bd : Nat
  /-- bits 21:16 -/
  ga : Nat
deriving DecidableEq, Repr, Inhabited

/-- Operands: CSTART (R212). -/
structure OpCstart where
  /-- bit 31 -/
  bd : Nat
  /-- bits 21:16 -/
  gd : Nat
  /-- bits 15:10 -/
  gh : Nat
  /-- bits 9:4 -/
  gc : Nat
deriving DecidableEq, Repr, Inhabited

/-- Operands: CWAIT (R212). -/
structure OpCwait where
  /-- bit 31 -/
  bd : Nat
  /-- bits 15:10 -/
  ga : Nat
deriving DecidableEq, Repr, Inhabited

/-- Operands: CQUERY (R212). -/
structure OpCquery where
  /-- bit 31 -/
  bd : Nat
  /-- bits 21:16 -/
  gd : Nat
  /-- bits 15:10 -/
  ga : Nat
deriving DecidableEq, Repr, Inhabited

/-- Operands: RFREE and RPEEK (R216). -/
structure OpGR where
  /-- bit 31 -/
  bd : Nat
  /-- bits 21:16 -/
  gd : Nat
  /-- bits 15:10 -/
  gh : Nat
deriving DecidableEq, Repr, Inhabited

/-- Operands: RARM (R216). -/
structure OpRarm where
  /-- bit 31 -/
  bd : Nat
  /-- bits 21:16 -/
  gd : Nat
  /-- bits 15:10 -/
  gh : Nat
  /-- bits 9:4 -/
  gb : Nat
deriving DecidableEq, Repr, Inhabited

/-- Operands: GARRIVE (R217). -/
structure OpGarrive where
  /-- bit 31 -/
  bd : Nat
  /-- bits 21:14 -/
  cnt : Nat
  /-- bits 13:8 -/
  ga : Nat
deriving DecidableEq, Repr, Inhabited

/-- Operands: GMWAIT (R217). -/
structure OpGmwait where
  /-- bit 31 -/
  bd : Nat
  /-- bits 21:16 -/
  ga : Nat
  /-- bits 15:10 -/
  gv : Nat
  /-- bit 9 -/
  w : Nat
  /-- bit 8 -/
  acq : Nat
  /-- bits 2:0 -/
  scope : Nat
deriving DecidableEq, Repr, Inhabited

/-- Operands: GATOM (R219). -/
structure OpGatom where
  /-- bit 31 -/
  bd : Nat
  /-- bits 23:20 -/
  la : Nat
  /-- bits 19:16 -/
  aop : Nat
  /-- bits 15:10 -/
  gd : Nat
  /-- bits 9:4 -/
  ga : Nat
  /-- bits 3:2 -/
  sp : Nat
  /-- bit 1 -/
  w : Nat
deriving DecidableEq, Repr, Inhabited

/-- Operands: GSREAD (R220). -/
structure OpGsread where
  /-- bit 31 -/
  bd : Nat
  /-- bits 20:15 -/
  gd : Nat
  /-- bits 6:0 -/
  code : Nat
deriving DecidableEq, Repr, Inhabited

/-- Operands: GWAITC (R220). -/
structure OpGwaitc where
  /-- bit 31 -/
  bd : Nat
  /-- bit 7 -/
  cls : Nat
  /-- bits 5:0 -/
  n : Nat
deriving DecidableEq, Repr, Inhabited

/-- The rows of the opcode table. The words come first; an event has no operand here, since what it acts on stands in
the state it happens in. -/
inductive Instr where
  /-- FADD (R89) -/
  | fadd (o : OpV)
  /-- FSUB (R89) -/
  | fsub (o : OpV)
  /-- FMUL (R89) -/
  | fmul (o : OpV)
  /-- FFMA (R90) -/
  | ffma (o : OpV)
  /-- FMIN (R91) -/
  | fmin (o : OpV)
  /-- FMAX (R91) -/
  | fmax (o : OpV)
  /-- HADD2 (R92) -/
  | hadd2 (o : OpV)
  /-- HMUL2 (R92) -/
  | hmul2 (o : OpV)
  /-- HFMA2 (R92) -/
  | hfma2 (o : OpV)
  /-- BADD2 (R92) -/
  | badd2 (o : OpV)
  /-- BMUL2 (R92) -/
  | bmul2 (o : OpV)
  /-- BFMA2 (R92) -/
  | bfma2 (o : OpV)
  /-- IADD (R94) -/
  | iadd (o : OpV)
  /-- ISUB (R94) -/
  | isub (o : OpV)
  /-- IMUL (R94) -/
  | imul (o : OpV)
  /-- IMAD (R94) -/
  | imad (o : OpV)
  /-- IMULH (R95) -/
  | imulh (o : OpV)
  /-- IMIN (R94) -/
  | imin (o : OpV)
  /-- IMAX (R94) -/
  | imax (o : OpV)
  /-- IMINN (R96) -/
  | iminn (o : OpV)
  /-- IMAXN (R96) -/
  | imaxn (o : OpV)
  /-- AND (R99) -/
  | and (o : OpV)
  /-- OR (R99) -/
  | or (o : OpV)
  /-- XOR (R99) -/
  | xor (o : OpV)
  /-- ANDN (R99) -/
  | andn (o : OpV)
  /-- SHL (R100) -/
  | shl (o : OpV)
  /-- SHR (R100) -/
  | shr (o : OpV)
  /-- SAR (R100) -/
  | sar (o : OpV)
  /-- FUNL (R101) -/
  | funl (o : OpV)
  /-- PRMT (R102) -/
  | prmt (o : OpV)
  /-- DP4A (R103) -/
  | dp4a (o : OpV)
  /-- BSUBS (R128) -/
  | bsubs (o : OpV)
  /-- BMINU (R128) -/
  | bminu (o : OpV)
  /-- NLUTL (R129) -/
  | nlutl (o : OpV)
  /-- NLUTH (R129) -/
  | nluth (o : OpV)
  /-- PREVB (R130) -/
  | prevb (o : OpV)
  /-- MOV (R109) -/
  | mov (o : OpVU)
  /-- NOT (R109) -/
  | not (o : OpVU)
  /-- INEG (R109) -/
  | ineg (o : OpVU)
  /-- IABS (R109) -/
  | iabs (o : OpVU)
  /-- POPC (R109) -/
  | popc (o : OpVU)
  /-- CLZ (R109) -/
  | clz (o : OpVU)
  /-- CTZ (R109) -/
  | ctz (o : OpVU)
  /-- BREV (R109) -/
  | brev (o : OpVU)
  /-- SEXT8 (R109) -/
  | sext8 (o : OpVU)
  /-- SEXT16 (R109) -/
  | sext16 (o : OpVU)
  /-- BSWAP (R109) -/
  | bswap (o : OpVU)
  /-- SETLNK (R110) -/
  | setlnk (o : OpSetLnk)
  /-- FNEG (R111) -/
  | fneg (o : OpVU)
  /-- FABS (R111) -/
  | fabs (o : OpVU)
  /-- FRCP (R43) -/
  | frcp (o : OpVU)
  /-- FRSQ (R43) -/
  | frsq (o : OpVU)
  /-- FSQRT (R43) -/
  | fsqrt (o : OpVU)
  /-- FEXP2 (R43) -/
  | fexp2 (o : OpVU)
  /-- FLOG2 (R43) -/
  | flog2 (o : OpVU)
  /-- FSIN (R43) -/
  | fsin (o : OpVU)
  /-- FCOS (R43) -/
  | fcos (o : OpVU)
  /-- FTANH (R43) -/
  | ftanh (o : OpVU)
  /-- FFLOOR (R111) -/
  | ffloor (o : OpVU)
  /-- FCEIL (R111) -/
  | fceil (o : OpVU)
  /-- FTRUNC (R111) -/
  | ftrunc (o : OpVU)
  /-- FRINT (R111) -/
  | frint (o : OpVU)
  /-- CVTIF (R112) -/
  | cvtif (o : OpVU)
  /-- CVTNF (R112) -/
  | cvtnf (o : OpVU)
  /-- CVTFI (R112) -/
  | cvtfi (o : OpVU)
  /-- CVTFN (R112) -/
  | cvtfn (o : OpVU)
  /-- CVTHFL (R113) -/
  | cvthfl (o : OpVU)
  /-- CVTHFH (R113) -/
  | cvthfh (o : OpVU)
  /-- CVTBFL (R113) -/
  | cvtbfl (o : OpVU)
  /-- CVTBFH (R113) -/
  | cvtbfh (o : OpVU)
  /-- PACK4 (R115) -/
  | pack4 (o : OpCV)
  /-- PACK2 (R115) -/
  | pack2 (o : OpCV)
  /-- UNPACK8 (R116) -/
  | unpack8 (o : OpCV)
  /-- UNPACK16 (R116) -/
  | unpack16 (o : OpCV)
  /-- SCALE (R117) -/
  | scale (o : OpCV)
  /-- FCMP (R118) -/
  | fcmp (o : OpP)
  /-- ICMP (R118) -/
  | icmp (o : OpP)
  /-- ICMPN (R118) -/
  | icmpn (o : OpP)
  /-- FCLASS (R119) -/
  | fclass (o : OpFclass)
  /-- PLOP (R120) -/
  | plop (o : OpPL)
  /-- CMOV (R121) -/
  | cmov (o : OpCM)
  /-- SHFL (R122) -/
  | shfl (o : OpSH)
  /-- VOTE_ALL (R123) -/
  | voteAll (o : OpVote)
  /-- VOTE_ANY (R123) -/
  | voteAny (o : OpVote)
  /-- VOTE_EQ (R123) -/
  | voteEq (o : OpVote)
  /-- BALLOT (R123) -/
  | ballot (o : OpBallot)
  /-- REDUX (R124) -/
  | redux (o : OpRedux)
  /-- SREAD (R126) -/
  | sread (o : OpSR)
  /-- BCAST (R125) -/
  | bcast (o : OpV)
  /-- LANEX (R125) -/
  | lanex (o : OpV)
  /-- VGETI (R127) -/
  | vgeti (o : OpVgeti)
  /-- VPUTI (R127) -/
  | vputi (o : OpVputi)
  /-- LD (R157) -/
  | ld (o : OpM)
  /-- ST (R158) -/
  | st (o : OpM)
  /-- ATOM (R163) -/
  | atom (o : OpAT)
  /-- QPOP (R166) -/
  | qpop (o : OpQpop)
  /-- QPOPS (R166) -/
  | qpops (o : OpQU)
  /-- QPUSH (R167) -/
  | qpush (o : OpQpush)
  /-- QPEEK (R166) -/
  | qpeek (o : OpQU)
  /-- QSTAT (R168) -/
  | qstat (o : OpQU)
  /-- QDROP (R166) -/
  | qdrop (o : OpQdrop)
  /-- RAWAIT (R169) -/
  | rawait (o : OpRingD)
  /-- RREL (R169) -/
  | rrel (o : OpRrel)
  /-- RSTAT (R169) -/
  | rstat (o : OpRingD)
  /-- WAITC (R171) -/
  | waitc (o : OpWaitc)
  /-- CNTRD (R171) -/
  | cntrd (o : OpCntrd)
  /-- GATHER (R172) -/
  | gather (o : OpGather)
  /-- CREDUCE (R173) -/
  | creduce (o : OpCreduce)
  /-- MSIGN (R175) -/
  | msign (o : OpMsign)
  /-- MCLR (R176) -/
  | mclr (o : OpMclr)
  /-- MSTAT (R177) -/
  | mstat (o : OpMstat)
  /-- BAR (R179) -/
  | bar (o : OpBare)
  /-- BARN (R180) -/
  | barn (o : OpBarn)
  /-- FENCE (R182) -/
  | fence (o : OpFence)
  /-- ARRIVE (R183) -/
  | arrive (o : OpArrive)
  /-- AWAIT (R183) -/
  | await (o : OpAwait)
  /-- TJOIN (R181) -/
  | tjoin (o : OpTeam)
  /-- TLEAVE (R181) -/
  | tleave (o : OpTeam)
  /-- GRIDWAIT (R184) -/
  | gridwait (o : OpBare)
  /-- TRIGGER (R184) -/
  | trigger (o : OpTrigger)
  /-- MWAIT (R185) -/
  | mwait (o : OpMwait)
  /-- UIPOST (R187) -/
  | uipost (o : OpPair)
  /-- UIPOST_ASLICE (R187) -/
  | uipostAslice (o : OpGPair)
  /-- UIWAIT (R188) -/
  | uiwait (o : OpUiwait)
  /-- UIACK (R188) -/
  | uiack (o : OpUiack)
  /-- UIMASK (R188) -/
  | uimask (o : OpPair)
  /-- LOOKOUT (R189) -/
  | lookout (o : OpLookout)
  /-- SVC (R191) -/
  | svc (o : OpSvc)
  /-- SVC_ASLICE (R191) -/
  | svcAslice (o : OpGSvc)
  /-- CAPLD (R193) -/
  | capld (o : OpPair)
  /-- CAPST (R193) -/
  | capst (o : OpPair)
  /-- CAPNARROW (R194) -/
  | capnarrow (o : OpPair)
  /-- CAPCHK (R195) -/
  | capchk (o : OpPair)
  /-- CAPLD_ASLICE (R193) -/
  | capldAslice (o : OpGPair)
  /-- CAPST_ASLICE (R193) -/
  | capstAslice (o : OpGPair)
  /-- CAPNARROW_ASLICE (R194) -/
  | capnarrowAslice (o : OpGPair)
  /-- CAPCHK_ASLICE (R195) -/
  | capchkAslice (o : OpGPair)
  /-- BRC (R133) -/
  | brc (o : OpBrc)
  /-- JMP (R134) -/
  | jmp (o : OpJump)
  /-- CALL (R134) -/
  | call (o : OpJump)
  /-- JMPR (R134) -/
  | jmpr (o : OpJmpr)
  /-- HIMM (R69) -/
  | himm (o : OpHimm)
  /-- HIMMX (R69) -/
  | himmx (o : OpHimmx)
  /-- HMOD (R70) -/
  | hmod (o : OpHmod)
  /-- HGRD (R60) -/
  | hgrd (o : OpHgrd)
  /-- HXB (R69) -/
  | hxb (o : OpHxb)
  /-- HADR (R76) -/
  | hadr (o : OpHadr)
  /-- HKEEP (R69) -/
  | hkeep (o : OpHkeep)
  /-- HPRI (R231) -/
  | hpri (o : OpHpri)
  /-- UADD (R140) -/
  | uadd (o : OpU)
  /-- USUB (R140) -/
  | usub (o : OpU)
  /-- UMUL (R140) -/
  | umul (o : OpU)
  /-- UMULH (R140) -/
  | umulh (o : OpU)
  /-- UAND (R140) -/
  | uand (o : OpU)
  /-- UOR (R140) -/
  | uor (o : OpU)
  /-- UXOR (R140) -/
  | uxor (o : OpU)
  /-- UANDN (R140) -/
  | uandn (o : OpU)
  /-- USHL (R140) -/
  | ushl (o : OpU)
  /-- USHR (R140) -/
  | ushr (o : OpU)
  /-- USAR (R140) -/
  | usar (o : OpU)
  /-- UMIN (R140) -/
  | umin (o : OpU)
  /-- UMAX (R140) -/
  | umax (o : OpU)
  /-- UMINN (R140) -/
  | uminn (o : OpU)
  /-- UMAXN (R140) -/
  | umaxn (o : OpU)
  /-- UMOV (R140) -/
  | umov (o : OpUmov)
  /-- UADDI (R141) -/
  | uaddi (o : OpUI)
  /-- UANDI (R141) -/
  | uandi (o : OpUI)
  /-- UORI (R141) -/
  | uori (o : OpUI)
  /-- UXORI (R141) -/
  | uxori (o : OpUI)
  /-- USHLI (R141) -/
  | ushli (o : OpUI)
  /-- USHRI (R141) -/
  | ushri (o : OpUI)
  /-- USARI (R141) -/
  | usari (o : OpUI)
  /-- UMOVI (R141) -/
  | umovi (o : OpUI)
  /-- UCMP (R142) -/
  | ucmp (o : OpUC)
  /-- NOP (R144) -/
  | nop (o : OpBare)
  /-- TRAPFENCE (R145) -/
  | trapfence (o : OpBare)
  /-- TRAP (R146) -/
  | trap (o : OpCode)
  /-- BKPT (R146) -/
  | bkpt (o : OpBkpt)
  /-- XACQ (R147) -/
  | xacq (o : OpXacq)
  /-- XREL (R148) -/
  | xrel (o : OpBare)
  /-- FORK (R152) -/
  | fork (o : OpFork)
  /-- JOIN (R154) -/
  | join (o : OpJoin)
  /-- USWIN (R149) -/
  | uswin (o : OpUswin)
  /-- YIELD (R144) -/
  | yield (o : OpBare)
  /-- AFLCLR (R150) -/
  | aflclr (o : OpAflclr)
  /-- GADD (R199) -/
  | gadd (o : OpGA)
  /-- GSUB (R199) -/
  | gsub (o : OpGA)
  /-- GMUL (R199) -/
  | gmul (o : OpGA)
  /-- GMULH (R199) -/
  | gmulh (o : OpGA)
  /-- GAND (R199) -/
  | gand (o : OpGA)
  /-- GOR (R199) -/
  | gor (o : OpGA)
  /-- GXOR (R199) -/
  | gxor (o : OpGA)
  /-- GSHL (R199) -/
  | gshl (o : OpGA)
  /-- GSHR (R199) -/
  | gshr (o : OpGA)
  /-- GSAR (R199) -/
  | gsar (o : OpGA)
  /-- GMIN (R199) -/
  | gmin (o : OpGA)
  /-- GMAX (R199) -/
  | gmax (o : OpGA)
  /-- GMINN (R199) -/
  | gminn (o : OpGA)
  /-- GMAXN (R199) -/
  | gmaxn (o : OpGA)
  /-- GSLT (R199) -/
  | gslt (o : OpGA)
  /-- GSLTN (R199) -/
  | gsltn (o : OpGA)
  /-- GADDI (R200) -/
  | gaddi (o : OpGI)
  /-- GANDI (R200) -/
  | gandi (o : OpGI)
  /-- GORI (R200) -/
  | gori (o : OpGI)
  /-- GXORI (R200) -/
  | gxori (o : OpGI)
  /-- GSHLI (R200) -/
  | gshli (o : OpGI)
  /-- GSHRI (R200) -/
  | gshri (o : OpGI)
  /-- GSARI (R200) -/
  | gsari (o : OpGI)
  /-- GSLTI (R200) -/
  | gslti (o : OpGI)
  /-- GMOVI (R201) -/
  | gmovi (o : OpGM)
  /-- GMOVK (R201) -/
  | gmovk (o : OpGM)
  /-- GLD (R202) -/
  | gld (o : OpGL)
  /-- GST (R202) -/
  | gst (o : OpGL)
  /-- GLDQ (R204) -/
  | gldq (o : OpGldq)
  /-- GLDQV (R204) -/
  | gldqv (o : OpGldqv)
  /-- GQPUSH (R207) -/
  | gqpush (o : OpGQ)
  /-- GQPOP (R208) -/
  | gqpop (o : OpGQ)
  /-- GQTRY (R208) -/
  | gqtry (o : OpGQ)
  /-- GQCLOSE (R209) -/
  | gqclose (o : OpGqclose)
  /-- GQSTAT (R209) -/
  | gqstat (o : OpGQ)
  /-- GBEQZ (R210) -/
  | gbeqz (o : OpGB)
  /-- GBNEZ (R210) -/
  | gbnez (o : OpGB)
  /-- GBLTZ (R210) -/
  | gbltz (o : OpGB)
  /-- GBGEZ (R210) -/
  | gbgez (o : OpGB)
  /-- GBGTZ (R210) -/
  | gbgtz (o : OpGB)
  /-- GBLEZ (R210) -/
  | gblez (o : OpGB)
  /-- GJMP (R211) -/
  | gjmp (o : OpGJ)
  /-- GCALL (R211) -/
  | gcall (o : OpGJ)
  /-- GRET (R211) -/
  | gret (o : OpGret)
  /-- GEXIT (R211) -/
  | gexit (o : OpBare)
  /-- CSTART (R213) -/
  | cstart (o : OpCstart)
  /-- CWAIT (R214) -/
  | cwait (o : OpCwait)
  /-- CQUERY (R215) -/
  | cquery (o : OpCquery)
  /-- RFREE (R216) -/
  | rfree (o : OpGR)
  /-- RARM (R216) -/
  | rarm (o : OpRarm)
  /-- RPEEK (R216) -/
  | rpeek (o : OpGR)
  /-- GFENCE (R217) -/
  | gfence (o : OpFence)
  /-- GARRIVE (R218) -/
  | garrive (o : OpGarrive)
  /-- GMWAIT (R218) -/
  | gmwait (o : OpGmwait)
  /-- GATOM (R219) -/
  | gatom (o : OpGatom)
  /-- GTRAP (R220) -/
  | gtrap (o : OpCode)
  /-- GSREAD (R220) -/
  | gsread (o : OpGsread)
  /-- GWAITC (R220) -/
  | gwaitc (o : OpGwaitc)
  /-- GYIELD (R220) -/
  | gyield (o : OpBare)
  /-- UIRET (R190) -/
  | uiret
  /-- RET (R134) -/
  | ret
  /-- EXIT (R136) -/
  | exit
  /-- GNOP (R220) -/
  | gnop
  /-- ARBITRATION (R229) -/
  | arbitration
  /-- LOOKOUT_DIVERSION (R190) -/
  | lookoutDiversion
  /-- XACQ_GRANT (R13) -/
  | xacqGrant
  /-- CREW_ADMISSION (R224) -/
  | crewAdmission
  /-- BLOCK_PLACEMENT (R310) -/
  | blockPlacement
  /-- TASK_STEAL (R314) -/
  | taskSteal
  /-- EVICTION (R332) -/
  | eviction
  /-- CREW_RESTORE (R336) -/
  | crewRestore
  /-- LD_COMPLETION (R160) -/
  | ldCompletion
  /-- ST_ACKNOWLEDGEMENT (R160) -/
  | stAcknowledgement
  /-- ATOM_COMPLETION (R163) -/
  | atomCompletion
  /-- GLD_COMPLETION (R202) -/
  | gldCompletion
  /-- QUEUE_ENTRY_FILL (R204) -/
  | queueEntryFill
  /-- COPY_ELEMENT_REACH (R273) -/
  | copyElementReach
  /-- COPY_ARRIVAL (R277) -/
  | copyArrival
  /-- COPY_COMPLETION (R273) -/
  | copyCompletion
  /-- GATHER_COMPLETION (R172) -/
  | gatherCompletion
  /-- CREDUCE_RETIREMENT (R173) -/
  | creduceRetirement
  /-- MERGE (R290) -/
  | merge
  /-- MATRIX_COMPLETION (R292) -/
  | matrixCompletion
  /-- MATRIX_FAULT (R297) -/
  | matrixFault
  /-- MCLR_COMPLETION (R176) -/
  | mclrCompletion
  /-- READOUT_COMPLETION (R293) -/
  | readoutCompletion
  /-- MWAIT_OBSERVE (R185) -/
  | mwaitObserve
  /-- THRESHOLD_WINDOW (R56) -/
  | thresholdWindow
  /-- THRESHOLD_SUM_CLEAR (R56) -/
  | thresholdSumClear
  /-- GOVERNOR_WINDOW (R295) -/
  | governorWindow
  /-- NOTIFY_WRITE (R352) -/
  | notifyWrite
  /-- LAUNCH (R305) -/
  | launch
  /-- WAIT_EVENT (R354) -/
  | waitEvent
  /-- SIGNAL (R354) -/
  | signal
  /-- UIPOST_PACKET (R354) -/
  | uipostPacket
  /-- PEER_POST (R364) -/
  | peerPost
  /-- CHEAD_WRITE (R355) -/
  | cheadWrite
  /-- QCTL_WRITE (R351) -/
  | qctlWrite
  /-- REMAP_TIMER (R357) -/
  | remapTimer
  /-- CTXCTL_CREATE (R341) -/
  | ctxctlCreate
  /-- CTXCTL_DESTROY (R341) -/
  | ctxctlDestroy
  /-- CTXCTL_RESERVED (R341) -/
  | ctxctlReserved
  /-- INVCTL_PAGES (R346) -/
  | invctlPages
  /-- INVCTL_CONTEXT (R346) -/
  | invctlContext
  /-- INVCTL_FUNCTION (R346) -/
  | invctlFunction
  /-- INVALIDATION_DONE (R346) -/
  | invalidationDone
  /-- RENEW (R359) -/
  | renew
  /-- CLAIM (R360) -/
  | claim
  /-- LEASE_EXPIRY (R359) -/
  | leaseExpiry
  /-- PXDONE_WRITE (R374) -/
  | pxdoneWrite
  /-- DBGCTL_HALT (R419) -/
  | dbgctlHalt
  /-- DBGCTL_RESUME (R419) -/
  | dbgctlResume
  /-- SNAPTRIG (R421) -/
  | snaptrig
  /-- SNAPCLR (R421) -/
  | snapclr
  /-- SNAPSHOT_LATCH (R421) -/
  | snapshotLatch
  /-- TELDATA_READ (R413) -/
  | teldataRead
  /-- REGISTER_WRITE (R351) -/
  | registerWrite
  /-- CREATE (R418) -/
  | create
  /-- DESTROY (R418) -/
  | destroy
  /-- GROW (R384) -/
  | grow
  /-- SHRINK (R384) -/
  | shrink
  /-- COMPACT (R384) -/
  | compact
  /-- SET_SHARE (R418) -/
  | setShare
  /-- SET_CAPS (R418) -/
  | setCaps
  /-- ERRLOG_READ (R418) -/
  | errlogRead
  /-- DROPLOG_READ (R418) -/
  | droplogRead
  /-- SNAP_READ (R418) -/
  | snapRead
  /-- SNAP_CLEAR (R418) -/
  | snapClear
  /-- SHAPE_READ (R418) -/
  | shapeRead
  /-- FW_LOAD (R418) -/
  | fwLoad
  /-- MAILBOX_UNKNOWN (R418) -/
  | mailboxUnknown
  /-- TILE_FAILING (R388) -/
  | tileFailing
  /-- CORE_REPLACED (R401) -/
  | coreReplaced
  /-- CHANNEL_DROPPED (R402) -/
  | channelDropped
  /-- DROOP_TRIP (R415) -/
  | droopTrip
  /-- CLOCK_STEP_UP (R415) -/
  | clockStepUp
  /-- CHARACTERISATION_COMPLETE (R416) -/
  | characterisationComplete
  /-- SCRUB_COMPLETE (R412) -/
  | scrubComplete
  /-- RESET (R405) -/
  | reset
  /-- ATS_TRANSLATION_COMPLETION (R347) -/
  | atsTranslationCompletion
  /-- PRG_RESPONSE (R348) -/
  | prgResponse
  /-- ATS_INVALIDATE_REQUEST (R349) -/
  | atsInvalidateRequest
  /-- VF_RESET (R377) -/
  | vfReset
  /-- LOCK_INTERFACE_REQUEST (R387) -/
  | lockInterfaceRequest
  /-- GET_VERSION (R409) -/
  | getVersion
  /-- GET_CAPABILITIES (R409) -/
  | getCapabilities
  /-- NEGOTIATE_ALGORITHMS (R409) -/
  | negotiateAlgorithms
  /-- GET_DIGESTS (R409) -/
  | getDigests
  /-- GET_CERTIFICATE (R409) -/
  | getCertificate
  /-- CHALLENGE (R409) -/
  | challenge
  /-- GET_MEASUREMENTS (R409) -/
  | getMeasurements
  /-- KEY_EXCHANGE (R409) -/
  | keyExchange
  /-- FINISH (R409) -/
  | finish
  /-- HEARTBEAT (R409) -/
  | heartbeat
  /-- KEY_UPDATE (R409) -/
  | keyUpdate
  /-- END_SESSION (R409) -/
  | endSession
  /-- VENDOR_DEFINED (R409) -/
  | vendorDefined
  /-- UNSUPPORTED_REQUEST (R409) -/
  | unsupportedRequest
  /-- IDE_STREAM_VIOLATION (R409) -/
  | ideStreamViolation
  /-- MEM_ALLOC (R372) -/
  | memAlloc
  /-- MEM_FREE (R372) -/
  | memFree
  /-- MEM_MAP (R372) -/
  | memMap
  /-- MEM_UNMAP (R372) -/
  | memUnmap
  /-- MEM_PROTECT (R372) -/
  | memProtect
  /-- MEM_QUERY (R372) -/
  | memQuery
  /-- CAP_MINT (R372) -/
  | capMint
  /-- CAP_REVOKE (R372) -/
  | capRevoke
  /-- PIN_HOST (R372) -/
  | pinHost
  /-- UNPIN_HOST (R372) -/
  | unpinHost
  /-- GRID_LAUNCH (R372) -/
  | gridLaunch
  /-- GRID_QUERY (R372) -/
  | gridQuery
  /-- GRID_CANCEL (R372) -/
  | gridCancel
  /-- EVENT_CREATE (R372) -/
  | eventCreate
  /-- EVENT_SIGNAL (R372) -/
  | eventSignal
  /-- EVENT_WAIT (R372) -/
  | eventWait
  /-- QUEUE_INFO (R372) -/
  | queueInfo
  /-- DET_RECORD_FETCH (R372) -/
  | detRecordFetch
  /-- UI_VECTOR_SET (R372) -/
  | uiVectorSet
  /-- UI_PERMIT (R372) -/
  | uiPermit
  /-- UI_REVOKE (R372) -/
  | uiRevoke
  /-- UI_ROUTE (R372) -/
  | uiRoute
  /-- UI_QUERY (R372) -/
  | uiQuery
  /-- UI_POST_REMOTE (R369) -/
  | uiPostRemote
  /-- FILE_OPEN (R372) -/
  | fileOpen
  /-- FILE_READ (R372) -/
  | fileRead
  /-- FILE_WRITE (R372) -/
  | fileWrite
  /-- FILE_CLOSE (R372) -/
  | fileClose
  /-- FILE_STAT (R372) -/
  | fileStat
  /-- FILE_SEEK (R372) -/
  | fileSeek
  /-- DIR_LIST (R372) -/
  | dirList
  /-- FILE_SYNC (R372) -/
  | fileSync
  /-- NET_CONNECT (R372) -/
  | netConnect
  /-- NET_ACCEPT (R372) -/
  | netAccept
  /-- NET_SEND (R372) -/
  | netSend
  /-- NET_RECV (R372) -/
  | netRecv
  /-- NET_POLL (R372) -/
  | netPoll
  /-- NET_CLOSE (R372) -/
  | netClose
  /-- LOG_WRITE (R372) -/
  | logWrite
  /-- COUNTER_READ (R372) -/
  | counterRead
  /-- ATTEST_QUOTE (R411) -/
  | attestQuote
  /-- REPORT_FETCH (R413) -/
  | reportFetch
  /-- CLOCK_INFO (R372) -/
  | clockInfo
  /-- RANDOM (R372) -/
  | random
  /-- DBG_HALT_SELF (R419) -/
  | dbgHaltSelf
  /-- DBG_NOTIFY (R372) -/
  | dbgNotify
  /-- CTX_YIELD (R372) -/
  | ctxYield
  /-- CTX_EXIT (R372) -/
  | ctxExit
  /-- POWER_LOSS (R404) -/
  | powerLoss
  /-- THERMAL_MONITOR_TRIP (R415) -/
  | thermalMonitorTrip
  /-- POWER_ENVELOPE (R415) -/
  | powerEnvelope
  /-- COOLANT_OUT_OF_RANGE (R414) -/
  | coolantOutOfRange
  /-- LINK_RETRAIN (R401) -/
  | linkRetrain
  /-- HOST_ACCESS (R396) -/
  | hostAccess
  /-- PEER_ACCESS (R350) -/
  | peerAccess
  /-- PEER_MODULE_UNREACHABLE (R369) -/
  | peerModuleUnreachable
  /-- MSIX_VECTOR_UNMASK (R357) -/
  | msixVectorUnmask
  /-- PRI_ENABLE (R348) -/
  | priEnable
  /-- HOST_RESUME (R329) -/
  | hostResume
deriving DecidableEq, Repr, Inhabited

end Sys2Proof
end

