-- ==== Sys2Proof/WellFormed.lean ====
section
/-! DEFINITION. An instruction is well formed when every field lies within the bits of its format (R65, R73), the
two forms of XFER are told apart by FM (R71); an event is well formed. -/

namespace Sys2Proof

/-- The fields of OpV fit their bits. -/
def OpV.wf (o : OpV) : Bool := decide (o.bd < 2) && decide (o.fm < 4) && decide (o.d < 256) && decide (o.a < 128) && decide (o.b < 128)
/-- The fields of OpVU fit their bits. -/
def OpVU.wf (o : OpVU) : Bool := decide (o.bd < 2) && decide (o.fm < 4) && decide (o.d < 256) && decide (o.a < 128)
/-- The fields of OpSetLnk fit their bits. -/
def OpSetLnk.wf (o : OpSetLnk) : Bool := decide (o.bd < 2) && decide (o.fm < 4) && decide (o.a < 128)
/-- The fields of OpCV fit their bits. -/
def OpCV.wf (o : OpCV) : Bool := decide (o.bd < 2) && decide (o.fm < 4) && decide (o.d < 256) && decide (o.a < 128) && decide (o.slot < 8)
/-- The fields of OpP fit their bits. -/
def OpP.wf (o : OpP) : Bool := decide (o.bd < 2) && decide (o.fm < 4) && decide (o.pd < 32) && decide (o.cc < 8) && decide (o.a < 128) && decide (o.b < 128)
/-- The fields of OpFclass fit their bits. -/
def OpFclass.wf (o : OpFclass) : Bool := decide (o.bd < 2) && decide (o.pd < 32) && decide (o.a < 128) && decide (o.mask < 128)
/-- The fields of OpPL fit their bits. -/
def OpPL.wf (o : OpPL) : Bool := decide (o.bd < 2) && decide (o.lop < 8) && decide (o.pd < 128) && decide (o.pa < 128) && decide (o.pb < 128)
/-- The fields of OpCM fit their bits. -/
def OpCM.wf (o : OpCM) : Bool := decide (o.bd < 2) && decide (o.ps < 128) && decide (o.n < 2) && decide (o.d < 256) && decide (o.a < 256)
/-- The fields of OpSH fit their bits. -/
def OpSH.wf (o : OpSH) : Bool := decide (o.bd < 2) && decide (o.md < 4) && decide (o.d < 256) && decide (o.a < 128) && decide (o.b < 128)
/-- The fields of OpVote fit their bits. -/
def OpVote.wf (o : OpVote) : Bool := decide (o.bd < 2) && decide (o.d < 32) && decide (o.a < 128) && decide (o.seg < 8)
/-- The fields of OpBallot fit their bits. -/
def OpBallot.wf (o : OpBallot) : Bool := decide (o.bd < 2) && decide (o.d < 256) && decide (o.a < 128) && decide (o.seg < 8)
/-- The fields of OpRedux fit their bits. -/
def OpRedux.wf (o : OpRedux) : Bool := decide (o.bd < 2) && decide (o.op < 8) && decide (o.d < 256) && decide (o.a < 128) && decide (o.seg < 8)
/-- The fields of OpSR fit their bits. -/
def OpSR.wf (o : OpSR) : Bool := decide (o.bd < 2) && decide (o.d < 256) && decide (o.code < 128)
/-- The fields of OpVgeti fit their bits. -/
def OpVgeti.wf (o : OpVgeti) : Bool := decide (o.bd < 2) && decide (o.fm < 4) && decide (o.d < 256) && decide (o.b < 128)
/-- The fields of OpVputi fit their bits. -/
def OpVputi.wf (o : OpVputi) : Bool := decide (o.bd < 2) && decide (o.fm < 4) && decide (o.a < 128) && decide (o.b < 128)
/-- The fields of OpM fit their bits. -/
def OpM.wf (o : OpM) : Bool := decide (o.bd < 2) && decide (o.la < 16) && decide (o.sp < 8) && decide (o.w < 4) && decide (o.d < 256) && decide (o.a < 128)
/-- The fields of OpAT fit their bits. -/
def OpAT.wf (o : OpAT) : Bool := decide (o.bd < 2) && decide (o.la < 16) && decide (o.sp < 4) && decide (o.aop < 16) && decide (o.d < 128) && decide (o.a < 128)
/-- The fields of OpQpop fit their bits. -/
def OpQpop.wf (o : OpQpop) : Bool := decide (o.bd < 2) && decide (o.la < 16) && decide (o.d < 256) && decide (o.q < 16)
/-- The fields of OpQU fit their bits. -/
def OpQU.wf (o : OpQU) : Bool := decide (o.bd < 2) && decide (o.la < 16) && decide (o.sd < 128) && decide (o.q < 16)
/-- The fields of OpQpush fit their bits. -/
def OpQpush.wf (o : OpQpush) : Bool := decide (o.bd < 2) && decide (o.la < 16) && decide (o.reg < 256) && decide (o.q < 16) && decide (o.k < 2)
/-- The fields of OpQdrop fit their bits. -/
def OpQdrop.wf (o : OpQdrop) : Bool := decide (o.bd < 2) && decide (o.la < 16) && decide (o.n < 64) && decide (o.q < 16)
/-- The fields of OpRingD fit their bits. -/
def OpRingD.wf (o : OpRingD) : Bool := decide (o.bd < 2) && decide (o.la < 16) && decide (o.sd < 128) && decide (o.sh < 128)
/-- The fields of OpRrel fit their bits. -/
def OpRrel.wf (o : OpRrel) : Bool := decide (o.bd < 2) && decide (o.la < 16) && decide (o.sh < 128)
/-- The fields of OpWaitc fit their bits. -/
def OpWaitc.wf (o : OpWaitc) : Bool := decide (o.bd < 2) && decide (o.cls < 8) && decide (o.n < 64)
/-- The fields of OpCntrd fit their bits. -/
def OpCntrd.wf (o : OpCntrd) : Bool := decide (o.bd < 2) && decide (o.sd < 128) && decide (o.cls < 8)
/-- The fields of OpGather fit their bits. -/
def OpGather.wf (o : OpGather) : Bool := decide (o.bd < 2) && decide (o.la < 16) && decide (o.ix < 256) && decide (o.sb < 128)
/-- The fields of OpCreduce fit their bits. -/
def OpCreduce.wf (o : OpCreduce) : Bool := decide (o.bd < 2) && decide (o.la < 16) && decide (o.opr < 16) && decide (o.sb < 128)
/-- The fields of OpMsign fit their bits. -/
def OpMsign.wf (o : OpMsign) : Bool := decide (o.bd < 2) && decide (o.la < 16) && decide (o.cv < 16) && decide (o.sb < 128) && decide (o.set < 32)
/-- The fields of OpMclr fit their bits. -/
def OpMclr.wf (o : OpMclr) : Bool := decide (o.bd < 2) && decide (o.la < 16) && decide (o.sb < 128)
/-- The fields of OpMstat fit their bits. -/
def OpMstat.wf (o : OpMstat) : Bool := decide (o.bd < 2) && decide (o.la < 16) && decide (o.sd < 128) && decide (o.sel < 32)
/-- The fields of OpBare fit their bits. -/
def OpBare.wf (o : OpBare) : Bool := decide (o.bd < 2)
/-- The fields of OpBarn fit their bits. -/
def OpBarn.wf (o : OpBarn) : Bool := decide (o.bd < 2) && decide (o.team < 16)
/-- The fields of OpFence fit their bits. -/
def OpFence.wf (o : OpFence) : Bool := decide (o.bd < 2) && decide (o.kind < 4) && decide (o.scope < 8)
/-- The fields of OpArrive fit their bits. -/
def OpArrive.wf (o : OpArrive) : Bool := decide (o.bd < 2) && decide (o.la < 16) && decide (o.cnt < 256) && decide (o.sa < 128)
/-- The fields of OpAwait fit their bits. -/
def OpAwait.wf (o : OpAwait) : Bool := decide (o.bd < 2) && decide (o.sg < 128) && decide (o.sa < 128)
/-- The fields of OpTeam fit their bits. -/
def OpTeam.wf (o : OpTeam) : Bool := decide (o.bd < 2) && decide (o.la < 16) && decide (o.team < 16)
/-- The fields of OpTrigger fit their bits. -/
def OpTrigger.wf (o : OpTrigger) : Bool := decide (o.bd < 2) && decide (o.la < 16)
/-- The fields of OpMwait fit their bits. -/
def OpMwait.wf (o : OpMwait) : Bool := decide (o.bd < 2) && decide (o.sv < 128) && decide (o.sa < 128)
/-- The fields of OpPair fit their bits. -/
def OpPair.wf (o : OpPair) : Bool := decide (o.bd < 2) && decide (o.la < 16) && decide (o.sd < 128) && decide (o.sa < 128)
/-- The fields of OpGPair fit their bits. -/
def OpGPair.wf (o : OpGPair) : Bool := decide (o.bd < 2) && decide (o.la < 16) && decide (o.sd < 64) && decide (o.sa < 64)
/-- The fields of OpUiwait fit their bits. -/
def OpUiwait.wf (o : OpUiwait) : Bool := decide (o.bd < 2) && decide (o.sd < 128)
/-- The fields of OpUiack fit their bits. -/
def OpUiack.wf (o : OpUiack) : Bool := decide (o.bd < 2) && decide (o.la < 16) && decide (o.sd < 128)
/-- The fields of OpLookout fit their bits. -/
def OpLookout.wf (o : OpLookout) : Bool := decide (o.bd < 2) && decide (o.as < 2) && decide (o.sa < 128)
/-- The fields of OpSvc fit their bits. -/
def OpSvc.wf (o : OpSvc) : Bool := decide (o.bd < 2) && decide (o.n < 64) && decide (o.sa < 128)
/-- The fields of OpGSvc fit their bits. -/
def OpGSvc.wf (o : OpGSvc) : Bool := decide (o.bd < 2) && decide (o.n < 64) && decide (o.sa < 64)
/-- The fields of OpBrc fit their bits. -/
def OpBrc.wf (o : OpBrc) : Bool := decide (o.ps < 128) && decide (o.n < 2) && decide (o.off < 65536)
/-- The fields of OpJump fit their bits. -/
def OpJump.wf (o : OpJump) : Bool := decide (o.off < 2097152)
/-- The fields of OpJmpr fit their bits. -/
def OpJmpr.wf (o : OpJmpr) : Bool := decide (o.d < 256)
/-- The fields of OpHimm fit their bits. -/
def OpHimm.wf (o : OpHimm) : Bool := decide (o.bd < 2) && decide (o.imm < 1048576)
/-- The fields of OpHimmx fit their bits. -/
def OpHimmx.wf (o : OpHimmx) : Bool := decide (o.bd < 2) && decide (o.immx < 4096)
/-- The fields of OpHmod fit their bits. -/
def OpHmod.wf (o : OpHmod) : Bool := decide (o.bd < 2) && decide (o.rnd < 4) && decide (o.sat < 2) && decide (o.w64 < 2) && decide (o.n < 2) && decide (o.sz < 4) && decide (o.sgn < 2) && decide (o.nega < 2) && decide (o.absa < 2) && decide (o.negb < 2) && decide (o.absb < 2) && decide (o.ord < 4) && decide (o.scope < 8)
/-- The fields of OpHgrd fit their bits. -/
def OpHgrd.wf (o : OpHgrd) : Bool := decide (o.bd < 2) && decide (o.pred < 128) && decide (o.neg < 2)
/-- The fields of OpHxb fit their bits. -/
def OpHxb.wf (o : OpHxb) : Bool := decide (o.bd < 2) && decide (o.xa < 2) && decide (o.xb < 2)
/-- The fields of OpHadr fit their bits. -/
def OpHadr.wf (o : OpHadr) : Bool := decide (o.bd < 2) && decide (o.sb < 128) && decide (o.off < 8192)
/-- The fields of OpHkeep fit their bits. -/
def OpHkeep.wf (o : OpHkeep) : Bool := decide (o.bd < 2) && decide (o.k1 < 256) && decide (o.k2 < 256) && decide (o.v1 < 2) && decide (o.v2 < 2)
/-- The fields of OpHpri fit their bits. -/
def OpHpri.wf (o : OpHpri) : Bool := decide (o.bd < 2) && decide (o.nudge < 4)
/-- The fields of OpU fit their bits. -/
def OpU.wf (o : OpU) : Bool := decide (o.bd < 2) && decide (o.sd < 128) && decide (o.sa < 128) && decide (o.sb < 128)
/-- The fields of OpUmov fit their bits. -/
def OpUmov.wf (o : OpUmov) : Bool := decide (o.bd < 2) && decide (o.sd < 128) && decide (o.sa < 128)
/-- The fields of OpUI fit their bits. -/
def OpUI.wf (o : OpUI) : Bool := decide (o.bd < 2) && decide (o.sd < 128) && decide (o.imm < 16384)
/-- The fields of OpUC fit their bits. -/
def OpUC.wf (o : OpUC) : Bool := decide (o.bd < 2) && decide (o.cc < 8) && decide (o.sd < 128) && decide (o.sa < 128) && decide (o.sb < 128)
/-- The fields of OpCode fit their bits. -/
def OpCode.wf (o : OpCode) : Bool := decide (o.bd < 2) && decide (o.code < 65536)
/-- The fields of OpBkpt fit their bits. -/
def OpBkpt.wf (o : OpBkpt) : Bool := decide (o.bd < 2) && decide (o.snap < 2) && decide (o.code < 65536)
/-- The fields of OpXacq fit their bits. -/
def OpXacq.wf (o : OpXacq) : Bool := decide (o.bd < 2) && decide (o.n < 8)
/-- The fields of OpFork fit their bits. -/
def OpFork.wf (o : OpFork) : Bool := decide (o.bd < 2) && decide (o.sd < 128) && decide (o.sa < 128)
/-- The fields of OpJoin fit their bits. -/
def OpJoin.wf (o : OpJoin) : Bool := decide (o.bd < 2) && decide (o.sa < 128)
/-- The fields of OpUswin fit their bits. -/
def OpUswin.wf (o : OpUswin) : Bool := decide (o.bd < 2) && decide (o.wb < 4)
/-- The fields of OpAflclr fit their bits. -/
def OpAflclr.wf (o : OpAflclr) : Bool := decide (o.bd < 2) && decide (o.mask < 256)
/-- The fields of OpGA fit their bits. -/
def OpGA.wf (o : OpGA) : Bool := decide (o.bd < 2) && decide (o.gd < 64) && decide (o.ga < 64) && decide (o.gb < 64)
/-- The fields of OpGI fit their bits. -/
def OpGI.wf (o : OpGI) : Bool := decide (o.bd < 2) && decide (o.gd < 64) && decide (o.ga < 64) && decide (o.imm < 512)
/-- The fields of OpGM fit their bits. -/
def OpGM.wf (o : OpGM) : Bool := decide (o.bd < 2) && decide (o.gd < 64) && decide (o.sh < 4) && decide (o.imm < 65536)
/-- The fields of OpGL fit their bits. -/
def OpGL.wf (o : OpGL) : Bool := decide (o.bd < 2) && decide (o.la < 16) && decide (o.sp < 8) && decide (o.w < 4) && decide (o.gd < 64) && decide (o.ga < 64) && decide (o.sgn < 2)
/-- The fields of OpGldq fit their bits. -/
def OpGldq.wf (o : OpGldq) : Bool := decide (o.bd < 2) && decide (o.la < 16) && decide (o.sp < 8) && decide (o.w < 4) && decide (o.q < 8) && decide (o.ga < 64)
/-- The fields of OpGldqv fit their bits. -/
def OpGldqv.wf (o : OpGldqv) : Bool := decide (o.bd < 2) && decide (o.la < 16) && decide (o.sp < 8) && decide (o.q < 4) && decide (o.ga < 64) && decide (o.gb < 64)
/-- The fields of OpGQ fit their bits. -/
def OpGQ.wf (o : OpGQ) : Bool := decide (o.bd < 2) && decide (o.gd < 64) && decide (o.q < 16)
/-- The fields of OpGqclose fit their bits. -/
def OpGqclose.wf (o : OpGqclose) : Bool := decide (o.bd < 2) && decide (o.q < 16)
/-- The fields of OpGB fit their bits. -/
def OpGB.wf (o : OpGB) : Bool := decide (o.bd < 2) && decide (o.ga < 64) && decide (o.off < 32768)
/-- The fields of OpGJ fit their bits. -/
def OpGJ.wf (o : OpGJ) : Bool := decide (o.bd < 2) && decide (o.off < 4194304)
/-- The fields of OpGret fit their bits. -/
def OpGret.wf (o : OpGret) : Bool := decide (o.bd < 2) && decide (o.ga < 64)
/-- The fields of OpCstart fit their bits. -/
def OpCstart.wf (o : OpCstart) : Bool := decide (o.bd < 2) && decide (o.gd < 64) && decide (o.gh < 64) && decide (o.gc < 64)
/-- The fields of OpCwait fit their bits. -/
def OpCwait.wf (o : OpCwait) : Bool := decide (o.bd < 2) && decide (o.ga < 64)
/-- The fields of OpCquery fit their bits. -/
def OpCquery.wf (o : OpCquery) : Bool := decide (o.bd < 2) && decide (o.gd < 64) && decide (o.ga < 64)
/-- The fields of OpGR fit their bits. -/
def OpGR.wf (o : OpGR) : Bool := decide (o.bd < 2) && decide (o.gd < 64) && decide (o.gh < 64)
/-- The fields of OpRarm fit their bits. -/
def OpRarm.wf (o : OpRarm) : Bool := decide (o.bd < 2) && decide (o.gd < 64) && decide (o.gh < 64) && decide (o.gb < 64)
/-- The fields of OpGarrive fit their bits. -/
def OpGarrive.wf (o : OpGarrive) : Bool := decide (o.bd < 2) && decide (o.cnt < 256) && decide (o.ga < 64)
/-- The fields of OpGmwait fit their bits. -/
def OpGmwait.wf (o : OpGmwait) : Bool := decide (o.bd < 2) && decide (o.ga < 64) && decide (o.gv < 64) && decide (o.w < 2) && decide (o.acq < 2) && decide (o.scope < 8)
/-- The fields of OpGatom fit their bits. -/
def OpGatom.wf (o : OpGatom) : Bool := decide (o.bd < 2) && decide (o.la < 16) && decide (o.aop < 16) && decide (o.gd < 64) && decide (o.ga < 64) && decide (o.sp < 4) && decide (o.w < 2)
/-- The fields of OpGsread fit their bits. -/
def OpGsread.wf (o : OpGsread) : Bool := decide (o.bd < 2) && decide (o.gd < 64) && decide (o.code < 128)
/-- The fields of OpGwaitc fit their bits. -/
def OpGwaitc.wf (o : OpGwaitc) : Bool := decide (o.bd < 2) && decide (o.cls < 2) && decide (o.n < 64)

/-- The forms of XFER that are BCAST: a uniform field, an immediate or a uniform queue (R71). -/
def OpV.isBcast (o : OpV) : Bool := o.fm == 1 || o.fm == 2 || (o.fm == 3 && decide (o.b % 16 < 8))

/-- Every field in range, and the form of XFER that the constructor names (R65, R71, R73). -/
def Instr.wf : Instr → Bool
  | .fadd o => o.wf
  | .fsub o => o.wf
  | .fmul o => o.wf
  | .ffma o => o.wf
  | .fmin o => o.wf
  | .fmax o => o.wf
  | .hadd2 o => o.wf
  | .hmul2 o => o.wf
  | .hfma2 o => o.wf
  | .badd2 o => o.wf
  | .bmul2 o => o.wf
  | .bfma2 o => o.wf
  | .iadd o => o.wf
  | .isub o => o.wf
  | .imul o => o.wf
  | .imad o => o.wf
  | .imulh o => o.wf
  | .imin o => o.wf
  | .imax o => o.wf
  | .iminn o => o.wf
  | .imaxn o => o.wf
  | .and o => o.wf
  | .or o => o.wf
  | .xor o => o.wf
  | .andn o => o.wf
  | .shl o => o.wf
  | .shr o => o.wf
  | .sar o => o.wf
  | .funl o => o.wf
  | .prmt o => o.wf
  | .dp4a o => o.wf
  | .bsubs o => o.wf
  | .bminu o => o.wf
  | .nlutl o => o.wf
  | .nluth o => o.wf
  | .prevb o => o.wf
  | .mov o => o.wf
  | .not o => o.wf
  | .ineg o => o.wf
  | .iabs o => o.wf
  | .popc o => o.wf
  | .clz o => o.wf
  | .ctz o => o.wf
  | .brev o => o.wf
  | .sext8 o => o.wf
  | .sext16 o => o.wf
  | .bswap o => o.wf
  | .setlnk o => o.wf
  | .fneg o => o.wf
  | .fabs o => o.wf
  | .frcp o => o.wf
  | .frsq o => o.wf
  | .fsqrt o => o.wf
  | .fexp2 o => o.wf
  | .flog2 o => o.wf
  | .fsin o => o.wf
  | .fcos o => o.wf
  | .ftanh o => o.wf
  | .ffloor o => o.wf
  | .fceil o => o.wf
  | .ftrunc o => o.wf
  | .frint o => o.wf
  | .cvtif o => o.wf
  | .cvtnf o => o.wf
  | .cvtfi o => o.wf
  | .cvtfn o => o.wf
  | .cvthfl o => o.wf
  | .cvthfh o => o.wf
  | .cvtbfl o => o.wf
  | .cvtbfh o => o.wf
  | .pack4 o => o.wf
  | .pack2 o => o.wf
  | .unpack8 o => o.wf
  | .unpack16 o => o.wf
  | .scale o => o.wf
  | .fcmp o => o.wf
  | .icmp o => o.wf
  | .icmpn o => o.wf
  | .fclass o => o.wf
  | .plop o => o.wf
  | .cmov o => o.wf
  | .shfl o => o.wf
  | .voteAll o => o.wf
  | .voteAny o => o.wf
  | .voteEq o => o.wf
  | .ballot o => o.wf
  | .redux o => o.wf
  | .sread o => o.wf
  | .bcast o => o.wf && o.isBcast
  | .lanex o => o.wf && !o.isBcast
  | .vgeti o => o.wf
  | .vputi o => o.wf
  | .ld o => o.wf
  | .st o => o.wf
  | .atom o => o.wf
  | .qpop o => o.wf
  | .qpops o => o.wf
  | .qpush o => o.wf
  | .qpeek o => o.wf
  | .qstat o => o.wf
  | .qdrop o => o.wf
  | .rawait o => o.wf
  | .rrel o => o.wf
  | .rstat o => o.wf
  | .waitc o => o.wf
  | .cntrd o => o.wf
  | .gather o => o.wf
  | .creduce o => o.wf
  | .msign o => o.wf
  | .mclr o => o.wf
  | .mstat o => o.wf
  | .bar o => o.wf
  | .barn o => o.wf
  | .fence o => o.wf
  | .arrive o => o.wf
  | .await o => o.wf
  | .tjoin o => o.wf
  | .tleave o => o.wf
  | .gridwait o => o.wf
  | .trigger o => o.wf
  | .mwait o => o.wf
  | .uipost o => o.wf
  | .uipostAslice o => o.wf
  | .uiwait o => o.wf
  | .uiack o => o.wf
  | .uimask o => o.wf
  | .lookout o => o.wf
  | .svc o => o.wf
  | .svcAslice o => o.wf
  | .capld o => o.wf
  | .capst o => o.wf
  | .capnarrow o => o.wf
  | .capchk o => o.wf
  | .capldAslice o => o.wf
  | .capstAslice o => o.wf
  | .capnarrowAslice o => o.wf
  | .capchkAslice o => o.wf
  | .brc o => o.wf
  | .jmp o => o.wf
  | .call o => o.wf
  | .jmpr o => o.wf
  | .himm o => o.wf
  | .himmx o => o.wf
  | .hmod o => o.wf
  | .hgrd o => o.wf
  | .hxb o => o.wf
  | .hadr o => o.wf
  | .hkeep o => o.wf
  | .hpri o => o.wf
  | .uadd o => o.wf
  | .usub o => o.wf
  | .umul o => o.wf
  | .umulh o => o.wf
  | .uand o => o.wf
  | .uor o => o.wf
  | .uxor o => o.wf
  | .uandn o => o.wf
  | .ushl o => o.wf
  | .ushr o => o.wf
  | .usar o => o.wf
  | .umin o => o.wf
  | .umax o => o.wf
  | .uminn o => o.wf
  | .umaxn o => o.wf
  | .umov o => o.wf
  | .uaddi o => o.wf
  | .uandi o => o.wf
  | .uori o => o.wf
  | .uxori o => o.wf
  | .ushli o => o.wf
  | .ushri o => o.wf
  | .usari o => o.wf
  | .umovi o => o.wf
  | .ucmp o => o.wf
  | .nop o => o.wf
  | .trapfence o => o.wf
  | .trap o => o.wf
  | .bkpt o => o.wf
  | .xacq o => o.wf
  | .xrel o => o.wf
  | .fork o => o.wf
  | .join o => o.wf
  | .uswin o => o.wf
  | .yield o => o.wf
  | .aflclr o => o.wf
  | .gadd o => o.wf
  | .gsub o => o.wf
  | .gmul o => o.wf
  | .gmulh o => o.wf
  | .gand o => o.wf
  | .gor o => o.wf
  | .gxor o => o.wf
  | .gshl o => o.wf
  | .gshr o => o.wf
  | .gsar o => o.wf
  | .gmin o => o.wf
  | .gmax o => o.wf
  | .gminn o => o.wf
  | .gmaxn o => o.wf
  | .gslt o => o.wf
  | .gsltn o => o.wf
  | .gaddi o => o.wf
  | .gandi o => o.wf
  | .gori o => o.wf
  | .gxori o => o.wf
  | .gshli o => o.wf
  | .gshri o => o.wf
  | .gsari o => o.wf
  | .gslti o => o.wf
  | .gmovi o => o.wf
  | .gmovk o => o.wf
  | .gld o => o.wf
  | .gst o => o.wf
  | .gldq o => o.wf
  | .gldqv o => o.wf
  | .gqpush o => o.wf
  | .gqpop o => o.wf
  | .gqtry o => o.wf
  | .gqclose o => o.wf
  | .gqstat o => o.wf
  | .gbeqz o => o.wf
  | .gbnez o => o.wf
  | .gbltz o => o.wf
  | .gbgez o => o.wf
  | .gbgtz o => o.wf
  | .gblez o => o.wf
  | .gjmp o => o.wf
  | .gcall o => o.wf
  | .gret o => o.wf
  | .gexit o => o.wf
  | .cstart o => o.wf
  | .cwait o => o.wf
  | .cquery o => o.wf
  | .rfree o => o.wf
  | .rarm o => o.wf
  | .rpeek o => o.wf
  | .gfence o => o.wf
  | .garrive o => o.wf
  | .gmwait o => o.wf
  | .gatom o => o.wf
  | .gtrap o => o.wf
  | .gsread o => o.wf
  | .gwaitc o => o.wf
  | .gyield o => o.wf
  | .uiret => true
  | .ret => true
  | .exit => true
  | .gnop => true
  | .arbitration => true
  | .lookoutDiversion => true
  | .xacqGrant => true
  | .crewAdmission => true
  | .blockPlacement => true
  | .taskSteal => true
  | .eviction => true
  | .crewRestore => true
  | .ldCompletion => true
  | .stAcknowledgement => true
  | .atomCompletion => true
  | .gldCompletion => true
  | .queueEntryFill => true
  | .copyElementReach => true
  | .copyArrival => true
  | .copyCompletion => true
  | .gatherCompletion => true
  | .creduceRetirement => true
  | .merge => true
  | .matrixCompletion => true
  | .matrixFault => true
  | .mclrCompletion => true
  | .readoutCompletion => true
  | .mwaitObserve => true
  | .thresholdWindow => true
  | .thresholdSumClear => true
  | .governorWindow => true
  | .notifyWrite => true
  | .launch => true
  | .waitEvent => true
  | .signal => true
  | .uipostPacket => true
  | .peerPost => true
  | .cheadWrite => true
  | .qctlWrite => true
  | .remapTimer => true
  | .ctxctlCreate => true
  | .ctxctlDestroy => true
  | .ctxctlReserved => true
  | .invctlPages => true
  | .invctlContext => true
  | .invctlFunction => true
  | .invalidationDone => true
  | .renew => true
  | .claim => true
  | .leaseExpiry => true
  | .pxdoneWrite => true
  | .dbgctlHalt => true
  | .dbgctlResume => true
  | .snaptrig => true
  | .snapclr => true
  | .snapshotLatch => true
  | .teldataRead => true
  | .registerWrite => true
  | .create => true
  | .destroy => true
  | .grow => true
  | .shrink => true
  | .compact => true
  | .setShare => true
  | .setCaps => true
  | .errlogRead => true
  | .droplogRead => true
  | .snapRead => true
  | .snapClear => true
  | .shapeRead => true
  | .fwLoad => true
  | .mailboxUnknown => true
  | .tileFailing => true
  | .coreReplaced => true
  | .channelDropped => true
  | .droopTrip => true
  | .clockStepUp => true
  | .characterisationComplete => true
  | .scrubComplete => true
  | .reset => true
  | .atsTranslationCompletion => true
  | .prgResponse => true
  | .atsInvalidateRequest => true
  | .vfReset => true
  | .lockInterfaceRequest => true
  | .getVersion => true
  | .getCapabilities => true
  | .negotiateAlgorithms => true
  | .getDigests => true
  | .getCertificate => true
  | .challenge => true
  | .getMeasurements => true
  | .keyExchange => true
  | .finish => true
  | .heartbeat => true
  | .keyUpdate => true
  | .endSession => true
  | .vendorDefined => true
  | .unsupportedRequest => true
  | .ideStreamViolation => true
  | .memAlloc => true
  | .memFree => true
  | .memMap => true
  | .memUnmap => true
  | .memProtect => true
  | .memQuery => true
  | .capMint => true
  | .capRevoke => true
  | .pinHost => true
  | .unpinHost => true
  | .gridLaunch => true
  | .gridQuery => true
  | .gridCancel => true
  | .eventCreate => true
  | .eventSignal => true
  | .eventWait => true
  | .queueInfo => true
  | .detRecordFetch => true
  | .uiVectorSet => true
  | .uiPermit => true
  | .uiRevoke => true
  | .uiRoute => true
  | .uiQuery => true
  | .uiPostRemote => true
  | .fileOpen => true
  | .fileRead => true
  | .fileWrite => true
  | .fileClose => true
  | .fileStat => true
  | .fileSeek => true
  | .dirList => true
  | .fileSync => true
  | .netConnect => true
  | .netAccept => true
  | .netSend => true
  | .netRecv => true
  | .netPoll => true
  | .netClose => true
  | .logWrite => true
  | .counterRead => true
  | .attestQuote => true
  | .reportFetch => true
  | .clockInfo => true
  | .random => true
  | .dbgHaltSelf => true
  | .dbgNotify => true
  | .ctxYield => true
  | .ctxExit => true
  | .powerLoss => true
  | .thermalMonitorTrip => true
  | .powerEnvelope => true
  | .coolantOutOfRange => true
  | .linkRetrain => true
  | .hostAccess => true
  | .peerAccess => true
  | .peerModuleUnreachable => true
  | .msixVectorUnmask => true
  | .priEnable => true
  | .hostResume => true

end Sys2Proof
end

