-- ==== Sys2Proof/Decode.lean ====
section
/-! DEFINITION. Decoding a 32-bit word of either slice (R57, R65, R71 to R75), total and rejecting by name, and after it
the encoder written from the same formats. -/

namespace Sys2Proof

open Machine (bits)

/-- The two slices of a crew (R71). -/
inductive Slice where
  | compute | address
deriving DecidableEq, Repr, Inhabited

/-- The fates of a word that is not an instruction (R75). -/
inductive DecodeError where
  /-- OP 0x00 or 0x7F: Illegal Instruction -/
  | ill
  /-- a reserved major: Reserved Major -/
  | reservedMajor
  /-- legal only in the other slice: Wrong Slice -/
  | wrongSlice
  /-- a minor, kind or field code given no meaning: Illegal Instruction -/
  | illegal
  /-- a hint whose payload sets a reserved bit: the instruction it applies to takes Illegal Instruction (R69) -/
  | badHint
deriving DecidableEq, Repr, Inhabited

/-- An instruction, or Illegal Instruction when a field shown as 0 is not 0 (R66). -/
def ifZero (z : Bool) (i : Instr) : Except DecodeError Instr := if z then .ok i else .error .illegal

/-- A hint, or a bad hint when a reserved payload bit is set (R69). -/
def ifHint (z : Bool) (i : Instr) : Except DecodeError Instr := if z then .ok i else .error .badHint

/-- The fields of OpV in a word. -/
def OpV.ofWord (w : Nat) : OpV := ⟨bits w 31 31, bits w 23 22, bits w 21 14, bits w 13 7, bits w 6 0⟩
/-- The fields of OpV placed in a word. -/
def OpV.toBits (o : OpV) : Nat := o.bd * 2147483648 + o.fm * 4194304 + o.d * 16384 + o.a * 128 + o.b

/-- The fields of OpVU in a word. -/
def OpVU.ofWord (w : Nat) : OpVU := ⟨bits w 31 31, bits w 23 22, bits w 21 14, bits w 13 7⟩
/-- The fields of OpVU placed in a word. -/
def OpVU.toBits (o : OpVU) : Nat := o.bd * 2147483648 + o.fm * 4194304 + o.d * 16384 + o.a * 128

/-- The fields of OpSetLnk in a word. -/
def OpSetLnk.ofWord (w : Nat) : OpSetLnk := ⟨bits w 31 31, bits w 23 22, bits w 13 7⟩
/-- The fields of OpSetLnk placed in a word. -/
def OpSetLnk.toBits (o : OpSetLnk) : Nat := o.bd * 2147483648 + o.fm * 4194304 + o.a * 128

/-- The fields of OpCV in a word. -/
def OpCV.ofWord (w : Nat) : OpCV := ⟨bits w 31 31, bits w 23 22, bits w 21 14, bits w 13 7, bits w 6 4⟩
/-- The fields of OpCV placed in a word. -/
def OpCV.toBits (o : OpCV) : Nat := o.bd * 2147483648 + o.fm * 4194304 + o.d * 16384 + o.a * 128 + o.slot * 16

/-- The fields of OpP in a word. -/
def OpP.ofWord (w : Nat) : OpP := ⟨bits w 31 31, bits w 23 22, bits w 21 17, bits w 16 14, bits w 13 7, bits w 6 0⟩
/-- The fields of OpP placed in a word. -/
def OpP.toBits (o : OpP) : Nat := o.bd * 2147483648 + o.fm * 4194304 + o.pd * 131072 + o.cc * 16384 + o.a * 128 + o.b

/-- The fields of OpFclass in a word. -/
def OpFclass.ofWord (w : Nat) : OpFclass := ⟨bits w 31 31, bits w 21 17, bits w 13 7, bits w 6 0⟩
/-- The fields of OpFclass placed in a word. -/
def OpFclass.toBits (o : OpFclass) : Nat := o.bd * 2147483648 + o.pd * 131072 + o.a * 128 + o.mask

/-- The fields of OpPL in a word. -/
def OpPL.ofWord (w : Nat) : OpPL := ⟨bits w 31 31, bits w 23 21, bits w 20 14, bits w 13 7, bits w 6 0⟩
/-- The fields of OpPL placed in a word. -/
def OpPL.toBits (o : OpPL) : Nat := o.bd * 2147483648 + o.lop * 2097152 + o.pd * 16384 + o.pa * 128 + o.pb

/-- The fields of OpCM in a word. -/
def OpCM.ofWord (w : Nat) : OpCM := ⟨bits w 31 31, bits w 23 17, bits w 16 16, bits w 15 8, bits w 7 0⟩
/-- The fields of OpCM placed in a word. -/
def OpCM.toBits (o : OpCM) : Nat := o.bd * 2147483648 + o.ps * 131072 + o.n * 65536 + o.d * 256 + o.a

/-- The fields of OpSH in a word. -/
def OpSH.ofWord (w : Nat) : OpSH := ⟨bits w 31 31, bits w 23 22, bits w 21 14, bits w 13 7, bits w 6 0⟩
/-- The fields of OpSH placed in a word. -/
def OpSH.toBits (o : OpSH) : Nat := o.bd * 2147483648 + o.md * 4194304 + o.d * 16384 + o.a * 128 + o.b

/-- The fields of OpVote in a word. -/
def OpVote.ofWord (w : Nat) : OpVote := ⟨bits w 31 31, bits w 17 13, bits w 12 6, bits w 5 3⟩
/-- The fields of OpVote placed in a word. -/
def OpVote.toBits (o : OpVote) : Nat := o.bd * 2147483648 + o.d * 8192 + o.a * 64 + o.seg * 8

/-- The fields of OpBallot in a word. -/
def OpBallot.ofWord (w : Nat) : OpBallot := ⟨bits w 31 31, bits w 20 13, bits w 12 6, bits w 5 3⟩
/-- The fields of OpBallot placed in a word. -/
def OpBallot.toBits (o : OpBallot) : Nat := o.bd * 2147483648 + o.d * 8192 + o.a * 64 + o.seg * 8

/-- The fields of OpRedux in a word. -/
def OpRedux.ofWord (w : Nat) : OpRedux := ⟨bits w 31 31, bits w 23 21, bits w 20 13, bits w 12 6, bits w 5 3⟩
/-- The fields of OpRedux placed in a word. -/
def OpRedux.toBits (o : OpRedux) : Nat := o.bd * 2147483648 + o.op * 2097152 + o.d * 8192 + o.a * 64 + o.seg * 8

/-- The fields of OpSR in a word. -/
def OpSR.ofWord (w : Nat) : OpSR := ⟨bits w 31 31, bits w 21 14, bits w 6 0⟩
/-- The fields of OpSR placed in a word. -/
def OpSR.toBits (o : OpSR) : Nat := o.bd * 2147483648 + o.d * 16384 + o.code

/-- The fields of OpVgeti in a word. -/
def OpVgeti.ofWord (w : Nat) : OpVgeti := ⟨bits w 31 31, bits w 23 22, bits w 21 14, bits w 6 0⟩
/-- The fields of OpVgeti placed in a word. -/
def OpVgeti.toBits (o : OpVgeti) : Nat := o.bd * 2147483648 + o.fm * 4194304 + o.d * 16384 + o.b

/-- The fields of OpVputi in a word. -/
def OpVputi.ofWord (w : Nat) : OpVputi := ⟨bits w 31 31, bits w 23 22, bits w 13 7, bits w 6 0⟩
/-- The fields of OpVputi placed in a word. -/
def OpVputi.toBits (o : OpVputi) : Nat := o.bd * 2147483648 + o.fm * 4194304 + o.a * 128 + o.b

/-- The fields of OpM in a word. -/
def OpM.ofWord (w : Nat) : OpM := ⟨bits w 31 31, bits w 23 20, bits w 19 17, bits w 16 15, bits w 14 7, bits w 6 0⟩
/-- The fields of OpM placed in a word. -/
def OpM.toBits (o : OpM) : Nat := o.bd * 2147483648 + o.la * 1048576 + o.sp * 131072 + o.w * 32768 + o.d * 128 + o.a

/-- The fields of OpAT in a word. -/
def OpAT.ofWord (w : Nat) : OpAT := ⟨bits w 31 31, bits w 23 20, bits w 19 18, bits w 17 14, bits w 13 7, bits w 6 0⟩
/-- The fields of OpAT placed in a word. -/
def OpAT.toBits (o : OpAT) : Nat := o.bd * 2147483648 + o.la * 1048576 + o.sp * 262144 + o.aop * 16384 + o.d * 128 + o.a

/-- The fields of OpQpop in a word. -/
def OpQpop.ofWord (w : Nat) : OpQpop := ⟨bits w 31 31, bits w 23 20, bits w 15 8, bits w 7 4⟩
/-- The fields of OpQpop placed in a word. -/
def OpQpop.toBits (o : OpQpop) : Nat := o.bd * 2147483648 + o.la * 1048576 + o.d * 256 + o.q * 16

/-- The fields of OpQU in a word. -/
def OpQU.ofWord (w : Nat) : OpQU := ⟨bits w 31 31, bits w 23 20, bits w 14 8, bits w 7 4⟩
/-- The fields of OpQU placed in a word. -/
def OpQU.toBits (o : OpQU) : Nat := o.bd * 2147483648 + o.la * 1048576 + o.sd * 256 + o.q * 16

/-- The fields of OpQpush in a word. -/
def OpQpush.ofWord (w : Nat) : OpQpush := ⟨bits w 31 31, bits w 23 20, bits w 15 8, bits w 7 4, bits w 3 3⟩
/-- The fields of OpQpush placed in a word. -/
def OpQpush.toBits (o : OpQpush) : Nat := o.bd * 2147483648 + o.la * 1048576 + o.reg * 256 + o.q * 16 + o.k * 8

/-- The fields of OpQdrop in a word. -/
def OpQdrop.ofWord (w : Nat) : OpQdrop := ⟨bits w 31 31, bits w 23 20, bits w 13 8, bits w 7 4⟩
/-- The fields of OpQdrop placed in a word. -/
def OpQdrop.toBits (o : OpQdrop) : Nat := o.bd * 2147483648 + o.la * 1048576 + o.n * 256 + o.q * 16

/-- The fields of OpRingD in a word. -/
def OpRingD.ofWord (w : Nat) : OpRingD := ⟨bits w 31 31, bits w 23 20, bits w 13 7, bits w 6 0⟩
/-- The fields of OpRingD placed in a word. -/
def OpRingD.toBits (o : OpRingD) : Nat := o.bd * 2147483648 + o.la * 1048576 + o.sd * 128 + o.sh

/-- The fields of OpRrel in a word. -/
def OpRrel.ofWord (w : Nat) : OpRrel := ⟨bits w 31 31, bits w 23 20, bits w 6 0⟩
/-- The fields of OpRrel placed in a word. -/
def OpRrel.toBits (o : OpRrel) : Nat := o.bd * 2147483648 + o.la * 1048576 + o.sh

/-- The fields of OpWaitc in a word. -/
def OpWaitc.ofWord (w : Nat) : OpWaitc := ⟨bits w 31 31, bits w 8 6, bits w 5 0⟩
/-- The fields of OpWaitc placed in a word. -/
def OpWaitc.toBits (o : OpWaitc) : Nat := o.bd * 2147483648 + o.cls * 64 + o.n

/-- The fields of OpCntrd in a word. -/
def OpCntrd.ofWord (w : Nat) : OpCntrd := ⟨bits w 31 31, bits w 13 7, bits w 2 0⟩
/-- The fields of OpCntrd placed in a word. -/
def OpCntrd.toBits (o : OpCntrd) : Nat := o.bd * 2147483648 + o.sd * 128 + o.cls

/-- The fields of OpGather in a word. -/
def OpGather.ofWord (w : Nat) : OpGather := ⟨bits w 31 31, bits w 23 20, bits w 15 8, bits w 6 0⟩
/-- The fields of OpGather placed in a word. -/
def OpGather.toBits (o : OpGather) : Nat := o.bd * 2147483648 + o.la * 1048576 + o.ix * 256 + o.sb

/-- The fields of OpCreduce in a word. -/
def OpCreduce.ofWord (w : Nat) : OpCreduce := ⟨bits w 31 31, bits w 23 20, bits w 15 12, bits w 6 0⟩
/-- The fields of OpCreduce placed in a word. -/
def OpCreduce.toBits (o : OpCreduce) : Nat := o.bd * 2147483648 + o.la * 1048576 + o.opr * 4096 + o.sb

/-- The fields of OpMsign in a word. -/
def OpMsign.ofWord (w : Nat) : OpMsign := ⟨bits w 31 31, bits w 23 20, bits w 15 12, bits w 11 5, bits w 4 0⟩
/-- The fields of OpMsign placed in a word. -/
def OpMsign.toBits (o : OpMsign) : Nat := o.bd * 2147483648 + o.la * 1048576 + o.cv * 4096 + o.sb * 32 + o.set

/-- The fields of OpMclr in a word. -/
def OpMclr.ofWord (w : Nat) : OpMclr := ⟨bits w 31 31, bits w 23 20, bits w 6 0⟩
/-- The fields of OpMclr placed in a word. -/
def OpMclr.toBits (o : OpMclr) : Nat := o.bd * 2147483648 + o.la * 1048576 + o.sb

/-- The fields of OpMstat in a word. -/
def OpMstat.ofWord (w : Nat) : OpMstat := ⟨bits w 31 31, bits w 23 20, bits w 13 7, bits w 4 0⟩
/-- The fields of OpMstat placed in a word. -/
def OpMstat.toBits (o : OpMstat) : Nat := o.bd * 2147483648 + o.la * 1048576 + o.sd * 128 + o.sel

/-- The fields of OpBare in a word. -/
def OpBare.ofWord (w : Nat) : OpBare := ⟨bits w 31 31⟩
/-- The fields of OpBare placed in a word. -/
def OpBare.toBits (o : OpBare) : Nat := o.bd * 2147483648

/-- The fields of OpBarn in a word. -/
def OpBarn.ofWord (w : Nat) : OpBarn := ⟨bits w 31 31, bits w 3 0⟩
/-- The fields of OpBarn placed in a word. -/
def OpBarn.toBits (o : OpBarn) : Nat := o.bd * 2147483648 + o.team

/-- The fields of OpFence in a word. -/
def OpFence.ofWord (w : Nat) : OpFence := ⟨bits w 31 31, bits w 5 4, bits w 2 0⟩
/-- The fields of OpFence placed in a word. -/
def OpFence.toBits (o : OpFence) : Nat := o.bd * 2147483648 + o.kind * 16 + o.scope

/-- The fields of OpArrive in a word. -/
def OpArrive.ofWord (w : Nat) : OpArrive := ⟨bits w 31 31, bits w 23 20, bits w 15 8, bits w 6 0⟩
/-- The fields of OpArrive placed in a word. -/
def OpArrive.toBits (o : OpArrive) : Nat := o.bd * 2147483648 + o.la * 1048576 + o.cnt * 256 + o.sa

/-- The fields of OpAwait in a word. -/
def OpAwait.ofWord (w : Nat) : OpAwait := ⟨bits w 31 31, bits w 13 7, bits w 6 0⟩
/-- The fields of OpAwait placed in a word. -/
def OpAwait.toBits (o : OpAwait) : Nat := o.bd * 2147483648 + o.sg * 128 + o.sa

/-- The fields of OpTeam in a word. -/
def OpTeam.ofWord (w : Nat) : OpTeam := ⟨bits w 31 31, bits w 23 20, bits w 3 0⟩
/-- The fields of OpTeam placed in a word. -/
def OpTeam.toBits (o : OpTeam) : Nat := o.bd * 2147483648 + o.la * 1048576 + o.team

/-- The fields of OpTrigger in a word. -/
def OpTrigger.ofWord (w : Nat) : OpTrigger := ⟨bits w 31 31, bits w 23 20⟩
/-- The fields of OpTrigger placed in a word. -/
def OpTrigger.toBits (o : OpTrigger) : Nat := o.bd * 2147483648 + o.la * 1048576

/-- The fields of OpMwait in a word. -/
def OpMwait.ofWord (w : Nat) : OpMwait := ⟨bits w 31 31, bits w 13 7, bits w 6 0⟩
/-- The fields of OpMwait placed in a word. -/
def OpMwait.toBits (o : OpMwait) : Nat := o.bd * 2147483648 + o.sv * 128 + o.sa

/-- The fields of OpPair in a word. -/
def OpPair.ofWord (w : Nat) : OpPair := ⟨bits w 31 31, bits w 23 20, bits w 13 7, bits w 6 0⟩
/-- The fields of OpPair placed in a word. -/
def OpPair.toBits (o : OpPair) : Nat := o.bd * 2147483648 + o.la * 1048576 + o.sd * 128 + o.sa

/-- The fields of OpGPair in a word. -/
def OpGPair.ofWord (w : Nat) : OpGPair := ⟨bits w 31 31, bits w 23 20, bits w 12 7, bits w 5 0⟩
/-- The fields of OpGPair placed in a word. -/
def OpGPair.toBits (o : OpGPair) : Nat := o.bd * 2147483648 + o.la * 1048576 + o.sd * 128 + o.sa

/-- The fields of OpUiwait in a word. -/
def OpUiwait.ofWord (w : Nat) : OpUiwait := ⟨bits w 31 31, bits w 13 7⟩
/-- The fields of OpUiwait placed in a word. -/
def OpUiwait.toBits (o : OpUiwait) : Nat := o.bd * 2147483648 + o.sd * 128

/-- The fields of OpUiack in a word. -/
def OpUiack.ofWord (w : Nat) : OpUiack := ⟨bits w 31 31, bits w 23 20, bits w 13 7⟩
/-- The fields of OpUiack placed in a word. -/
def OpUiack.toBits (o : OpUiack) : Nat := o.bd * 2147483648 + o.la * 1048576 + o.sd * 128

/-- The fields of OpLookout in a word. -/
def OpLookout.ofWord (w : Nat) : OpLookout := ⟨bits w 31 31, bits w 7 7, bits w 6 0⟩
/-- The fields of OpLookout placed in a word. -/
def OpLookout.toBits (o : OpLookout) : Nat := o.bd * 2147483648 + o.as * 128 + o.sa

/-- The fields of OpSvc in a word. -/
def OpSvc.ofWord (w : Nat) : OpSvc := ⟨bits w 31 31, bits w 15 10, bits w 6 0⟩
/-- The fields of OpSvc placed in a word. -/
def OpSvc.toBits (o : OpSvc) : Nat := o.bd * 2147483648 + o.n * 1024 + o.sa

/-- The fields of OpGSvc in a word. -/
def OpGSvc.ofWord (w : Nat) : OpGSvc := ⟨bits w 31 31, bits w 15 10, bits w 5 0⟩
/-- The fields of OpGSvc placed in a word. -/
def OpGSvc.toBits (o : OpGSvc) : Nat := o.bd * 2147483648 + o.n * 1024 + o.sa

/-- The fields of OpBrc in a word. -/
def OpBrc.ofWord (w : Nat) : OpBrc := ⟨bits w 23 17, bits w 16 16, bits w 15 0⟩
/-- The fields of OpBrc placed in a word. -/
def OpBrc.toBits (o : OpBrc) : Nat := o.ps * 131072 + o.n * 65536 + o.off

/-- The fields of OpJump in a word. -/
def OpJump.ofWord (w : Nat) : OpJump := ⟨bits w 20 0⟩
/-- The fields of OpJump placed in a word. -/
def OpJump.toBits (o : OpJump) : Nat := o.off

/-- The fields of OpJmpr in a word. -/
def OpJmpr.ofWord (w : Nat) : OpJmpr := ⟨bits w 7 0⟩
/-- The fields of OpJmpr placed in a word. -/
def OpJmpr.toBits (o : OpJmpr) : Nat := o.d

/-- The fields of OpHimm in a word. -/
def OpHimm.ofWord (w : Nat) : OpHimm := ⟨bits w 31 31, bits w 19 0⟩
/-- The fields of OpHimm placed in a word. -/
def OpHimm.toBits (o : OpHimm) : Nat := o.bd * 2147483648 + o.imm

/-- The fields of OpHimmx in a word. -/
def OpHimmx.ofWord (w : Nat) : OpHimmx := ⟨bits w 31 31, bits w 11 0⟩
/-- The fields of OpHimmx placed in a word. -/
def OpHimmx.toBits (o : OpHimmx) : Nat := o.bd * 2147483648 + o.immx

/-- The fields of OpHmod in a word. -/
def OpHmod.ofWord (w : Nat) : OpHmod := ⟨bits w 31 31, bits w 19 18, bits w 17 17, bits w 16 16, bits w 15 15, bits w 14 13, bits w 12 12, bits w 11 11, bits w 10 10, bits w 9 9, bits w 8 8, bits w 7 6, bits w 5 3⟩
/-- The fields of OpHmod placed in a word. -/
def OpHmod.toBits (o : OpHmod) : Nat := o.bd * 2147483648 + o.rnd * 262144 + o.sat * 131072 + o.w64 * 65536 + o.n * 32768 + o.sz * 8192 + o.sgn * 4096 + o.nega * 2048 + o.absa * 1024 + o.negb * 512 + o.absb * 256 + o.ord * 64 + o.scope * 8

/-- The fields of OpHgrd in a word. -/
def OpHgrd.ofWord (w : Nat) : OpHgrd := ⟨bits w 31 31, bits w 19 13, bits w 12 12⟩
/-- The fields of OpHgrd placed in a word. -/
def OpHgrd.toBits (o : OpHgrd) : Nat := o.bd * 2147483648 + o.pred * 8192 + o.neg * 4096

/-- The fields of OpHxb in a word. -/
def OpHxb.ofWord (w : Nat) : OpHxb := ⟨bits w 31 31, bits w 19 19, bits w 18 18⟩
/-- The fields of OpHxb placed in a word. -/
def OpHxb.toBits (o : OpHxb) : Nat := o.bd * 2147483648 + o.xa * 524288 + o.xb * 262144

/-- The fields of OpHadr in a word. -/
def OpHadr.ofWord (w : Nat) : OpHadr := ⟨bits w 31 31, bits w 19 13, bits w 12 0⟩
/-- The fields of OpHadr placed in a word. -/
def OpHadr.toBits (o : OpHadr) : Nat := o.bd * 2147483648 + o.sb * 8192 + o.off

/-- The fields of OpHkeep in a word. -/
def OpHkeep.ofWord (w : Nat) : OpHkeep := ⟨bits w 31 31, bits w 19 12, bits w 11 4, bits w 3 3, bits w 2 2⟩
/-- The fields of OpHkeep placed in a word. -/
def OpHkeep.toBits (o : OpHkeep) : Nat := o.bd * 2147483648 + o.k1 * 4096 + o.k2 * 16 + o.v1 * 8 + o.v2 * 4

/-- The fields of OpHpri in a word. -/
def OpHpri.ofWord (w : Nat) : OpHpri := ⟨bits w 31 31, bits w 19 18⟩
/-- The fields of OpHpri placed in a word. -/
def OpHpri.toBits (o : OpHpri) : Nat := o.bd * 2147483648 + o.nudge * 262144

/-- The fields of OpU in a word. -/
def OpU.ofWord (w : Nat) : OpU := ⟨bits w 31 31, bits w 20 14, bits w 13 7, bits w 6 0⟩
/-- The fields of OpU placed in a word. -/
def OpU.toBits (o : OpU) : Nat := o.bd * 2147483648 + o.sd * 16384 + o.sa * 128 + o.sb

/-- The fields of OpUmov in a word. -/
def OpUmov.ofWord (w : Nat) : OpUmov := ⟨bits w 31 31, bits w 20 14, bits w 13 7⟩
/-- The fields of OpUmov placed in a word. -/
def OpUmov.toBits (o : OpUmov) : Nat := o.bd * 2147483648 + o.sd * 16384 + o.sa * 128

/-- The fields of OpUI in a word. -/
def OpUI.ofWord (w : Nat) : OpUI := ⟨bits w 31 31, bits w 20 14, bits w 13 0⟩
/-- The fields of OpUI placed in a word. -/
def OpUI.toBits (o : OpUI) : Nat := o.bd * 2147483648 + o.sd * 16384 + o.imm

/-- The fields of OpUC in a word. -/
def OpUC.ofWord (w : Nat) : OpUC := ⟨bits w 31 31, bits w 23 21, bits w 20 14, bits w 13 7, bits w 6 0⟩
/-- The fields of OpUC placed in a word. -/
def OpUC.toBits (o : OpUC) : Nat := o.bd * 2147483648 + o.cc * 2097152 + o.sd * 16384 + o.sa * 128 + o.sb

/-- The fields of OpCode in a word. -/
def OpCode.ofWord (w : Nat) : OpCode := ⟨bits w 31 31, bits w 15 0⟩
/-- The fields of OpCode placed in a word. -/
def OpCode.toBits (o : OpCode) : Nat := o.bd * 2147483648 + o.code

/-- The fields of OpBkpt in a word. -/
def OpBkpt.ofWord (w : Nat) : OpBkpt := ⟨bits w 31 31, bits w 19 19, bits w 15 0⟩
/-- The fields of OpBkpt placed in a word. -/
def OpBkpt.toBits (o : OpBkpt) : Nat := o.bd * 2147483648 + o.snap * 524288 + o.code

/-- The fields of OpXacq in a word. -/
def OpXacq.ofWord (w : Nat) : OpXacq := ⟨bits w 31 31, bits w 2 0⟩
/-- The fields of OpXacq placed in a word. -/
def OpXacq.toBits (o : OpXacq) : Nat := o.bd * 2147483648 + o.n

/-- The fields of OpFork in a word. -/
def OpFork.ofWord (w : Nat) : OpFork := ⟨bits w 31 31, bits w 19 13, bits w 12 6⟩
/-- The fields of OpFork placed in a word. -/
def OpFork.toBits (o : OpFork) : Nat := o.bd * 2147483648 + o.sd * 8192 + o.sa * 64

/-- The fields of OpJoin in a word. -/
def OpJoin.ofWord (w : Nat) : OpJoin := ⟨bits w 31 31, bits w 19 13⟩
/-- The fields of OpJoin placed in a word. -/
def OpJoin.toBits (o : OpJoin) : Nat := o.bd * 2147483648 + o.sa * 8192

/-- The fields of OpUswin in a word. -/
def OpUswin.ofWord (w : Nat) : OpUswin := ⟨bits w 31 31, bits w 1 0⟩
/-- The fields of OpUswin placed in a word. -/
def OpUswin.toBits (o : OpUswin) : Nat := o.bd * 2147483648 + o.wb

/-- The fields of OpAflclr in a word. -/
def OpAflclr.ofWord (w : Nat) : OpAflclr := ⟨bits w 31 31, bits w 7 0⟩
/-- The fields of OpAflclr placed in a word. -/
def OpAflclr.toBits (o : OpAflclr) : Nat := o.bd * 2147483648 + o.mask

/-- The fields of OpGA in a word. -/
def OpGA.ofWord (w : Nat) : OpGA := ⟨bits w 31 31, bits w 19 14, bits w 13 8, bits w 7 2⟩
/-- The fields of OpGA placed in a word. -/
def OpGA.toBits (o : OpGA) : Nat := o.bd * 2147483648 + o.gd * 16384 + o.ga * 256 + o.gb * 4

/-- The fields of OpGI in a word. -/
def OpGI.ofWord (w : Nat) : OpGI := ⟨bits w 31 31, bits w 20 15, bits w 14 9, bits w 8 0⟩
/-- The fields of OpGI placed in a word. -/
def OpGI.toBits (o : OpGI) : Nat := o.bd * 2147483648 + o.gd * 32768 + o.ga * 512 + o.imm

/-- The fields of OpGM in a word. -/
def OpGM.ofWord (w : Nat) : OpGM := ⟨bits w 31 31, bits w 23 18, bits w 17 16, bits w 15 0⟩
/-- The fields of OpGM placed in a word. -/
def OpGM.toBits (o : OpGM) : Nat := o.bd * 2147483648 + o.gd * 262144 + o.sh * 65536 + o.imm

/-- The fields of OpGL in a word. -/
def OpGL.ofWord (w : Nat) : OpGL := ⟨bits w 31 31, bits w 23 20, bits w 19 17, bits w 16 15, bits w 14 9, bits w 8 3, bits w 2 2⟩
/-- The fields of OpGL placed in a word. -/
def OpGL.toBits (o : OpGL) : Nat := o.bd * 2147483648 + o.la * 1048576 + o.sp * 131072 + o.w * 32768 + o.gd * 512 + o.ga * 8 + o.sgn * 4

/-- The fields of OpGldq in a word. -/
def OpGldq.ofWord (w : Nat) : OpGldq := ⟨bits w 31 31, bits w 23 20, bits w 19 17, bits w 16 15, bits w 14 12, bits w 11 6⟩
/-- The fields of OpGldq placed in a word. -/
def OpGldq.toBits (o : OpGldq) : Nat := o.bd * 2147483648 + o.la * 1048576 + o.sp * 131072 + o.w * 32768 + o.q * 4096 + o.ga * 64

/-- The fields of OpGldqv in a word. -/
def OpGldqv.ofWord (w : Nat) : OpGldqv := ⟨bits w 31 31, bits w 23 20, bits w 19 17, bits w 16 15, bits w 14 9, bits w 8 3⟩
/-- The fields of OpGldqv placed in a word. -/
def OpGldqv.toBits (o : OpGldqv) : Nat := o.bd * 2147483648 + o.la * 1048576 + o.sp * 131072 + o.q * 32768 + o.ga * 512 + o.gb * 8

/-- The fields of OpGQ in a word. -/
def OpGQ.ofWord (w : Nat) : OpGQ := ⟨bits w 31 31, bits w 20 15, bits w 14 11⟩
/-- The fields of OpGQ placed in a word. -/
def OpGQ.toBits (o : OpGQ) : Nat := o.bd * 2147483648 + o.gd * 32768 + o.q * 2048

/-- The fields of OpGqclose in a word. -/
def OpGqclose.ofWord (w : Nat) : OpGqclose := ⟨bits w 31 31, bits w 14 11⟩
/-- The fields of OpGqclose placed in a word. -/
def OpGqclose.toBits (o : OpGqclose) : Nat := o.bd * 2147483648 + o.q * 2048

/-- The fields of OpGB in a word. -/
def OpGB.ofWord (w : Nat) : OpGB := ⟨bits w 31 31, bits w 20 15, bits w 14 0⟩
/-- The fields of OpGB placed in a word. -/
def OpGB.toBits (o : OpGB) : Nat := o.bd * 2147483648 + o.ga * 32768 + o.off

/-- The fields of OpGJ in a word. -/
def OpGJ.ofWord (w : Nat) : OpGJ := ⟨bits w 31 31, bits w 21 0⟩
/-- The fields of OpGJ placed in a word. -/
def OpGJ.toBits (o : OpGJ) : Nat := o.bd * 2147483648 + o.off

/-- The fields of OpGret in a word. -/
def OpGret.ofWord (w : Nat) : OpGret := ⟨bits w 31 31, bits w 21 16⟩
/-- The fields of OpGret placed in a word. -/
def OpGret.toBits (o : OpGret) : Nat := o.bd * 2147483648 + o.ga * 65536

/-- The fields of OpCstart in a word. -/
def OpCstart.ofWord (w : Nat) : OpCstart := ⟨bits w 31 31, bits w 21 16, bits w 15 10, bits w 9 4⟩
/-- The fields of OpCstart placed in a word. -/
def OpCstart.toBits (o : OpCstart) : Nat := o.bd * 2147483648 + o.gd * 65536 + o.gh * 1024 + o.gc * 16

/-- The fields of OpCwait in a word. -/
def OpCwait.ofWord (w : Nat) : OpCwait := ⟨bits w 31 31, bits w 15 10⟩
/-- The fields of OpCwait placed in a word. -/
def OpCwait.toBits (o : OpCwait) : Nat := o.bd * 2147483648 + o.ga * 1024

/-- The fields of OpCquery in a word. -/
def OpCquery.ofWord (w : Nat) : OpCquery := ⟨bits w 31 31, bits w 21 16, bits w 15 10⟩
/-- The fields of OpCquery placed in a word. -/
def OpCquery.toBits (o : OpCquery) : Nat := o.bd * 2147483648 + o.gd * 65536 + o.ga * 1024

/-- The fields of OpGR in a word. -/
def OpGR.ofWord (w : Nat) : OpGR := ⟨bits w 31 31, bits w 21 16, bits w 15 10⟩
/-- The fields of OpGR placed in a word. -/
def OpGR.toBits (o : OpGR) : Nat := o.bd * 2147483648 + o.gd * 65536 + o.gh * 1024

/-- The fields of OpRarm in a word. -/
def OpRarm.ofWord (w : Nat) : OpRarm := ⟨bits w 31 31, bits w 21 16, bits w 15 10, bits w 9 4⟩
/-- The fields of OpRarm placed in a word. -/
def OpRarm.toBits (o : OpRarm) : Nat := o.bd * 2147483648 + o.gd * 65536 + o.gh * 1024 + o.gb * 16

/-- The fields of OpGarrive in a word. -/
def OpGarrive.ofWord (w : Nat) : OpGarrive := ⟨bits w 31 31, bits w 21 14, bits w 13 8⟩
/-- The fields of OpGarrive placed in a word. -/
def OpGarrive.toBits (o : OpGarrive) : Nat := o.bd * 2147483648 + o.cnt * 16384 + o.ga * 256

/-- The fields of OpGmwait in a word. -/
def OpGmwait.ofWord (w : Nat) : OpGmwait := ⟨bits w 31 31, bits w 21 16, bits w 15 10, bits w 9 9, bits w 8 8, bits w 2 0⟩
/-- The fields of OpGmwait placed in a word. -/
def OpGmwait.toBits (o : OpGmwait) : Nat := o.bd * 2147483648 + o.ga * 65536 + o.gv * 1024 + o.w * 512 + o.acq * 256 + o.scope

/-- The fields of OpGatom in a word. -/
def OpGatom.ofWord (w : Nat) : OpGatom := ⟨bits w 31 31, bits w 23 20, bits w 19 16, bits w 15 10, bits w 9 4, bits w 3 2, bits w 1 1⟩
/-- The fields of OpGatom placed in a word. -/
def OpGatom.toBits (o : OpGatom) : Nat := o.bd * 2147483648 + o.la * 1048576 + o.aop * 65536 + o.gd * 1024 + o.ga * 16 + o.sp * 4 + o.w * 2

/-- The fields of OpGsread in a word. -/
def OpGsread.ofWord (w : Nat) : OpGsread := ⟨bits w 31 31, bits w 20 15, bits w 6 0⟩
/-- The fields of OpGsread placed in a word. -/
def OpGsread.toBits (o : OpGsread) : Nat := o.bd * 2147483648 + o.gd * 32768 + o.code

/-- The fields of OpGwaitc in a word. -/
def OpGwaitc.ofWord (w : Nat) : OpGwaitc := ⟨bits w 31 31, bits w 7 7, bits w 5 0⟩
/-- The fields of OpGwaitc placed in a word. -/
def OpGwaitc.toBits (o : OpGwaitc) : Nat := o.bd * 2147483648 + o.cls * 128 + o.n

/-- The minors of major 0x25 (R72). -/
def decodeMinor25 (w : Nat) : Except DecodeError Instr :=
  match bits w 6 0 with
  | 0 => .ok (.mov (.ofWord w))
  | 1 => .ok (.not (.ofWord w))
  | 2 => .ok (.ineg (.ofWord w))
  | 3 => .ok (.iabs (.ofWord w))
  | 4 => .ok (.popc (.ofWord w))
  | 5 => .ok (.clz (.ofWord w))
  | 6 => .ok (.ctz (.ofWord w))
  | 7 => .ok (.brev (.ofWord w))
  | 8 => .ok (.sext8 (.ofWord w))
  | 9 => .ok (.sext16 (.ofWord w))
  | 10 => .ok (.bswap (.ofWord w))
  | 11 => ifZero (bits w 21 14 == 0) (.setlnk (.ofWord w))
  | 16 => .ok (.fneg (.ofWord w))
  | 17 => .ok (.fabs (.ofWord w))
  | 18 => .ok (.frcp (.ofWord w))
  | 19 => .ok (.frsq (.ofWord w))
  | 20 => .ok (.fsqrt (.ofWord w))
  | 21 => .ok (.fexp2 (.ofWord w))
  | 22 => .ok (.flog2 (.ofWord w))
  | 23 => .ok (.fsin (.ofWord w))
  | 24 => .ok (.fcos (.ofWord w))
  | 25 => .ok (.ftanh (.ofWord w))
  | 26 => .ok (.ffloor (.ofWord w))
  | 27 => .ok (.fceil (.ofWord w))
  | 28 => .ok (.ftrunc (.ofWord w))
  | 29 => .ok (.frint (.ofWord w))
  | 32 => .ok (.cvtif (.ofWord w))
  | 33 => .ok (.cvtnf (.ofWord w))
  | 34 => .ok (.cvtfi (.ofWord w))
  | 35 => .ok (.cvtfn (.ofWord w))
  | 36 => .ok (.cvthfl (.ofWord w))
  | 37 => .ok (.cvthfh (.ofWord w))
  | 38 => .ok (.cvtbfl (.ofWord w))
  | 39 => .ok (.cvtbfh (.ofWord w))
  | _ => .error .illegal

/-- The minors of major 0x26 (R72). -/
def decodeMinor26 (w : Nat) : Except DecodeError Instr :=
  match bits w 3 0 with
  | 0 => .ok (.pack4 (.ofWord w))
  | 1 => .ok (.pack2 (.ofWord w))
  | 2 => .ok (.unpack8 (.ofWord w))
  | 3 => .ok (.unpack16 (.ofWord w))
  | 4 => .ok (.scale (.ofWord w))
  | _ => .error .illegal

/-- The minors of major 0x2E (R72). -/
def decodeMinor2E (w : Nat) : Except DecodeError Instr :=
  match bits w 23 21 with
  | 0 => ifZero (bits w 20 18 == 0 && bits w 2 0 == 0) (.voteAll (.ofWord w))
  | 1 => ifZero (bits w 20 18 == 0 && bits w 2 0 == 0) (.voteAny (.ofWord w))
  | 2 => ifZero (bits w 20 18 == 0 && bits w 2 0 == 0) (.voteEq (.ofWord w))
  | 3 => ifZero (bits w 2 0 == 0) (.ballot (.ofWord w))
  | _ => .error .illegal

/-- The minors of major 0x43 (R72). -/
def decodeMinor43 (w : Nat) : Except DecodeError Instr :=
  match bits w 19 16 with
  | 0 => ifZero (bits w 3 0 == 0) (.qpop (.ofWord w))
  | 1 => ifZero (bits w 15 15 == 0 && bits w 3 0 == 0) (.qpops (.ofWord w))
  | 2 => ifZero (bits w 2 0 == 0) (.qpush (.ofWord w))
  | 3 => ifZero (bits w 15 15 == 0 && bits w 3 0 == 0) (.qpeek (.ofWord w))
  | 4 => ifZero (bits w 15 15 == 0 && bits w 3 0 == 0) (.qstat (.ofWord w))
  | 5 => ifZero (bits w 15 14 == 0 && bits w 3 0 == 0) (.qdrop (.ofWord w))
  | _ => .error .illegal

/-- The minors of major 0x44 (R72). -/
def decodeMinor44 (w : Nat) : Except DecodeError Instr :=
  match bits w 19 16 with
  | 0 => ifZero (bits w 15 14 == 0) (.rawait (.ofWord w))
  | 1 => ifZero (bits w 15 7 == 0) (.rrel (.ofWord w))
  | 2 => ifZero (bits w 15 14 == 0) (.rstat (.ofWord w))
  | _ => .error .illegal

/-- The minors of major 0x45 (R72). -/
def decodeMinor45 (w : Nat) : Except DecodeError Instr :=
  match bits w 19 16 with
  | 0 => ifZero (bits w 23 20 == 0 && bits w 15 9 == 0) (.waitc (.ofWord w))
  | 1 => ifZero (bits w 23 20 == 0 && bits w 15 14 == 0 && bits w 6 3 == 0) (.cntrd (.ofWord w))
  | 2 => ifZero (bits w 7 7 == 0) (.gather (.ofWord w))
  | 3 => ifZero (bits w 11 7 == 0) (.creduce (.ofWord w))
  | _ => .error .illegal

/-- The minors of major 0x46 (R72). -/
def decodeMinor46 (w : Nat) : Except DecodeError Instr :=
  match bits w 19 16 with
  | 0 => .ok (.msign (.ofWord w))
  | 1 => ifZero (bits w 15 7 == 0) (.mclr (.ofWord w))
  | 2 => ifZero (bits w 15 14 == 0 && bits w 6 5 == 0) (.mstat (.ofWord w))
  | _ => .error .illegal

/-- The minors of major 0x47 (R72). -/
def decodeMinor47 (w : Nat) : Except DecodeError Instr :=
  match bits w 19 16 with
  | 0 => ifZero (bits w 23 20 == 0 && bits w 15 0 == 0) (.bar (.ofWord w))
  | 1 => ifZero (bits w 23 20 == 0 && bits w 15 4 == 0) (.barn (.ofWord w))
  | 2 => ifZero (bits w 23 20 == 0 && bits w 15 6 == 0 && bits w 3 3 == 0) (.fence (.ofWord w))
  | 3 => ifZero (bits w 7 7 == 0) (.arrive (.ofWord w))
  | 4 => ifZero (bits w 23 20 == 0 && bits w 15 14 == 0) (.await (.ofWord w))
  | 5 => ifZero (bits w 15 4 == 0) (.tjoin (.ofWord w))
  | 6 => ifZero (bits w 15 4 == 0) (.tleave (.ofWord w))
  | 7 => ifZero (bits w 23 20 == 0 && bits w 15 0 == 0) (.gridwait (.ofWord w))
  | 8 => ifZero (bits w 15 0 == 0) (.trigger (.ofWord w))
  | 9 => ifZero (bits w 23 20 == 0 && bits w 15 14 == 0) (.mwait (.ofWord w))
  | _ => .error .illegal

/-- The minors of major 0x48 (R72). -/
def decodeMinor48 (w : Nat) : Except DecodeError Instr :=
  match bits w 19 16 with
  | 0 => ifZero (bits w 15 14 == 0) (.uipost (.ofWord w))
  | 1 => ifZero (bits w 23 20 == 0 && bits w 15 14 == 0 && bits w 6 0 == 0) (.uiwait (.ofWord w))
  | 2 => ifZero (bits w 15 14 == 0 && bits w 6 0 == 0) (.uiack (.ofWord w))
  | 3 => ifZero (bits w 15 14 == 0) (.uimask (.ofWord w))
  | 4 => ifZero (bits w 23 20 == 0 && bits w 15 8 == 0) (.lookout (.ofWord w))
  | 5 => ifZero (bits w 31 31 == 1 && bits w 23 20 == 0 && bits w 15 0 == 0) (.uiret)
  | _ => .error .illegal

/-- The minors of UINT in the address slice: UIPOST alone is legal there (R74, R75). -/
def decodeMinor48Address (w : Nat) : Except DecodeError Instr :=
  match bits w 19 16 with
  | 0 => ifZero (bits w 15 13 == 0 && bits w 6 6 == 0) (.uipostAslice (.ofWord w))
  | 1 | 2 | 3 | 4 | 5 => .error .wrongSlice
  | _ => .error .illegal

/-- The minors of major 0x49 (R72). -/
def decodeMinor49 (w : Nat) : Except DecodeError Instr :=
  match bits w 19 16 with
  | 0 => ifZero (bits w 23 20 == 0 && bits w 9 7 == 0) (.svc (.ofWord w))
  | _ => .error .illegal

/-- The minors of major 0x49 in the address slice (R74). -/
def decodeMinor49Address (w : Nat) : Except DecodeError Instr :=
  match bits w 19 16 with
  | 0 => ifZero (bits w 23 20 == 0 && bits w 9 6 == 0) (.svcAslice (.ofWord w))
  | _ => .error .illegal

/-- The minors of major 0x4A (R72). -/
def decodeMinor4A (w : Nat) : Except DecodeError Instr :=
  match bits w 19 16 with
  | 0 => ifZero (bits w 15 14 == 0) (.capld (.ofWord w))
  | 1 => ifZero (bits w 15 14 == 0) (.capst (.ofWord w))
  | 2 => ifZero (bits w 15 14 == 0) (.capnarrow (.ofWord w))
  | 3 => ifZero (bits w 15 14 == 0) (.capchk (.ofWord w))
  | _ => .error .illegal

/-- The minors of major 0x4A in the address slice (R74). -/
def decodeMinor4AAddress (w : Nat) : Except DecodeError Instr :=
  match bits w 19 16 with
  | 0 => ifZero (bits w 15 13 == 0 && bits w 6 6 == 0) (.capldAslice (.ofWord w))
  | 1 => ifZero (bits w 15 13 == 0 && bits w 6 6 == 0) (.capstAslice (.ofWord w))
  | 2 => ifZero (bits w 15 13 == 0 && bits w 6 6 == 0) (.capnarrowAslice (.ofWord w))
  | 3 => ifZero (bits w 15 13 == 0 && bits w 6 6 == 0) (.capchkAslice (.ofWord w))
  | _ => .error .illegal

/-- The minors of major 0x51 (R72). -/
def decodeMinor51 (w : Nat) : Except DecodeError Instr :=
  match bits w 23 21 with
  | 0 => ifZero (bits w 31 31 == 1) (.jmp (.ofWord w))
  | 1 => ifZero (bits w 31 31 == 1) (.call (.ofWord w))
  | 3 => ifZero (bits w 31 31 == 1 && bits w 20 8 == 0) (.jmpr (.ofWord w))
  | 2 => ifZero (bits w 31 31 == 1 && bits w 20 0 == 0) (.ret)
  | 4 => ifZero (bits w 31 31 == 1 && bits w 20 0 == 0) (.exit)
  | _ => .error .illegal

/-- The minors of major 0x52 (R72). -/
def decodeMinor52 (w : Nat) : Except DecodeError Instr :=
  match bits w 23 20 with
  | 0 => .ok (.himm (.ofWord w))
  | 1 => ifHint (bits w 19 12 == 0) (.himmx (.ofWord w))
  | 2 => ifHint (bits w 2 0 == 0) (.hmod (.ofWord w))
  | 3 => ifZero (bits w 11 0 == 0) (.hgrd (.ofWord w))
  | 4 => ifHint (bits w 17 0 == 0) (.hxb (.ofWord w))
  | 5 => .ok (.hadr (.ofWord w))
  | 6 => ifHint (bits w 1 0 == 0) (.hkeep (.ofWord w))
  | 7 => ifHint (bits w 17 0 == 0) (.hpri (.ofWord w))
  | _ => .error .illegal

/-- The minors of major 0x53 (R72). -/
def decodeMinor53 (w : Nat) : Except DecodeError Instr :=
  match bits w 23 21 with
  | 0 => .ok (.uadd (.ofWord w))
  | 1 => .ok (.usub (.ofWord w))
  | 2 => .ok (.umul (.ofWord w))
  | 3 => .ok (.umulh (.ofWord w))
  | 4 => .ok (.uand (.ofWord w))
  | 5 => .ok (.uor (.ofWord w))
  | 6 => .ok (.uxor (.ofWord w))
  | 7 => .ok (.uandn (.ofWord w))
  | _ => .error .illegal

/-- The minors of major 0x54 (R72). -/
def decodeMinor54 (w : Nat) : Except DecodeError Instr :=
  match bits w 23 21 with
  | 0 => .ok (.ushl (.ofWord w))
  | 1 => .ok (.ushr (.ofWord w))
  | 2 => .ok (.usar (.ofWord w))
  | 3 => .ok (.umin (.ofWord w))
  | 4 => .ok (.umax (.ofWord w))
  | 5 => .ok (.uminn (.ofWord w))
  | 6 => .ok (.umaxn (.ofWord w))
  | 7 => ifZero (bits w 6 0 == 0) (.umov (.ofWord w))
  | _ => .error .illegal

/-- The minors of major 0x55 (R72). -/
def decodeMinor55 (w : Nat) : Except DecodeError Instr :=
  match bits w 23 21 with
  | 0 => .ok (.uaddi (.ofWord w))
  | 1 => .ok (.uandi (.ofWord w))
  | 2 => .ok (.uori (.ofWord w))
  | 3 => .ok (.uxori (.ofWord w))
  | 4 => .ok (.ushli (.ofWord w))
  | 5 => .ok (.ushri (.ofWord w))
  | 6 => .ok (.usari (.ofWord w))
  | 7 => .ok (.umovi (.ofWord w))
  | _ => .error .illegal

/-- The minors of major 0x57 (R72). -/
def decodeMinor57 (w : Nat) : Except DecodeError Instr :=
  match bits w 23 20 with
  | 0 => ifZero (bits w 19 0 == 0) (.nop (.ofWord w))
  | 1 => ifZero (bits w 19 0 == 0) (.trapfence (.ofWord w))
  | 2 => ifZero (bits w 19 16 == 0) (.trap (.ofWord w))
  | 3 => ifZero (bits w 18 16 == 0) (.bkpt (.ofWord w))
  | 4 => ifZero (bits w 19 3 == 0) (.xacq (.ofWord w))
  | 5 => ifZero (bits w 19 0 == 0) (.xrel (.ofWord w))
  | 6 => ifZero (bits w 5 0 == 0) (.fork (.ofWord w))
  | 7 => ifZero (bits w 12 0 == 0) (.join (.ofWord w))
  | 8 => ifZero (bits w 19 2 == 0) (.uswin (.ofWord w))
  | 9 => ifZero (bits w 19 0 == 0) (.yield (.ofWord w))
  | 10 => ifZero (bits w 19 8 == 0) (.aflclr (.ofWord w))
  | _ => .error .illegal

/-- The minors of major 0x60 (R72). -/
def decodeMinor60 (w : Nat) : Except DecodeError Instr :=
  match bits w 23 20 with
  | 0 => ifZero (bits w 1 0 == 0) (.gadd (.ofWord w))
  | 1 => ifZero (bits w 1 0 == 0) (.gsub (.ofWord w))
  | 2 => ifZero (bits w 1 0 == 0) (.gmul (.ofWord w))
  | 3 => ifZero (bits w 1 0 == 0) (.gmulh (.ofWord w))
  | 4 => ifZero (bits w 1 0 == 0) (.gand (.ofWord w))
  | 5 => ifZero (bits w 1 0 == 0) (.gor (.ofWord w))
  | 6 => ifZero (bits w 1 0 == 0) (.gxor (.ofWord w))
  | 7 => ifZero (bits w 1 0 == 0) (.gshl (.ofWord w))
  | 8 => ifZero (bits w 1 0 == 0) (.gshr (.ofWord w))
  | 9 => ifZero (bits w 1 0 == 0) (.gsar (.ofWord w))
  | 10 => ifZero (bits w 1 0 == 0) (.gmin (.ofWord w))
  | 11 => ifZero (bits w 1 0 == 0) (.gmax (.ofWord w))
  | 12 => ifZero (bits w 1 0 == 0) (.gminn (.ofWord w))
  | 13 => ifZero (bits w 1 0 == 0) (.gmaxn (.ofWord w))
  | 14 => ifZero (bits w 1 0 == 0) (.gslt (.ofWord w))
  | 15 => ifZero (bits w 1 0 == 0) (.gsltn (.ofWord w))
  | _ => .error .illegal

/-- The minors of major 0x61 (R72). -/
def decodeMinor61 (w : Nat) : Except DecodeError Instr :=
  match bits w 23 21 with
  | 0 => .ok (.gaddi (.ofWord w))
  | 1 => .ok (.gandi (.ofWord w))
  | 2 => .ok (.gori (.ofWord w))
  | 3 => .ok (.gxori (.ofWord w))
  | 4 => .ok (.gshli (.ofWord w))
  | 5 => .ok (.gshri (.ofWord w))
  | 6 => .ok (.gsari (.ofWord w))
  | 7 => .ok (.gslti (.ofWord w))
  | _ => .error .illegal

/-- The minors of major 0x68 (R72). -/
def decodeMinor68 (w : Nat) : Except DecodeError Instr :=
  match bits w 23 21 with
  | 0 => ifZero (bits w 10 0 == 0) (.gqpush (.ofWord w))
  | 1 => ifZero (bits w 10 0 == 0) (.gqpop (.ofWord w))
  | 2 => ifZero (bits w 10 0 == 0) (.gqtry (.ofWord w))
  | 3 => ifZero (bits w 20 15 == 0 && bits w 10 0 == 0) (.gqclose (.ofWord w))
  | 4 => ifZero (bits w 10 0 == 0) (.gqstat (.ofWord w))
  | _ => .error .illegal

/-- The minors of major 0x69 (R72). -/
def decodeMinor69 (w : Nat) : Except DecodeError Instr :=
  match bits w 23 21 with
  | 0 => .ok (.gbeqz (.ofWord w))
  | 1 => .ok (.gbnez (.ofWord w))
  | 2 => .ok (.gbltz (.ofWord w))
  | 3 => .ok (.gbgez (.ofWord w))
  | 4 => .ok (.gbgtz (.ofWord w))
  | 5 => .ok (.gblez (.ofWord w))
  | _ => .error .illegal

/-- The minors of major 0x6A (R72). -/
def decodeMinor6A (w : Nat) : Except DecodeError Instr :=
  match bits w 23 22 with
  | 0 => .ok (.gjmp (.ofWord w))
  | 1 => .ok (.gcall (.ofWord w))
  | 2 => ifZero (bits w 15 0 == 0) (.gret (.ofWord w))
  | 3 => ifZero (bits w 21 0 == 0) (.gexit (.ofWord w))
  | _ => .error .illegal

/-- The minors of major 0x6B (R72). -/
def decodeMinor6B (w : Nat) : Except DecodeError Instr :=
  match bits w 23 22 with
  | 0 => ifZero (bits w 3 0 == 0) (.cstart (.ofWord w))
  | 1 => ifZero (bits w 21 16 == 0 && bits w 9 0 == 0) (.cwait (.ofWord w))
  | 2 => ifZero (bits w 9 0 == 0) (.cquery (.ofWord w))
  | _ => .error .illegal

/-- The minors of major 0x6C (R72). -/
def decodeMinor6C (w : Nat) : Except DecodeError Instr :=
  match bits w 23 22 with
  | 0 => ifZero (bits w 9 0 == 0) (.rfree (.ofWord w))
  | 1 => ifZero (bits w 3 0 == 0) (.rarm (.ofWord w))
  | 2 => ifZero (bits w 9 0 == 0) (.rpeek (.ofWord w))
  | _ => .error .illegal

/-- The minors of major 0x6D (R72). -/
def decodeMinor6D (w : Nat) : Except DecodeError Instr :=
  match bits w 23 22 with
  | 0 => ifZero (bits w 21 6 == 0 && bits w 3 3 == 0) (.gfence (.ofWord w))
  | 1 => ifZero (bits w 7 0 == 0) (.garrive (.ofWord w))
  | 2 => ifZero (bits w 7 3 == 0) (.gmwait (.ofWord w))
  | _ => .error .illegal

/-- The minors of major 0x6F (R72). -/
def decodeMinor6F (w : Nat) : Except DecodeError Instr :=
  match bits w 23 21 with
  | 1 => ifZero (bits w 20 16 == 0) (.gtrap (.ofWord w))
  | 2 => ifZero (bits w 14 7 == 0) (.gsread (.ofWord w))
  | 3 => ifZero (bits w 20 8 == 0 && bits w 6 6 == 0) (.gwaitc (.ofWord w))
  | 4 => ifZero (bits w 20 0 == 0) (.gyield (.ofWord w))
  | 0 => ifZero (bits w 20 0 == 0) (.gnop)
  | _ => .error .illegal

/-- The hint kinds of the address slice: HIMM and HIMMX (R74, R75). -/
def decodeHintAddress (w : Nat) : Except DecodeError Instr :=
  match bits w 23 20 with
  | 0 | 1 => decodeMinor52 w
  | 2 | 3 | 4 | 5 | 6 | 7 => .error .wrongSlice
  | _ => .error .illegal

/-- The reserved majors of R71 (R75, second test). -/
def reservedMajor (m : Nat) : Bool :=
  (52 ≤ m && m ≤ 63) || (75 ≤ m && m ≤ 79) || (88 ≤ m && m ≤ 95) || (112 ≤ m && m ≤ 126)

/-- The majors of the compute slice (R71). -/
def decodeCompute (w : Nat) : Except DecodeError Instr :=
  match bits w 30 24 with
  | 1 => .ok (.fadd (.ofWord w))
  | 2 => .ok (.fsub (.ofWord w))
  | 3 => .ok (.fmul (.ofWord w))
  | 4 => .ok (.ffma (.ofWord w))
  | 5 => .ok (.fmin (.ofWord w))
  | 6 => .ok (.fmax (.ofWord w))
  | 7 => .ok (.hadd2 (.ofWord w))
  | 8 => .ok (.hmul2 (.ofWord w))
  | 9 => .ok (.hfma2 (.ofWord w))
  | 10 => .ok (.badd2 (.ofWord w))
  | 11 => .ok (.bmul2 (.ofWord w))
  | 12 => .ok (.bfma2 (.ofWord w))
  | 13 => .ok (.iadd (.ofWord w))
  | 14 => .ok (.isub (.ofWord w))
  | 15 => .ok (.imul (.ofWord w))
  | 16 => .ok (.imad (.ofWord w))
  | 17 => .ok (.imulh (.ofWord w))
  | 18 => .ok (.imin (.ofWord w))
  | 19 => .ok (.imax (.ofWord w))
  | 20 => .ok (.iminn (.ofWord w))
  | 21 => .ok (.imaxn (.ofWord w))
  | 22 => .ok (.and (.ofWord w))
  | 23 => .ok (.or (.ofWord w))
  | 24 => .ok (.xor (.ofWord w))
  | 25 => .ok (.andn (.ofWord w))
  | 26 => .ok (.shl (.ofWord w))
  | 27 => .ok (.shr (.ofWord w))
  | 28 => .ok (.sar (.ofWord w))
  | 29 => .ok (.funl (.ofWord w))
  | 30 => .ok (.prmt (.ofWord w))
  | 31 => .ok (.dp4a (.ofWord w))
  | 32 => .ok (.bsubs (.ofWord w))
  | 33 => .ok (.bminu (.ofWord w))
  | 34 => .ok (.nlutl (.ofWord w))
  | 35 => .ok (.nluth (.ofWord w))
  | 36 => .ok (.prevb (.ofWord w))
  | 37 => decodeMinor25 w
  | 38 => decodeMinor26 w
  | 39 => .ok (.fcmp (.ofWord w))
  | 40 => .ok (.icmp (.ofWord w))
  | 41 => .ok (.icmpn (.ofWord w))
  | 42 => ifZero (bits w 23 22 == 2 && bits w 16 14 == 0) (.fclass (.ofWord w))
  | 43 => .ok (.plop (.ofWord w))
  | 44 => .ok (.cmov (.ofWord w))
  | 45 => .ok (.shfl (.ofWord w))
  | 46 => decodeMinor2E w
  | 47 => ifZero (bits w 2 0 == 0) (.redux (.ofWord w))
  | 48 => ifZero (bits w 23 22 == 0 && bits w 13 7 == 0) (.sread (.ofWord w))
  | 49 => .ok (if (OpV.ofWord w).isBcast then .bcast (.ofWord w) else .lanex (.ofWord w))
  | 50 => ifZero (bits w 13 7 == 0) (.vgeti (.ofWord w))
  | 51 => ifZero (bits w 21 14 == 0) (.vputi (.ofWord w))
  | 64 => .ok (.ld (.ofWord w))
  | 65 => .ok (.st (.ofWord w))
  | 66 => .ok (.atom (.ofWord w))
  | 67 => decodeMinor43 w
  | 68 => decodeMinor44 w
  | 69 => decodeMinor45 w
  | 70 => decodeMinor46 w
  | 71 => decodeMinor47 w
  | 72 => decodeMinor48 w
  | 73 => decodeMinor49 w
  | 74 => decodeMinor4A w
  | 80 => ifZero (bits w 31 31 == 1) (.brc (.ofWord w))
  | 81 => decodeMinor51 w
  | 82 => decodeMinor52 w
  | 83 => decodeMinor53 w
  | 84 => decodeMinor54 w
  | 85 => decodeMinor55 w
  | 86 => .ok (.ucmp (.ofWord w))
  | 87 => decodeMinor57 w
  | _ => .error .wrongSlice

/-- The majors of the address slice, and those of R74 that it shares (R73, R74). -/
def decodeAddress (w : Nat) : Except DecodeError Instr :=
  match bits w 30 24 with
  | 72 => decodeMinor48Address w
  | 73 => decodeMinor49Address w
  | 74 => decodeMinor4AAddress w
  | 96 => decodeMinor60 w
  | 97 => decodeMinor61 w
  | 98 => .ok (.gmovi (.ofWord w))
  | 99 => .ok (.gmovk (.ofWord w))
  | 100 => ifZero (bits w 1 0 == 0) (.gld (.ofWord w))
  | 101 => ifZero (bits w 1 0 == 0) (.gst (.ofWord w))
  | 102 => ifZero (bits w 5 0 == 0) (.gldq (.ofWord w))
  | 103 => ifZero (bits w 2 0 == 0) (.gldqv (.ofWord w))
  | 104 => decodeMinor68 w
  | 105 => decodeMinor69 w
  | 106 => decodeMinor6A w
  | 107 => decodeMinor6B w
  | 108 => decodeMinor6C w
  | 109 => decodeMinor6D w
  | 110 => ifZero (bits w 0 0 == 0) (.gatom (.ofWord w))
  | 111 => decodeMinor6F w
  | 82 => decodeHintAddress w
  | _ => .error .wrongSlice

/-- The instruction of a word in a slice, or the first fate of R75 that applies. -/
def decode (sl : Slice) (w : Nat) : Except DecodeError Instr :=
  if bits w 30 24 = 0 ∨ bits w 30 24 = 127 then .error .ill
  else if reservedMajor (bits w 30 24) then .error .reservedMajor
  else
    match sl with
    | .compute => decodeCompute w
    | .address => decodeAddress w

/-- Whether a major opcode belongs to the address slice alone (R71). -/
def addressMajor (w : Nat) : Bool := 96 ≤ bits w 30 24 && bits w 30 24 ≤ 111

/-- The slice a word of the opcode table is read in: the address slice for majors 0x60 to 0x6F, else the compute
slice (R71). The words that both slices share (R74) are read here as the compute slice reads them. -/
def tableSlice (w : Nat) : Slice := if addressMajor w then .address else .compute

/-- The instruction the decoder reads from the word w of the opcode table. -/
def decodeTableWord (nbits w : Nat) : Option Instr :=
  if nbits ≤ 32 then
    match decode (tableSlice w) (w % 4294967296) with
    | .ok i => some i
    | .error _ => none
  else none

/-- The slice an encoded instruction belongs to; the words of both slices have a constructor for each (R74), but
HIMM and HIMMX have one for the two. -/
def Instr.slice : Instr → Slice
  | .uipostAslice _ => .address
  | .svcAslice _ => .address
  | .capldAslice _ => .address
  | .capstAslice _ => .address
  | .capnarrowAslice _ => .address
  | .capchkAslice _ => .address
  | .gadd _ => .address
  | .gsub _ => .address
  | .gmul _ => .address
  | .gmulh _ => .address
  | .gand _ => .address
  | .gor _ => .address
  | .gxor _ => .address
  | .gshl _ => .address
  | .gshr _ => .address
  | .gsar _ => .address
  | .gmin _ => .address
  | .gmax _ => .address
  | .gminn _ => .address
  | .gmaxn _ => .address
  | .gslt _ => .address
  | .gsltn _ => .address
  | .gaddi _ => .address
  | .gandi _ => .address
  | .gori _ => .address
  | .gxori _ => .address
  | .gshli _ => .address
  | .gshri _ => .address
  | .gsari _ => .address
  | .gslti _ => .address
  | .gmovi _ => .address
  | .gmovk _ => .address
  | .gld _ => .address
  | .gst _ => .address
  | .gldq _ => .address
  | .gldqv _ => .address
  | .gqpush _ => .address
  | .gqpop _ => .address
  | .gqtry _ => .address
  | .gqclose _ => .address
  | .gqstat _ => .address
  | .gbeqz _ => .address
  | .gbnez _ => .address
  | .gbltz _ => .address
  | .gbgez _ => .address
  | .gbgtz _ => .address
  | .gblez _ => .address
  | .gjmp _ => .address
  | .gcall _ => .address
  | .gret _ => .address
  | .gexit _ => .address
  | .cstart _ => .address
  | .cwait _ => .address
  | .cquery _ => .address
  | .rfree _ => .address
  | .rarm _ => .address
  | .rpeek _ => .address
  | .gfence _ => .address
  | .garrive _ => .address
  | .gmwait _ => .address
  | .gatom _ => .address
  | .gtrap _ => .address
  | .gsread _ => .address
  | .gwaitc _ => .address
  | .gyield _ => .address
  | .gnop => .address
  | _ => .compute

/-- The word of an instruction; an event has none (R65, R73). -/
def encode : Instr → Option Nat
  | .fadd o => some (16777216 + o.toBits)
  | .fsub o => some (33554432 + o.toBits)
  | .fmul o => some (50331648 + o.toBits)
  | .ffma o => some (67108864 + o.toBits)
  | .fmin o => some (83886080 + o.toBits)
  | .fmax o => some (100663296 + o.toBits)
  | .hadd2 o => some (117440512 + o.toBits)
  | .hmul2 o => some (134217728 + o.toBits)
  | .hfma2 o => some (150994944 + o.toBits)
  | .badd2 o => some (167772160 + o.toBits)
  | .bmul2 o => some (184549376 + o.toBits)
  | .bfma2 o => some (201326592 + o.toBits)
  | .iadd o => some (218103808 + o.toBits)
  | .isub o => some (234881024 + o.toBits)
  | .imul o => some (251658240 + o.toBits)
  | .imad o => some (268435456 + o.toBits)
  | .imulh o => some (285212672 + o.toBits)
  | .imin o => some (301989888 + o.toBits)
  | .imax o => some (318767104 + o.toBits)
  | .iminn o => some (335544320 + o.toBits)
  | .imaxn o => some (352321536 + o.toBits)
  | .and o => some (369098752 + o.toBits)
  | .or o => some (385875968 + o.toBits)
  | .xor o => some (402653184 + o.toBits)
  | .andn o => some (419430400 + o.toBits)
  | .shl o => some (436207616 + o.toBits)
  | .shr o => some (452984832 + o.toBits)
  | .sar o => some (469762048 + o.toBits)
  | .funl o => some (486539264 + o.toBits)
  | .prmt o => some (503316480 + o.toBits)
  | .dp4a o => some (520093696 + o.toBits)
  | .bsubs o => some (536870912 + o.toBits)
  | .bminu o => some (553648128 + o.toBits)
  | .nlutl o => some (570425344 + o.toBits)
  | .nluth o => some (587202560 + o.toBits)
  | .prevb o => some (603979776 + o.toBits)
  | .mov o => some (620756992 + o.toBits)
  | .not o => some (620756993 + o.toBits)
  | .ineg o => some (620756994 + o.toBits)
  | .iabs o => some (620756995 + o.toBits)
  | .popc o => some (620756996 + o.toBits)
  | .clz o => some (620756997 + o.toBits)
  | .ctz o => some (620756998 + o.toBits)
  | .brev o => some (620756999 + o.toBits)
  | .sext8 o => some (620757000 + o.toBits)
  | .sext16 o => some (620757001 + o.toBits)
  | .bswap o => some (620757002 + o.toBits)
  | .setlnk o => some (620757003 + o.toBits)
  | .fneg o => some (620757008 + o.toBits)
  | .fabs o => some (620757009 + o.toBits)
  | .frcp o => some (620757010 + o.toBits)
  | .frsq o => some (620757011 + o.toBits)
  | .fsqrt o => some (620757012 + o.toBits)
  | .fexp2 o => some (620757013 + o.toBits)
  | .flog2 o => some (620757014 + o.toBits)
  | .fsin o => some (620757015 + o.toBits)
  | .fcos o => some (620757016 + o.toBits)
  | .ftanh o => some (620757017 + o.toBits)
  | .ffloor o => some (620757018 + o.toBits)
  | .fceil o => some (620757019 + o.toBits)
  | .ftrunc o => some (620757020 + o.toBits)
  | .frint o => some (620757021 + o.toBits)
  | .cvtif o => some (620757024 + o.toBits)
  | .cvtnf o => some (620757025 + o.toBits)
  | .cvtfi o => some (620757026 + o.toBits)
  | .cvtfn o => some (620757027 + o.toBits)
  | .cvthfl o => some (620757028 + o.toBits)
  | .cvthfh o => some (620757029 + o.toBits)
  | .cvtbfl o => some (620757030 + o.toBits)
  | .cvtbfh o => some (620757031 + o.toBits)
  | .pack4 o => some (637534208 + o.toBits)
  | .pack2 o => some (637534209 + o.toBits)
  | .unpack8 o => some (637534210 + o.toBits)
  | .unpack16 o => some (637534211 + o.toBits)
  | .scale o => some (637534212 + o.toBits)
  | .fcmp o => some (654311424 + o.toBits)
  | .icmp o => some (671088640 + o.toBits)
  | .icmpn o => some (687865856 + o.toBits)
  | .fclass o => some (713031680 + o.toBits)
  | .plop o => some (721420288 + o.toBits)
  | .cmov o => some (738197504 + o.toBits)
  | .shfl o => some (754974720 + o.toBits)
  | .voteAll o => some (771751936 + o.toBits)
  | .voteAny o => some (773849088 + o.toBits)
  | .voteEq o => some (775946240 + o.toBits)
  | .ballot o => some (778043392 + o.toBits)
  | .redux o => some (788529152 + o.toBits)
  | .sread o => some (805306368 + o.toBits)
  | .bcast o => some (822083584 + o.toBits)
  | .lanex o => some (822083584 + o.toBits)
  | .vgeti o => some (838860800 + o.toBits)
  | .vputi o => some (855638016 + o.toBits)
  | .ld o => some (1073741824 + o.toBits)
  | .st o => some (1090519040 + o.toBits)
  | .atom o => some (1107296256 + o.toBits)
  | .qpop o => some (1124073472 + o.toBits)
  | .qpops o => some (1124139008 + o.toBits)
  | .qpush o => some (1124204544 + o.toBits)
  | .qpeek o => some (1124270080 + o.toBits)
  | .qstat o => some (1124335616 + o.toBits)
  | .qdrop o => some (1124401152 + o.toBits)
  | .rawait o => some (1140850688 + o.toBits)
  | .rrel o => some (1140916224 + o.toBits)
  | .rstat o => some (1140981760 + o.toBits)
  | .waitc o => some (1157627904 + o.toBits)
  | .cntrd o => some (1157693440 + o.toBits)
  | .gather o => some (1157758976 + o.toBits)
  | .creduce o => some (1157824512 + o.toBits)
  | .msign o => some (1174405120 + o.toBits)
  | .mclr o => some (1174470656 + o.toBits)
  | .mstat o => some (1174536192 + o.toBits)
  | .bar o => some (1191182336 + o.toBits)
  | .barn o => some (1191247872 + o.toBits)
  | .fence o => some (1191313408 + o.toBits)
  | .arrive o => some (1191378944 + o.toBits)
  | .await o => some (1191444480 + o.toBits)
  | .tjoin o => some (1191510016 + o.toBits)
  | .tleave o => some (1191575552 + o.toBits)
  | .gridwait o => some (1191641088 + o.toBits)
  | .trigger o => some (1191706624 + o.toBits)
  | .mwait o => some (1191772160 + o.toBits)
  | .uipost o => some (1207959552 + o.toBits)
  | .uipostAslice o => some (1207959552 + o.toBits)
  | .uiwait o => some (1208025088 + o.toBits)
  | .uiack o => some (1208090624 + o.toBits)
  | .uimask o => some (1208156160 + o.toBits)
  | .lookout o => some (1208221696 + o.toBits)
  | .svc o => some (1224736768 + o.toBits)
  | .svcAslice o => some (1224736768 + o.toBits)
  | .capld o => some (1241513984 + o.toBits)
  | .capst o => some (1241579520 + o.toBits)
  | .capnarrow o => some (1241645056 + o.toBits)
  | .capchk o => some (1241710592 + o.toBits)
  | .capldAslice o => some (1241513984 + o.toBits)
  | .capstAslice o => some (1241579520 + o.toBits)
  | .capnarrowAslice o => some (1241645056 + o.toBits)
  | .capchkAslice o => some (1241710592 + o.toBits)
  | .brc o => some (3489660928 + o.toBits)
  | .jmp o => some (3506438144 + o.toBits)
  | .call o => some (3508535296 + o.toBits)
  | .jmpr o => some (3512729600 + o.toBits)
  | .himm o => some (1375731712 + o.toBits)
  | .himmx o => some (1376780288 + o.toBits)
  | .hmod o => some (1377828864 + o.toBits)
  | .hgrd o => some (1378877440 + o.toBits)
  | .hxb o => some (1379926016 + o.toBits)
  | .hadr o => some (1380974592 + o.toBits)
  | .hkeep o => some (1382023168 + o.toBits)
  | .hpri o => some (1383071744 + o.toBits)
  | .uadd o => some (1392508928 + o.toBits)
  | .usub o => some (1394606080 + o.toBits)
  | .umul o => some (1396703232 + o.toBits)
  | .umulh o => some (1398800384 + o.toBits)
  | .uand o => some (1400897536 + o.toBits)
  | .uor o => some (1402994688 + o.toBits)
  | .uxor o => some (1405091840 + o.toBits)
  | .uandn o => some (1407188992 + o.toBits)
  | .ushl o => some (1409286144 + o.toBits)
  | .ushr o => some (1411383296 + o.toBits)
  | .usar o => some (1413480448 + o.toBits)
  | .umin o => some (1415577600 + o.toBits)
  | .umax o => some (1417674752 + o.toBits)
  | .uminn o => some (1419771904 + o.toBits)
  | .umaxn o => some (1421869056 + o.toBits)
  | .umov o => some (1423966208 + o.toBits)
  | .uaddi o => some (1426063360 + o.toBits)
  | .uandi o => some (1428160512 + o.toBits)
  | .uori o => some (1430257664 + o.toBits)
  | .uxori o => some (1432354816 + o.toBits)
  | .ushli o => some (1434451968 + o.toBits)
  | .ushri o => some (1436549120 + o.toBits)
  | .usari o => some (1438646272 + o.toBits)
  | .umovi o => some (1440743424 + o.toBits)
  | .ucmp o => some (1442840576 + o.toBits)
  | .nop o => some (1459617792 + o.toBits)
  | .trapfence o => some (1460666368 + o.toBits)
  | .trap o => some (1461714944 + o.toBits)
  | .bkpt o => some (1462763520 + o.toBits)
  | .xacq o => some (1463812096 + o.toBits)
  | .xrel o => some (1464860672 + o.toBits)
  | .fork o => some (1465909248 + o.toBits)
  | .join o => some (1466957824 + o.toBits)
  | .uswin o => some (1468006400 + o.toBits)
  | .yield o => some (1469054976 + o.toBits)
  | .aflclr o => some (1470103552 + o.toBits)
  | .gadd o => some (1610612736 + o.toBits)
  | .gsub o => some (1611661312 + o.toBits)
  | .gmul o => some (1612709888 + o.toBits)
  | .gmulh o => some (1613758464 + o.toBits)
  | .gand o => some (1614807040 + o.toBits)
  | .gor o => some (1615855616 + o.toBits)
  | .gxor o => some (1616904192 + o.toBits)
  | .gshl o => some (1617952768 + o.toBits)
  | .gshr o => some (1619001344 + o.toBits)
  | .gsar o => some (1620049920 + o.toBits)
  | .gmin o => some (1621098496 + o.toBits)
  | .gmax o => some (1622147072 + o.toBits)
  | .gminn o => some (1623195648 + o.toBits)
  | .gmaxn o => some (1624244224 + o.toBits)
  | .gslt o => some (1625292800 + o.toBits)
  | .gsltn o => some (1626341376 + o.toBits)
  | .gaddi o => some (1627389952 + o.toBits)
  | .gandi o => some (1629487104 + o.toBits)
  | .gori o => some (1631584256 + o.toBits)
  | .gxori o => some (1633681408 + o.toBits)
  | .gshli o => some (1635778560 + o.toBits)
  | .gshri o => some (1637875712 + o.toBits)
  | .gsari o => some (1639972864 + o.toBits)
  | .gslti o => some (1642070016 + o.toBits)
  | .gmovi o => some (1644167168 + o.toBits)
  | .gmovk o => some (1660944384 + o.toBits)
  | .gld o => some (1677721600 + o.toBits)
  | .gst o => some (1694498816 + o.toBits)
  | .gldq o => some (1711276032 + o.toBits)
  | .gldqv o => some (1728053248 + o.toBits)
  | .gqpush o => some (1744830464 + o.toBits)
  | .gqpop o => some (1746927616 + o.toBits)
  | .gqtry o => some (1749024768 + o.toBits)
  | .gqclose o => some (1751121920 + o.toBits)
  | .gqstat o => some (1753219072 + o.toBits)
  | .gbeqz o => some (1761607680 + o.toBits)
  | .gbnez o => some (1763704832 + o.toBits)
  | .gbltz o => some (1765801984 + o.toBits)
  | .gbgez o => some (1767899136 + o.toBits)
  | .gbgtz o => some (1769996288 + o.toBits)
  | .gblez o => some (1772093440 + o.toBits)
  | .gjmp o => some (1778384896 + o.toBits)
  | .gcall o => some (1782579200 + o.toBits)
  | .gret o => some (1786773504 + o.toBits)
  | .gexit o => some (1790967808 + o.toBits)
  | .cstart o => some (1795162112 + o.toBits)
  | .cwait o => some (1799356416 + o.toBits)
  | .cquery o => some (1803550720 + o.toBits)
  | .rfree o => some (1811939328 + o.toBits)
  | .rarm o => some (1816133632 + o.toBits)
  | .rpeek o => some (1820327936 + o.toBits)
  | .gfence o => some (1828716544 + o.toBits)
  | .garrive o => some (1832910848 + o.toBits)
  | .gmwait o => some (1837105152 + o.toBits)
  | .gatom o => some (1845493760 + o.toBits)
  | .gtrap o => some (1864368128 + o.toBits)
  | .gsread o => some (1866465280 + o.toBits)
  | .gwaitc o => some (1868562432 + o.toBits)
  | .gyield o => some (1870659584 + o.toBits)
  | .uiret => some 3355770880
  | .ret => some 3510632448
  | .exit => some 3514826752
  | .gnop => some 1862270976
  | .arbitration => none
  | .lookoutDiversion => none
  | .xacqGrant => none
  | .crewAdmission => none
  | .blockPlacement => none
  | .taskSteal => none
  | .eviction => none
  | .crewRestore => none
  | .ldCompletion => none
  | .stAcknowledgement => none
  | .atomCompletion => none
  | .gldCompletion => none
  | .queueEntryFill => none
  | .copyElementReach => none
  | .copyArrival => none
  | .copyCompletion => none
  | .gatherCompletion => none
  | .creduceRetirement => none
  | .merge => none
  | .matrixCompletion => none
  | .matrixFault => none
  | .mclrCompletion => none
  | .readoutCompletion => none
  | .mwaitObserve => none
  | .thresholdWindow => none
  | .thresholdSumClear => none
  | .governorWindow => none
  | .notifyWrite => none
  | .launch => none
  | .waitEvent => none
  | .signal => none
  | .uipostPacket => none
  | .peerPost => none
  | .cheadWrite => none
  | .qctlWrite => none
  | .remapTimer => none
  | .ctxctlCreate => none
  | .ctxctlDestroy => none
  | .ctxctlReserved => none
  | .invctlPages => none
  | .invctlContext => none
  | .invctlFunction => none
  | .invalidationDone => none
  | .renew => none
  | .claim => none
  | .leaseExpiry => none
  | .pxdoneWrite => none
  | .dbgctlHalt => none
  | .dbgctlResume => none
  | .snaptrig => none
  | .snapclr => none
  | .snapshotLatch => none
  | .teldataRead => none
  | .registerWrite => none
  | .create => none
  | .destroy => none
  | .grow => none
  | .shrink => none
  | .compact => none
  | .setShare => none
  | .setCaps => none
  | .errlogRead => none
  | .droplogRead => none
  | .snapRead => none
  | .snapClear => none
  | .shapeRead => none
  | .fwLoad => none
  | .mailboxUnknown => none
  | .tileFailing => none
  | .coreReplaced => none
  | .channelDropped => none
  | .droopTrip => none
  | .clockStepUp => none
  | .characterisationComplete => none
  | .scrubComplete => none
  | .reset => none
  | .atsTranslationCompletion => none
  | .prgResponse => none
  | .atsInvalidateRequest => none
  | .vfReset => none
  | .lockInterfaceRequest => none
  | .getVersion => none
  | .getCapabilities => none
  | .negotiateAlgorithms => none
  | .getDigests => none
  | .getCertificate => none
  | .challenge => none
  | .getMeasurements => none
  | .keyExchange => none
  | .finish => none
  | .heartbeat => none
  | .keyUpdate => none
  | .endSession => none
  | .vendorDefined => none
  | .unsupportedRequest => none
  | .ideStreamViolation => none
  | .memAlloc => none
  | .memFree => none
  | .memMap => none
  | .memUnmap => none
  | .memProtect => none
  | .memQuery => none
  | .capMint => none
  | .capRevoke => none
  | .pinHost => none
  | .unpinHost => none
  | .gridLaunch => none
  | .gridQuery => none
  | .gridCancel => none
  | .eventCreate => none
  | .eventSignal => none
  | .eventWait => none
  | .queueInfo => none
  | .detRecordFetch => none
  | .uiVectorSet => none
  | .uiPermit => none
  | .uiRevoke => none
  | .uiRoute => none
  | .uiQuery => none
  | .uiPostRemote => none
  | .fileOpen => none
  | .fileRead => none
  | .fileWrite => none
  | .fileClose => none
  | .fileStat => none
  | .fileSeek => none
  | .dirList => none
  | .fileSync => none
  | .netConnect => none
  | .netAccept => none
  | .netSend => none
  | .netRecv => none
  | .netPoll => none
  | .netClose => none
  | .logWrite => none
  | .counterRead => none
  | .attestQuote => none
  | .reportFetch => none
  | .clockInfo => none
  | .random => none
  | .dbgHaltSelf => none
  | .dbgNotify => none
  | .ctxYield => none
  | .ctxExit => none
  | .powerLoss => none
  | .thermalMonitorTrip => none
  | .powerEnvelope => none
  | .coolantOutOfRange => none
  | .linkRetrain => none
  | .hostAccess => none
  | .peerAccess => none
  | .peerModuleUnreachable => none
  | .msixVectorUnmask => none
  | .priEnable => none
  | .hostResume => none

end Sys2Proof
end

