-- ==== Sys2Proof/Config.lean ====
section
/-! DEFINITION. The free values: what the spec leaves open and an Olunel fills in. None has a body, so nothing can be
proved of its value; each is applied to the counter of free values that State holds (log 2). -/

namespace Sys2Proof

/-- Which of n candidates moves next (R256, R273; log 2): read modulo the number of candidates. -/
opaque Config.pick : Nat → Nat
/-- How far a counter of cycles or ticks has run between two samples (R6, R28; log 11). -/
opaque Config.elapsed : Nat → BitVec 64
/-- Random bytes (R372 RANDOM; log 12). -/
opaque Config.randomByte : Nat → BitVec 8
/-- A byte of a signature, a certificate, a key share or another cryptographic value whose secret is not in the spec (R404, R409, R411; log 12). -/
opaque Config.secretByte : Nat → Nat → BitVec 8
/-- The code of an element format that a CLAMP writes when the format has no value inside the bound (R54; log 14): of the
format and the bound. -/
opaque Config.noInside : Nat → Nat → Nat
/-- The value of a telemetry item or counter (R372, R413; log 15): of its number and a fresh index. -/
opaque Config.telemetry : Nat → Nat → BitVec 64
/-- The item group of the allow-list that a telemetry item or counter belongs to (R413; log 15): read modulo 64. -/
opaque Config.itemGroup : Nat → Nat
/-- The bytes of a record whose layout the spec does not give: a configuration record (R408), an image that the part was made
with (R405, R406; log 16). -/
opaque Config.record : Nat → List (BitVec 8)
/-- The matrix budget that base camp sets from a partition's current limit (R295; log 22): read modulo 257. -/
opaque Config.budget : Nat → Nat
/-- What a lane whose thread has exited gives to another that reads its vector register: of a fresh index, and of the register and lane
as 32 n + lane (R136; log 46). -/
opaque Config.goneReg : Nat → Nat → BitVec 32
/-- Whether memory traffic of a partition, by its tiles and its pseudo-channels, crosses a port of a tile outside it (R382; log 23). -/
opaque Config.crosses : List Nat → List Nat → Nat → Nat → Bool
/-- The bytes of scratchpad that hold the shadows of one warp's and its crew's register state (R397; log 32). -/
opaque Config.shadowState : Nat
/-- Where an allocation lands in the virtual address space, in units of its page size (R372; log 13). -/
opaque Config.allocPage : Nat → Nat

end Sys2Proof
end

