-- ==== Sys2Proof/Machine/Flt.lean ====
section
/-! DEFINITION. The element formats of R30 to R39, rounding and flags (R41, R42), narrowing (R44), and exact
arithmetic on them: every result is the exact value rounded once (R40). -/

namespace Sys2Proof.Machine

/-- AFL bits (R24). -/
def flNV : Afl := 0x01#8
def flDZ : Afl := 0x02#8
def flOF : Afl := 0x04#8
def flUF : Afl := 0x08#8
def flNX : Afl := 0x10#8
def flBND : Afl := 0x20#8
def flDSS : Afl := 0x40#8
def flACR : Afl := 0x80#8
def flNone : Afl := 0#8

/-- The rounding modes of R41, in the order of their codes. -/
inductive Rnd where
  | rne | rtz | rdn | rup
deriving DecidableEq, Repr, Inhabited

/-- The rounding mode of a 2-bit code (R41). -/
def Rnd.ofCode (c : Nat) : Rnd :=
  if c = 0 then .rne else if c = 1 then .rtz else if c = 2 then .rdn else .rup

/-- A floating-point layout (R32). -/
structure FFmt where
  /-- exponent bits -/
  ebits : Nat
  /-- mantissa bits -/
  mbits : Nat
  bias : Nat
  /-- E4M3 has no infinities, and its all-ones codes alone are NaN -/
  ieee : Bool
  /-- the default NaN -/
  qnan : Nat
deriving DecidableEq, Repr

def fp32 : FFmt := ⟨8, 23, 127, true, 0x7FC00000⟩
def bf16 : FFmt := ⟨8, 7, 127, true, 0x7FC0⟩
def fp16 : FFmt := ⟨5, 10, 15, true, 0x7E00⟩
def e5m2 : FFmt := ⟨5, 2, 15, true, 0x7E⟩
def e4m3 : FFmt := ⟨4, 3, 7, false, 0x7F⟩

/-- The weight of the sign bit of a format. -/
def FFmt.signW (f : FFmt) : Nat := 2 ^ (f.ebits + f.mbits)

/-- The magnitude code above which no finite value lies: infinity, or E4M3's NaN (R32). -/
def FFmt.topCode (f : FFmt) : Nat :=
  if f.ieee then (2 ^ f.ebits - 1) * 2 ^ f.mbits else 2 ^ (f.ebits + f.mbits) - 1

/-- What a code stands for: a NaN, an infinity, or (-1)^neg * m * 2^e with m = 0 a signed zero (R32). -/
inductive FVal where
  | nan (signalling : Bool)
  | inf (neg : Bool)
  | fin (neg : Bool) (m : Nat) (e : Int)
deriving DecidableEq, Repr

/-- The value of code x (R32). -/
def FFmt.unpack (f : FFmt) (x : Nat) : FVal :=
  let neg := x / f.signW % 2 == 1
  let c := x % f.signW
  let ex := c / 2 ^ f.mbits
  let m := c % 2 ^ f.mbits
  if f.ieee && ex == 2 ^ f.ebits - 1 then
    if m = 0 then .inf neg else .nan (m < 2 ^ (f.mbits - 1))
  else if !f.ieee && c == f.topCode then .nan false
  else if ex = 0 then .fin neg m (1 - (f.bias : Int) - f.mbits)
  else .fin neg (m + 2 ^ f.mbits) ((ex : Int) - f.bias - f.mbits)

/-- The sign bit placed for format f. -/
def FFmt.sgn (f : FFmt) (neg : Bool) : Nat := if neg then f.signW else 0

/-- Whether rounding away from zero is due for a quotient n with remainder r of divisor d (R41). -/
def roundUpQ (rm : Rnd) (neg : Bool) (n r d : Nat) : Bool :=
  match rm with
  | .rne => decide (d < 2 * r) || (decide (2 * r = d) && n % 2 == 1)
  | .rtz => false
  | .rdn => neg && decide (0 < r)
  | .rup => !neg && decide (0 < r)

/-- The integer nearest m / 2^k under a mode, for a magnitude m of sign neg, and whether it is inexact. -/
def roundShift (rm : Rnd) (neg : Bool) (m k : Nat) : Nat × Bool :=
  let n := m / 2 ^ k
  let r := m % 2 ^ k
  (if roundUpQ rm neg n r (2 ^ k) then n + 1 else n, decide (r ≠ 0))

/-- m * 2^e rounded to a multiple of 2^q, as a count of 2^q, and whether it is inexact. -/
def roundTo (rm : Rnd) (neg : Bool) (m : Nat) (e q : Int) : Nat × Bool :=
  if q ≤ e then (m * 2 ^ (e - q).toNat, false) else roundShift rm neg m (q - e).toNat

/-- The overflow result of a mode (R41): infinity, or the largest finite code. -/
def FFmt.overflow (f : FFmt) (rm : Rnd) (neg : Bool) : Nat :=
  let toInf := match rm with
    | .rne => true
    | .rtz => false
    | .rdn => neg
    | .rup => !neg
  f.sgn neg + (if toInf then f.topCode else f.topCode - 1)

/-- What an overflow gives: the IEEE result of the mode, or the fates of R44. -/
inductive OvMode where
  | ieee | saturate | nan
deriving DecidableEq, Repr

/-- The magnitude m * 2^e, with a further part strictly between 0 and 1 unit of m when sticky, rounded once to
format f: the code and the flags (R41, R44). A sticky m must have more bits than the format keeps. -/
def FFmt.roundMag (f : FFmt) (ov : OvMode) (rm : Rnd) (neg : Bool) (m : Nat) (e : Int) (sticky : Bool) :
    Nat × Afl :=
  let m := 4 * m + (if sticky then 1 else 0)
  let e := e - 2
  if m = 0 then (f.sgn neg, flNone) else
  let top : Int := (Nat.log2 m : Int) + e
  let qmin : Int := 1 - (f.bias : Int) - f.mbits
  let qFree : Int := top - f.mbits
  let q := max qFree qmin
  let (n, nx) := roundTo rm neg m e q
  let (nFree, _) := roundTo rm neg m e qFree
  -- tininess after rounding: the value rounded with an unbounded exponent lies below 2^(1-bias)
  let tiny := qFree < qmin ∧
    ¬ (qFree = qmin - 1 ∧ nFree = 2 ^ (f.mbits + 1))
  let code := (q - qmin).toNat * 2 ^ f.mbits + n
  let fl := (if nx then flNX else flNone) ||| (if nx ∧ tiny then flUF else flNone)
  if code < f.topCode then (f.sgn neg + code, fl)
  else
    match ov with
    | .ieee => (f.overflow rm neg, flOF ||| flNX)
    | .saturate => (f.sgn neg + (f.topCode - 1), flOF ||| flNX)
    | .nan => (f.qnan, flOF ||| flNX)

/-- The exact quotient (num / den) * 2^e rounded once to format f; den is not 0 (R44). -/
def FFmt.roundQuot (f : FFmt) (ov : OvMode) (rm : Rnd) (neg : Bool) (num den : Nat) (e : Int) : Nat × Afl :=
  let k := f.mbits + 6 + Nat.log2 den
  f.roundMag ov rm neg (num * 2 ^ k / den) (e - k) (decide (num * 2 ^ k % den ≠ 0))

/-- The exact integer x * 2^e rounded once; a zero takes the sign zneg. -/
def FFmt.roundInt (f : FFmt) (rm : Rnd) (x : Int) (e : Int) (zneg : Bool) : Nat × Afl :=
  if x = 0 then (f.sgn zneg, flNone) else f.roundMag .ieee rm (decide (x < 0)) x.natAbs e false

/-- The default NaN with the flags given (R42). -/
def FFmt.nanOf (f : FFmt) (fl : Afl) : Nat × Afl := (f.qnan, fl)

/-- NV when either operand is a signalling NaN (R42). -/
def snanFlag : List FVal → Afl
  | [] => flNone
  | .nan true :: _ => flNV
  | _ :: vs => snanFlag vs

/-- Whether any value is a NaN. -/
def anyNan : List FVal → Bool
  | [] => false
  | .nan _ :: _ => true
  | _ :: vs => anyNan vs

/-- The signed integer of a magnitude. -/
def signed (neg : Bool) (m : Nat) : Int := if neg then -(m : Int) else m

/-- The exact sum of two finite values as an integer and its exponent. -/
def sumFin (na : Bool) (ma : Nat) (ea : Int) (nb : Bool) (mb : Nat) (eb : Int) : Int × Int :=
  let e := min ea eb
  (signed na ma * (2 ^ (ea - e).toNat : Nat) + signed nb mb * (2 ^ (eb - e).toNat : Nat), e)

/-- The sign of an exact zero sum of operands with signs na and nb, both zero when bothZero (R89). -/
def zeroSumNeg (rm : Rnd) (na nb : Bool) : Bool := if na = nb then na else decide (rm = .rdn)

/-- a + b with one rounding (R41, R42, R89). -/
def FFmt.add (f : FFmt) (rm : Rnd) (a b : Nat) : Nat × Afl :=
  match f.unpack a, f.unpack b with
  | .fin na ma ea, .fin nb mb eb =>
    let (x, e) := sumFin na ma ea nb mb eb
    f.roundInt rm x e (zeroSumNeg rm na nb)
  | .inf na, .inf nb => if na = nb then (f.sgn na + f.topCode, flNone) else f.nanOf flNV
  | .inf na, .fin _ _ _ => (f.sgn na + f.topCode, flNone)
  | .fin _ _ _, .inf nb => (f.sgn nb + f.topCode, flNone)
  | va, vb => f.nanOf (snanFlag [va, vb])

/-- The code with its sign bit changed (R42). -/
def FFmt.neg (f : FFmt) (a : Nat) : Nat := if a / f.signW % 2 = 1 then a - f.signW else a + f.signW

/-- The code with its sign bit cleared (R42). -/
def FFmt.abs (f : FFmt) (a : Nat) : Nat := a % f.signW

/-- a - b with one rounding; a NaN operand of b keeps its signalling bit when its sign changes. -/
def FFmt.sub (f : FFmt) (rm : Rnd) (a b : Nat) : Nat × Afl := f.add rm a (f.neg b)

/-- a * b with one rounding (R41, R42, R89). -/
def FFmt.mul (f : FFmt) (rm : Rnd) (a b : Nat) : Nat × Afl :=
  match f.unpack a, f.unpack b with
  | .fin na ma ea, .fin nb mb eb => f.roundMag .ieee rm (na != nb) (ma * mb) (ea + eb) false
  | .inf na, .inf nb => (f.sgn (na != nb) + f.topCode, flNone)
  | .inf na, .fin nb mb _ => if mb = 0 then f.nanOf flNV else (f.sgn (na != nb) + f.topCode, flNone)
  | .fin na ma _, .inf nb => if ma = 0 then f.nanOf flNV else (f.sgn (na != nb) + f.topCode, flNone)
  | va, vb => f.nanOf (snanFlag [va, vb])

/-- a * b + c with one rounding (R90); an invalid product is invalid whatever c is. -/
def FFmt.fma (f : FFmt) (rm : Rnd) (a b c : Nat) : Nat × Afl :=
  let vc := f.unpack c
  let addInf (n : Bool) : Nat × Afl :=
    match vc with
    | .fin _ _ _ => (f.sgn n + f.topCode, flNone)
    | .inf nc => if n = nc then (f.sgn n + f.topCode, flNone) else f.nanOf flNV
    | .nan s => f.nanOf (if s then flNV else flNone)
  match f.unpack a, f.unpack b with
  | .fin na ma ea, .fin nb mb eb =>
    match vc with
    | .fin nc mc ec =>
      let (x, e) := sumFin (na != nb) (ma * mb) (ea + eb) nc mc ec
      f.roundInt rm x e (zeroSumNeg rm (na != nb) nc)
    | .inf nc => (f.sgn nc + f.topCode, flNone)
    | .nan s => f.nanOf (if s then flNV else flNone)
  | .inf na, .inf nb => addInf (na != nb)
  | .inf na, .fin nb mb _ => if mb = 0 then f.nanOf flNV else addInf (na != nb)
  | .fin na ma _, .inf nb => if ma = 0 then f.nanOf flNV else addInf (na != nb)
  | va, vb => f.nanOf (snanFlag [va, vb, vc])

/-- Finite or infinite values in order: a strictly below b, with zeros equal. -/
def FVal.lt : FVal → FVal → Bool
  | .nan _, _ => false
  | _, .nan _ => false
  | .inf na, .inf nb => na && !nb
  | .inf na, .fin _ _ _ => na
  | .fin _ _ _, .inf nb => !nb
  | .fin na ma ea, .fin nb mb eb =>
    let e := min ea eb
    decide (signed na ma * (2 ^ (ea - e).toNat : Nat) < signed nb mb * (2 ^ (eb - e).toNat : Nat))

/-- Neither value below the other, and none a NaN: -0 equals +0 (R118). -/
def FVal.eq (a b : FVal) : Bool := !anyNan [a, b] && !a.lt b && !b.lt a

/-- The sign of a value. -/
def FVal.isNeg : FVal → Bool
  | .nan _ => false
  | .inf n => n
  | .fin n _ _ => n

/-- minimumNumber (R42, R91): the operand unchanged; -0 below +0. -/
def FFmt.minNum (f : FFmt) (a b : Nat) : Nat × Afl :=
  let va := f.unpack a
  let vb := f.unpack b
  let fl := snanFlag [va, vb]
  match anyNan [va], anyNan [vb] with
  | true, true => f.nanOf fl
  | true, false => (b, fl)
  | false, true => (a, fl)
  | false, false => if va.lt vb || (!vb.lt va && va.isNeg) then (a, fl) else (b, fl)

/-- maximumNumber (R42, R91): the operand unchanged; +0 above -0. -/
def FFmt.maxNum (f : FFmt) (a b : Nat) : Nat × Afl :=
  let va := f.unpack a
  let vb := f.unpack b
  let fl := snanFlag [va, vb]
  match anyNan [va], anyNan [vb] with
  | true, true => f.nanOf fl
  | true, false => (b, fl)
  | false, true => (a, fl)
  | false, false => if vb.lt va || (!va.lt vb && !va.isNeg) then (a, fl) else (b, fl)

/-- The exact code of a small integer in format f: the value of a short immediate (R68). -/
def FFmt.ofInt (f : FFmt) (x : Int) : Nat := (f.roundInt .rne x 0 false).1

/-- A value of format g written exactly in FP32, the default NaN for a NaN (R113). -/
def FVal.toFp32 : FVal → Nat × Afl
  | .nan s => fp32.nanOf (if s then flNV else flNone)
  | .inf n => (fp32.sgn n + fp32.topCode, flNone)
  | .fin n m e => fp32.roundMag .ieee .rne n m e false

/-! Integers and floating point (R111, R112). -/

/-- An integral value of x under mode rm, the flags being NV for a signalling NaN alone (R111). -/
def roundIntegral (rm : Rnd) (a : Nat) : Nat × Afl :=
  match fp32.unpack a with
  | .nan s => fp32.nanOf (if s then flNV else flNone)
  | .inf _ => (a, flNone)
  | .fin n m e => (fp32.roundMag .ieee .rne n (roundTo rm n m e 0).1 0 false |>.1, flNone)

/-- x rounded to an integer of the range lo to hi: NV and the nearest end outside it, NX when inexact (R112). -/
def fpToInt (rm : Rnd) (lo hi : Int) (a : Nat) : Int × Afl :=
  match fp32.unpack a with
  | .nan _ => (0, flNV)
  | .inf n => (if n then lo else hi, flNV)
  | .fin n m e =>
    let (k, nx) := roundTo rm n m e 0
    let x := signed n k
    if x < lo then (lo, flNV) else if hi < x then (hi, flNV)
    else (x, if nx then flNX else flNone)

/-! Dual-shift codes (R35 to R39). -/

/-- A term (-1)^s * 2^(-k) in units of 1/64, zero for k = 7 (R35). -/
def dsTerm (s k : Nat) : Int := if k = 7 then 0 else if s = 1 then -(2 ^ (6 - k) : Nat) else (2 ^ (6 - k) : Nat)

/-- The first term of a DS8 code in units of 1/64 (R35). -/
def ds8Term1 (c : Nat) : Int := dsTerm (bits c 7 7) (bits c 6 4)
/-- The second term of a DS8 code in units of 1/64 (R35). -/
def ds8Term2 (c : Nat) : Int := dsTerm (bits c 3 3) (bits c 2 0)
/-- The value of a DS8 code in units of 1/64 (R36). -/
def ds8Val (c : Nat) : Int := ds8Term1 c + ds8Term2 c
/-- The value of a DS4 code in units of 1/64 (R37). -/
def ds4Val (c : Nat) : Int := dsTerm (bits c 3 3) (bits c 2 0)

/-- The nibble whose one term is x, x in units of 1/64 and not 0 (R35, R37). -/
def dsNibble (x : Int) : Option Nat :=
  [0, 1, 2, 3, 4, 5, 6, 8, 9, 10, 11, 12, 13, 14].find? (fun c => dsTerm (c / 8) (c % 8) = x)

/-- The canonical DS8 code of a value in units of 1/64 (R38): one term when one can hold it, else two terms with
the larger first and, among those, the largest k1. -/
def ds8Code (x : Int) : Option Nat :=
  if x = 0 then some 0x77 else
  match dsNibble x with
  | some c => some (16 * c + 7)
  | none =>
    let s := b2n (decide (x < 0))
    [6, 5, 4, 3, 2, 1, 0].findSome? (fun k1 =>
      let t2 := x - dsTerm s k1
      if t2.natAbs ≤ (dsTerm s k1).natAbs then (dsNibble t2).map (fun c => 16 * (8 * s + k1) + c) else none)

/-- The canonical DS4 code of a value in units of 1/64 (R38). -/
def ds4Code (x : Int) : Option Nat := if x = 0 then some 7 else dsNibble x

/-- The greatest k at or below the start whose value the format has. -/
def dsBelow (code : Int → Option Nat) : Nat → Nat
  | 0 => 0
  | k + 1 => if (code (k + 1 : Nat)).isSome then k + 1 else dsBelow code k

/-- The least k above the start whose value the format has, within fuel steps. -/
def dsAbove (code : Int → Option Nat) : Nat → Nat → Option Nat
  | 0, _ => none
  | fuel + 1, k => if (code (k : Nat)).isSome then some k else dsAbove code fuel (k + 1)

/-- The magnitude in units of 1/64 nearest num / den that the format has, a tie going to the smaller (R39). -/
def nearestMag (code : Int → Option Nat) (top num den : Nat) : Nat :=
  let k := num / den
  let lo := dsBelow code (min k top)
  match dsAbove code (top - k) (k + 1) with
  | none => lo
  | some hi => if hi * den - num < num - lo * den then hi else lo

/-- R39: the quotient (num / den) * 2^e, with its sign, to a dual-shift code and its flags. -/
def dsConvert (code : Int → Option Nat) (top : Nat) (neg : Bool) (num den : Nat) (e : Int) : Nat × Afl :=
  let n64 := num * 2 ^ (e + 6).toNat
  let d64 := den * 2 ^ (-(e + 6)).toNat
  let k := nearestMag code top n64 d64
  let c := (code (signed neg k)).getD 0
  if 128 * d64 < n64 then (c, flDSS ||| flNX)
  else (c, if k * d64 = n64 then flNone else flNX)

/-! Element formats (R30). -/

/-- The nine element formats of R30. -/
inductive EFmt where
  | fp32 | bf16 | fp16 | e4m3 | e5m2 | i8 | n8 | ds8 | ds4
deriving DecidableEq, Repr, Inhabited

/-- The format of a 4-bit code; codes 9 to 15 are reserved (R30). -/
def EFmt.ofCode : Nat → Option EFmt
  | 0 => some .fp32 | 1 => some .bf16 | 2 => some .fp16 | 3 => some .e4m3 | 4 => some .e5m2
  | 5 => some .i8 | 6 => some .n8 | 7 => some .ds8 | 8 => some .ds4 | _ => none

/-- Bits of one element (R30). -/
def EFmt.bits : EFmt → Nat
  | .fp32 => 32 | .bf16 => 16 | .fp16 => 16 | .ds4 => 4 | _ => 8

/-- The floating-point layout of a format, if it is one. -/
def EFmt.flt : EFmt → Option FFmt
  | .fp32 => some Machine.fp32 | .bf16 => some Machine.bf16 | .fp16 => some Machine.fp16
  | .e4m3 => some Machine.e4m3 | .e5m2 => some Machine.e5m2 | _ => none

/-- The value of an element code (R32 to R37). -/
def EFmt.value (f : EFmt) (x : Nat) : FVal :=
  match f.flt with
  | some g => g.unpack x
  | none =>
    let v : Int × Int := match f with
      | .i8 => (sext 8 x, 0)
      | .ds8 => (ds8Val (x % 256), -6)
      | .ds4 => (ds4Val (x % 16), -6)
      | _ => ((x % 256 : Nat), 0)
    .fin (decide (v.1 < 0)) v.1.natAbs v.2

/-- A quotient of R44 before rounding: a NaN, an infinity, or (num / den) * 2^e with its sign. -/
inductive Quot where
  | nan
  | inf (neg : Bool)
  | fin (neg : Bool) (num den : Nat) (e : Int)
deriving DecidableEq, Repr

/-- x / s and the flags the division itself sets (R44, R115): DZ for a zero scale, NV for 0/0, infinity over
infinity, or a signalling NaN. -/
def quotient (x s : FVal) : Quot × Afl :=
  match x, s with
  | .nan _, _ => (.nan, snanFlag [x, s])
  | _, .nan _ => (.nan, snanFlag [x, s])
  | .inf n, .inf _ => let _ := n; (.nan, flNV)
  | .inf n, .fin ns _ _ => (.inf (n != ns), flNone)
  | .fin n _ _, .inf ns => (.fin (n != ns) 0 1 0, flNone)
  | .fin n m e, .fin ns ms es =>
    if ms = 0 then (if m = 0 then (.nan, flNV) else (.inf (n != ns), flDZ))
    else (.fin (n != ns) m ms (e - es), flNone)

/-- The quotient narrowed to a format by NRND and SATINF (R44, R39). A NaN quotient that a quiet NaN made sets no
further flag in a floating-point target. -/
def narrow (f : EFmt) (rm : Rnd) (sat : Bool) (q : Quot) : Nat × Afl :=
  match f with
  | .ds8 =>
    match q with
    | .nan => (0x77, flNV)
    | .inf n => ((ds8Code (signed n 128)).getD 0, flDSS ||| flNX)
    | .fin n num den e => dsConvert ds8Code 128 n num den e
  | .ds4 =>
    match q with
    | .nan => (0x7, flNV)
    | .inf n => ((ds4Code (signed n 64)).getD 0, flDSS ||| flNX)
    | .fin n num den e => dsConvert ds4Code 64 n num den e
  | .i8 => narrowInt (-128) 127 q
  | .n8 => narrowInt 0 255 q
  | .fp32 => narrowFlt Machine.fp32 q
  | .bf16 => narrowFlt Machine.bf16 q
  | .fp16 => narrowFlt Machine.fp16 q
  | .e5m2 => narrowFlt Machine.e5m2 q
  | .e4m3 =>
    match q with
    | .nan => (0x7F, flNone)
    | .inf n => (if sat then e4m3.sgn n + 0x7E else 0x7F, flOF ||| flNX)
    | .fin n num den e => Machine.e4m3.roundQuot (if sat then .saturate else .nan) rm n num den e
where
  narrowInt (lo hi : Int) (q : Quot) : Nat × Afl :=
    match q with
    | .nan => (0, flNV)
    | .inf n => (wrap 8 (if n then lo else hi), flOF)
    | .fin n num den e =>
      let d := den * 2 ^ (-e).toNat
      let m := num * 2 ^ e.toNat
      let k := m / d
      let x := signed n (if roundUpQ rm n k (m % d) d then k + 1 else k)
      if x < lo then (wrap 8 lo, flOF) else if hi < x then (wrap 8 hi, flOF)
      else (wrap 8 x, if m % d = 0 then flNone else flNX)
  narrowFlt (g : FFmt) (q : Quot) : Nat × Afl :=
    match q with
    | .nan => (g.qnan, flNone)
    | .inf n => (g.sgn n + g.topCode, flNone)
    | .fin n num den e => g.roundQuot (if sat then .saturate else .ieee) rm n num den e

/-! Scales (R46). -/

/-- The value of a scale entry: FP32, BF16 or E8 by SCFMT (R46). -/
def scaleValue (scfmt x : Nat) : FVal :=
  if scfmt = 0 then fp32.unpack x
  else if scfmt = 1 then bf16.unpack x
  else if x % 256 = 255 then .nan false
  else .fin false 1 ((x % 256 : Nat) - 127)

/-- The product of two values rounded once to format f (R116). -/
def FFmt.mulVal (f : FFmt) (rm : Rnd) (a b : FVal) : Nat × Afl :=
  match a, b with
  | .fin na ma ea, .fin nb mb eb => f.roundMag .ieee rm (na != nb) (ma * mb) (ea + eb) false
  | .inf na, .inf nb => (f.sgn (na != nb) + f.topCode, flNone)
  | .inf na, .fin nb mb _ => if mb = 0 then f.nanOf flNV else (f.sgn (na != nb) + f.topCode, flNone)
  | .fin na ma _, .inf nb => if ma = 0 then f.nanOf flNV else (f.sgn (na != nb) + f.topCode, flNone)
  | va, vb => f.nanOf (snanFlag [va, vb])

/-! The bound check (R54). -/

/-- Bound-table actions (R53). -/
inductive BoundAct where
  | off | flag | clamp | trap
deriving DecidableEq, Repr, Inhabited

/-- One bound-table entry (R53). -/
structure BoundEntry where
  lo : Nat := 0
  hi : Nat := 0
  action : Nat := 0
  eclass : Nat := 0
deriving DecidableEq, Repr, Inhabited

/-- Whether an entry is one that R53 rejects at the instruction that names it. -/
def BoundEntry.bad (e : BoundEntry) : Bool :=
  let lo := fp32.unpack e.lo
  let hi := fp32.unpack e.hi
  decide (3 < e.action) || decide (8 ≤ e.eclass) ||
    (e.action != 0 && (anyNan [lo, hi] || hi.lt lo))

/-- LO rounded up, or HI rounded down, into a format, by R54: a free code where the format has no value inside [LO, HI] (log 14). -/
def BoundEntry.clamp (e : BoundEntry) (g : FFmt) (up : Bool) : Nat :=
  let lo := fp32.unpack e.lo
  let hi := fp32.unpack e.hi
  let x := match (if up then lo else hi) with
    | .inf n => g.sgn n + g.topCode
    | .nan _ => g.qnan
    | .fin n m e => (g.roundMag .ieee (if up then .rup else .rdn) n m e false).1
  if (g.unpack x).lt lo || hi.lt (g.unpack x) then
    Config.noInside (g.ebits + g.mbits + 1 + b2n up) (if up then e.lo else e.hi) % 2 ^ (g.ebits + g.mbits + 1)
  else x

/-- The value v of format g checked against an entry (R54): the value written, the flags, whether it is an event
and whether the bound arm is set. -/
def BoundEntry.check (e : BoundEntry) (g : FFmt) (x : Nat) : Nat × Afl × Bool × Bool :=
  let v := g.unpack x
  let lo := fp32.unpack e.lo
  let hi := fp32.unpack e.hi
  let event := e.action != 0 && (v.lt lo || hi.lt v)
  if !event then (x, flNone, false, false)
  else
    (if e.action = 2 then e.clamp g (v.lt lo) else x, flBND, true, e.action == 3)

end Sys2Proof.Machine
end

