-- ==== Sys2Proof/Machine/SpFun.lean ====
section
/-! DEFINITION. The special functions of R43: each is the exact value rounded once to FP32. The transcendental ones
are evaluated in fixed point far beyond the precision of FP32 and then rounded once (log 10). -/

namespace Sys2Proof.Machine

/-- The fractional bits of the fixed-point evaluation. -/
def fxBits : Nat := 640

/-- floor(pi * 2^800). -/
def piFx : Nat := 0x3243f6a8885a308d313198a2e03707344a4093822299f31d0082efa98ec4e6c89452821e638d01377be5466cf34e90c6cc0ac29b7c97c50dd3f84d5b5b54709179216d5d98979fb1bd1310ba698dfb5ac2ffd72dbd01adfb7b8e1afed6a267e96ba7c9045

/-- floor(ln 2 * 2^800). -/
def ln2Fx : Nat := 0xb17217f7d1cf79abc9e3b39803f2f6af40f343267298b62d8a0d175b8baafa2be7b876206debac98559552fb4afa1b10ed2eae35c138214427573b291169b8253e96ca16224ae8c51acbda11317c387eb9ea9bc3b136603b256fa0ec7657f74b72ce87b1

/-- ln 2 with fxBits fractional bits. -/
def ln2Low : Nat := ln2Fx / 2 ^ (800 - fxBits)

/-- The integer square root of n, bit by bit from bit k - 1 down. -/
def isqrtFrom (n : Nat) : Nat → Nat → Nat
  | 0, r => r
  | k + 1, r => isqrtFrom n k (if (r + 2 ^ k) * (r + 2 ^ k) ≤ n then r + 2 ^ k else r)

/-- The integer square root of n. -/
def isqrt (n : Nat) : Nat := isqrtFrom n (Nat.log2 n / 2 + 1) 0

/-- The sum of y^k / k! from the term given on, in fixed point: e^y for the first term 1. -/
def expSum (y : Nat) : Nat → Nat → Nat → Nat
  | 0, _, _ => 0
  | fuel + 1, k, t => t + expSum y fuel (k + 1) (t * y / 2 ^ fxBits / (k + 1))

/-- e^y for a fixed-point y below 1. -/
def expFx (y : Nat) : Nat := expSum y 160 0 (2 ^ fxBits)

/-- The sum of z^k / k over odd k from the term given on: artanh z for the first power z and k = 1. -/
def artanhSum (z2 : Nat) : Nat → Nat → Nat → Nat
  | 0, _, _ => 0
  | fuel + 1, k, p => p / k + artanhSum z2 fuel (k + 2) (p * z2 / 2 ^ fxBits)

/-- artanh of num / den, at most 1/3, in fixed point. -/
def artanhFx (num den : Nat) : Nat :=
  let z := num * 2 ^ fxBits / den
  artanhSum (z * z / 2 ^ fxBits) 210 1 z

/-- The alternating sum that sine and cosine share: t - t r^2 / ((k+1)(k+2)) + .... -/
def trigSum (r2 : Nat) : Nat → Nat → Nat → Int
  | 0, _, _ => 0
  | fuel + 1, k, t => (t : Int) - trigSum r2 fuel (k + 2) (t * r2 / 2 ^ fxBits / ((k + 1) * (k + 2)))

/-- sin r for a fixed-point r below pi / 2. -/
def sinFx (r : Nat) : Int := trigSum (r * r / 2 ^ fxBits) 80 1 r

/-- cos r for a fixed-point r below pi / 2. -/
def cosFx (r : Nat) : Int := trigSum (r * r / 2 ^ fxBits) 80 0 (2 ^ fxBits)

/-- The quadrant of the magnitude m * 2^e and the rest below pi / 2, in fixed point (R43, exact reduction). -/
def reducePi (m : Nat) (e : Int) : Nat × Nat :=
  let x := m * 2 ^ (e + 800).toNat
  let n := 2 * x / piFx
  (n, (2 * x - n * piFx) / 2 / 2 ^ (800 - fxBits))

/-- A fixed-point value that is not exact, rounded to nearest even. -/
def roundFx (neg : Bool) (a : Nat) : Nat × Afl := fp32.roundMag .ieee .rne neg a (-(fxBits : Int)) true

/-- sin or cos of a value, by quadrant. -/
def sineLike (cosine neg : Bool) (m : Nat) (e : Int) : Nat × Afl :=
  let (n, r) := reducePi m e
  let k := (n + b2n cosine) % 4
  let v := if k % 2 = 0 then sinFx r else cosFx r
  roundFx ((2 ≤ k) != (!cosine && neg)) v.natAbs

/-- The function codes of R43. -/
inductive SpFun where
  | rcp | rsq | sqrt | exp2 | log2 | sin | cos | tanh
deriving DecidableEq, Repr

/-- FRCP of a finite nonzero value (R43). -/
def frcpFin (rm : Rnd) (n : Bool) (m : Nat) (e : Int) : Nat × Afl := fp32.roundQuot .ieee rm n 1 m (-e)

/-- FSQRT of a positive value (R43). -/
def fsqrtFin (rm : Rnd) (m : Nat) (e : Int) : Nat × Afl :=
  let m := if e % 2 = 0 then m else 2 * m
  let e := if e % 2 = 0 then e else e - 1
  let r := isqrt (m * 2 ^ 64)
  fp32.roundMag .ieee rm false r (e / 2 - 32) (decide (r * r ≠ m * 2 ^ 64))

/-- FRSQ of a positive value (R43). -/
def frsqFin (m : Nat) (e : Int) : Nat × Afl :=
  let m := if e % 2 = 0 then m else 2 * m
  let e := if e % 2 = 0 then e else e - 1
  let r := isqrt (2 ^ 128 / m)
  fp32.roundMag .ieee .rne false r (-(e / 2) - 64) (decide (r * r * m ≠ 2 ^ 128))

/-- FEXP2 of a finite nonzero value (R43): exact for an integer. -/
def fexp2Fin (n : Bool) (m : Nat) (e : Int) : Nat × Afl :=
  let x := signed n (m * 2 ^ (e + fxBits).toNat)
  let i := x / (2 ^ fxBits : Nat)
  let f := (x % (2 ^ fxBits : Nat)).toNat
  let i := max (-400) (min 400 i)
  if f = 0 then fp32.roundMag .ieee .rne false 1 i false
  else fp32.roundMag .ieee .rne false (expFx (f * ln2Low / 2 ^ fxBits)) (i - fxBits) true

/-- FLOG2 of a positive value (R43): exact for a power of two. -/
def flog2Fin (m : Nat) (e : Int) : Nat × Afl :=
  let l := Nat.log2 m
  let k : Int := e + l
  if m = 2 ^ l then fp32.roundInt .rne k 0 false
  else
    let v := k * (2 ^ fxBits : Nat) + (2 * artanhFx (m - 2 ^ l) (m + 2 ^ l) * 2 ^ fxBits / ln2Low : Nat)
    roundFx (decide (v < 0)) v.natAbs

/-- FTANH of a finite nonzero value (R43). -/
def ftanhFin (n : Bool) (m : Nat) (e : Int) : Nat × Afl :=
  let y := 2 * (m * 2 ^ (e + fxBits).toNat)
  if 2 ^ (fxBits + 7) ≤ y then roundFx n (2 ^ fxBits - 2 ^ (fxBits - 100))
  else
    let k := y / ln2Low
    let ey := expFx (y - k * ln2Low) * 2 ^ k
    roundFx n ((ey - 2 ^ fxBits) * 2 ^ fxBits / (ey + 2 ^ fxBits))

/-- The special functions with the special values of R43. -/
def spFun (g : SpFun) (rm : Rnd) (a : Nat) : Nat × Afl :=
  let pz := 0
  let one := fp32.ofInt 1
  let inf (n : Bool) := fp32.sgn n + fp32.topCode
  match fp32.unpack a with
  | .nan s => fp32.nanOf (if s then flNV else flNone)
  | .inf n =>
    match g with
    | .rcp => (fp32.sgn n, flNone)
    | .rsq => if n then fp32.nanOf flNV else (pz, flNone)
    | .sqrt | .log2 => if n then fp32.nanOf flNV else (inf false, flNone)
    | .exp2 => if n then (pz, flNone) else (inf false, flNone)
    | .sin | .cos => fp32.nanOf flNV
    | .tanh => (fp32.ofInt (if n then -1 else 1), flNone)
  | .fin n 0 _ =>
    match g with
    | .rcp | .rsq => (inf n, flDZ)
    | .sqrt | .sin | .tanh => (a, flNone)
    | .exp2 | .cos => (one, flNone)
    | .log2 => (inf true, flDZ)
  | .fin n m e =>
    match g with
    | .rcp => frcpFin rm n m e
    | .rsq => if n then fp32.nanOf flNV else frsqFin m e
    | .sqrt => if n then fp32.nanOf flNV else fsqrtFin rm m e
    | .exp2 => fexp2Fin n m e
    | .log2 => if n then fp32.nanOf flNV else flog2Fin m e
    | .sin => sineLike false n m e
    | .cos => sineLike true n m e
    | .tanh => ftanhFin n m e

end Sys2Proof.Machine
end

