-- ==== Sys2Proof/Machine/Elem.lean ====
section
/-! DEFINITION. What the vector instructions compute in one lane, as functions of the operand values and the HMOD
modifiers (R89 to R103, R109 to R119, R128): a result and the flags it raises. No state appears here. -/

namespace Sys2Proof.Machine

/-- The HMOD payload with every field zero: no modifier (R70). -/
def noMods : OpHmod := ⟨0, 0, 0, 0, 0, 0, 0, 0, 0, 0, 0, 0, 0⟩

/-- What an instruction accepts in HMOD (R70, R86, R108): the fields that may be nonzero. -/
structure Accept where
  rnd : Bool := false
  sat : Bool := false
  w64 : Bool := false
  n : Bool := false
  sz : Bool := false
  signA : Bool := false
  signB : Bool := false
  order : Bool := false
deriving DecidableEq, Repr, Inhabited

/-- Every nonzero field is accepted, no field holds a reserved code, and SCOPE is 000 without ORD (R70). -/
def Accept.allows (a : Accept) (m : OpHmod) : Bool :=
  (a.rnd || m.rnd == 0) && (a.sat || m.sat == 0) && (a.w64 || m.w64 == 0) && (a.n || m.n == 0) &&
  (a.sz || (m.sz == 0 && m.sgn == 0)) && (a.signA || (m.nega == 0 && m.absa == 0)) &&
  (a.signB || (m.negb == 0 && m.absb == 0)) && (a.order || (m.ord == 0 && m.scope == 0)) &&
  m.sz != 3 && decide (m.scope ≤ 4) && (m.ord != 0 || m.scope == 0)

/-- The restrictions R86 puts on accepted combinations of integer modifiers. -/
def intModsOk (m : OpHmod) : Bool :=
  (m.w64 == 0 || m.sz == 0) && (m.sz == 0 || m.n == 0) && (m.sgn == 0 || m.sz != 0) &&
  ((m.nega == 0 && m.absa == 0 && m.negb == 0 && m.absb == 0) || (m.n == 0 && (m.sz == 0 || m.sgn == 1)))

/-- The operand width in bits: 64 under W64, else 32 (R87). -/
def opWidth (m : OpHmod) : Nat := if m.w64 = 1 then 64 else 32

/-- A lane's result and the flags it raises. -/
abbrev LaneRes := Nat × Afl

/-- The operation of one lane: modifiers, a, b and the old destination. -/
abbrev LaneOp := OpHmod → Nat → Nat → Nat → LaneRes

/-- A result with no flag. -/
def pureRes (x : Nat) : LaneRes := (x, flNone)

/-! FP32 (R89 to R91). -/

/-- Absolute value and then negation of a floating operand (R42, R85). -/
def signMod (f : FFmt) (abs neg x : Nat) : Nat :=
  let x := if abs = 1 then f.abs x else x
  if neg = 1 then f.neg x else x

def fpA (m : OpHmod) (a : Nat) : Nat := signMod fp32 m.absa m.nega a
def fpB (m : OpHmod) (b : Nat) : Nat := signMod fp32 m.absb m.negb b

def opFadd : LaneOp := fun m a b _ => fp32.add (.ofCode m.rnd) (fpA m a) (fpB m b)
def opFsub : LaneOp := fun m a b _ => fp32.sub (.ofCode m.rnd) (fpA m a) (fpB m b)
def opFmul : LaneOp := fun m a b _ => fp32.mul (.ofCode m.rnd) (fpA m a) (fpB m b)
def opFfma : LaneOp := fun m a b d => fp32.fma (.ofCode m.rnd) (fpA m a) (fpB m b) d
def opFmin : LaneOp := fun m a b _ => fp32.minNum (fpA m a) (fpB m b)
def opFmax : LaneOp := fun m a b _ => fp32.maxNum (fpA m a) (fpB m b)

/-! Packed halves (R92, R93). -/

/-- Half h of a register. -/
def halfOf (x h : Nat) : Nat := x / 2 ^ (16 * h) % 65536

/-- An operation on both halves, its flags joined. -/
def packed (f : FFmt) (op : Rnd → Nat → Nat → Nat → LaneRes) : LaneOp := fun m a b d =>
  let one (h : Nat) : LaneRes :=
    op (.ofCode m.rnd) (signMod f m.absa m.nega (halfOf a h)) (signMod f m.absb m.negb (halfOf b h)) (halfOf d h)
  ((one 0).1 + 65536 * (one 1).1, (one 0).2 ||| (one 1).2)

def opHadd2 : LaneOp := packed fp16 (fun rm a b _ => fp16.add rm a b)
def opHmul2 : LaneOp := packed fp16 (fun rm a b _ => fp16.mul rm a b)
def opHfma2 : LaneOp := packed fp16 (fun rm a b d => fp16.fma rm a b d)
def opBadd2 : LaneOp := packed bf16 (fun rm a b _ => bf16.add rm a b)
def opBmul2 : LaneOp := packed bf16 (fun rm a b _ => bf16.mul rm a b)
def opBfma2 : LaneOp := packed bf16 (fun rm a b d => bf16.fma rm a b d)

/-! Integers (R94 to R98). -/

/-- The width of the integers of R94. -/
def intWidth (m : OpHmod) : Nat :=
  if m.w64 = 1 then 64 else if m.sz = 1 then 8 else if m.sz = 2 then 16 else 32

/-- Whether the type T of R94 is signed. -/
def intSigned (m : OpHmod) : Bool := if m.sz = 0 then m.n == 0 else m.sgn == 1

/-- An operand read as an integer of type T (R94, R98). -/
def readInt (m : OpHmod) (x : Nat) : Int :=
  if intSigned m then sext (intWidth m) x else (zext (intWidth m) x : Nat)

/-- Absolute value and negation, each wrapping at the width (R94). -/
def intMod (m : OpHmod) (abs neg : Nat) (x : Int) : Int :=
  let w := intWidth m
  let x := if abs = 1 then sext w (wrap w x.natAbs) else x
  if neg = 1 then sext w (wrap w (-x)) else x

def intA (m : OpHmod) (a : Nat) : Int := intMod m m.absa m.nega (readInt m a)
def intB (m : OpHmod) (b : Nat) : Int := intMod m m.absb m.negb (readInt m b)

/-- The least value of a signed or unsigned type of width w. -/
def tyLo (sgn : Bool) (w : Nat) : Int := if sgn then -(2 ^ (w - 1) : Nat) else 0
/-- The greatest value of a signed or unsigned type of width w. -/
def tyHi (sgn : Bool) (w : Nat) : Int := if sgn then (2 ^ (w - 1) : Nat) - 1 else (2 ^ w : Nat) - 1

/-- An exact result clamped under SAT, with OF when that changed it (R34). -/
def clampInt (sat : Bool) (sgn : Bool) (w : Nat) (x : Int) : Int × Afl :=
  if sat && decide (x < tyLo sgn w) then (tyLo sgn w, flOF)
  else if sat && decide (tyHi sgn w < x) then (tyHi sgn w, flOF)
  else (x, flNone)

/-- The written register: n bits, extended by SGN when n is below 32 (R94). -/
def writeInt (m : OpHmod) (x : Int) : Nat :=
  let w := intWidth m
  if w < 32 ∧ m.sgn = 1 then sextTo 32 w (wrap w x) else wrap w x

/-- The tail of R94: clamp and wrap. -/
def finishInt (m : OpHmod) (x : Int) : LaneRes :=
  let (y, fl) := clampInt (m.sat == 1) (intSigned m) (intWidth m) x
  (writeInt m y, fl)

def opIadd : LaneOp := fun m a b _ => finishInt m (intA m a + intB m b)
def opIsub : LaneOp := fun m a b _ => finishInt m (intA m a - intB m b)
def opImul : LaneOp := fun m a b _ => finishInt m (intA m a * intB m b)
def opImad : LaneOp := fun m a b d => finishInt m (intA m a * intB m b + readInt m d)
def opImin : LaneOp := fun m a b _ => finishInt m (min (intA m a) (intB m b))
def opImax : LaneOp := fun m a b _ => finishInt m (max (intA m a) (intB m b))
/-- R95: the high half of the full product, rounded toward minus infinity. -/
def opImulh : LaneOp := fun m a b _ =>
  pureRes (wrap (intWidth m) ((intA m a * intB m b) / (2 ^ intWidth m : Nat)))
/-- R96: the unsigned minimum. -/
def opIminn : LaneOp := fun m a b _ => pureRes (min (zext (opWidth m) a) (zext (opWidth m) b))
/-- R96: the unsigned maximum. -/
def opImaxn : LaneOp := fun m a b _ => pureRes (max (zext (opWidth m) a) (zext (opWidth m) b))

/-! Logic and shifts (R99, R100). -/

def opAnd : LaneOp := fun _ a b _ => pureRes (a &&& b)
def opOr : LaneOp := fun _ a b _ => pureRes (a ||| b)
def opXor : LaneOp := fun _ a b _ => pureRes (a ^^^ b)
/-- a and not b (R99). -/
def opAndn : LaneOp := fun m a b _ => pureRes (a &&& (b ^^^ (2 ^ opWidth m - 1)))
def shlW (w a c : Nat) : Nat := if c < w then a * 2 ^ c % 2 ^ w else 0
def shrW (w a c : Nat) : Nat := if c < w then a / 2 ^ c else 0
def sarW (w a c : Nat) : Nat :=
  if c < w then wrap w (sext w a / (2 ^ c : Nat)) else if sext w a < 0 then 2 ^ w - 1 else 0
def opShl : LaneOp := fun m a b _ => pureRes (shlW (opWidth m) a b)
def opShr : LaneOp := fun m a b _ => pureRes (shrW (opWidth m) a b)
def opSar : LaneOp := fun m a b _ => pureRes (sarW (opWidth m) a b)

/-! Funnel, byte selection and byte products (R101 to R103). -/

def opFunl : LaneOp := fun _ a b d =>
  pureRes ((a * 2 ^ 32 + d) * 2 ^ (b % 32) % 2 ^ 64 / 2 ^ 32)

/-- One result byte of PRMT for control byte c (R102). -/
def prmtByte (src c : Nat) : Nat :=
  let y := byteOf src (c % 8)
  let z := match c / 8 % 4 with
    | 0 => y
    | 1 => 0
    | 2 => 255
    | _ => if y / 128 = 1 then 255 else 0
  if c / 32 % 2 = 1 then reverseBits 8 z else z

def opPrmt : LaneOp := fun _ a b d =>
  pureRes (gatherBytes 4 (fun i => prmtByte (a + 2 ^ 32 * d) (byteOf b i)))

/-- R103: typed byte products summed into d. -/
def opDp4a : LaneOp := fun m a b d =>
  let aSigned := m.n == 0
  let bSigned := if m.sz = 1 then m.sgn == 1 else aSigned
  let ty (s : Bool) (x : Nat) : Int := if s then sext 8 x else (x : Nat)
  let p (i : Nat) : Int := ty aSigned (byteOf a i) * ty bSigned (byteOf b i)
  let s := p 0 + p 1 + p 2 + p 3
  let cSigned := aSigned || bSigned
  let c : Int := if cSigned then sext 32 d else (d : Nat)
  let (y, fl) := clampInt (m.sat == 1) cSigned 32 (c + s)
  (wrap 32 y, fl)

/-! Byte tools (R128). -/

def opBsubs : LaneOp := fun _ a b _ => pureRes (gatherBytes 4 (fun i => byteOf a i - byteOf b i))
def opBminu : LaneOp := fun _ a b _ => pureRes (gatherBytes 4 (fun i => min (byteOf a i) (byteOf b i)))

/-- Byte i of a translated through a 16-byte table by its low or high nibble (R129). -/
def lutBytes (high : Bool) (table : Nat → Nat) (a : Nat) : Nat :=
  gatherBytes 4 (fun i =>
    let x := byteOf a i
    table (if high then x / 16 else x % 16))

/-! One-operand functions (R109 to R113). The operand arrives as the second argument of a LaneOp. -/

/-- A unary function of the operand. -/
def unary (f : OpHmod → Nat → LaneRes) : LaneOp := fun m a _ _ => f m a

def opMov : LaneOp := unary fun _ a => pureRes a
def opNot : LaneOp := unary fun m a => pureRes (a ^^^ (2 ^ opWidth m - 1))
def opIneg : LaneOp := unary fun m a =>
  let (y, fl) := clampInt (m.sat == 1) true (opWidth m) (-(sext (opWidth m) a))
  (wrap (opWidth m) y, fl)
def opIabs : LaneOp := unary fun m a =>
  let (y, fl) := clampInt (m.sat == 1) true (opWidth m) ((sext (opWidth m) a).natAbs : Nat)
  (wrap (opWidth m) y, fl)
def opPopc : LaneOp := unary fun m a => pureRes (popCount (opWidth m) a)
def opClz : LaneOp := unary fun m a => pureRes (leadingZeros (opWidth m) a)
def opCtz : LaneOp := unary fun m a => pureRes (trailingZeros (opWidth m) a)
def opBrev : LaneOp := unary fun m a => pureRes (reverseBits (opWidth m) a)
def opSext8 : LaneOp := unary fun _ a => pureRes (sextTo 32 8 a)
def opSext16 : LaneOp := unary fun _ a => pureRes (sextTo 32 16 a)
def opBswap : LaneOp := unary fun m a =>
  pureRes (gatherBytes (opWidth m / 8) (fun i => byteOf a (opWidth m / 8 - 1 - i)))
def opFneg : LaneOp := unary fun _ a => pureRes (fp32.neg a)
def opFabs : LaneOp := unary fun _ a => pureRes (fp32.abs a)
/-- A special function of R43, its operand under ABSA and NEGA. -/
def special (g : SpFun) : LaneOp := unary fun m a => spFun g (.ofCode m.rnd) (fpA m a)
/-- Rounding to an integral value in a fixed mode (R111). -/
def integral (rm : Rnd) : LaneOp := unary fun m a => roundIntegral rm (fpA m a)
def opFrint : LaneOp := unary fun m a => roundIntegral (.ofCode m.rnd) (fpA m a)
def opCvtif : LaneOp := unary fun m a => fp32.roundInt (.ofCode m.rnd) (sext 32 a) 0 false
def opCvtnf : LaneOp := unary fun m a => fp32.roundInt (.ofCode m.rnd) (a : Nat) 0 false
def opCvtfi : LaneOp := unary fun m a =>
  let (x, fl) := fpToInt (.ofCode m.rnd) (tyLo true 32) (tyHi true 32) (fpA m a)
  (wrap 32 x, fl)
def opCvtfn : LaneOp := unary fun m a =>
  let (x, fl) := fpToInt (.ofCode m.rnd) 0 (tyHi false 32) (fpA m a)
  (wrap 32 x, fl)
/-- Half h widened to FP32 (R113). -/
def widenHalf (f : FFmt) (h : Nat) : LaneOp := unary fun _ a => (f.unpack (halfOf a h)).toFp32

/-! Compares (R118, R119). -/

/-- A comparison of ordered values by its CC code (R72). -/
def ccInt (cc : Nat) (x y : Int) : Bool :=
  match cc with
  | 0 => decide (x = y)
  | 1 => decide (x ≠ y)
  | 2 => decide (x < y)
  | 3 => decide (x ≤ y)
  | 4 => decide (x > y)
  | _ => decide (x ≥ y)

/-- FCMP (R118): the outcome and the flags. -/
def fcmpLane (cc : Nat) (m : OpHmod) (a b : Nat) : Bool × Afl :=
  let va := fp32.unpack (fpA m a)
  let vb := fp32.unpack (fpB m b)
  if anyNan [va, vb] then
    (cc == 1 || cc == 6, if 2 ≤ cc ∧ cc ≤ 5 then flNV else snanFlag [va, vb])
  else
    (match cc with
      | 0 => va.eq vb
      | 1 => !va.eq vb
      | 2 => va.lt vb
      | 3 => !vb.lt va
      | 4 => vb.lt va
      | 5 => !va.lt vb
      | 6 => false
      | _ => true, flNone)

/-- The class bits of an FP32 value (R72, R119). -/
def fclassBits (a : Nat) : Nat :=
  match fp32.unpack a with
  | .nan _ => 1
  | .inf n => if n then 2 else 32
  | .fin n m _ =>
    if m = 0 then 8
    else (if n then 4 else 16) + (if m < 2 ^ 23 then 64 else 0)

/-- The logic operations of PLOP on two predicate values, SET aside (R120). -/
def plopBit (lop : Nat) (x y : Bool) : Bool :=
  match lop with
  | 0 => x && y
  | 1 => x || y
  | 2 => x ^^ y
  | 3 => x && !y
  | 4 => x || !y
  | 5 => !(x && y)
  | _ => x

/-- The reductions of REDUX on two values (R124). -/
def reduxOp (op x y : Nat) : Nat :=
  match op with
  | 0 => (x + y) % 2 ^ 32
  | 1 => if sext 32 x ≤ sext 32 y then x else y
  | 2 => if sext 32 x ≤ sext 32 y then y else x
  | 3 => min x y
  | 4 => max x y
  | 5 => x &&& y
  | 6 => x ||| y
  | _ => x ^^^ y

/-- The lane SHFL names and whether it lies in the segment (R122): mode, offset, distance, width. -/
def shflTarget (md o k w : Nat) : Int × Bool :=
  match md with
  | 0 => ((k % w : Nat), true)
  | 1 => ((o : Int) - k, decide (k ≤ o))
  | 2 => ((o + k : Nat), decide (o + k < w))
  | _ => ((o ^^^ (k % w) : Nat), true)

end Sys2Proof.Machine
end

