-- ==== Sys2Proof/Machine/Homes.lean ====
section
/-! DEFINITION. Where things lie in the module: the grid of tiles with its corners and memory controllers (R1), and the homes of cluster
memory, of scratchpad and of partition physical addresses (R242, R244, R248). -/

namespace Sys2Proof.Machine

/-! ## The grid (R1) -/

/-- The row and the column of a tile. -/
def tileRow (t : Nat) : Nat := t / 8
def tileCol (t : Nat) : Nat := t % 8

/-- The corner tiles. -/
def corners : List Nat := [0, 7, 88, 95]

/-- The peer ports and the service units that a tile holds. -/
def peerPorts (t : Nat) : Nat := if corners.contains t then 6 else 0
def serviceUnits (t : Nat) : Nat := if corners.contains t then 2 else 0

/-- Whether a tile lies on the perimeter of the grid. -/
def onPerimeter (t : Nat) : Bool := t < 96 && (tileRow t == 0 || tileRow t == 11 || tileCol t == 0 || tileCol t == 7)

/-- Whether a tile holds a memory controller with its HBM stack. -/
def hasController (t : Nat) : Bool := onPerimeter t && !corners.contains t

/-- The tiles that hold memory controllers, in rising order. -/
def controllers : List Nat := (List.range 96).filter hasController

/-- The tile of a pseudo-channel's controller: each of the 32 stacks has 32 pseudo-channels, numbered on from tile to tile (R3;
log 17). -/
def controllerTile (chan : Nat) : Nat := controllers.getD (chan / 32) 0

/-- The tile at the other end of an edge port of a router: 0 north, 1 east, 2 south, 3 west, with row 0 in the north (R382; log 23). -/
def neighbour (t port : Nat) : Option Nat := match port with
  | 0 => if 8 ≤ t then some (t - 8) else none
  | 1 => if tileCol t < 7 then some (t + 1) else none
  | 2 => if tileRow t < 11 then some (t + 8) else none
  | 3 => if 0 < tileCol t then some (t - 1) else none
  | _ => none

/-! ## Homes -/

/-- The crew from whose core a cluster offset of a block of a span is exported, and the offset within the export (R242). -/
def clusterHome (span o : Nat) : Nat × Nat := (o / 4096 % span, o / 4096 / span * 4096 + o % 4096)

/-- The logical tile and the bank offset of an offset of a context's scratchpad share with a base, in a partition of some tiles (R244). -/
def scratchHome (tiles base o : Nat) : Nat × Nat :=
  let n := (base + o) / 65536
  (n % tiles, n / tiles * 65536 + (base + o) % 65536)

/-- The home of a partition physical address in a partition of some tiles, on an ACC page or another: the logical tile and the slice
within it (R248). -/
def homeSlice (tiles : Nat) (acc : Bool) (a : Nat) : Nat × Nat :=
  let g := a / (if acc then 16384 else 4096)
  let h := g ^^^ (g / 2 ^ 11) ^^^ (g / 2 ^ 22) ^^^ (g / 2 ^ 33)
  let s := h % (8 * tiles)
  (s / 8, s % 8)

end Sys2Proof.Machine
end

