-- ==== Sys2Proof/Machine/Store.lean ====
section
/-! DEFINITION. Finite maps kept as lists of (key, value) pairs in rising order, register files that list only nonzero
registers, and byte memories that list only bytes that differ from what an unlisted address reads as. -/

namespace Sys2Proof.Machine

/-- A finite map: pairs of a key and a value, keys strictly rising. -/
abbrev Assoc (α : Type) := List (Nat × α)

/-- The value at a key. -/
def Assoc.get? (m : Assoc α) (k : Nat) : Option α :=
  match m with
  | [] => none
  | (j, v) :: rest => if j = k then some v else Assoc.get? rest k

/-- The map with a key set to a value. -/
def Assoc.set (m : Assoc α) (k : Nat) (v : α) : Assoc α :=
  match m with
  | [] => [(k, v)]
  | (j, u) :: rest =>
    if j = k then (k, v) :: rest
    else if k < j then (k, v) :: (j, u) :: rest
    else (j, u) :: Assoc.set rest k v

/-- The map without a key. -/
def Assoc.erase (m : Assoc α) (k : Nat) : Assoc α := m.filter (fun p => p.1 != k)

/-- The map with the value at a key changed, if there is one. -/
def Assoc.modify (m : Assoc α) (k : Nat) (f : α → α) : Assoc α :=
  match Assoc.get? m k with
  | none => m
  | some v => Assoc.set m k (f v)

/-- Whether a key is there. -/
def Assoc.has (m : Assoc α) (k : Nat) : Bool := (Assoc.get? m k).isSome

/-- Keys strictly rising. -/
def Assoc.sorted : Assoc α → Bool
  | [] => true
  | [_] => true
  | p :: q :: rest => decide (p.1 < q.1) && Assoc.sorted (q :: rest)

/-- The least natural number above every key: a fresh key. -/
def Assoc.fresh (m : Assoc α) : Nat := m.foldl (fun n p => max n (p.1 + 1)) 0

/-! Register files: an unlisted register reads as zero, and no listed register is zero. -/

/-- Register k of a file of BitVec registers. -/
def rdReg {n : Nat} (m : Assoc (BitVec n)) (k : Nat) : BitVec n := (Assoc.get? m k).getD 0#n

/-- The file with register k written. -/
def wrReg {n : Nat} (m : Assoc (BitVec n)) (k : Nat) (v : BitVec n) : Assoc (BitVec n) :=
  if v = 0#n then Assoc.erase m k else Assoc.set m k v

/-- A file lists registers in rising order and none that is zero. -/
def regsWf {n : Nat} (m : Assoc (BitVec n)) : Bool := Assoc.sorted m && m.all (fun p => p.2 != 0#n)

/-! Memories. An unlisted byte reads as 0 (log 3). -/

/-- A byte memory: (address, byte) pairs in rising order, none of them zero. -/
abbrev Mem := List Host.Cell

/-- The byte at an address. -/
def Mem.byte (m : Mem) (a : Nat) : Byte := rdReg (n := 8) m a

/-- The memory with one byte written. -/
def Mem.setByte (m : Mem) (a : Nat) (b : Byte) : Mem := wrReg (n := 8) m a b

/-- The canonical form: addresses strictly rising, no entry equal to what an unlisted address reads as. -/
def Mem.wf (m : Mem) : Bool := regsWf (n := 8) m

/-- The n bytes from an address, as a number, the lowest address least significant (R4). -/
def Mem.read (m : Mem) : Nat → Nat → Nat
  | 0, _ => 0
  | n + 1, a => (Mem.byte m a).toNat + 256 * Mem.read m n (a + 1)

/-- The n bytes from an address. -/
def Mem.bytes (m : Mem) (n a : Nat) : List Byte := (List.range n).map (fun i => Mem.byte m (a + i))

/-- The memory with a list of bytes written from an address up. -/
def Mem.writeBytes (m : Mem) (a : Nat) : List Byte → Mem
  | [] => m
  | b :: bs => Mem.writeBytes (Mem.setByte m a b) (a + 1) bs

/-- The memory with the low n bytes of x written from an address up (R4). -/
def Mem.write (m : Mem) (n a x : Nat) : Mem := Mem.writeBytes m a (toBytes n x)

/-- The memory with n bytes from an address set to zero. -/
def Mem.zero (m : Mem) (a n : Nat) : Mem := m.filter (fun p => !(decide (a ≤ p.1) && decide (p.1 < a + n)))

/-! Sets of numbers, in rising order. -/

/-- A set of numbers with one more member. -/
def setInsert : List Nat → Nat → List Nat
  | [], k => [k]
  | j :: js, k => if j = k then j :: js else if k < j then k :: j :: js else j :: setInsert js k

/-- A set of numbers without a member. -/
def setErase (s : List Nat) (k : Nat) : List Nat := s.filter (fun j => j != k)

end Sys2Proof.Machine
end

