-- ==== Sys2Proof/Machine/State.lean ====
section
/-! DEFINITION. The state of the Olunel as plain data: everything the spec gives the machine, nested by owner (R8), the
ways a step can stop, and the state after reset. -/

namespace Sys2Proof.Machine

/-! ## What applies to a word, and why a party waits -/

/-- The hints that apply to the next word (R69, R70, R74). -/
structure Hints where
  himm : Option Nat := none
  himmx : Option Nat := none
  hmod : Option OpHmod := none
  hxb : Option OpHxb := none
  hadr : Option OpHadr := none
  hkeep : Option OpHkeep := none
  hpri : Option OpHpri := none
  /-- a hint set a reserved payload bit, or (address slice) two hints of one kind apply (R69, R74) -/
  bad : Bool := false
deriving DecidableEq, Repr, Inhabited

/-- What a batch or slice is held for; its waiting word issues again unless it is recorded here (R196, R227). -/
inductive Wait where
  /-- nothing recorded: the next word issues when it can -/
  | none
  /-- arrived at BAR (R179) -/
  | bar
  /-- arrived at BARN of a team (R180) -/
  | barn (team : Nat)
  /-- signed a convergence register (R175) -/
  | msign (cv : Nat)
  /-- the service call with this tag is in progress (R191) -/
  | svc (call : Nat)
  /-- queued for granules (R13, R147) -/
  | xacq
  /-- at a WAITC MX that has had the staged sums of the operations it covers merged (R290) -/
  | merged
  /-- waiting in UIWAIT (R188) -/
  | uiwait
  /-- woken from UIWAIT, whose word now issues again and is not diverted from (R188, R190, R237) -/
  | woken
  /-- watching a word in MWAIT or GMWAIT: address, expected value and width in bytes (R185, R338 MONREC) -/
  | monitor (va value width : Nat)
  /-- an ATS or PRI request is outstanding for the word (R347, R348) -/
  | page
  /-- what it waited for has come: the waiting word passes when it issues -/
  | pass
  /-- the operation it signed failed its checks: the waiting word takes this trap (R175) -/
  | due (code addr info0 : Nat)
  /-- standing at the return mark of a handler (R326) -/
  | mark
  /-- a follower that met a fault of its own behind an older long-latency word that failed; its B bit (R64) -/
  | behind (bd : Nat)
deriving DecidableEq, Repr, Inhabited

/-- A trap as a word raises it. -/
structure Trapping where
  code : Nat
  mask : Mask := 0
  addr : Nat := 0
  info0 : Nat := 0
  info1 : Nat := 0
  /-- an uncorrectable error in a register or in run state (R394, R399) -/
  reg : Bool := false
  /-- the poisoned granule consumed, by place key (R399) -/
  gran : Option Nat := none
  /-- the stopped matrix operation whose fault it is (R297) -/
  mop : Option Nat := none
deriving DecidableEq, Repr, Inhabited

/-- A trap as its record shows it (R325). -/
structure TrapRec where
  code : Nat := 0
  /-- the restart PC -/
  pc : Word := 0
  /-- the originating word's address -/
  origin : Word := 0
  /-- the per-lane fault mask -/
  mask : Mask := 0
  addr : DWord := 0
  info0 : Word := 0
  info1 : Word := 0
  nested : Bool := false
  /-- the lookahead skip count, and the redo mask with follower k at bit k - 1 (R64) -/
  skip : Nat := 0
  redo : Nat := 0
  /-- of a HOST stop: the AFL of each lane at the stop (R325, R329) -/
  afls : Assoc Afl := []
deriving DecidableEq, Repr, Inhabited

/-- The lookahead window of a long-latency word (R63): for groups of lanes, the followers still to come, and the
registers a follower is checked against. In an address slice lane 0 stands for the slice. -/
structure Window where
  /-- the operation whose completion the word after the last follower waits for -/
  op : Nat
  left : List (Mask × Nat)
  /-- vector, uniform or g, and predicate registers it writes -/
  vw : List Nat
  uw : List Nat
  pw : List Nat
  /-- vector and uniform or g registers it reads -/
  vr : List Nat
  ur : List Nat
deriving DecidableEq, Repr, Inhabited

/-- The classes of the counters (R25). -/
inductive OpClass where
  | ldg | stg | mx | gt | cl | at | cpy | gld | none
deriving DecidableEq, Repr, Inhabited

/-- Where one byte lies. -/
inductive Place where
  | pad (crew o : Nat)
  | lane (crew o : Nat)
  | clu (block o : Nat)
  | spad (k : Nat)
  | dev (a : Nat)
  | host (a : Nat)
  | peer (a : Nat)
deriving DecidableEq, Repr, Inhabited

/-- Where lanes stand: the next word, with the run guard and the hints that apply to it (R62). -/
structure Spot where
  pc : Word
  guard : Mask := allLanes
  hints : Hints := {}
  fresh : Bool := true
deriving DecidableEq, Repr, Inhabited

/-- What a group of lanes does after a long-latency word that executes again (R64): its followers in the order in which they
issued, each passed over or, from where it stood, executed again; then the continuation. -/
structure Pass where
  lanes : Mask
  steps : List (Option Spot)
  next : Spot
deriving DecidableEq, Repr, Inhabited

/-- A batch: the lanes of a warp that stand at one PC, and its place in a run (R7, R58 to R62, R227 to R231). -/
structure Batch where
  lanes : Mask
  pc : Word
  /-- the run guard (R60) -/
  guard : Mask := allLanes
  /-- the next word begins a run (R58) -/
  fresh : Bool := true
  hints : Hints := {}
  wait : Wait := .none
  /-- lost arbitrations since it last won (R230) -/
  losses : Nat := 0
  /-- the order of its promotion, if promoted (R230) -/
  promoted : Option Nat := none
  /-- an HPRI that has not acted: 1 defer, 2 hasten (R231) -/
  nudge : Nat := 0
  /-- its run holds a YIELD, whose loss comes after the run (R144) -/
  yields : Bool := false
  /-- a run of it that held a YIELD has ended: left out of the next arbitration it would win (R144) -/
  yielded : Bool := false
  /-- for a word that executes again after an exact trap of R64: what its groups of lanes pass over, and where they go on -/
  replay : List Pass := []
deriving DecidableEq, Repr, Inhabited

/-- What an outstanding operation does when it completes. -/
inductive OpData where
  /-- nothing but retire -/
  | none
  /-- write vector registers: lane, register, value (R157) -/
  | vregs (ws : List (Nat × Nat × Word))
  /-- write an address-slice register and, for a capability, its pair's tag (R202, R193) -/
  | greg (r : Nat) (x : DWord)
  /-- write a capability quad or pair and its tag (R193) -/
  | cap (r : Nat) (x : Nat) (tag : Bool)
  /-- old values and flags of an atomic (R163) -/
  | atom (ws : List (Nat × Nat × Word)) (flags : List (Nat × Afl))
  /-- a pop of queue q that has issued and waits for its entry: whether the entry leaves the queue, the first register written,
  whether it is a uniform pair, the lanes written and the lanes that issued it, its LA and the batch as it stood at the word (R166) -/
  | pop (q : Nat) (take : Bool) (dst : Nat) (uni : Bool) (active lanes : Mask) (la : Nat) (at_ : Batch)
  /-- the entries of a queue that this operation reserved get this value (R204) -/
  | fillUni (q : Nat) (x : DWord)
  | fillVec (q : Nat) (xs : List Word)
  /-- GATHER: element size, pad destination, and each lane with its source and ordinal (R172, R316) -/
  | gather (size dst : Nat) (src : List (Nat × Place × Nat))
  /-- CREDUCE: source, destination, count, operation, the lanes its flags go to, thread and ordinal (R173, R316) -/
  | creduce (src dst cnt opr : Nat) (lanes : Mask) (thread ord : Nat)
  /-- MCLR of the accumulator descriptor whose bytes these are, and its pages as translated at issue (R176) -/
  | mclr (desc : List Byte) (pages : List Place)
  /-- a matrix operation it signed (R175) -/
  | matrix (op : Nat)
  /-- the trap of a long-latency word that is taken once its issued followers have finished: the lanes it issued in, its LA, the
  batch as it stood at the word, and, in an address slice, the queue whose entry it has reserved (R64, R205) -/
  | late (lanes : Mask) (la : Nat) (at_ : Batch) (t : Trapping) (q : Option Nat)
deriving DecidableEq, Repr, Inhabited

/-- An outstanding operation of a warp or slice, in issue order (R25). -/
structure PendOp where
  id : Nat
  cls : OpClass
  done : Bool := false
  data : OpData := .none
deriving DecidableEq, Repr, Inhabited

/-- The handler save area of a warp (R325, R338 HSAVE). -/
structure HandlerSave where
  /-- s368 to s383 -/
  uregs : List Word
  /-- the capability tags of the quads as the handler was entered: those of quads 92 to 95 come back (R192, R326; log 26) -/
  tags : BitVec 96 := 0
  wb : Nat
  lnks : Assoc Word
  /-- the lanes that run the handler -/
  lanes : Mask
  /-- the restart state of R62 -/
  restart : Batch
  /-- the lookahead windows of those lanes (R63) -/
  windows : List Window := []
deriving DecidableEq, Repr, Inhabited

/-- A 32-bit word of a warp's register arrays, as R394 protects them: a vector register of a lane, a predicate, a uniform register,
the LNK or AFL of a lane, or the run state of a lane. -/
inductive Cell where
  | vreg (n lane : Nat) | pred (n : Nat) | ureg (n : Nat) | lnk (lane : Nat) | afl (lane : Nat) | run (lane : Nat)
deriving DecidableEq, Repr, Inhabited

/-- The state of one warp (R8, R338). -/
structure Warp where
  batches : List Batch := []
  /-- lanes whose thread has ended (R136) -/
  exited : Mask := 0
  /-- vector register n of lane L at key 32 n + L -/
  vregs : Assoc Word := []
  /-- predicate n, one bit per lane; p0 is not stored (R16) -/
  preds : Assoc Mask := []
  lnks : Assoc Word := []
  afls : Assoc Afl := []
  /-- bound arm of each lane (R54) -/
  arms : Mask := 0
  uregs : Assoc Word := []
  /-- tag of each uniform quad (R192) -/
  utags : BitVec 96 := 0
  /-- window base code as USWIN (R149) -/
  wb : Nat := 0
  /-- base count (R10) -/
  base : Nat := 64
  /-- granules held (R12) -/
  gran : Nat := 0
  /-- granules requested and not granted (R13) -/
  xpend : Option Nat := none
  ops : List PendOp := []
  windows : List Window := []
  /-- store ordinal of each lane (R316) -/
  ords : Assoc DWord := []
  hsave : Option HandlerSave := none
  /-- the diversion record (R190) -/
  divrec : Option Batch := none
  /-- the record of a HOST stop (R329) -/
  hostrec : Option TrapRec := none
  /-- the words of its arrays that hold an uncorrectable error (R394) -/
  bad : List Cell := []
  quad : Nat := 0
  /-- its threads have ended and its operations have retired (R136) -/
  ended : Bool := false
deriving DecidableEq, Repr, Inhabited

/-- The state of one copy (R213 to R215, R270 to R284). -/
structure Copy where
  tag : Nat
  /-- where the next element lies: in the pad, or in global memory -/
  elem : Nat
  elemGlobal : Bool := false
  /-- arrival-word offset in the form of R178 -/
  arrival : Option Nat := none
  predWord : Option Nat := none
  /-- the element being delivered and its skip decision (R273) -/
  snapshot : Option (List Byte) := none
  skip : Bool := false
  /-- bytes of the element delivered and counted: the counted prefix (R274) -/
  prefixLen : Nat := 0
  /-- source bytes after the prefix that the read of the last source word has brought, each with the poison of its word (R274, R395) -/
  ahead : List (Byte × Bool) := []
  /-- bytes written by the copy so far (R215) -/
  written : Nat := 0
  /-- destination words written by the copy so far (R316) -/
  words : Nat := 0
  /-- the destination word being written, with the mask and the bytes of it written so far (R316) -/
  partWord : Nat := 0
  partMask : Nat := 0
  partData : Nat := 0
  /-- the pending fault: code and element address (R214) -/
  fault : Option (Nat × Nat) := none
  /-- a word has taken the fault; the next that waits for the copy resumes it (R214) -/
  taken : Bool := false
  parked : Bool := false
  /-- completed and not yet retired (R25) -/
  done : Bool := false
deriving DecidableEq, Repr, Inhabited

/-- The handler save area of an address slice (R327). -/
structure SliceSave where
  /-- g48 to g63 -/
  gregs : List DWord
  tags : BitVec 32
  pc : Word
  hints : Hints
  replay : List Pass := []
  windows : List Window := []
deriving DecidableEq, Repr, Inhabited

/-- The state of one address slice (R21, R197, R221). -/
structure ASlice where
  /-- g1 to g63; g0 is not stored (R21) -/
  gregs : Assoc DWord := []
  /-- tag of each even pair (R192) -/
  gtags : BitVec 32 := 0
  pc : Word := 0
  hints : Hints := {}
  wait : Wait := .none
  ops : List PendOp := []
  windows : List Window := []
  /-- copy sequence number (R213) -/
  seqno : BitVec 16 := 0
  copies : List Copy := []
  ord : DWord := 0
  /-- the entries that trapped GLDQs and GLDQVs have reserved, oldest first: address, queue and operation (R205) -/
  resv : List (Nat × Nat × Nat) := []
  /-- what a word that executes again passes over (R64); lane 0 stands for the slice -/
  replay : List Pass := []
  hsave : Option SliceSave := none
  /-- the record of a HOST stop (R329) -/
  hostrec : Option TrapRec := none
  /-- the g registers that hold an uncorrectable error; 64 stands for the run state (R394) -/
  bad : List Nat := []
  /-- a GYIELD passes the next turn (R220) -/
  yielded : Bool := false
  ended : Bool := false
deriving DecidableEq, Repr, Inhabited

/-- One entry of a queue: present, or reserved by a load (R19, R204). -/
inductive QEntry where
  | uni (x : DWord)
  | vec (xs : List Word)
  | reserved (op : Nat)
  /-- poisoned by an uncorrectable error (R394) -/
  | bad
deriving DecidableEq, Repr, Inhabited

/-- A pop that has issued before its entry is present: its warp, its operation, and whether the entry leaves the queue (R166). -/
structure Claim where
  warp : Nat
  op : Nat
  take : Bool
deriving DecidableEq, Repr, Inhabited

/-- A queue port of a crew (R17 to R20). -/
structure Queue where
  /-- declared depth; 0 when the port is not declared -/
  depth : Nat := 0
  entries : List QEntry := []
  /-- pops that wait for their entries, in the order in which they issued (R19, R166) -/
  claims : List Claim := []
  closed : Bool := false
  /-- the producer's context was killed (R282) -/
  killed : Bool := false
  /-- the consumer has ended (R20) -/
  cend : Bool := false
deriving DecidableEq, Repr, Inhabited

/-- Where a crew is in its life (R222, R329, R334 to R336). -/
inductive CrewStatus where
  | waiting | resident | saving | saved | ended
deriving DecidableEq, Repr, Inhabited

/-- The state of one crew (R222 to R225, R337). -/
structure Crew where
  block : Nat
  /-- %crew -/
  idx : Nat := 0
  threads : Nat := 32
  level : Nat := 0
  status : CrewStatus := .waiting
  /-- physical core index, tile * 24 + core (R222) -/
  core : Nat := 0
  /-- its crew slot and address-processor context, 0 to 15, while it is on a core (R224, R234) -/
  slot : Nat := 0
  /-- order of first placement (R225, R334) -/
  placed : Nat := 0
  stamp : Nat := 0
  /-- why it was saved (R337 REASON) -/
  reason : Nat := 0
  /-- the core that holds its export to cluster memory, once it has been admitted (R239, R243) -/
  home : Option Nat := none
  /-- offset of its hamper in the context's pool, once it has been admitted (R337) -/
  hamper : Option Nat := none
  lastCore : Nat := 0
  carry : Bool := false
  /-- it waits to be restored after a halt until resumed (R419) -/
  halted : Bool := false
  queues : List Queue := []
  pad : Mem := []
  /-- lane slices: byte o of thread k at k * LANE + o (R240) -/
  lanes : Mem := []
  warps : List Warp := []
  aslice : ASlice := {}
deriving DecidableEq, Repr, Inhabited

/-- A convergence register (R22, R175). -/
structure Conv where
  gen : Word := 0
  signing : Bool := false
  expected : Nat := 0
  signed : Nat := 0
  /-- SET, s[k], s[k+1], s[k+2] of the first signer -/
  set : Nat := 0
  offA : Nat := 0
  offB : Nat := 0
  offD : Nat := 0
  /-- threads expected that have not left: lanes by crew * 32 + warp -/
  expect : Assoc Mask := []
  /-- threads that have signed: lanes by crew * 32 + warp -/
  who : Assoc Mask := []
deriving DecidableEq, Repr, Inhabited

/-- One episode of a barrier (R179, R180). -/
structure Barrier where
  episode : Nat := 0
  inProgress : Bool := false
  /-- expected threads, for a team (R180): lanes by crew * 32 + warp -/
  expected : Assoc Mask := []
  arrived : Assoc Mask := []
deriving DecidableEq, Repr, Inhabited

/-- The user-interrupt state of a block (R188 to R190, R339). -/
structure UserInt where
  pending : DWord := 0
  mask : DWord := 0
  payloads : Assoc Word := []
  /-- lookout crew and warp -/
  lookout : Option (Nat × Nat) := none
  /-- asynchronous handler entry -/
  async : Option Word := none
  wakeRaised : Bool := false
deriving DecidableEq, Repr, Inhabited

/-- A cairn of a block (R397 to R399): what a rollback restores. -/
structure Cairn where
  warps : List (List Warp) := []
  aslices : List ASlice := []
  pads : List Mem := []
  laneMems : List Mem := []
  queues : List (List Queue) := []
  teams : Assoc Mask := []
  bar : Barrier := {}
  barns : Assoc Barrier := []
  cluster : Mem := []
  digest : BitVec 128 := 0
deriving DecidableEq, Repr, Inhabited

/-- Resources of a core: crew slots, warps, bytes of base registers, lane slices and pad, and granules (R13, R224). -/
structure Needs where
  slots : Nat := 0
  warps : Nat := 0
  regs : Nat := 0
  lane : Nat := 0
  pad : Nat := 0
  gran : Nat := 0
deriving DecidableEq, Repr, Inhabited

/-- The state of one block, or of one forked task (R151, R222, R308). -/
structure Block where
  grid : Nat
  /-- linear block index (R308) -/
  lin : Nat := 0
  isTask : Bool := false
  taskix : Nat := 0
  /-- join word of a task (R151) -/
  joinw : Option Nat := none
  nosteal : Bool := false
  user : List Word := []
  args : Nat := 0
  /-- kernel images and shape of the block (R83, R151) -/
  kernel : Nat := 0
  span : Nat := 1
  crews : List Nat := []
  cluster : Mem := []
  cvs : Assoc Conv := []
  /-- members of team k: lanes by k * 512 + crew * 32 + warp (R181) -/
  teams : Assoc Mask := []
  bar : Barrier := {}
  barns : Assoc Barrier := []
  ui : UserInt := {}
  triggered : Bool := false
  /-- a batch of it has passed GRIDWAIT (R313) -/
  passedWait : Bool := false
  digest : BitVec 128 := 0
  ended : Bool := false
  admitted : Bool := false
  /-- while it waits for its group admission: what has been freed on each core of its set and is held for it (R222, R225) -/
  holds : Assoc Needs := []
  /-- an ended task whose join word is still to be decremented, once its page is translated (R153, R347) -/
  joinDue : Bool := false
  /-- bytes of partition scratchpad reserved for its shadows and its hold buffer, 0 where none are (R397) -/
  shadowSpace : Nat := 0
  cairn : Option Cairn := none
  /-- the interval since the cairn is closed: its global stores are held (R398) -/
  closedInterval : Bool := false
  /-- held bytes by device address, and the stores held so far (R398) -/
  held : Assoc Byte := []
  heldCount : Nat := 0
  /-- granules whose held bytes are a tagged capability (R255, R398) -/
  heldTags : List Nat := []
  /-- 64-byte granules with a shadow, by place key (R397) -/
  shadow : List Nat := []
  rollbacks : Nat := 0
  /-- a re-execution (R321, R322) -/
  replay : Bool := false
deriving DecidableEq, Repr, Inhabited

/-- A ring declaration of a kernel descriptor (R83). -/
structure RingDecl where
  hdr : Nat := 0
  data : Nat := 0
  awarr : Nat := 0
  slots : Nat := 0
  slotsz : Nat := 0
deriving DecidableEq, Repr, Inhabited

/-- A kernel as read at acceptance or FORK: images, entries, queues, rings and shape (R83, R84). -/
structure Kernel where
  cimg : List Word := []
  aimg : List Word := []
  centry : Nat := 0
  aentry : Nat := 0
  qdepth : List Nat := []
  rings : List RingDecl := []
  crew : Nat := 32
  span : Nat := 1
  regs : Nat := 64
  lane : Nat := 0
  pad : Nat := 0
  cluster : Nat := 0
deriving DecidableEq, Repr, Inhabited

/-- A live grid (R305 to R313). -/
structure Grid where
  /-- key of its context -/
  ctx : Nat
  /-- GRID of its record -/
  ident : Nat := 0
  /-- kernels read for it: key 0 its own, others for forked tasks by 1 + KIDX (R84) -/
  kernels : Assoc Kernel := []
  code : Nat := 0
  nbx : Nat := 1
  nby : Nat := 1
  nbz : Nat := 1
  kidx : Nat := 0
  temask : Afl := 0
  args : Nat := 0
  const : Nat := 0
  scale : Nat := 0
  scaleLen : Nat := 0
  bounds : List BoundEntry := []
  fslots : List Nat := []
  det : Nat := 0
  detrec : Nat := 0
  detkey0 : Nat := 0
  detkey1 : Nat := 0
  cairn : Bool := false
  nosteal : Bool := false
  disp : Nat := 0
  chand : Nat := 0
  ahand : Nat := 0
  /-- keys of the producer grids that were live at acceptance (R312) -/
  producers : List Nat := []
  level : Nat := 0
  /-- order of acceptance (R309) -/
  accepted : Nat := 0
  /-- reporting queue: function * 64 + queue (R358) -/
  queue : Nat := 0
  /-- the packet whose completion reports the grid: serial number, SEQ and PFLAGS (R355) -/
  packet : Option (Nat × Nat × Nat) := none
  /-- a service call that launched it -/
  byCall : Bool := false
  /-- next block to place -/
  nextBlock : Nat := 0
  blocksEnded : Nat := 0
  blocksTriggered : Nat := 0
  tasksLive : Nat := 0
  /-- the completion status, once the grid has ended (R307) -/
  status : Option Nat := none
  /-- digests of ended tasks: block, kind, task index, digest (R318) -/
  digests : List (Nat × Nat × Nat × BitVec 128) := []
  soft : Nat := 0
  /-- no further crew is admitted until mismatching tasks have run again (R321): the tasks waiting -/
  redo : List (Nat × Nat × Nat × BitVec 128) := []
  stopped : Bool := false
  /-- a producer ended without being triggered (R313) -/
  depFailed : Bool := false
deriving DecidableEq, Repr, Inhabited

/-! ## Contexts, cores, tiles -/

/-- An allocation of MEM_ALLOC or EVENT_CREATE (R372): its first virtual and partition physical address, pages, and attr. -/
structure Alloc where
  va : Nat
  base : Nat
  pages : Nat
  attr : Nat
deriving DecidableEq, Repr, Inhabited

/-- The state of one context (R340, R358, R361, R56, R400, R419, R420). -/
structure Context where
  s1root : Nat := 0
  pasid : Nat := 0
  prot : Bool := false
  spbase : Nat := 0
  splen : Nat := 0
  hpool : Nat := 0
  hplen : Nat := 0
  live : Bool := false
  exitcode : Word := 0
  /-- the 4 KiB interrupt block: VECTAB, PERMTAB, HELD and its counters (R361) -/
  intblk : Mem := []
  /-- threshold registers, key class (R56) -/
  thr : Assoc DWord := []
  thrSum : Assoc Word := []
  thrFire : BitVec 32 := 0
  /-- watchpoints: key 2 n + half (R420) -/
  watch : Assoc DWord := []
  halted : Bool := false
  /-- the record with which every party of the context is stopped, those that start later included (R321, R400) -/
  stop : Option TrapRec := none
  /-- service allocations by handle (R372) -/
  allocs : Assoc Alloc := []
deriving DecidableEq, Repr, Inhabited

/-- What a core's matrix unit works on: its staging buffer of one 128 × 192 piece (R3, R290). -/
structure Stage where
  /-- the operation and its piece -/
  op : Nat
  piece : Nat
  /-- the participating crew for which this core works on it -/
  crew : Nat
  /-- the first value of k not staged -/
  upto : Nat := 0
  /-- issues made for the next chunk (R295) -/
  issued : Nat := 0
  /-- staged 128-bit sums that are not 0: element (i, j) at key 768 i + j -/
  sums : Assoc (BitVec 128) := []
  /-- the staged elements that are poisoned (R394) -/
  bad : List Nat := []
deriving DecidableEq, Repr, Inhabited

/-- A waiting request for granules: crew, warp, leading lane, n (R13). -/
abbrev XacqReq := Nat × Nat × Nat × Nat

/-- The state of one core (R224, R225, R229, R234, R295, R314). -/
structure CoreSt where
  /-- block keys of deque tasks, head first -/
  deque : List Nat := []
  xacq : List XacqReq := []
  /-- next admission stamp (R225) -/
  stamps : Nat := 0
  /-- the batch each quadrant issues: crew, warp, leading lane (R227, R229) -/
  running : Assoc (Nat × Nat × Nat) := []
  /-- the warps of each quadrant's active set, most recent winner first: crew * 32 + warp (R233) -/
  active : Assoc (List Nat) := []
  promotions : Nat := 0
  /-- the context slot from which the address processor looks for its next turn (R234) -/
  pointer : Nat := 0
  /-- what its crews held when the machine last looked, while blocks wait for it as a group (R225) -/
  seen : Needs := {}
  /-- the quadrants whose warp slots an ended crew has freed, until the waiting crews have been admitted (R239) -/
  freed : List Nat := []
  clock : DWord := 0
  mxgov : Word := 0
  /-- PC of the last run started in each quadrant, and of the last slice word issued (R421) -/
  lastRun : Assoc Word := []
  lastSlice : Word := 0
  /-- issue budget of a 256-cycle window (R295) -/
  budget : Nat := 256
  /-- the piece that the matrix unit works on and its staging buffer (R290) -/
  stage : Option Stage := none
  /-- issues left in the window, its cycles beyond the budget, and whether the matrix unit held work when it last stopped (R295) -/
  issues : Nat := 0
  spare : Nat := 0
  mxBusy : Bool := false
deriving DecidableEq, Repr, Inhabited

/-- A cached HOST translation: context key, page, host frame, rights RD WR AT in bits 0 to 2 (R347); the untranslated host page that
the leaf yields (R349), and the level of that leaf (R342). -/
structure HostXlat where
  ctx : Nat
  page : Nat
  frame : Nat
  rights : Nat
  addr : Nat := 0
  lvl : Nat := 0
  /-- not cached: for those alone who waited when an invalidation covered its request (R378) -/
  only : Option (List Nat) := none
deriving DecidableEq, Repr, Inhabited

/-- An outstanding ATS or PRI request of a tile (R347, R348). -/
structure PageReq where
  tag : Nat
  ctx : Nat
  page : Nat
  need : Nat
  /-- the untranslated host page it names, and the level of its leaf (R347, R349) -/
  addr : Nat := 0
  lvl : Nat := 0
  /-- who waits for it (R378) -/
  waiters : List Nat := []
  /-- its page request waits for one of the function's 256 groups (R348) -/
  due : Bool := false
  /-- a page request, not a translation request -/
  pri : Bool := false
  /-- a page request for it has already succeeded once (R348) -/
  again : Bool := false
  /-- refused: who waits for it takes Host Page when the access is made again (R348, R378) -/
  refused : Bool := false
  /-- an invalidation has covered its page: its completion is not cached (R378) -/
  stale : Bool := false
deriving DecidableEq, Repr, Inhabited

/-- The state of one tile that running programs change (R28, R56, R346 to R349, R421). -/
structure TileSt where
  refc : DWord := 0
  hostXlats : List HostXlat := []
  reqs : List PageReq := []
  nextTag : Nat := 0
  /-- threshold events of the window: key context * 8 + class (R56) -/
  thrCount : Assoc Word := []
  /-- a snapshot is latched, and its image (R421) -/
  snapped : Bool := false
  snapImage : List Byte := []
  snapOrigin : Nat := 0
  snapLost : DWord := 0
  /-- packets that its router has dropped, as its snapshot shows them (R383, R421) -/
  drops : DWord := 0
deriving DecidableEq, Repr, Inhabited

/-! ## Matrix operations -/

/-- A piece of a matrix operation (R288): rows i0 to i1 - 1 and columns j0 to j1 - 1 of the result, on a crew's core. -/
structure Piece where
  crew : Nat
  i0 : Nat
  i1 : Nat
  j0 : Nat
  j1 : Nat
  /-- the first value of k not merged (R290, R297) -/
  k0 : Nat := 0
deriving DecidableEq, Repr, Inhabited

/-- A dispatched matrix operation, or a readout (R285 to R298). -/
structure MatrixOp where
  block : Nat
  /-- the records as read at issue -/
  shapeA : List Byte
  shapeB : List Byte
  desc : List Byte
  /-- the pages of its accumulator, as translated at issue (R285) -/
  pages : List Place := []
  readout : Bool := false
  /-- descriptor offset (R297) -/
  offD : Nat := 0
  /-- crew key, warp, operation number in the warp, signing lanes -/
  signers : List (Nat × Nat × Nat × Mask) := []
  /-- the crews whose cores participate, once the result has been cut among them (R288) -/
  cut : Bool := false
  parts : List Nat := []
  /-- the lowest signing thread of a readout and its store ordinal (R316) -/
  thread : Nat := 0
  ord : Nat := 0
  pieces : List Piece := []
  /-- elements with a skipped product already counted (R287) -/
  skipped : List Nat := []
  flags : Afl := 0
  armed : Bool := false
  /-- the fault it is stopped with: code and address (R297) -/
  fault : Option (Nat × Nat) := none
  /-- signing warps that have taken the fault, each with the PC and the lanes of the trapped word (R297) -/
  taken : List (Nat × Nat × Word × Mask) := []
deriving DecidableEq, Repr, Inhabited

/-! ## The host's side of a function -/

/-- A queue interface (R351 to R360). -/
structure QueueIf where
  en : Bool := false
  qlog : Nat := 0
  clog : Nat := 0
  pri : Nat := 0
  refused : Word := 0
  held : Bool := false
  cfgerr : Bool := false
  rfault : Bool := false
  tailbad : Bool := false
  qbase : DWord := 0
  cbase : DWord := 0
  qpasid : Word := 0
  qhead : Word := 0
  chead : Word := 0
  ctail : Word := 0
  /-- the tail last announced (R352) -/
  tail : Nat := 0
  /-- the phase bit of the next completion (R355) -/
  phase : Bool := true
  /-- packets read so far: the serial number of the next (R352) -/
  reads : Nat := 0
  /-- packets accepted and not completed, by serial number (R354) -/
  outstanding : List Nat := []
  /-- the accepted WAIT_EVENT that holds intake: serial number, context and bytes (R353, R354) -/
  waiting : Option (Nat × Nat × List Byte) := none
  /-- accepted SIGNAL packets that wait for earlier ones: serial number, context and bytes (R353, R354) -/
  signals : List (Nat × Nat × List Byte) := []
  /-- completions not yet written: SEQ, STATUS, TYPE, PFLAGS, DETAIL (R355, R360) -/
  completions : List (Nat × Nat × Nat × Nat × Nat) := []
  /-- remap entries by cause, and pending event counts (R356, R357) -/
  remap : Assoc Word := []
  pendings : Assoc Word := []
  /-- causes raised while the queue is held, in order (R360) -/
  heldCauses : List Nat := []
  /-- the host denies the translation of the completion ring (R351) -/
  ringDenied : Bool := false
deriving DecidableEq, Repr, Inhabited

/-- The registers of one function (R341, R342, R351, R358, R374, R413, R419). -/
structure Func where
  ctxbase : DWord := 0
  ctxctl : Word := 0
  invva : DWord := 0
  invctl : Word := 0
  stoppend : DWord := 0
  pxbase : DWord := 0
  pxctl : Word := 0
  telsel : Word := 0
  teldata : DWord := 0
  telstat : Word := 0
  /-- TELALLOW of the VF's partition (R413) -/
  telallow : DWord := 0
  dbgctl : Word := 0
  dbgsel : DWord := 0
  queues : Assoc QueueIf := []
  /-- MSI-X tables, vector n on port p at 2048 p + n: address and data with the mask bit, and pending bits (R351, R357) -/
  msix : Assoc (BitVec 128) := []
  msixPending : List Nat := []
  /-- PRI of the function has stopped after a Response Failure (R348) -/
  priStopped : Bool := false
  /-- records put into the proxy ring so far (R374) -/
  pxCount : Nat := 0
  /-- handle-table generation, and the context that opened each open slot (R375) -/
  handleGen : Word := 0
  handles : Assoc Nat := []
  /-- SPDM: 0 nothing, 1 version, 2 capabilities, 3 algorithms agreed (R409) -/
  spdm : Nat := 0
  /-- the SPDM session: 0 none, 1 key exchanged, 2 established, and its key phase (R409) -/
  session : Nat := 0
  keyPhase : Nat := 0
  /-- the ports on which its selective IDE stream is established (R409) -/
  ideStreams : List Nat := []
  /-- ATS Invalidate Requests whose completion is still to be sent (R349) -/
  atsWaits : Nat := 0
deriving DecidableEq, Repr, Inhabited

/-! ## Service calls -/

/-- A service call (R191, R370 to R376). -/
structure Call where
  part : Nat
  ctx : Nat
  crew : Nat
  /-- the warp and leading lane that wait, or none for an address slice -/
  warp : Option (Nat × Nat) := none
  num : Nat
  off : Nat
  block : List Byte
  /-- the parameter block was poisoned when it was read (R396) -/
  poisoned : Bool := false
  /-- it waits without a service unit: for an event word, a resume or a restore (R372) -/
  away : Bool := false
  /-- posted to the host agent as this record of the proxy ring (R374) -/
  proxy : Option Nat := none
  /-- sent to a peer module, whose answer it waits for (R369) -/
  remote : Bool := false
  /-- its effect is done, and it completes with this result once what it changed is no longer in use (R346), or once its crew has been
  restored (R372) -/
  owed : Option Nat := none
  /-- the pages whose mapping it has changed: the first, and how many -/
  range : Nat × Nat := (0, 0)
  /-- the HOST page it waits for in the fault queue (R373) -/
  page : Option Nat := none
  /-- unit cycles of its cost not yet given to it, once it has begun (R376) -/
  left : Option Nat := none
deriving DecidableEq, Repr, Inhabited

/-- What an event is about. An event reads the fields that its own description names. -/
structure EvArgs where
  crew : Nat := 0
  warp : Nat := 0
  lane : Nat := 0
  op : Nat := 0
  core : Nat := 0
  tile : Nat := 0
  grid : Nat := 0
  part : Nat := 0
  ctx : Nat := 0
  fn : Nat := 0
  port : Nat := 0
  queue : Nat := 0
  tag : Nat := 0
  n : Nat := 0
  addr : Nat := 0
  value : Nat := 0
  slice : Bool := false
  flag : Bool := false
  data : List Byte := []
deriving DecidableEq, Repr, Inhabited

/-- Something that happens: a row of the table and what it is about. -/
structure Happening where
  kind : Instr
  args : EvArgs := {}
deriving DecidableEq, Repr, Inhabited

/-! ## The running chip -/

/-- What the device has answered at its boundary: the row that answered, the function or module, the bytes, and whether the
answer is an error or poisoned. -/
structure Reply where
  kind : Instr
  fn : Nat := 0
  bytes : List Byte := []
  bad : Bool := false
deriving DecidableEq, Repr, Inhabited

/-- A byte that an agent has stored to through one virtual page and that others of its pages need not show yet (R250, R259). -/
structure Stale where
  /-- the agent: its crew, and 32 times its warp and its lane, or 1024 for the address slice -/
  crew : Nat
  party : Nat
  /-- the order of the stores -/
  at_ : Nat
  /-- the virtual page stored through -/
  page : Nat
  /-- the byte, by place key, and what it held before -/
  key : Nat
  old : Byte
  /-- the pages through which the agent has seen the store, or stored after it -/
  seen : List Nat := []
  /-- the class of its operation until a WAITC has retired it (R182) -/
  cls : OpClass := .none
deriving DecidableEq, Repr, Inhabited

/-- An access from outside that a pack-up of a partition holds: the partition, whether the host or a peer sent it, and what it is
(R390). -/
structure Arrival where
  part : Nat
  host : Bool
  args : EvArgs
deriving DecidableEq, Repr, Inhabited

/-- Everything the running of programs and the host's traffic change. -/
structure Run where
  /-- device memory by device physical address (R245) -/
  mem : Mem := []
  /-- granules that carry a capability tag (R253) -/
  capTags : List Nat := []
  /-- poisoned 8-byte words by place key (R395) -/
  poison : List Nat := []
  /-- of these, those whose poison is that of a payload on a link, gone once it has been consumed (R394) -/
  passing : List Nat := []
  /-- of these, those that lie in a cache line whose copy below is clean (R399) -/
  cleanBelow : List Nat := []
  /-- what other pages of an agent than the one it stored through may still show (R259) -/
  stales : List Stale := []
  /-- host memory by translated host address, and peer memory by peer key (R347, R350) -/
  hostMem : Mem := []
  peerMem : Mem := []
  /-- scratchpad: byte o of partition tag p at p * 2^40 + o (R244) -/
  spad : Mem := []
  crews : Assoc Crew := []
  blocks : Assoc Block := []
  grids : Assoc Grid := []
  /-- contexts by partition tag * 64 + number -/
  contexts : Assoc Context := []
  cores : Assoc CoreSt := []
  tiles : Assoc TileSt := []
  matrix : Assoc MatrixOp := []
  funcs : Assoc Func := []
  calls : Assoc Call := []
  /-- service queue of each partition: call keys (R370) -/
  svcQueues : Assoc (List Nat) := []
  /-- faulted calls of each partition (R373) -/
  faultQueues : Assoc (List Nat) := []
  deficits : Assoc Nat := []
  /-- the calls that service units have in hand, in the order in which they were taken: at most eight (R376) -/
  units : List Nat := []
  /-- the partition at which the service units' round robin stands (R376) -/
  svcTurn : Nat := 0
  /-- partition physical pages that the service units have taken: partition tag, first address, pages (R372) -/
  taken : List (Nat × Nat × Nat) := []
  /-- order counters of acceptance and placement -/
  order : Nat := 0
  /-- Digest Mismatch reports to the host: grid key and the digests reported (R321) -/
  digestReports : List (Nat × List (BitVec 512)) := []
  /-- peer table entries whose module cannot be reached (R350, R369) -/
  unreachable : List Nat := []
  /-- peer blocks of 2 MiB, by peer key, that the peer refuses or that its own stage 2 does not map (R350) -/
  peerRefused : List Nat := []
  /-- accesses from outside that pack-ups hold, in the order of arrival (R390) -/
  arrivals : List Arrival := []
  /-- snapshot events on their way: origin tile, and the tiles they have not reached (R421) -/
  floods : List (Nat × List Nat) := []
  /-- messages that left the device: port, function, vector (R357) -/
  messages : List (Nat × Nat × Nat) := []
  /-- LEASE (R359) -/
  epoch : Word := 0
  period : Nat := 500
  expired : Bool := false
  /-- after expiry the owner's renewal was seen before a claim (R359) -/
  renewed : Bool := false
  owner : Nat := 0
  /-- log bytes of each partition (R372) -/
  partLogs : Assoc (List Byte) := []
  /-- access report of each partition, and entries lost (R413) -/
  reports : Assoc (List (List Byte)) := []
  reportLost : Assoc DWord := []
  /-- error log of each partition, and entries lost (R403) -/
  errLogs : Assoc (List (List Byte)) := []
  errLost : Assoc DWord := []
  /-- drop log and its counter (R383) -/
  dropLog : List (List Byte) := []
  dropLost : DWord := 0
  /-- the mailbox (R417) -/
  mbcmd : DWord := 0
  mbstat : Word := 0
  mbdata : Mem := []
  /-- what the device has answered (R347 to R350, R396, R409) -/
  replies : List Reply := []
  /-- a count of the free values used so far (log 2) -/
  free : Nat := 0
deriving DecidableEq, Repr, Inhabited

/-! ## What base camp owns -/

/-- An event-log entry (R407). -/
structure LogEntry where
  index : Nat
  reg : Nat
  tag : Nat
  meas : BitVec 512
  content : List Byte
deriving DecidableEq, Repr, Inhabited

/-- A pack-up in progress (R384, R388, R389, R392). -/
structure Pack where
  /-- KIND of the reshape record: 1 GROW, 2 SHRINK, 3 COMPACT, 4 REPAIR; 0 for a dropped channel -/
  kind : Nat
  /-- the tiles afterwards -/
  tiles : List Nat
  /-- the pseudo-channels afterwards -/
  pcset : List Nat
  /-- tiles whose work is affected -/
  affected : List Nat
  failed : Option Nat := none
  spare : Option Nat := none
  /-- a mailbox command waits for it -/
  command : Bool := false
deriving DecidableEq, Repr, Inhabited

/-- A pseudo-channel (R402, R412): CLEAN, ASSIGNED or SCRUBBING. -/
structure Channel where
  state : Nat := 0
  cursor : Nat := 0
  /-- dropped out of service, or degraded (R402) -/
  dropped : Bool := false
  degraded : Bool := false
  /-- corrected errors in the window that runs, and chipkill events (R402) -/
  corrected : Nat := 0
  chipkills : Nat := 0
deriving DecidableEq, Repr, Inhabited

/-- A partition (R2, R381, R387, R389). -/
structure Part where
  tag : Nat := 0
  /-- physical tile of each logical tile (R2, R381) -/
  tiles : List Nat := []
  /-- stage-2 limit and entries (R345) -/
  s2limit : Nat := 0
  s2 : List DWord := []
  pcset : List Nat := []
  share : Nat := 0
  capClock : Nat := 0
  capCurrent : Nat := 0
  carry : Bool := false
  vf : Nat := 0
  gen : Nat := 0
  tdi : Nat := 0
  repairLock : Bool := false
  reshapeLock : Bool := false
  /-- intake and issue are stopped for a pack-up (R389) -/
  stopped : Bool := false
  /-- the pack-up in progress -/
  pack : Option Pack := none
  /-- a reset of its VF waits for the end of the pack-up (R391) -/
  resetDue : Bool := false
  /-- pseudo-channels to be dropped once the pack-up in progress has ended, each with whether the others have the space (R391, R402) -/
  dropsDue : List (Nat × Bool) := []
  /-- PX0 to PX7 (R406) -/
  px : Assoc (BitVec 512) := []
  /-- the partition's event log and the entries it has dropped (R407) -/
  log : List LogEntry := []
  logLost : Nat := 0
deriving DecidableEq, Repr, Inhabited

/-- A tile as base camp knows it (R1, R3, R401, R415). -/
structure TileHw where
  failing : Bool := false
  /-- presented physical cores in logical order (R2) -/
  cores : List Nat := List.range 22
  spares : List Nat := [22, 23]
  /-- replaced cores, each with the spare that took its number (R2, R401) -/
  swaps : Assoc Nat := []
  clockStep : Nat := 0
  ceiling : Nat := 36
  reduced : Bool := true
  retrains : Nat := 0
deriving DecidableEq, Repr, Inhabited

/-- What the commands of base camp change and programs do not. -/
structure Mgmt where
  parts : Assoc Part := []
  tiles : Assoc TileHw := []
  /-- granules of each core's extension pool that base camp has retired (R13) -/
  granRetired : Assoc Nat := []
  /-- key slots in use: the free value from which each key was drawn (R404) -/
  keys : Assoc Nat := []
  /-- ROUTES: the allowed tags of channel c of port p of a tile's router at 10 tile + 2 p + c; none where not listed (R381, R382) -/
  routes : Assoc (BitVec 49) := []
  /-- pseudo-channels; one not listed is CLEAN (R412) -/
  channels : Assoc Channel := []
  /-- HX0 to HX15 (R406) -/
  hx : Assoc (BitVec 512) := []
  /-- the device event log and the index of the next entry (R407) -/
  log : List LogEntry := []
  logIndex : Nat := 0
  /-- CFGD (R408) -/
  cfgd : BitVec 512 := 0
  /-- the running base-camp image, none for the one the part was made with, and the standby area (R405, R418) -/
  image : Option (List Byte) := none
  standby : Mem := []
  standbyLen : Nat := 0
  standbyReady : Bool := false
  /-- tiles of a destroyed partition, each with the pseudo-channels whose scrub it waits for (R412) -/
  tileScrubs : Assoc (List Nat) := []
  /-- the boot ROM has run since power came or since the last reset (R405) -/
  booted : Bool := false
  /-- base camp is in recovery (R405) -/
  recovery : Bool := false
deriving DecidableEq, Repr, Inhabited

/-! ## The machine -/

/-- Who moves next. The spec orders independent parties only by their own rules, so the model picks (log 2). -/
inductive Turn where
  /-- the next step chooses a party or a happening -/
  | choose
  /-- the batch of a warp with this leading lane issues one word -/
  | batch (crew warp lane : Nat)
  /-- the address slice of a crew issues one word -/
  | slice (crew : Nat)
  /-- the happening takes place -/
  | event (h : Happening)
deriving DecidableEq, Repr, Inhabited

/-- Where an error strikes an array of R394. -/
inductive Hit where
  /-- registers and run state of a warp, and of an address slice -/
  | warp (crew warp : Nat) (c : Cell)
  | slice (crew n : Nat)
  /-- an 8-byte word of SRAM; with flag, in a cache line whose copy below is clean -/
  | sram (p : Place) (clean : Bool)
  /-- element key of the staging buffer of a core -/
  | staging (core k : Nat)
  /-- a line of an L1 -/
  | line (core : Nat)
  /-- the i-th cached HOST translation of a tile -/
  | xlat (tile i : Nat)
  /-- entry i of a queue -/
  | entry (crew q i : Nat)
  /-- a 64-byte block of HBM, and one of a PROT page -/
  | hbm (a : Nat)
  | prot (a : Nat)
  /-- the payload of an access to the word at a place, on a link -/
  | payload (p : Place)
  /-- a granule of the extension pool of a core, which base camp retires for its faults (R13) -/
  | granule (core : Nat)
  /-- a 64-byte block of device memory, written back from an L2 line and filled again (R395) -/
  | writeBack (a : Nat)
deriving DecidableEq, Repr, Inhabited

/-- An error that strikes an array: corrected or not, and, for an array that belongs to no crew, the tile that reports it and the
context whose identifier tags the data, as its key, or none with the partition (R394, R403). -/
structure Upset where
  hit : Hit
  corrected : Bool := false
  /-- it is a whole chip of an HBM stack that chipkill corrects (R402) -/
  chipkill : Bool := false
  tile : Nat := 0
  part : Nat := 0
  ctx : Option Nat := none
deriving DecidableEq, Repr, Inhabited

/-- The state of the machine. -/
structure State where
  run : Run := {}
  mgmt : Mgmt := {}
  turn : Turn := .choose
  /-- happenings waiting at the boundary of the device (R348 to R352, R417) -/
  inputs : List Happening := []
  /-- errors that will strike the arrays, in order: where and when they strike is no rule of the spec (R394; log 9) -/
  upsets : List Upset := []
deriving DecidableEq, Repr, Inhabited

/-- Why the model stops: none of these is a fate of the spec. -/
inductive Fault where
  /-- An instruction executed while no live party has the turn: raised by every meaning that needs one; safe. -/
  | noParty
deriving DecidableEq, Repr

/-- Why the model refuses. -/
inductive Refusal where
  /-- An instruction whose arm has no meaning yet: raised by the dispatch alone; safe. -/
  | notModelled (mnemonic : String)
deriving DecidableEq, Repr

/-- The machine right after reset (R405, R8; log 4). -/
def State.reset : State := {}

end Sys2Proof.Machine
end

