-- ==== Sys2Proof/Machine/Access.lean ====
section
/-! DEFINITION. Where the bytes of an access lie (R240 to R247), translation in two stages (R343 to R350), and reading and
writing bytes at a place, with poison, capability tags and held stores (R255, R395, R398). -/

namespace Sys2Proof.Machine

/-! ## Trap codes (R323) -/

def tcTranslation : Nat := 0x01
def tcPermission : Nat := 0x02
def tcStage2 : Nat := 0x03
def tcMisaligned : Nat := 0x04
def tcCapability : Nat := 0x05
def tcHostPage : Nat := 0x06
def tcEcc : Nat := 0x07
def tcIllegal : Nat := 0x10
def tcReservedMajor : Nat := 0x11
def tcWrongSlice : Nat := 0x12
def tcMalformed : Nat := 0x13
def tcHazard : Nat := 0x14
def tcRegisterBound : Nat := 0x15
def tcXacq : Nat := 0x16
def tcQueueOrphan : Nat := 0x17
def tcShape : Nat := 0x18
def tcMuster : Nat := 0x19
def tcFormatSlot : Nat := 0x1A
def tcBreakpoint : Nat := 0x1B
def tcSoftware : Nat := 0x1C
def tcSticky : Nat := 0x20
def tcDigest : Nat := 0x30
def tcRollback : Nat := 0x31
def tcBound : Nat := 0x32
def tcThreshold : Nat := 0x33
def tcWatchpoint : Nat := 0x40
def tcService : Nat := 0x41

/-! ## Places -/

/-- The place i bytes on. -/
def Place.add : Place → Nat → Place
  | .pad c o, i => .pad c (o + i)
  | .lane c o, i => .lane c (o + i)
  | .clu b o, i => .clu b (o + i)
  | .spad k, i => .spad (k + i)
  | .dev a, i => .dev (a + i)
  | .host a, i => .host (a + i)
  | .peer a, i => .peer (a + i)

/-- A number for each place, consecutive within one memory: the key of the sets of poisoned words and shadows. -/
def Place.key : Place → Nat
  | .pad c o => (7 * c) * 2 ^ 80 + o
  | .lane c o => (7 * c + 1) * 2 ^ 80 + o
  | .clu b o => (7 * b + 2) * 2 ^ 80 + o
  | .spad k => 3 * 2 ^ 80 + k
  | .dev a => 4 * 2 ^ 80 + a
  | .host a => 5 * 2 ^ 80 + a
  | .peer a => 6 * 2 ^ 80 + a

/-! ## Translation -/

/-- Why an access is not performed: a trap code with the address, a HOST page whose translation must be fetched first, or a pack-up that
holds what lies on the tile of its target (R390). -/
inductive AccFault where
  | trap (code addr : Nat)
  | hostMiss (page need : Nat)
  | held
deriving DecidableEq, Repr, Inhabited

/-- The rights of an access: RD, WR and AT as bits 0 to 2 (R343). -/
def needRd : Nat := 1
def needWr : Nat := 2
def needAt : Nat := 4

/-- A stage-1 leaf's attributes and output address (R343). -/
structure Leaf where
  out : Nat
  rights : Nat
  dp : Nat
  acc : Bool
  host : Bool
  byp : Bool
  /-- its level: 0 for 4 KiB, 1 for 2 MiB, 2 for 1 GiB -/
  lvl : Nat := 0
deriving DecidableEq, Repr, Inhabited

/-- The partition of a context key. -/
def partOf (ctxKey : Nat) : Nat := ctxKey / 64

/-- Stage 2: the place of a partition physical address, or Stage-2 (R345). -/
def stage2 (m : Mgmt) (r : Run) (tag ppa : Nat) : Option Place :=
  match Assoc.get? m.parts tag with
  | none => none
  | some p =>
    if p.s2limit ≤ ppa then none
    else
      match p.s2[bits ppa 40 21]? with
      | none => none
      | some e =>
        let e := e.toNat
        if e % 2 = 0 then none
        else if bits e 1 1 = 0 then some (.dev (bits e 56 21 * 2 ^ 21 + ppa % 2 ^ 21))
        else if bits e 63 56 ∈ r.unreachable ∨ bits e 63 21 ∈ r.peerRefused then none
        else some (.peer (bits e 63 21 * 2 ^ 21 + ppa % 2 ^ 21))

/-- One byte at a place, before held stores (R398). -/
def rawByte (r : Run) : Place → Byte
  | .pad c o => match Assoc.get? r.crews c with
    | some cr => Mem.byte cr.pad o
    | none => 0
  | .lane c o => match Assoc.get? r.crews c with
    | some cr => Mem.byte cr.lanes o
    | none => 0
  | .clu b o => match Assoc.get? r.blocks b with
    | some bl => Mem.byte bl.cluster o
    | none => 0
  | .spad k => Mem.byte r.spad k
  | .dev a => Mem.byte r.mem a
  | .host a => Mem.byte r.hostMem a
  | .peer a => Mem.byte r.peerMem a

/-- The n bytes at a place as a number. -/
def rawNum (r : Run) (p : Place) (n : Nat) : Nat := gatherBytes n (fun i => (rawByte r (p.add i)).toNat)

/-- A leaf of R343 read from an entry, or none where R343, R344 and R246 make it invalid; reserved bits 11 and 4 are ignored (R5). -/
def leafOf (e lvl va : Nat) : Option Leaf :=
  let sz := 12 + 9 * lvl
  let host := bits e 9 9 == 1
  let acc := bits e 8 8 == 1
  let dp := bits e 7 6
  let byp := bits e 10 10 == 1
  let rights := bits e 3 2 + 4 * bits e 5 5
  if bits e 5 5 = 1 ∧ bits e 3 2 ≠ 3 then none
  else if bits e 56 12 * 4096 % 2 ^ sz ≠ 0 then none
  else if host && acc then none
  else if !host && (dp == 3 || (acc && (dp != 0 || byp))) then none
  else some ⟨bits e 56 12 * 4096 + va % 2 ^ sz, rights, dp, acc, host, byp, lvl⟩

/-- The walk of stage 1 from a table at the levels given, highest first (R343, R344). -/
def walk (m : Mgmt) (r : Run) (tag va : Nat) : List Nat → Nat → Except AccFault Leaf
  | [], _ => .error (.trap tcTranslation va)
  | lvl :: rest, table =>
    match stage2 m r tag (table + 8 * bits va (12 + 9 * lvl + 8) (12 + 9 * lvl)) with
    | none => .error (.trap tcStage2 va)
    | some pl =>
      let e := rawNum r pl 8
      if e % 2 = 0 ∨ bits e 63 57 ≠ 0 then .error (.trap tcTranslation va)
      else if bits e 1 1 = 1 then
        if 2 < lvl then .error (.trap tcTranslation va)
        else
          match leafOf e lvl va with
          | none => .error (.trap tcTranslation va)
          | some l => .ok l
      else if rest = [] ∨ bits e 11 2 ≠ 0 then .error (.trap tcTranslation va)
      else walk m r tag va rest (bits e 56 12 * 4096)

/-- The leaf that maps a virtual address of a context; bits 63:57 set take Permission with no walk (R240). -/
def stage1 (m : Mgmt) (r : Run) (ctxKey va : Nat) : Except AccFault Leaf :=
  if 2 ^ 57 ≤ va then .error (.trap tcPermission va)
  else
    match Assoc.get? r.contexts ctxKey with
    | none => .error (.trap tcTranslation va)
    | some cx => walk m r (partOf ctxKey) va [4, 3, 2, 1, 0] cx.s1root

/-- Who asks a tile's translation unit: the tile, and a number for the party; the PDU and the service units ask tile 0 as number 0. -/
def asks (tile who : Nat) : Nat := tile + 128 * who
def askedTile (asker : Nat) : Nat := asker % 128
def askedBy (asker : Nat) : Nat := asker / 128

/-- The HOST translation of a page that an asker may use: one cached in its tile (R347), or one kept for those who waited for it when it
was invalidated (R378). -/
def hostXlat (r : Run) (asker ctxKey page : Nat) : Option HostXlat :=
  match Assoc.get? r.tiles (askedTile asker) with
  | none => none
  | some t => t.hostXlats.find? (fun x => x.ctx == ctxKey && x.page == page && match x.only with
    | none => true
    | some ws => ws.contains (askedBy asker))

/-- Whether the host has refused the page request that an asker waited for (R348, R378). -/
def hostRefused (r : Run) (asker ctxKey page : Nat) : Bool :=
  match Assoc.get? r.tiles (askedTile asker) with
  | none => false
  | some t => t.reqs.any (fun q => q.ctx == ctxKey && q.page == page && q.refused && q.waiters.contains (askedBy asker))

/-- The place of a global byte under the rights an access needs (R245, R247, R344 to R350). accOk lets an access write an
ACC page: matrix operations and MCLR alone (R247). -/
def pagePlace (m : Mgmt) (r : Run) (asker ctxKey va need : Nat) (accOk : Bool := false) :
    Except AccFault Place :=
  match stage1 m r ctxKey va with
  | .error e => .error e
  | .ok l =>
    if l.rights &&& need ≠ need then .error (.trap tcPermission va)
    else if l.acc && need != needRd && !accOk then .error (.trap tcPermission va)
    else if l.host then
      match hostXlat r asker ctxKey (va / 4096) with
      | some x =>
        if x.rights &&& need = need then .ok (.host (x.frame * 4096 + va % 4096))
        else if hostRefused r asker ctxKey (va / 4096) then .error (.trap tcHostPage va)
        else .error (.hostMiss (va / 4096) need)
      | none =>
        if hostRefused r asker ctxKey (va / 4096) then .error (.trap tcHostPage va)
        else .error (.hostMiss (va / 4096) need)
    else
      match stage2 m r (partOf ctxKey) l.out with
      | none => .error (.trap tcStage2 va)
      | some p => .ok p

/-- Whether a pack-up of a partition holds the accesses to one of its logical tiles (R390). -/
def tileHeld (m : Mgmt) (tag logical : Nat) : Bool :=
  match Assoc.get? m.parts tag with
  | some p => match p.pack with
    | some k => k.affected.contains (p.tiles.getD logical 96)
    | none => false
  | none => false

/-- Whether a pack-up holds the accesses to a partition physical address, by its home (R248, R390). -/
def ppaHeld (m : Mgmt) (tag : Nat) (acc : Bool) (ppa : Nat) : Bool :=
  match Assoc.get? m.parts tag with
  | some p => p.pack.isSome && tileHeld m tag (homeSlice p.tiles.length acc ppa).1
  | none => false

/-- Whether a pack-up holds the accesses to the device memory that a virtual address of a context maps (R390). -/
def homeHeld (m : Mgmt) (r : Run) (ctxKey va : Nat) : Bool :=
  match Assoc.get? m.parts (partOf ctxKey) with
  | some p => p.pack.isSome && match stage1 m r ctxKey va with
    | .ok l => !l.host && ppaHeld m (partOf ctxKey) l.acc l.out
    | .error _ => false
  | none => false

/-- Whether a pack-up holds the accesses to a place of the partition scratchpad, by its bank (R244, R390). -/
def spadHeld (m : Mgmt) : Place → Bool
  | .spad k => match Assoc.get? m.parts (k / 2 ^ 40) with
    | some p => p.pack.isSome && tileHeld m (k / 2 ^ 40) (scratchHome p.tiles.length 0 (k % 2 ^ 40)).1
    | none => false
  | _ => false

/-- The place of an access to an untranslated space, unless a pack-up holds it (R390). -/
def localPlace (m : Mgmt) (p : Place) : Except AccFault Place := if spadHeld m p then .error .held else .ok p

/-- The place of an access to a global byte (R245, R247, R344 to R350), unless a pack-up holds it (R390). -/
def globalPlace (m : Mgmt) (r : Run) (asker ctxKey va need : Nat) (accOk : Bool := false) : Except AccFault Place :=
  match pagePlace m r asker ctxKey va need accOk with
  | .ok (.dev a) => if homeHeld m r ctxKey va then .error .held else .ok (.dev a)
  | x => x

/-- Whether a virtual address lies on a PROT page (R193). -/
def onProtPage (m : Mgmt) (r : Run) (ctxKey va : Nat) : Bool :=
  match stage1 m r ctxKey va with
  | .ok l => !l.host && l.dp == 2
  | .error _ => false

/-- Whether a virtual address lies on an ACC page (R247). -/
def onAccPage (m : Mgmt) (r : Run) (ctxKey va : Nat) : Bool :=
  match stage1 m r ctxKey va with
  | .ok l => l.acc
  | .error _ => false

/-- The places of n bytes from a virtual address, one translation for each 4 KiB page touched. -/
def spanOf (place : Nat → Except AccFault Place) (va n : Nat) : Except AccFault (List Place) :=
  let one (k : Nat) : Except AccFault (List Place) :=
    let lo := max va (k * 4096)
    let hi := min (va + n) ((k + 1) * 4096)
    match place lo with
    | .error e => .error e
    | .ok p => .ok ((List.range (hi - lo)).map p.add)
  let rec go : List Nat → Except AccFault (List Place)
    | [] => .ok []
    | k :: ks =>
      match one k, go ks with
      | .error e, _ => .error e
      | _, .error e => .error e
      | .ok a, .ok b => .ok (a ++ b)
  if n = 0 then .ok []
  else go ((List.range ((va + n - 1) / 4096 - va / 4096 + 1)).map (fun i => va / 4096 + i))

/-- The places of n bytes that an agent accesses. -/
def globalSpan (m : Mgmt) (r : Run) (asker ctxKey va n need : Nat) (accOk : Bool := false) : Except AccFault (List Place) :=
  spanOf (fun lo => globalPlace m r asker ctxKey lo need accOk) va n

/-- The places of n bytes of the PDU's own records, which no pack-up keeps from it (log 38). -/
def pageSpan (m : Mgmt) (r : Run) (ctxKey va n need : Nat) : Except AccFault (List Place) :=
  spanOf (fun lo => pagePlace m r 0 ctxKey lo need) va n

/-! ## Reading and writing at a place -/

/-- Whether the aligned 8-byte word of a place is poisoned (R395). -/
def poisoned (r : Run) (p : Place) : Bool := r.poison.contains (p.key / 8)

/-- Whether any of n bytes at a place is poisoned. -/
def poisonedSpan (r : Run) (p : Place) (n : Nat) : Bool := (List.range n).any (fun i => poisoned r (p.add i))

/-- One byte as the agents of a block see it: their own held stores first (R398). -/
def loadByte (r : Run) (blk : Nat) (p : Place) : Byte :=
  match p with
  | .dev a =>
    match Assoc.get? r.blocks blk with
    | some b => (Assoc.get? b.held a).getD (rawByte r p)
    | none => rawByte r p
  | _ => rawByte r p

/-- The n bytes at a place as the agents of a block see them (R4). -/
def loadNum (r : Run) (blk : Nat) (p : Place) (n : Nat) : Nat :=
  gatherBytes n (fun i => (loadByte r blk (p.add i)).toNat)

/-- The n bytes at a place. -/
def loadBytes (r : Run) (blk : Nat) (p : Place) (n : Nat) : List Byte :=
  (List.range n).map (fun i => loadByte r blk (p.add i))

/-- One byte written at a place: device memory also loses the granule's capability tag (R255). -/
def rawStore (r : Run) (p : Place) (b : Byte) : Run :=
  match p with
  | .pad c o => { r with crews := Assoc.modify r.crews c (fun x => { x with pad := Mem.setByte x.pad o b }) }
  | .lane c o => { r with crews := Assoc.modify r.crews c (fun x => { x with lanes := Mem.setByte x.lanes o b }) }
  | .clu k o => { r with blocks := Assoc.modify r.blocks k (fun x => { x with cluster := Mem.setByte x.cluster o b }) }
  | .spad k => { r with spad := Mem.setByte r.spad k b }
  | .dev a => { r with mem := Mem.setByte r.mem a b, capTags := setErase r.capTags (a / 16) }
  | .host a => { r with hostMem := Mem.setByte r.hostMem a b }
  | .peer a => { r with peerMem := Mem.setByte r.peerMem a b }

/-- Bytes written one after another from a place up. -/
def rawStores (r : Run) (p : Place) : List Byte → Run
  | [] => r
  | b :: bs => rawStores (rawStore r p b) (p.add 1) bs

/-- The block whose shadows cover a place, if the place is one that R397 shadows. -/
def shadowBlock (r : Run) : Place → Option Nat
  | .pad c _ => (Assoc.get? r.crews c).map (·.block)
  | .lane c _ => (Assoc.get? r.crews c).map (·.block)
  | .clu b _ => some b
  | _ => none

/-- The granule of a place marked as having a shadow, when its block keeps a cairn (R397). -/
def markShadow (r : Run) (p : Place) : Run :=
  match shadowBlock r p with
  | none => r
  | some b =>
    { r with blocks := Assoc.modify r.blocks b (fun x =>
        if x.cairn.isSome then { x with shadow := setInsert x.shadow (p.key / 64) } else x) }

/-- Whether the stores of a block's agents to device memory are held (R398). -/
def holdsStores (r : Run) (blk : Nat) : Bool :=
  match Assoc.get? r.blocks blk with
  | some b => b.closedInterval
  | none => false

/-- The held stores of a block performed, in their order, and its interval opened (R398). -/
def openInterval (r : Run) (blk : Nat) : Run :=
  match Assoc.get? r.blocks blk with
  | none => r
  | some b =>
    if b.closedInterval then
      let r := b.held.foldl (fun r p => rawStore r (.dev p.1) p.2) r
      { r with
        capTags := b.heldTags.foldl setInsert r.capTags
        blocks := Assoc.modify r.blocks blk (fun x =>
          { x with closedInterval := false, held := [], heldCount := 0, heldTags := [] }) }
    else r

/-- The words that n bytes from a place cover whole, by their keys. -/
def wholeWords (p : Place) (n : Nat) : List Nat :=
  (List.range (n / 8 + 2)).filterMap (fun i =>
    let k := p.key / 8 + i
    if p.key ≤ 8 * k ∧ 8 * k + 8 ≤ p.key + n then some k else none)

/-- Poison cleared in the words that a write covers whole (R395). -/
def clearPoison (r : Run) (p : Place) (n : Nat) : Run :=
  if r.poison = [] then r
  else { r with poison := (wholeWords p n).foldl setErase r.poison }

/-- Bytes stored from a place up by an agent of a block: one store (R158, R397, R398). A held store that would overflow
the 4,096 of the hold buffer opens the interval first. -/
def storeBytes (r : Run) (blk : Nat) (p : Place) (bs : List Byte) : Run :=
  let r := clearPoison (markShadow r p) p bs.length
  match p with
  | .dev a =>
    let full := match Assoc.get? r.blocks blk with
      | some b => decide (4096 ≤ b.heldCount)
      | none => true
    let r := if full then openInterval r blk else r
    if holdsStores r blk then
      { r with blocks := Assoc.modify r.blocks blk (fun x =>
          { x with heldCount := x.heldCount + 1,
                   heldTags := x.heldTags.filter (fun g => !(decide (a / 16 ≤ g) && decide (16 * g < a + bs.length))),
                   held := (bs.foldl (fun (h, i) b => (Assoc.set h (a + i) b, i + 1)) (x.held, 0)).1 }) }
    else rawStores r p bs
  | _ => rawStores r p bs

/-- The low n bytes of x stored from a place up. -/
def storeNum (r : Run) (blk : Nat) (p : Place) (n x : Nat) : Run := storeBytes r blk p (toBytes n x)

end Sys2Proof.Machine
end

