-- ==== Sys2Proof/Machine/Digest.lean ====
section
/-! DEFINITION. SHAKE256, which forms grid digests and measurements (R318, R406), and the digest mixer of R317. -/

namespace Sys2Proof.Machine

/-- The round constants of Keccak-f[1600]. -/
def keccakRc : List Nat :=
  [0x1, 0x8082, 0x800000000000808a, 0x8000000080008000, 0x808b, 0x80000001, 0x8000000080008081, 0x8000000000008009,
   0x8a, 0x88, 0x80008009, 0x8000000a, 0x8000808b, 0x800000000000008b, 0x8000000000008089, 0x8000000000008003,
   0x8000000000008002, 0x8000000000000080, 0x800a, 0x800000008000000a, 0x8000000080008081, 0x8000000000008080, 0x80000001, 0x8000000080008008]

/-- The rotation of lane x + 5 y. -/
def keccakRot : List Nat :=
  [0, 1, 62, 28, 27, 36, 44, 6, 55, 20, 3, 10, 43,
   25, 39, 41, 45, 15, 21, 8, 18, 2, 61, 56, 14]

/-- A 64-bit lane rotated left. -/
def rotl64 (x n : Nat) : Nat := if n = 0 then x else (x <<< n) % 2 ^ 64 ||| (x >>> (64 - n))

/-- One round of Keccak-f[1600] on 25 lanes. -/
def keccakRound (a : List Nat) (rc : Nat) : List Nat :=
  let g (l : List Nat) (i : Nat) : Nat := l.getD i 0
  let c := (List.range 5).map (fun x => g a x ^^^ g a (x + 5) ^^^ g a (x + 10) ^^^ g a (x + 15) ^^^ g a (x + 20))
  let d := (List.range 5).map (fun x => g c ((x + 4) % 5) ^^^ rotl64 (g c ((x + 1) % 5)) 1)
  let a := (List.range 25).map (fun i => rotl64 (g a i ^^^ g d (i % 5)) (g keccakRot i))
  -- lane (x, y) of the result of pi comes from lane (x + 3 y, x)
  let b := (List.range 25).map (fun i => g a ((i % 5 + 3 * (i / 5)) % 5 + 5 * (i % 5)))
  let e := (List.range 25).map (fun i =>
    let y := 5 * (i / 5)
    g b i ^^^ ((2 ^ 64 - 1 - g b (y + (i + 1) % 5)) &&& g b (y + (i + 2) % 5)))
  match e with
  | [] => []
  | x :: xs => (x ^^^ rc) :: xs

/-- Keccak-f[1600]. -/
def keccakF (a : List Nat) : List Nat := keccakRc.foldl keccakRound a

/-- Blocks of 136 bytes absorbed, one for each unit of fuel. -/
def shakeAbsorb : Nat → List Nat → List Byte → List Nat
  | 0, a, _ => a
  | n + 1, a, bs =>
    let blk := bs.take 136
    let a := (List.range 25).map (fun i =>
      a.getD i 0 ^^^ (if i < 17 then ofBytes ((blk.drop (8 * i)).take 8) else 0))
    shakeAbsorb n (keccakF a) (bs.drop 136)

/-- SHAKE256 of a message, the first n bytes of its output, n at most 136. -/
def shake256 (msg : List Byte) (n : Nat) : List Byte :=
  let k := msg.length / 136 + 1
  let pad := k * 136 - msg.length
  let tail : List Byte :=
    if pad = 1 then [0x9F#8] else 0x1F#8 :: (List.replicate (pad - 2) 0#8 ++ [0x80#8])
  ((shakeAbsorb k (List.replicate 25 0) (msg ++ tail)).flatMap (fun x => toBytes 8 x)).take n

/-- Mix64 of R317. -/
def mix64 (x : Nat) : Nat :=
  let x := x ^^^ (x / 2 ^ 31)
  let x := x * 0xB4F32D6E8A615C97 % 2 ^ 64
  let x := x ^^^ (x / 2 ^ 27)
  let x := x * 0xD1C57A3946E2B0F3 % 2 ^ 64
  x ^^^ (x / 2 ^ 33)

/-- The digest with the term of one committed write added (R316, R317): a, d, s, t and n of the table of R316. -/
def digestAdd (k0 k1 : Nat) (dg : BitVec 128) (a d s t n : Nat) : BitVec 128 :=
  let a := a % 2 ^ 64
  let n := n % 2 ^ 64
  let lo := mix64 (mix64 (a ^^^ k0) ^^^ (d % 2 ^ 64))
  let hi := mix64 (mix64 (n ^^^ k1) ^^^ ((s + 2 ^ 8 * t) % 2 ^ 64) ^^^ lo)
  dg + BitVec.ofNat 128 (lo + 2 ^ 64 * hi)

end Sys2Proof.Machine
end

