-- ==== Sys2Proof/Machine/Life.lean ====
section
/-! DEFINITION. Completions and messages to the host (R355 to R358), the end of blocks and grids with their digests
(R308, R312, R313, R318 to R321), and the kill of grids and contexts (R330, R331). -/

namespace Sys2Proof.Machine

/-! ## Updates of one object -/

def Run.crew (r : Run) (c : Nat) (f : Crew → Crew) : Run := { r with crews := Assoc.modify r.crews c f }
def Run.block (r : Run) (b : Nat) (f : Block → Block) : Run := { r with blocks := Assoc.modify r.blocks b f }
def Run.grid (r : Run) (g : Nat) (f : Grid → Grid) : Run := { r with grids := Assoc.modify r.grids g f }
def Run.context (r : Run) (x : Nat) (f : Context → Context) : Run :=
  { r with contexts := Assoc.modify r.contexts x f }
/-- A core's state; a core not written yet is at its reset values. -/
def Run.coreSt (r : Run) (k : Nat) : CoreSt := (Assoc.get? r.cores k).getD {}
def Run.core (r : Run) (k : Nat) (f : CoreSt → CoreSt) : Run := { r with cores := Assoc.set r.cores k (f (r.coreSt k)) }
def Run.tileSt (r : Run) (t : Nat) : TileSt := (Assoc.get? r.tiles t).getD {}
def Run.tile (r : Run) (t : Nat) (f : TileSt → TileSt) : Run := { r with tiles := Assoc.set r.tiles t (f (r.tileSt t)) }
def Run.func (r : Run) (n : Nat) : Func := (Assoc.get? r.funcs n).getD {}
def Run.setFunc (r : Run) (n : Nat) (f : Func → Func) : Run := { r with funcs := Assoc.set r.funcs n (f (r.func n)) }
/-- A queue interface of a function; one not written yet is at its reset values. -/
def Run.queueIf (r : Run) (n q : Nat) : QueueIf := (Assoc.get? (r.func n).queues q).getD {}
def Run.setQueueIf (r : Run) (n q : Nat) (f : QueueIf → QueueIf) : Run :=
  r.setFunc n (fun x => { x with queues := Assoc.set x.queues q (f (r.queueIf n q)) })
def Run.warp (r : Run) (c w : Nat) (f : Warp → Warp) : Run :=
  r.crew c (fun x => match x.warps[w]? with
    | some y => { x with warps := setAt x.warps w (f y) }
    | none => x)
def Run.slice (r : Run) (c : Nat) (f : ASlice → ASlice) : Run := r.crew c (fun x => { x with aslice := f x.aslice })

/-- A fresh free value's index, and the state that has used it. -/
def Run.draw (r : Run) : Nat × Run := (r.free, { r with free := r.free + 1 })

/-- The reference counter of a tile moved on to the moment it is read (R6, R28; log 11). -/
def Run.sampleRefc (r : Run) (t : Nat) : Run :=
  let (i, r) := r.draw
  r.tile t (fun x => { x with refc := x.refc + Config.elapsed i })

/-- The key of a host address under a PASID (R347, R351). -/
def hostKey (pasid addr : Nat) : Nat := (pasid + 1) * 2 ^ 64 + addr

/-! ## HOST pages (R347, R348, R378) -/

/-- An asker's request for the translation of a HOST page, which names the untranslated host address that the leaf yields; while one
is outstanding for the context and page, the asker waits for that one (R347, R378). -/
def requestPage (m : Mgmt) (r : Run) (asker ctxKey page need : Nat) : Run :=
  let who := askedBy asker
  let leaf := match stage1 m r ctxKey (page * 4096) with
    | .ok l => (l.out / 4096, l.lvl)
    | .error _ => (0, 0)
  r.tile (askedTile asker) (fun t =>
    let same (q : PageReq) : Bool := q.ctx == ctxKey && q.page == page && !q.refused
    if t.reqs.any same then
      { t with reqs := t.reqs.map (fun q => if same q && !q.waiters.contains who then { q with waiters := q.waiters ++ [who] } else q) }
    else
      { t with
        reqs := t.reqs ++ [{ tag := t.nextTag, ctx := ctxKey, page := page, need := need, addr := leaf.1, lvl := leaf.2, waiters := [who] }]
        nextTag := t.nextTag + 1 })

/-- The refused page request forgotten for an asker that has taken Host Page, so that a restart asks again; each other waiter still takes
it (R348, R378). -/
def dropRefused (r : Run) (asker ctxKey page : Nat) : Run :=
  r.tile (askedTile asker) (fun t => { t with reqs := t.reqs.filterMap (fun q =>
    if q.ctx == ctxKey && q.page == page && q.refused then
      let ws := q.waiters.filter (· != askedBy asker)
      if ws = [] then none else some { q with waiters := ws }
    else some q) })

/-- A translation kept for waiters, after one of them has taken a turn: its first turn uses it, the next finds it gone (R378). -/
def HostXlat.spend (who : Nat) (x : HostXlat) : Option HostXlat := match x.only with
  | none => some x
  | some ws =>
    if ws.count who = 0 then some x
    else if ws.count who = 1 then some { x with only := some (who :: ws) }
    else
      let left := ws.filter (· != who)
      if left = [] then none else some { x with only := some left }

/-- The translations kept for an asker that takes a turn and waits for no other page (R378). -/
def spendKept (r : Run) (asker : Nat) : Run :=
  let who := askedBy asker
  let t := r.tileSt (askedTile asker)
  if !t.hostXlats.any (fun x => x.only.any (·.contains who)) || t.reqs.any (fun q => !q.refused && q.waiters.contains who) then r
  else r.tile (askedTile asker) (fun t => { t with hostXlats := t.hostXlats.filterMap (HostXlat.spend who) })

/-- What a piece of work of the PDU or of a service unit leaves behind once it is done: the refusal of its page is taken, and a
translation kept for it has been used (R348, R378). -/
def unitDone (r : Run) (ctxKey page : Nat) : Run :=
  let r := dropRefused r 0 ctxKey page
  if !(r.tileSt 0).hostXlats.any (fun x => x.ctx == ctxKey && x.page == page && x.only.any (·.contains 0)) then r
  else r.tile 0 (fun t => { t with hostXlats := t.hostXlats.filter (fun x =>
    !(x.ctx == ctxKey && x.page == page && x.only.any (·.contains 0))) })

/-! ## Messages and completions -/

/-- The place of a vector's entry in the MSI-X table of a function on a port (R351). -/
def msixKey (port vec : Nat) : Nat := 2048 * port + vec

/-- One MSI-X message of a function through its table on the port that holds the lease: sent, held by the mask, or discarded for want of
an entry (R357). -/
def sendMsix (r : Run) (fn vec : Nat) : Run :=
  if 2048 ≤ vec then r
  else
    let k := msixKey r.owner vec
    let entry := ((Assoc.get? (r.func fn).msix k).getD 0).toNat
    if bits entry 96 96 = 1 then r.setFunc fn (fun f => { f with msixPending := setInsert f.msixPending k })
    else { r with messages := r.messages ++ [(r.owner, fn, vec)] }

/-- The message of a cause whose events are pending, sent (R357). -/
def sendCause (r : Run) (fn q cause : Nat) : Run :=
  let e := (rdReg (r.queueIf fn q).remap cause).toNat
  sendMsix (r.setQueueIf fn q (fun x => { x with pendings := wrReg x.pendings cause 0 })) fn (bits e 10 0)

/-- One event of a cause at a queue interface, sent when its remap entry says so; a held queue keeps it, in order (R356, R357, R360). -/
def raiseCause (r : Run) (fn q cause : Nat) : Run :=
  let x := r.queueIf fn q
  let e := (rdReg x.remap cause).toNat
  if x.held then r.setQueueIf fn q (fun x => { x with heldCauses := x.heldCauses ++ [cause] })
  else if bits e 31 31 = 0 then r
  else
    let n := (rdReg x.pendings cause).toNat + 1
    let r := r.setQueueIf fn q (fun x => { x with pendings := wrReg x.pendings cause (BitVec.ofNat 32 n) })
    if n < bits e 27 20 then r else sendCause r fn q cause

/-- A completion ring with no room (R355); one that has never been given a size is not full (R351). -/
def QueueIf.full (x : QueueIf) : Bool := x.clog != 0 && (x.ctail.toNat + 1) % 2 ^ x.clog == x.chead.toNat

/-- The bytes of a completion record (R355). -/
def completionBytes (phase : Bool) (seq status ty detail : Nat) : List Byte :=
  toBytes 8 seq ++ toBytes 2 status ++ toBytes 1 ty ++ toBytes 1 (b2n phase) ++ toBytes 4 detail

/-- The completions of a queue written to its ring while there is room and none are held, in order (R355, R360); a ring that the host
denies sets RFAULT and clears EN (R351). -/
def flushCompletions : Nat → Run → Nat → Nat → Run
  | 0, r, _, _ => r
  | n + 1, r, fn, q =>
    let x := r.queueIf fn q
    match x.completions with
    | [] => r
    | (seq, status, ty, pflags, detail) :: rest =>
      if x.held || x.full then r
      else if x.ringDenied then
        (if x.en then raiseCause (r.setQueueIf fn q (fun y => { y with en := false, rfault := true })) fn q 1 else r)
      else
        let a := hostKey (bits x.qpasid.toNat 19 0) (x.cbase.toNat + 16 * x.ctail.toNat)
        let r := { r with hostMem := Mem.writeBytes r.hostMem a (completionBytes x.phase seq status ty detail) }
        let t := (x.ctail.toNat + 1) % 2 ^ x.clog
        let r := r.setQueueIf fn q (fun y =>
          { y with completions := rest, ctail := BitVec.ofNat 32 t,
                   phase := if t = 0 then !y.phase else y.phase })
        let r := if pflags % 2 = 1 then raiseCause r fn q 0 else r
        flushCompletions n r fn q

/-- A packet's completion queued and written when it can be (R355). -/
def complete (r : Run) (fn q serial seq status ty pflags detail : Nat) : Run :=
  let r := r.setQueueIf fn q (fun x =>
    { x with completions := x.completions ++ [(seq, status, ty, pflags, detail)],
             outstanding := x.outstanding.erase serial })
  flushCompletions ((r.queueIf fn q).completions.length) r fn q

/-- The function of a context: the VF of its partition (R351). -/
def fnOfCtx (m : Mgmt) (ctxKey : Nat) : Nat :=
  match Assoc.get? m.parts (partOf ctxKey) with
  | some p => p.vf
  | none => 0

/-- Whether a queue interface is bound to a PASID, and whether it is enabled as well (R358). -/
def QueueIf.names (x : QueueIf) (pasid : Nat) : Bool := bits x.qpasid.toNat 31 31 == 1 && bits x.qpasid.toNat 19 0 == pasid
def QueueIf.bound (x : QueueIf) (pasid : Nat) : Bool := x.en && x.names pasid

/-- The lowest-numbered enabled queue of a function bound to a PASID (R358). -/
def boundQueue (r : Run) (fn pasid : Nat) : Option Nat :=
  ((r.func fn).queues.find? (fun p => p.2.bound pasid)).map (·.1)

/-- The lowest-numbered queue of a function bound to a PASID, enabled or not (R356). -/
def namedQueue (r : Run) (fn pasid : Nat) : Option Nat :=
  ((r.func fn).queues.find? (fun p => p.2.names pasid)).map (·.1)

/-- The queue interface that carries cause 2 of a context (R358): the reporting queue, given as function * 64 + queue, when it is enabled
and still bound to the PASID; else the lowest-numbered enabled one of the context's function. -/
def stopQueue (m : Mgmt) (r : Run) (ctxKey : Nat) (prefer : Option Nat) : Option (Nat × Nat) :=
  let fn := fnOfCtx m ctxKey
  let pasid := match Assoc.get? r.contexts ctxKey with
    | some cx => cx.pasid
    | none => 0
  let other := (boundQueue r fn pasid).map (fun q => (fn, q))
  match prefer with
  | some q => if (r.queueIf (q / 64) (q % 64)).bound pasid then some (q / 64, q % 64) else other
  | none => other

/-- Cause 2 of a context raised on the queue that R358 chooses, or noted in STOPPEND. -/
def raiseStop (m : Mgmt) (r : Run) (ctxKey : Nat) (prefer : Option Nat) : Run :=
  match stopQueue m r ctxKey prefer with
  | some (fn, q) => raiseCause r fn q 2
  | none => r.setFunc (fnOfCtx m ctxKey) (fun f => { f with stoppend := f.stoppend ||| (1#64 <<< (ctxKey % 64)) })

/-- Events of a threshold class counted in a tile for a context (R55, R56): the count of a window wraps at 32 bits (log 45). -/
def countEvents (r : Run) (tile ctxKey cls n : Nat) : Run :=
  if n = 0 then r
  else r.tile tile (fun t =>
    let k := ctxKey * 8 + cls
    { t with thrCount := wrReg t.thrCount k (rdReg t.thrCount k + BitVec.ofNat 32 n) })

/-! ## Log entries (R403) -/

/-- An error-log entry of a partition appended; a full log of 64 loses its oldest and counts the loss (R403). -/
def logError (r : Run) (part kind ctx tile code grid addr : Nat) : Run :=
  let r := r.sampleRefc tile
  let e := toBytes 8 (r.tileSt tile).refc.toNat ++ toBytes 1 kind ++ toBytes 1 ctx ++ toBytes 1 tile ++
    toBytes 1 code ++ toBytes 4 grid ++ toBytes 8 addr ++ toBytes 8 0
  let es := (Assoc.get? r.errLogs part).getD []
  if es.length < 64 then { r with errLogs := Assoc.set r.errLogs part (es ++ [e]) }
  else
    { r with
      errLogs := Assoc.set r.errLogs part (es.drop 1 ++ [e])
      errLost := wrReg r.errLost part (rdReg r.errLost part + 1) }

/-! ## Blocks and grids -/

/-- The blocks of a grid that have not ended, by key. -/
def liveBlocks (r : Run) (g : Nat) : List Nat :=
  (r.blocks.filter (fun p => p.2.grid == g && !p.2.ended)).map (·.1)

/-- The number of blocks of a grid (R308). -/
def Grid.nb (g : Grid) : Nat := g.nbx * g.nby * g.nbz

/-- A grid whose every block is triggered (R184, R312). -/
def Grid.triggered (g : Grid) : Bool := decide (g.nb ≤ g.blocksTriggered)

/-- Whether every producer of a grid is triggered (R184, R312). -/
def producersTriggered (r : Run) (g : Grid) : Bool :=
  g.producers.all (fun p => match Assoc.get? r.grids p with
    | some x => x.triggered
    | none => true)

/-- Bytes written at places; the words they cover whole lose their poison (R395). -/
def writePlaces (r : Run) (ps : List Place) (bs : List Byte) : Run :=
  let r := (ps.zip bs).foldl (fun (r : Run) (p : Place × Byte) => rawStore r p.1 p.2) r
  let keys := ps.map Place.key
  { r with poison := r.poison.filter (fun w => !(List.range 8).all (fun i => keys.contains (8 * w + i))) }

/-- Bytes written through a context's mapping; bytes that no translation reaches are not written. -/
def writeVa (m : Mgmt) (r : Run) (ctxKey va : Nat) (bs : List Byte) : Run :=
  match pageSpan m r ctxKey va bs.length needWr with
  | .ok ps => writePlaces r ps bs
  | .error _ => r

/-- Bytes read through a context's mapping. -/
def readVa (m : Mgmt) (r : Run) (ctxKey va n : Nat) : Option (List Byte) :=
  match pageSpan m r ctxKey va n needRd with
  | .ok ps => some (ps.map (rawByte r))
  | .error _ => none

/-- The number read through a context's mapping, or 0. -/
def readVaNum (m : Mgmt) (r : Run) (ctxKey va n : Nat) : Nat :=
  match readVa m r ctxKey va n with
  | some bs => ofBytes bs
  | none => 0

/-- A queue whose context is killed: closed, its consumer ended, its reserved entries discarded (R20, R282). -/
def Queue.kill (q : Queue) : Queue :=
  { q with
    cend := true
    closed := true
    killed := true
    entries := q.entries.filter (fun e => match e with
      | .reserved _ => false
      | _ => true) }

/-- A core without a block's deque entry, its crews' requests and what their matrix operations have staged. -/
def CoreSt.strike (k : CoreSt) (b : Nat) (crews : List Nat) : CoreSt :=
  { k with
    deque := k.deque.erase b
    xacq := k.xacq.filter (fun q => !crews.contains q.1)
    running := k.running.filter (fun q => !crews.contains q.2.1)
    stage := k.stage.filter (fun s => !crews.contains s.crew) }

/-- The warp slots that a crew frees on its core as it ends, noted until the core has admitted who waits (R239). -/
def freeSlots (r : Run) (x : Crew) : Run :=
  if x.status = .resident ∨ x.status = .saving then
    r.core x.core (fun k => { k with freed := x.warps.foldl (fun fs w => setInsert fs w.quad) k.freed })
  else r

/-- A host-proxy call at the host agent cancelled (R377 step 3): the layout of a cancel record is not given, so it leaves as an
answer of the partition that names the record. -/
def cancelCall (r : Run) (c : Call) : Run := match c.proxy with
  | some i => { r with replies := r.replies ++ [{ kind := .vfReset, fn := c.part, bytes := toBytes 4 i }] }
  | none => r

/-- The status with which a call ends that nobody will see complete: CANCELLED at the host agent, ABORTED not yet started (R371, R377). -/
def endedStatus (c : Call) : Option Nat := if c.proxy.isSome then some 10 else if c.away then none else some 9

/-- A call that ends with its caller: its status goes to its parameter block, and the host agent is told (R371, R377). -/
def endCall (r : Run) (c : Call) : Run :=
  let r := match endedStatus c with
    | some st => writePlaces r ((List.range 2).map (fun i => .pad c.crew (c.off + 2 + i))) (toBytes 2 st)
    | none => r
  cancelCall r c

/-- Calls that end with those who made them, gone from every queue (R331, R373, R377). -/
def endCalls (r : Run) (ends : Call → Bool) : Run :=
  let r := (r.calls.filter (fun p => ends p.2)).foldl (fun r p => endCall r p.2) r
  let calls := r.calls.filter (fun p => !ends p.2)
  let live (p : Nat × List Nat) : Nat × List Nat := (p.1, p.2.filter (fun k => Assoc.has calls k))
  { r with calls := calls, svcQueues := r.svcQueues.map live, faultQueues := r.faultQueues.map live,
           units := r.units.filter (fun k => Assoc.has calls k) }

/-- Whether a copy of a crew that has been killed goes on: to the end of the element that it delivers (R331). -/
def Copy.endsElement (c : Copy) : Bool := c.snapshot.isSome && !c.skip && !c.done && !c.parked && c.fault.isNone

/-- A crew killed: its queues close, and its copies stop at their next element boundary (R331). -/
def Crew.kill (x : Crew) : Crew :=
  { x with
    status := .ended
    queues := x.queues.map Queue.kill
    aslice := { x.aslice with copies := x.aslice.copies.filter Copy.endsElement } }

/-- A block struck out with its crews: deque entry, granule requests, matrix operations and calls end with it
(R330, R331). Memory and merged contributions stay. -/
def strikeBlock (r : Run) (b : Nat) : Run :=
  match Assoc.get? r.blocks b with
  | none => r
  | some bl =>
    let r := endCalls r (fun c => bl.crews.contains c.crew)
    let r := bl.crews.foldl (fun r c => match Assoc.get? r.crews c with
      | some x => (freeSlots r x).crew c Crew.kill
      | none => r) r
    let r := { r with
      cores := r.cores.map (fun (p : Nat × CoreSt) => (p.1, p.2.strike b bl.crews)),
      matrix := r.matrix.filter (fun p => p.2.block != b) }
    r.block b (fun x =>
      { x with ended := true, held := [], heldCount := 0, heldTags := [], closedInterval := false, holds := [], ui := {} })

/-- A 4-byte counter of an interrupt block raised by n, wrapping (R361). -/
def bumpCounter (blk : Mem) (off n : Nat) : Mem := Mem.write blk 4 off (Mem.read blk 4 off + n)

/-- The offset of held slot i in an interrupt block (R361). -/
def heldOff (i : Nat) : Nat := 0x800 + 24 * i

/-- The valid held slots of an interrupt block that name a grid (R365). -/
def heldOf (blk : Mem) (ident : Nat) : List Nat :=
  (List.range 64).filter (fun i => Mem.read blk 1 (heldOff i + 1) % 2 == 1 && Mem.read blk 4 (heldOff i + 8) == ident)

/-- The held slots of a grid that has ended freed, each counted in DROPS (R365). -/
def freeHeld (r : Run) (g : Grid) : Run :=
  r.context g.ctx (fun c =>
    let hs := heldOf c.intblk g.ident
    { c with intblk := bumpCounter (hs.foldl (fun b i => Mem.zero b (heldOff i) 24) c.intblk) 0xE04 hs.length })

/-- A grid's completion: its status recorded and its packet completed (R307, R354). -/
def finishGrid (r : Run) (gk status : Nat) : Run :=
  match Assoc.get? r.grids gk with
  | none => r
  | some g =>
    if g.status.isSome then r
    else
      let r := freeHeld (r.grid gk (fun x => { x with status := some status })) g
      match g.packet with
      | some (serial, seq, pflags) => complete r (g.queue / 64) (g.queue % 64) serial seq status 1 pflags g.ident
      | none => r

/-- The grids that fail because a producer ended without being triggered (R313), one generation for each unit of fuel. -/
def failDependents : Nat → Run → List Nat → Run
  | 0, r, _ => r
  | _, r, [] => r
  | n + 1, r, gk :: rest =>
    match Assoc.get? r.grids gk with
    | none => failDependents n r rest
    | some g =>
      if g.triggered then failDependents n r rest
      else
        let ds := (r.grids.filter (fun p => p.2.status.isNone && p.2.producers.contains gk)).map (·.1)
        let r := ds.foldl (fun r d =>
          let r := r.grid d (fun x => { x with depFailed := true, nextBlock := x.nb })
          let r := (liveBlocks r d).foldl (fun r b =>
            match Assoc.get? r.blocks b with
            | some bl => if bl.passedWait then r else strikeBlock r b
            | none => r) r
          if liveBlocks r d = [] then finishGrid r d 5 else r) r
        failDependents n r (rest ++ ds.filter (fun d =>
          match Assoc.get? r.grids d with
          | some x => x.status.isSome
          | none => false))

/-- A grid's blocks and tasks struck out, and the grid completed with a status (R330, R331). -/
def endGrid (r : Run) (gk status : Nat) : Run :=
  match Assoc.get? r.grids gk with
  | none => r
  | some g => if g.status.isSome then r else finishGrid ((liveBlocks r gk).foldl strikeBlock r) gk status

/-- A grid ended with a status by a KILL disposition or a cancellation, with what depends on it (R313, R330). -/
def killGrid (r : Run) (gk status : Nat) : Run :=
  match Assoc.get? r.grids gk with
  | none => r
  | some g =>
    if g.status.isSome then r
    else
      let r := endGrid r gk status
      failDependents (r.grids.length + 1) r [gk]

/-- The live grids of a context, by key. -/
def liveGrids (r : Run) (ctxKey : Nat) : List Nat :=
  (r.grids.filter (fun p => p.2.ctx == ctxKey && p.2.status.isNone)).map (·.1)

/-- The packets of a context that a queue has accepted and not completed: they end with it, as KILLED (R353). -/
def endPackets (r : Run) (ctxKey fn q : Nat) : Run :=
  let x := r.queueIf fn q
  let done (ty : Nat) (r : Run) (p : Nat × Nat × List Byte) : Run :=
    complete r fn q p.1 (ofBytes ((p.2.2.drop 8).take 8)) 6 ty (ofBytes ((p.2.2.drop 1).take 1)) 0
  let ws := x.waiting.toList.filter (fun p => p.2.1 == ctxKey)
  let gs := x.signals.filter (fun p => p.2.1 == ctxKey)
  if ws = [] ∧ gs = [] then r
  else
    let r := r.setQueueIf fn q (fun x =>
      { x with waiting := if ws = [] then x.waiting else none, signals := x.signals.filter (fun p => p.2.1 != ctxKey) })
    gs.foldl (done 3) (ws.foldl (done 2) r)

/-- The handles that a context opened through the host agent closed (R375): a close leaves as an answer that names the handle. -/
def closeHandles (r : Run) (ctxKey : Nat) : Run :=
  r.funcs.foldl (fun r (p : Nat × Func) =>
    let hs := p.2.handles.filter (fun h => h.2 == ctxKey)
    if hs = [] then r
    else
      let closes : List Reply := hs.map (fun h =>
        { kind := .fileClose, fn := p.1, bytes := toBytes 4 (p.2.handleGen.toNat % 2 ^ 16 * 2 ^ 16 + h.1) })
      { r.setFunc p.1 (fun f => { f with handles := f.handles.filter (fun h => h.2 != ctxKey) }) with replies := r.replies ++ closes }) r

/-- What the tiles hold of a context forgotten: nothing carries its PASID any more (R340). -/
def forgetPages (r : Run) (ctxKey : Nat) : Run :=
  { r with tiles := r.tiles.map (fun (p : Nat × TileSt) =>
      (p.1, { p.2 with hostXlats := p.2.hostXlats.filter (fun x => x.ctx != ctxKey), reqs := p.2.reqs.filter (fun q => q.ctx != ctxKey) })) }

/-- A context ended: its calls are cancelled, its grids complete with KILLED, its accepted packets and its handles end with it, and its
PASID is revoked (R331, R340, R353, R375, R377). -/
def killContext (r : Run) (ctxKey : Nat) : Run :=
  let r := endCalls r (fun c => c.part * 64 + c.ctx == ctxKey)
  let r := (liveGrids r ctxKey).foldl (fun r g => endGrid r g 6) r
  let r := r.funcs.foldl (fun r p => p.2.queues.foldl (fun r q => endPackets r ctxKey p.1 q.1) r) r
  let r := forgetPages (closeHandles r ctxKey) ctxKey
  r.context ctxKey (fun x => { x with live := false, halted := false, thrSum := [], stop := none })

/-! ## Digests of ended tasks (R318 to R321) -/

/-- Task indices in order: block, kind, task index (R318). -/
def taskLt (a b : Nat × Nat × Nat × BitVec 128) : Bool :=
  a.1 < b.1 || (a.1 == b.1 && (a.2.1 < b.2.1 || (a.2.1 == b.2.1 && a.2.2.1 < b.2.2.1)))

/-- A task's digest put in its place among those recorded. -/
def insertTask (x : Nat × Nat × Nat × BitVec 128) : List (Nat × Nat × Nat × BitVec 128) → List (Nat × Nat × Nat × BitVec 128)
  | [] => [x]
  | y :: ys => if taskLt x y then x :: y :: ys else y :: insertTask x ys

/-- Whether two recorded tasks share a task index (R320). -/
def dupTasks : List (Nat × Nat × Nat × BitVec 128) → Bool
  | [] => false
  | [_] => false
  | x :: y :: ys => !taskLt x y || dupTasks (y :: ys)

/-- The grid digest (R318). -/
def gridDigest (g : Grid) : List Byte :=
  let h := shake256 (toBytes 8 g.detkey0 ++ toBytes 8 g.detkey1 ++ toBytes 4 g.nbx ++ toBytes 2 g.nby ++
    toBytes 2 g.nbz ++ toBytes 2 g.kidx) 64
  g.digests.foldl (fun h (b, k, t, d) =>
    shake256 (h ++ toBytes 8 b ++ toBytes 1 k ++ toBytes 4 t ++ toBytes 16 d.toNat) 64) h

/-- The recorded digest of a task, or none when its index has no entry (R319, R321). -/
def recordedDigest (m : Mgmt) (r : Run) (g : Grid) (b kind taskix : Nat) : Option (BitVec 128) :=
  if kind = 0 then
    if b < readVaNum m r g.ctx g.detrec 8 then
      some (BitVec.ofNat 128 (readVaNum m r g.ctx (g.detrec + 128 + 16 * b) 16))
    else none
  else
    let tsk := g.detrec + 128 + 16 * readVaNum m r g.ctx g.detrec 8
    ((List.range (readVaNum m r g.ctx (g.detrec + 8) 8)).find? (fun i =>
      readVaNum m r g.ctx (tsk + 32 * i) 8 == b && readVaNum m r g.ctx (tsk + 32 * i + 8) 4 == taskix)).map
      (fun i => BitVec.ofNat 128 (readVaNum m r g.ctx (tsk + 32 * i + 16) 16))

/-- A warp, or a slice, stopped with a record unless it has ended or stands stopped (R329). -/
def Warp.halt (w : Warp) (t : TrapRec) : Warp :=
  if w.ended || w.hostrec.isSome then w
  else { w with hostrec := some { t with pc := (w.batches.head?.map (·.pc)).getD 0, afls := w.afls } }
def ASlice.halt (s : ASlice) (t : TrapRec) : ASlice :=
  if s.ended || s.hostrec.isSome then s else { s with hostrec := some { t with pc := s.pc } }
def Crew.halt (x : Crew) (t : TrapRec) : Crew :=
  { x with reason := 4, warps := x.warps.map (·.halt t), aslice := x.aslice.halt t }

/-- Every warp and slice of a context stopped with a record, as by a HOST disposition, and those that start later (R321, R329, R400). -/
def stopContext (r : Run) (ctxKey code info0 : Nat) : Run :=
  let rec_ : TrapRec := { code := code, info0 := BitVec.ofNat 32 info0 }
  let r := r.context ctxKey (fun c => { c with stop := some rec_ })
  let mine := (r.crews.filter (fun p => p.2.status != .ended &&
    match Assoc.get? r.blocks p.2.block with
    | some b => match Assoc.get? r.grids b.grid with
      | some g => g.ctx == ctxKey
      | none => false
    | none => false)).map (·.1)
  mine.foldl (fun r c => r.crew c (·.halt rec_)) r

/-- A Digest Mismatch reported to the host, which stops the context (R321): task digests of 128 bits, or grid digests of 512. -/
def digestMismatch (m : Mgmt) (r : Run) (gk : Nat) (g : Grid) (ds : List (BitVec 512)) : Run :=
  let r := { r with digestReports := r.digestReports ++ [(gk, ds)] }
  let r := stopContext r g.ctx tcDigest 0
  raiseStop m r g.ctx (some g.queue)

/-- The tile on which a block's first crew ran. -/
def blockTile (r : Run) (bl : Block) : Nat := ((bl.crews.head?.bind (fun c => Assoc.get? r.crews c)).map (fun x => x.core / 24)).getD 0

/-- The check of an ended task of a grid in CHECK (R321). -/
def checkTask (m : Mgmt) (r : Run) (gk : Nat) (g : Grid) (bl : Block) : Run :=
  let mismatch (r : Run) (ds : List (BitVec 128)) : Run := digestMismatch m r gk g (ds.map (BitVec.setWidth 512))
  let kind := b2n bl.isTask
  let keep (d : BitVec 128) (r : Run) : Run :=
    r.grid gk (fun x => { x with digests := insertTask (bl.lin, kind, bl.taskix, d) x.digests })
  match recordedDigest m r g bl.lin kind bl.taskix with
  | none => mismatch (keep bl.digest r) [BitVec.allOnes 128]
  | some rd =>
    if bl.replay then
      let d1 := match g.redo with
        | (_, _, _, d) :: _ => d
        | [] => 0
      let r := r.grid gk (fun x => { x with redo := x.redo.drop 1 })
      let r := keep bl.digest r
      if bl.digest = rd then
        let r := r.grid gk (fun x => { x with soft := x.soft + 1 })
        let r := writeVa m r g.ctx (g.detrec + 24) (toBytes 8 (readVaNum m r g.ctx (g.detrec + 24) 8 + 1))
        countEvents r (blockTile r bl) g.ctx 7 1
      else if bl.digest = d1 then mismatch r [rd, d1]
      else mismatch r [rd, d1, bl.digest]
    else if bl.digest = rd then keep bl.digest r
    else r.grid gk (fun x => { x with redo := insertTask (bl.lin, kind, bl.taskix, bl.digest) x.redo })

/-- An entry of the task table of a record area (R319). -/
def taskEntry (t : Nat × Nat × Nat × BitVec 128) : List Byte :=
  toBytes 8 t.1 ++ toBytes 4 t.2.2.1 ++ toBytes 4 0 ++ toBytes 16 t.2.2.2.toNat

/-- The forked tasks among those recorded. -/
def Grid.taskDigests (g : Grid) : List (Nat × Nat × Nat × BitVec 128) := g.digests.filter (fun t => t.2.1 = 1)

/-- The address of entry i of a grid's task table (R319). -/
def Grid.taskSlot (g : Grid) (i : Nat) : Nat := g.detrec + 128 + 16 * g.nb + 32 * i

/-- The digest of an ended task recorded or checked, as the grid's DET says: a block's goes to its place in BLK, a forked task's to the
next entry of TSK while the table has room (R320, R321). -/
def settleDigest (m : Mgmt) (r : Run) (gk : Nat) (g : Grid) (bl : Block) : Run :=
  if g.det = 1 then
    let t := (bl.lin, b2n bl.isTask, bl.taskix, bl.digest)
    let n := g.taskDigests.length
    let r := r.grid gk (fun x => { x with digests := insertTask t x.digests })
    if !bl.isTask then writeVa m r g.ctx (g.detrec + 128 + 16 * bl.lin) (toBytes 16 bl.digest.toNat)
    else if n < readVaNum m r g.ctx (g.detrec + 16) 8 then writeVa m r g.ctx (g.taskSlot n) (taskEntry t)
    else r
  else if g.det = 2 then checkTask m r gk g bl
  else r

/-- The record area written at the end of a grid in RECORD, or compared in CHECK, and the completion status
(R320, R321). -/
def settleGrid (m : Mgmt) (r : Run) (gk : Nat) (g : Grid) : Run × Nat :=
  let tasks := g.taskDigests
  if g.det = 1 then
    let cap := readVaNum m r g.ctx (g.detrec + 16) 8
    if cap < tasks.length ∨ dupTasks g.digests then
      (writeVa m r g.ctx (g.detrec + 32) (List.replicate 64 0), 8)
    else
      let r := writeVa m r g.ctx g.detrec (toBytes 8 g.nb ++ toBytes 8 tasks.length)
      let r := writeVa m r g.ctx (g.detrec + 32) (gridDigest g)
      (writeVa m r g.ctx (g.taskSlot 0) (tasks.flatMap taskEntry), 0)
  else if g.det = 2 then
    if dupTasks g.digests then (r, 8)
    else if readVa m r g.ctx (g.detrec + 32) 64 = some (gridDigest g) then (r, 0)
    else
      let gd := BitVec.ofNat 512 (ofBytes (gridDigest g))
      let old := BitVec.ofNat 512 (readVaNum m r g.ctx (g.detrec + 32) 64)
      (digestMismatch m r gk g [old, gd], 0)
  else (r, 0)

/-- A grid whose every block and task has ended completes (R308, R313). -/
def maybeFinish (m : Mgmt) (r : Run) (gk : Nat) : Run :=
  match Assoc.get? r.grids gk with
  | none => r
  | some g =>
    if g.status.isSome then r
    else if g.depFailed then
      (if liveBlocks r gk = [] then failDependents (r.grids.length + 1) (finishGrid r gk 5) [gk] else r)
    else if g.nb ≤ g.blocksEnded ∧ g.tasksLive = 0 ∧ g.redo = [] then
      let (r, status) := settleGrid m r gk g
      finishGrid r gk status
    else r

/-- A forked task counted as ended, once its join word has been decremented (R153, R308). -/
def endTask (m : Mgmt) (r : Run) (b gk : Nat) : Run :=
  let r := r.block b (fun x => { x with joinDue := false })
  maybeFinish m (r.grid gk (fun x => { x with tasksLive := x.tasksLive - 1 })) gk

/-- The join word of an ended task decremented through its tile's translation unit: one that needs the translation of a HOST page waits
for it (R153, R347). -/
def settleJoin (m : Mgmt) (r : Run) (b : Nat) : Run :=
  match Assoc.get? r.blocks b with
  | none => r
  | some bl =>
    match Assoc.get? r.grids bl.grid, bl.joinw with
    | some g, some a =>
      let asker := asks (blockTile r bl) (8 * b + 5)
      if !bl.joinDue then r
      else match globalSpan m r asker g.ctx a 8 needAt with
        | .ok ps => endTask m (writePlaces r ps (toBytes 8 (ofBytes (ps.map (rawByte r)) + (2 ^ 64 - 1)))) b bl.grid
        | .error (.hostMiss page need) => requestPage m r asker g.ctx page need
        | .error .held => r
        | .error (.trap _ _) => endTask m (dropRefused r asker g.ctx (a / 4096)) b bl.grid
    | _, _ => r

/-- A block or task whose crews have all ended (R136, R153, R184, R239, R398). -/
def endBlock (m : Mgmt) (r : Run) (b : Nat) : Run :=
  let r := openInterval r b
  match Assoc.get? r.blocks b with
  | none => r
  | some bl =>
    match Assoc.get? r.grids bl.grid with
    | none => r
    | some g =>
      let r := r.block b (fun x => { x with ended := true, triggered := true })
      let r := settleDigest m r bl.grid g bl
      if bl.replay then maybeFinish m r bl.grid
      else if bl.isTask then
        (if bl.joinw.isSome then settleJoin m (r.block b (fun x => { x with joinDue := true })) b else endTask m r b bl.grid)
      else
        maybeFinish m (r.grid bl.grid (fun x =>
          { x with blocksEnded := x.blocksEnded + 1,
                   blocksTriggered := if bl.triggered then x.blocksTriggered else x.blocksTriggered + 1 })) bl.grid

/-- A crew whose two slices have ended: its core's resources are free, and its block may end (R136, R239). -/
def endCrewIfDone (m : Mgmt) (r : Run) (c : Nat) : Run :=
  match Assoc.get? r.crews c with
  | none => r
  | some cr =>
    if cr.status != .ended && cr.aslice.ended && cr.warps.all (·.ended) then
      let r := (freeSlots r cr).crew c (fun x => { x with status := .ended })
      let r := { r with stales := r.stales.filter (fun x => x.crew != c) }
      match Assoc.get? r.blocks cr.block with
      | none => r
      | some bl =>
        if bl.crews.all (fun k => match Assoc.get? r.crews k with
          | some x => x.status == .ended
          | none => true) then endBlock m r cr.block
        else r
    else r

end Sys2Proof.Machine
end

