-- ==== Sys2Proof/Machine/Synonym.lean ====
section
/-! DEFINITION. Synonyms (R250, R259): on a page that is not L1-bypass, each virtual page through which an agent reaches a byte is to
that agent as a location of its own, until a fence of block scope or wider lies between. Memory holds what the agent's stores come
to; what another page of the agent may still show of a byte is kept beside it (log 1). -/

namespace Sys2Proof.Machine

/-- An agent of a crew: a lane of a warp, or its address slice (R256). -/
def laneParty (w l : Nat) : Nat := 32 * w + l
def sliceParty : Nat := 1024

/-- The virtual page by which an access of a space goes, where another page that maps the same bytes would be a synonym: none outside
global memory and on an L1-bypass page (R250). -/
def synonymPage (m : Mgmt) (r : Run) (ctx sp va : Nat) : Option Nat :=
  if sp < 4 then none
  else match stage1 m r ctx va with
    | .ok l => if l.byp then none else some (va / 4096)
    | .error _ => none

/-- The stores of an agent to some of n bytes through other pages that an access through this page need not see. -/
def Run.clashes (r : Run) (crew party page : Nat) (p : Place) (n : Nat) : List Stale :=
  r.stales.filter (fun x => x.crew == crew && x.party == party && x.page != page && !x.seen.contains page &&
    decide (p.key ≤ x.key) && decide (x.key < p.key + n))

/-- Some of those stores seen through a page. -/
def Run.sees (r : Run) (cs : List Stale) (page : Nat) : Run :=
  { r with stales := r.stales.map (fun x => if cs.contains x then { x with seen := page :: x.seen } else x) }

/-- What an agent reads of n bytes through a page: as they stand, or as they stood before one of its stores through another page, and
then before every later one. Which is free. -/
def synLoad (r : Run) (blk crew party : Nat) (page : Option Nat) (p : Place) (n : Nat) : Nat × Run :=
  match page with
  | none => (loadNum r blk p n, r)
  | some g =>
    let cs := r.clashes crew party g p n
    if cs = [] then (loadNum r blk p n, r)
    else
      let (i, r) := r.draw
      let hidden (x : Stale) : Bool := match cs[Config.pick i % (cs.length + 1)]? with
        | none => false
        | some c => decide (c.at_ ≤ x.at_)
      let byte (k : Nat) : Byte := match cs.find? (fun x => hidden x && x.key == p.key + k) with
        | some x => x.old
        | none => loadByte r blk (p.add k)
      (gatherBytes n (fun k => (byte k).toNat), r.sees (cs.filter (fun x => !hidden x)) g)

/-- What an agent's store of n bytes through a page does to memory. A byte that another page of the agent has stored to and that the fence
has not yet reached keeps, freely, that store's value as the later one. -/
def synStore (r : Run) (blk crew party : Nat) (page : Option Nat) (cls : OpClass) (p : Place) (n x : Nat) : Run :=
  match page with
  | none => storeNum r blk p n x
  | some g =>
    let cs := r.clashes crew party g p n
    let (i, r) := if cs = [] then (0, r) else r.draw
    let lost (k : Nat) : Option Stale :=
      if Config.pick i % 2 = 0 then none else (cs.filter (fun x => x.key == p.key + k)).getLast?
    let now (k : Nat) : Byte := loadByte r blk (p.add k)
    let at_ := r.stales.foldl (fun n x => max n (x.at_ + 1)) 0
    let es := (List.range n).map (fun k =>
      let e : Stale := { crew := crew, party := party, at_ := at_, page := g, key := p.key + k, old := now k, cls := cls }
      match lost k with
      | some f => { e with page := f.page, old := BitVec.ofNat 8 (x / 256 ^ k) }
      | none => e)
    let y := if cs = [] then x else gatherBytes n (fun k => match lost k with
      | some _ => (now k).toNat
      | none => x / 256 ^ k % 256)
    let r := (storeNum r blk p n y).sees cs g
    { r with stales := r.stales ++ es }

/-- The stores of a warp of a class retired by a WAITC: a later fence covers them (R182, R267). -/
def waitedStores (r : Run) (crew wi : Nat) (cls : OpClass) : Run :=
  if r.stales = [] then r
  else { r with stales := r.stales.map (fun x =>
    if x.crew = crew ∧ x.party / 32 = wi ∧ x.cls = cls then { x with cls := .none } else x) }

/-- A fence of block scope or wider: the stores of some agents of a crew that it covers are ordered before what follows (R259). -/
def fenceSynonyms (r : Run) (crew : Nat) (party : Nat → Bool) : Run :=
  if r.stales = [] then r
  else { r with stales := r.stales.filter (fun x => !(x.crew == crew && party x.party && x.cls == .none)) }

/-- The agents of a crew have met a release and an acquire of block scope or wider, which cover every store (R267, R269). -/
def settleSynonyms (r : Run) (crew : Nat) (party : Nat → Bool) : Run :=
  if r.stales = [] then r
  else { r with stales := r.stales.filter (fun x => !(x.crew == crew && party x.party)) }

end Sys2Proof.Machine
end

