-- ==== Sys2Proof/Machine/Flags.lean ====
section
/-! DEFINITION. Delivering arithmetic flags: AFL is sticky (R24), and every flag raised in a lane but NX counts one event
of its threshold class (R55). -/

namespace Sys2Proof.Machine

/-- The AFL of a lane (R24). -/
def Warp.afl (w : Warp) (l : Nat) : Afl := rdReg w.afls l

/-- Flags set in a lane; none is cleared (R24). -/
def Warp.raise (w : Warp) (l : Nat) (fl : Afl) : Warp :=
  if fl = 0#8 then w else { w with afls := wrReg w.afls l (w.afl l ||| fl) }

/-- Flags set in several lanes. -/
def Warp.raiseAll (w : Warp) (fs : List (Nat × Afl)) : Warp := fs.foldl (fun w p => w.raise p.1 p.2) w

/-- The lanes in which a flag is raised. -/
def raisedIn (fs : List (Nat × Afl)) (fl : Afl) : Nat := (fs.filter (fun p => p.2 &&& fl != 0#8)).length

/-- The events of raised flags counted in their classes: NV, DZ, OF, UF, DSS and ACR (R55). -/
def countFlags (r : Run) (tile ctxKey : Nat) (fs : List (Nat × Afl)) : Run :=
  if fs.all (fun p => p.2 &&& ~~~(flNX ||| flBND) == 0#8) then r
  else
    [(0, flNV), (1, flDZ), (2, flOF), (3, flUF), (5, flDSS), (6, flACR)].foldl
      (fun r p => countEvents r tile ctxKey p.1 (raisedIn fs p.2)) r

end Sys2Proof.Machine
end

