-- ==== Sys2Proof/Machine/Ops.lean ====
section
/-! DEFINITION. The operations that every word of the two slices shares: its issuer, the checks before it takes effect in
the order of R324, what comes after it (R58, R63, R135), and taking a trap and returning from one (R325 to R330). -/

namespace Sys2Proof.Machine

/-! ## Registers of a warp -/

/-- The lowest lane of a mask; 32 for none. -/
def lowLane (m : Mask) : Nat := trailingZeros 32 m.toNat

/-- The requested count: the registers the warp may name (R11). -/
def Warp.count (w : Warp) : Nat := w.base + 32 * w.gran

/-- Vector register n of lane L (R76). -/
def Warp.v (w : Warp) (l n : Nat) : Word := rdReg w.vregs (32 * n + l)

/-- The bad words of a warp without one that is written whole (R394). -/
def Warp.without (w : Warp) (c : Cell) : List Cell := w.bad.filter (fun x => x != c)

/-- Vector register n of lane L written (R76). -/
def Warp.setV (w : Warp) (l n : Nat) (x : Word) : Warp :=
  { w with vregs := wrReg w.vregs (32 * n + l) x, bad := w.without (.vreg n l) }

/-- The pair n, n + 1 of lane L (R76). -/
def Warp.v64 (w : Warp) (l n : Nat) : Nat := (w.v l n).toNat + 2 ^ 32 * (w.v l (n + 1)).toNat

/-- A register, or a pair for 64 bits, as a number. -/
def Warp.vW (w : Warp) (wide : Bool) (l n : Nat) : Nat := if wide then w.v64 l n else (w.v l n).toNat

/-- A register, or a pair for 64 bits, written. -/
def Warp.setVW (w : Warp) (wide : Bool) (l n x : Nat) : Warp :=
  if wide then (w.setV l n (BitVec.ofNat 32 x)).setV l (n + 1) (BitVec.ofNat 32 (x / 2 ^ 32))
  else w.setV l n (BitVec.ofNat 32 x)

/-- Predicate n of every lane: p0 reads as 1 (R16). -/
def Warp.predMask (w : Warp) (n : Nat) : Mask := if n = 0 then allLanes else rdReg w.preds n

/-- Predicate n of lane L (R76). -/
def Warp.p (w : Warp) (l n : Nat) : Bool := (w.predMask n).getLsbD l

/-- Predicate n written in the lanes of a mask; a write of p0 is discarded (R16). -/
def Warp.setPredMask (w : Warp) (n : Nat) (lanes value : Mask) : Warp :=
  if n = 0 then w
  else { w with
    preds := wrReg w.preds n ((rdReg w.preds n &&& ~~~lanes) ||| (value &&& lanes))
    bad := if lanes = allLanes then w.without (.pred n) else w.bad }

/-- The window base of its code (R149). -/
def windowBase (wb : Nat) : Nat := match wb with
  | 0 => 0
  | 1 => 112
  | 2 => 224
  | _ => 256

/-- The uniform register a field names (R14). -/
def Warp.uIdx (w : Warp) (f : Nat) : Nat := if f < 16 then f else windowBase w.wb + f

/-- Uniform register n. -/
def Warp.u (w : Warp) (n : Nat) : Word := rdReg w.uregs n

/-- The pair n, n + 1 of uniform registers. -/
def Warp.u64 (w : Warp) (n : Nat) : Nat := (w.u n).toNat + 2 ^ 32 * (w.u (n + 1)).toNat

/-- A uniform register, or a pair, as a number. -/
def Warp.uW (w : Warp) (wide : Bool) (n : Nat) : Nat := if wide then w.u64 n else (w.u n).toNat

/-- Uniform register n written; its quad loses its capability tag (R192). -/
def Warp.setU (w : Warp) (n : Nat) (x : Word) : Warp :=
  { w with uregs := wrReg w.uregs n x, utags := w.utags &&& ~~~(1#96 <<< (n / 4)), bad := w.without (.ureg n) }

/-- A uniform register, or a pair, written. -/
def Warp.setUW (w : Warp) (wide : Bool) (n x : Nat) : Warp :=
  if wide then (w.setU n (BitVec.ofNat 32 x)).setU (n + 1) (BitVec.ofNat 32 (x / 2 ^ 32))
  else w.setU n (BitVec.ofNat 32 x)

/-- Consecutive uniform registers written. -/
def Warp.setUs (w : Warp) (n : Nat) : List Word → Warp
  | [] => w
  | x :: xs => Warp.setUs (w.setU n x) (n + 1) xs

/-- The LNK of a lane (R23). -/
def Warp.lnk (w : Warp) (l : Nat) : Word := rdReg w.lnks l

/-- The LNK of a lane written. -/
def Warp.setLnk (w : Warp) (l : Nat) (x : Word) : Warp := { w with lnks := wrReg w.lnks l x, bad := w.without (.lnk l) }

/-- Whether an operation has completed: no entry, or one marked done. -/
def opDone (ops : List PendOp) (id : Nat) : Bool := ops.all (fun o => o.id != id || o.done)

/-- The operations that have not retired: those of a class whose older ones have all completed leave (R25). -/
def retire (ops : List PendOp) : List PendOp :=
  (ops.foldl (fun (kept, stuck) o =>
    if o.done && (o.cls == .none || !stuck.contains o.cls) then (kept, stuck)
    else (kept ++ [o], o.cls :: stuck)) (([] : List PendOp), ([] : List OpClass))).1

/-- The count of a class (R25). -/
def counter (ops : List PendOp) (c : OpClass) : Nat := (ops.filter (fun o => o.cls == c)).length

/-- A fresh operation number among those outstanding. -/
def freshOp (ops : List PendOp) (ws : List Window) : Nat :=
  ws.foldl (fun n w => max n (w.op + 1)) (ops.foldl (fun n o => max n (o.id + 1)) 1)

/-! ## Batches (R7, R135) -/

/-- Whether two batches that stand ready merge: both at a run boundary at one PC, neither waiting nor executing again a word of
R64. -/
def Batch.mergesWith (a b : Batch) : Bool :=
  a.fresh && b.fresh && a.pc == b.pc && a.wait == .none && b.wait == .none && a.replay == [] && b.replay == []

/-- Two batches as one: the greater loss count, promoted if either was (R230). -/
def Batch.merge (a b : Batch) : Batch :=
  { a with
    lanes := a.lanes ||| b.lanes
    losses := max a.losses b.losses
    promoted := match a.promoted, b.promoted with
      | some x, some y => some (min x y)
      | some x, none => some x
      | none, y => y
    nudge := if a.nudge = 0 then b.nudge else a.nudge
    yielded := a.yielded || b.yielded }

/-- A ready batch put among others, into the first ready one that it merges with (R135). -/
def mergeInto (ready : Batch → Bool) (b : Batch) : List Batch → List Batch
  | [] => [b]
  | x :: xs => if ready x && x.mergesWith b then x.merge b :: xs else x :: mergeInto ready b xs

/-- The batches of a warp with those that stand ready at one PC as one (R135). -/
def mergeReady (ready : Batch → Bool) (bs : List Batch) : List Batch :=
  bs.foldl (fun l b => if ready b then mergeInto ready b l else l ++ [b]) []

/-- Some lanes of a batch, with what those lanes still pass over (R64). -/
def Batch.only (b : Batch) (lanes : Mask) : Batch :=
  { b with
    lanes := lanes
    replay := (b.replay.map (fun p => { p with lanes := p.lanes &&& lanes })).filter (fun p => p.lanes != 0#32) }

/-- The lanes that run the handler of a warp. -/
def Warp.handlerLanes (w : Warp) : Mask := match w.hsave with
  | some h => h.lanes
  | none => 0#32

/-- The batches of a warp with one batch, found by its lowest lane, replaced by others; one with no lanes ceases to exist
(R136). -/
def Warp.replaceBatch (w : Warp) (lead : Nat) (bs : List Batch) : Warp :=
  { w with batches := w.batches.filter (fun b => lowLane b.lanes != lead) ++ bs.filter (fun b => b.lanes != 0#32) }

/-- The batch whose lowest lane is given. -/
def Warp.batch? (w : Warp) (lead : Nat) : Option Batch := w.batches.find? (fun b => lowLane b.lanes == lead)

/-! ## The issuer of a compute word -/

/-- The party that issues a compute word and what it may read. -/
structure Env where
  m : Mgmt
  r : Run
  cid : Nat
  wi : Nat
  lead : Nat
  crew : Crew
  w : Warp
  b : Batch
  blk : Block
  g : Grid
  k : Kernel

/-- The kernel a block runs (R83, R151). -/
def kernelOf (g : Grid) (b : Block) : Kernel := (Assoc.get? g.kernels b.kernel).getD {}

/-- The issuer, when it exists. -/
def env? (m : Mgmt) (r : Run) (cid wi lead : Nat) : Option Env := do
  let c ← Assoc.get? r.crews cid
  let w ← c.warps[wi]?
  let b ← w.batch? lead
  let bl ← Assoc.get? r.blocks c.block
  let g ← Assoc.get? r.grids bl.grid
  return ⟨m, r, cid, wi, lead, c, w, b, bl, g, kernelOf g bl⟩

/-- The active lanes: those of the batch whose guard holds (R60). -/
def Env.active (e : Env) : Mask := e.b.lanes &&& e.b.guard
/-- The active lanes in ascending order. -/
def Env.lanes (e : Env) : List Nat := lanesOf e.active
/-- The HMOD fields that apply (R70). -/
def Env.mods (e : Env) : OpHmod := e.b.hints.hmod.getD noMods
def Env.xa (e : Env) : Nat := match e.b.hints.hxb with
  | some x => x.xa
  | none => 0
def Env.xb (e : Env) : Nat := match e.b.hints.hxb with
  | some x => x.xb
  | none => 0
/-- The physical tile of the issuing core. -/
def Env.tile (e : Env) : Nat := e.crew.core / 24
/-- Who asks for translations when a batch's word does. -/
def batchAsker (tile cid wi lead : Nat) : Nat := asks tile (8 * ((cid * 32 + wi) * 32 + lead) + 1)
/-- The issuing batch, as it asks its tile's translation unit. -/
def Env.asker (e : Env) : Nat := batchAsker e.tile e.cid e.wi e.lead
/-- The block thread index of a lane (R222, R316). -/
def Env.thread (e : Env) (l : Nat) : Nat := e.crew.idx * e.crew.threads + 32 * e.wi + l
/-- The key of a warp within its block. -/
def Env.wkey (e : Env) : Nat := e.crew.idx * 32 + e.wi
/-- The context key. -/
def Env.ctx (e : Env) : Nat := e.g.ctx

/-- Whether HIMM or HIMMX applies (R69). -/
def Hints.imm? (h : Hints) : Bool := h.himm.isSome || h.himmx.isSome

/-- The immediate of HIMM and HIMMX, as 32 bits (R69). -/
def Hints.immValue (h : Hints) : Nat :=
  match h.himmx with
  | some x => x * 2 ^ 20 + h.himm.getD 0
  | none => sextTo 32 20 (h.himm.getD 0)

/-- Whether a tile serves an element format: in reduced service FP32, BF16 and FP16 alone (R416). -/
def servesFormat (m : Mgmt) (tile : Nat) (f : EFmt) : Bool :=
  !((Assoc.get? m.tiles tile).getD {}).reduced || f == .fp32 || f == .bf16 || f == .fp16

/-! ## What a word is -/

/-- The registers a word reads and writes, by resolved number (R11, R63). -/
structure Uses where
  vr : List Nat := []
  vw : List Nat := []
  ur : List Nat := []
  uw : List Nat := []
  pr : List Nat := []
  pw : List Nat := []
  /-- it reads the LNK, or the AFL, of its lanes -/
  lnk : Bool := false
  afl : Bool := false
deriving DecidableEq, Repr, Inhabited

/-- Why a word does not take effect now. -/
inductive Stop where
  /-- it waits at issue and issues again (R132, R155) -/
  | hold
  /-- it waits for a translation of a HOST page (R161, R348) -/
  | page (page need : Nat)
  | trap (t : Trapping)
deriving DecidableEq, Repr, Inhabited

/-- Where the batch goes after a word. -/
inductive Next where
  | seq
  /-- the lanes named go to their targets, the others to the next word (R133, R134) -/
  | jumps (ts : List (Nat × Word))
  /-- the lanes' threads end (R136) -/
  | exits (lanes : Mask)
  /-- the word has been recorded and waits in its place (R196) -/
  | stay (w : Wait)
  /-- the trap is taken after the word (R145, R146) -/
  | trapAfter (t : Trapping)
  /-- the word has recorded itself on its batch and waits: nothing else follows it yet (R175, R179, R191) -/
  | parked
  /-- a hint: the next word of the run meets this guard and these hints (R60, R69) -/
  | keeps (guard : Mask) (h : Hints)
  /-- as seq, and the batch loses an arbitration after its run (R144) -/
  | yields
  /-- the lanes go on as these batches (R190) -/
  | resumes (bs : List Batch)
deriving DecidableEq, Repr, Inhabited

/-- What a word does: the state after its own effect, where the batch goes, and the operation a lookahead window waits
for. -/
structure Flow where
  run : Run
  next : Next := .seq
  op : Nat := 0

/-- A word of the compute slice as R75, R324 and its own entry take it. -/
structure WordDef where
  /-- the B bit -/
  bd : Nat
  /-- hints and modifiers accepted, fields in order (R66, R69, R70): Illegal Instruction otherwise -/
  legal : Env → Bool
  uses : Env → Uses := fun _ => {}
  /-- the queue that an FM = 11 operand or a pop takes from (R19, R166) -/
  pops : Env → Option Nat := fun _ => none
  /-- whether it holds at issue -/
  waits : Env → Bool := fun _ => false
  body : Env → Except Stop Flow
  /-- LA, for a long-latency word (R63) -/
  la : Option Nat := none
  /-- its window, where it differs from its uses -/
  window : Option (Env → Uses) := none
  /-- the counter it stands in until it completes (R25) -/
  cls : Env → OpClass := fun _ => .none
  /-- a hint or a transfer of control: what follows it is known only when it has taken effect -/
  steers : Bool := false

/-- An Illegal Instruction of the active lanes. -/
def illegal (e : Env) : Stop := .trap { code := tcIllegal, mask := e.active }

/-- The hints every word of a family accepts beside HPRI; HMOD is judged by the modifiers themselves (R69). -/
structure HintSet where
  imm : Bool := false
  mod : Bool := false
  /-- HXB itself, with no bit set -/
  ext : Bool := false
  xa : Bool := false
  xb : Bool := false
  adr : Bool := false
  keep : Bool := false
deriving DecidableEq, Repr, Inhabited

/-- Whether every hint that applies is one the set accepts and none is bad (R69). -/
def HintSet.ok (s : HintSet) (h : Hints) : Bool :=
  !h.bad && (s.imm || !h.imm?) && (s.mod || h.hmod.isNone) && (s.adr || h.hadr.isNone) && (s.keep || h.hkeep.isNone) &&
  (match h.hxb with
    | none => true
    | some x => (s.ext || s.xa || s.xb) && (s.xa || x.xa == 0) && (s.xb || x.xb == 0)) &&
  (match h.hpri with
    | none => true
    | some p => p.nudge != 3)

/-! ## Queues (R17 to R20, R282) -/

/-- What a pop of a queue finds (R282). -/
inductive PopState where
  | entry (x : QEntry)
  | wait
  | orphan
  /-- a poisoned entry (R396) -/
  | poisoned
deriving DecidableEq, Repr, Inhabited

/-- The head of a queue against its producer's state (R282). -/
def Queue.head (q : Queue) : PopState :=
  match q.entries with
  | .reserved _ :: _ => if q.killed || q.closed then .orphan else .wait
  | .bad :: _ => .poisoned
  | x :: _ => .entry x
  | [] => if q.closed || q.killed then .orphan else .wait

/-- Queue q of a crew. -/
def Crew.queue (c : Crew) (q : Nat) : Queue := c.queues.getD q {}

/-- Queue q of a crew changed. -/
def Crew.setQueue (c : Crew) (q : Nat) (f : Queue → Queue) : Crew := { c with queues := setAt c.queues q (f (c.queue q)) }

/-- The head entry removed. -/
def Queue.pop (q : Queue) : Queue := { q with entries := q.entries.drop 1 }

/-- The 64 bits of a uniform entry. -/
def QEntry.x64 : QEntry → Nat
  | .uni x => x.toNat
  | _ => 0

/-- Element L of a vector entry, or the low 32 bits of a uniform one (R19). -/
def QEntry.lane (q : QEntry) (l : Nat) : Nat :=
  match q with
  | .uni x => x.toNat % 2 ^ 32
  | .vec xs => (xs.getD l 0).toNat
  | _ => 0

/-- Whether a number names a vector queue. -/
def isVecQueue (q : Nat) : Bool := decide (8 ≤ q) && decide (q ≤ 11)

/-! ## Traps -/

/-- The class of a trap code (R323). -/
def trapClass (code : Nat) : Nat :=
  if code = 0x01 ∨ code = 0x02 ∨ code = 0x06 then 0
  else if code = 0x03 then 1
  else if code = 0x04 then 2
  else if code = 0x05 then 3
  else if code = 0x07 then 4
  else if code ≤ 0x13 then 5
  else if code ≤ 0x16 then 6
  else if code = 0x17 then 7
  else if code ≤ 0x1A then 8
  else if code = 0x1B then 9
  else if code = 0x1C then 10
  else if code = 0x20 then 11
  else if code = 0x32 then 12
  else if code = 0x33 then 13
  else if code = 0x40 then 14
  else 15

/-- The dispositions (R323). -/
inductive Disp where
  | host | handler | kill
deriving DecidableEq, Repr, Inhabited

/-- The disposition of a trap code in a grid; a trap in a handler acts as HOST (R323, R328). -/
def dispOf (g : Grid) (code : Nat) (nested : Bool) : Disp :=
  let d := g.disp / 4 ^ trapClass code % 4
  if nested ∨ trapClass code = 1 ∨ code = tcDigest then .host
  else if d = 2 then .kill
  else if d = 1 ∧ trapClass code ≠ 13 then .handler
  else .host

/-- s368 to s383 of a trap record (R325). -/
def TrapRec.words (t : TrapRec) (afl : Nat → Afl) : List Word :=
  [BitVec.ofNat 32 (t.code + 2 ^ 8 * trapClass t.code + 2 ^ 12 * t.skip + 2 ^ 16 * b2n t.nested + 2 ^ 17 * t.redo), t.pc, t.origin, t.mask,
   BitVec.ofNat 32 t.addr.toNat, BitVec.ofNat 32 (t.addr.toNat / 2 ^ 32), t.info0, t.info1] ++
  (List.range 8).map (fun k => BitVec.ofNat 32 (gatherBytes 4 (fun i => (afl (4 * k + i)).toNat)))

/-- The return mark (R325). -/
def returnMark : Word := 0xFFFFFFFC#32

/-! ### What a restarted word passes over (R64) -/

/-- The skip count that a record gives: of the groups of lanes, the largest (R64, R325). -/
def skipCount (ps : List Pass) : Nat := ps.foldl (fun n p => max n p.steps.length) 0

/-- The redo mask that a record gives, follower k at bit k - 1 (R64, R325). -/
def redoMask (ps : List Pass) : Nat :=
  ps.foldl (fun n p => n ||| (p.steps.zipIdx).foldl (fun n x => if x.1.isSome then n ||| 2 ^ x.2 else n) 0) 0

/-- A window for some of its lanes alone. -/
def Window.only (x : Window) (lanes : Mask) : Window :=
  { x with left := (x.left.map (fun p => (p.1 &&& lanes, p.2))).filter (fun p => p.1 != 0#32) }

/-- The windows that concern some of the lanes, for those lanes alone. -/
def windowsOf (ws : List Window) (lanes : Mask) : List Window :=
  (ws.map (fun x => x.only lanes)).filter (fun x => x.left != [])

/-- Entry of a warp's handler: the batch begins a run at CHAND, the record stands in s368 to s383 under window base 256,
and what it displaced is saved (R325). The lookahead windows of its lanes, whose words have all completed (R64), are set aside:
the handler's words follow nothing. -/
def enterHandler (w : Warp) (chand : Nat) (lead : Nat) (restart : Batch) (t : TrapRec) : Warp :=
  let hs : HandlerSave :=
    { uregs := (List.range 16).map (fun i => w.u (368 + i)), tags := w.utags, wb := w.wb,
      lnks := (lanesOf restart.lanes).map (fun l => (l, w.lnk l)), lanes := restart.lanes, restart := restart,
      windows := (windowsOf w.windows restart.lanes).map (fun x => { x with op := 0 }) }
  let b : Batch :=
    { lanes := restart.lanes, pc := BitVec.ofNat 32 chand, losses := restart.losses, promoted := restart.promoted }
  let w := { w with hsave := some hs, wb := 3, windows := windowsOf w.windows (~~~restart.lanes) }
  let w := w.setUs 368 (t.words w.afl)
  let w := (lanesOf restart.lanes).foldl (fun w l => w.setLnk l returnMark) w
  w.replaceBatch lead [b]

/-- The quads of s368 to s383. -/
def savedQuads : BitVec 96 := 0xF#96 <<< 92

/-- The warp after its handler has returned: the displaced state is back with the tags of its quads, and each waiting lane stands at
the restart PC with the restart state of R62 (R326; log 26). -/
def leaveHandler (w : Warp) (h : HandlerSave) (waiting : Mask) : Warp :=
  let w := { w with hsave := none, wb := h.wb, windows := w.windows ++ windowsOf h.windows waiting }
  let w := w.setUs 368 h.uregs
  let w := (lanesOf waiting).foldl (fun w l => w.setLnk l ((Assoc.get? h.lnks l).getD 0)) w
  let back := [h.restart.only waiting].filter (fun b => b.lanes != 0#32)
  { w with
    utags := (w.utags &&& ~~~savedQuads) ||| (h.tags &&& savedQuads)
    batches := w.batches.filter (fun b => b.wait != .mark) ++ back }

/-- A warp whose handler has come to its end: every lane of it that has not exited stands at the return mark (R326). -/
def settleHandler (w : Warp) : Warp :=
  match w.hsave with
  | none => w
  | some h =>
    let waiting := (w.batches.filter (fun b => b.wait == .mark)).foldl (fun m b => m ||| b.lanes) 0#32
    if h.lanes &&& ~~~w.exited = waiting then leaveHandler w h waiting else w

/-- Whether a rollback is due (R399): the interval is closed, fewer than three rollbacks were taken, and what is poisoned is a
register, a granule with a shadow, or a cache line whose copy below it is clean. -/
def rollbackDue (r : Run) (blk : Nat) (t : Trapping) : Bool :=
  t.code == tcEcc &&
  match Assoc.get? r.blocks blk with
  | some b => b.cairn.isSome && b.closedInterval && decide (b.rollbacks < 3) &&
      (t.reg || match t.gran with
        | some k => b.shadow.contains (k / 8) || r.cleanBelow.contains k
        | none => false)
  | none => false

/-- The crews of a block restored to the cairn, in %crew order. -/
def restoreCrews (r : Run) (cn : Cairn) : List Nat → Nat → Run
  | [], _ => r
  | c :: cs, i =>
    restoreCrews (r.crew c (fun x =>
      { x with status := if x.status = .ended then .saved else x.status, warps := cn.warps.getD i x.warps, aslice := cn.aslices.getD i x.aslice, pad := cn.pads.getD i x.pad,
               lanes := cn.laneMems.getD i x.lanes, queues := cn.queues.getD i x.queues })) cn cs (i + 1)

/-- A core that issues no word of some crews, and none of whose granules they wait for. -/
def CoreSt.stopIssue (k : CoreSt) (crews : List Nat) : CoreSt :=
  { k with running := k.running.filter (fun q => !crews.contains q.2.1), xacq := k.xacq.filter (fun q => !crews.contains q.1) }

/-- The block rolled back to its cairn for a trap (R399): held stores discarded, shadows and snapshot written back, and a clean line
dropped. A crew that has ended since lives again, and waits to be restored. -/
def rollback (r : Run) (blk tile : Nat) (t : Trapping) : Run :=
  match Assoc.get? r.blocks blk with
  | none => r
  | some b =>
    match b.cairn with
    | none => r
    | some cn =>
      let line := (t.gran.map (· / 16)).filter (fun _ => t.gran.any r.cleanBelow.contains)
      let keep (w : Nat) : Bool := !b.shadow.contains (w / 8) && some (w / 16) != line
      let r := { r with poison := r.poison.filter keep, cleanBelow := r.cleanBelow.filter keep,
                        stales := r.stales.filter (fun x => !b.crews.contains x.crew),
                        cores := r.cores.map (fun (p : Nat × CoreSt) => (p.1, p.2.stopIssue b.crews)) }
      let r := restoreCrews r cn b.crews 0
      let r := r.block blk (fun x =>
        { x with cluster := cn.cluster, teams := cn.teams, bar := cn.bar, barns := cn.barns, digest := cn.digest, held := [],
                 heldCount := 0, heldTags := [], shadow := [], rollbacks := x.rollbacks + 1 })
      let g := match Assoc.get? r.grids b.grid with
        | some g => (g.ctx, g.ident)
        | none => (0, 0)
      logError r (g.1 / 64) 4 (g.1 % 64) tile tcRollback g.2 0

/-- A consumed uncorrectable error that traps, logged: as a rollback refused in a block with a cairn, else as consumed
(R399, R403). The poison of a payload goes with its consumer (R394). -/
def noteEcc (r : Run) (blk tile : Nat) (t : Trapping) : Run :=
  if t.code = tcEcc then
    let gone (w : Nat) : Bool := r.passing.contains w && t.gran.any (fun k => k / 8 == w / 8)
    let r := { r with poison := r.poison.filter (fun w => !gone w), passing := r.passing.filter (fun w => !gone w) }
    match Assoc.get? r.blocks blk with
    | none => r
    | some b =>
      match Assoc.get? r.grids b.grid with
      | none => r
      | some g => logError r (partOf g.ctx) (if g.cairn then 5 else 3) (g.ctx % 64) tile tcEcc g.ident t.addr
  else r

/-- The run state after a party has stopped being the one its quadrant issues. -/
def stopRunning (r : Run) (core quad : Nat) : Run :=
  r.core core (fun k => { k with running := Assoc.erase k.running quad })

/-- A warp whose lanes' run state is written afresh as their trap is taken (R394; log 9). -/
def Warp.mendRun (w : Warp) (lanes : Mask) : Warp :=
  { w with bad := w.bad.filter (fun c => match c with
      | .run l => !lanes.getLsbD l
      | _ => true) }

/-- A trap delivered to a warp: the record's restart batch, PC and origin are given (R325, R328 to R330, R399). -/
def deliverTrap (e : Env) (r : Run) (restart : Batch) (origin : Word) (t : Trapping) : Run :=
  let r := match t.mop with
    | none => r
    | some k => { r with matrix := Assoc.modify r.matrix k (fun x => { x with taken := x.taken ++ [(e.cid, e.wi, restart.pc, restart.lanes)] }) }
  if rollbackDue r e.crew.block t then rollback r e.crew.block e.tile t
  else
    let r := noteEcc r e.crew.block e.tile t
    let r := if t.reg then r.warp e.cid e.wi (·.mendRun restart.lanes) else r
    let nested := e.w.hsave.isSome
    let rec_ : TrapRec :=
      { code := t.code, pc := restart.pc, origin := origin, mask := t.mask, addr := BitVec.ofNat 64 t.addr,
        info0 := BitVec.ofNat 32 t.info0, info1 := BitVec.ofNat 32 t.info1, nested := nested,
        skip := skipCount restart.replay, redo := redoMask restart.replay }
    match dispOf e.g t.code nested with
    | .handler => r.warp e.cid e.wi (fun w => enterHandler w e.g.chand e.lead restart rec_)
    | .kill => killGrid r e.blk.grid 6
    | .host =>
      let r := r.crew e.cid (fun c => { c with reason := 4 })
      let r := r.warp e.cid e.wi (fun w => { w.replaceBatch e.lead [restart] with hostrec := some { rec_ with afls := w.afls } })
      raiseStop e.m r e.ctx (some e.g.queue)

/-- Taking a trap in a warp at a word that its quadrant issues. -/
def takeTrap (e : Env) (r : Run) (restart : Batch) (origin : Word) (t : Trapping) : Run :=
  deliverTrap e (stopRunning r e.crew.core e.w.quad) restart origin t

/-! ## Lookahead (R63) -/

/-- Whether some member of one list is in another. -/
def meets (xs ys : List Nat) : Bool := xs.any ys.contains

/-- Whether a window still counts followers, or waits, for some of the lanes. -/
def Window.covers (x : Window) (lanes : Mask) : Bool := x.left.any (fun p => p.1 &&& lanes != 0#32)

/-- Whether the lanes have used up their followers of a window. -/
def Window.spent (x : Window) (lanes : Mask) : Bool := x.left.any (fun p => p.1 &&& lanes != 0#32 && p.2 == 0)

/-- Whether the next word of the lanes waits for an operation (R63). -/
def mustAwait (ws : List Window) (ops : List PendOp) (lanes : Mask) : Bool :=
  ws.any (fun x => x.spent lanes && !opDone ops x.op)

/-- Whether a follower that uses these registers takes Lookahead Hazard (R63). -/
def Window.hazard (x : Window) (u : Uses) : Bool :=
  meets (u.vr ++ u.vw) x.vw || meets (u.ur ++ u.uw) x.uw || meets (u.pr ++ u.pw) x.pw ||
  meets u.vw x.vr || meets u.uw x.ur

/-- Lookahead Hazard of a word against every window whose followers the lanes still execute (R63). -/
def hazard (ws : List Window) (lanes : Mask) (u : Uses) : Bool :=
  ws.any (fun x => x.left.any (fun p => p.1 &&& lanes != 0#32 && p.2 != 0) && x.hazard u)

/-- The windows after the lanes have executed one word: counts fall, and lanes with none left go (R63). -/
def tick (ws : List Window) (lanes : Mask) : List Window :=
  let left (x : Window) : List (Mask × Nat) :=
    (x.left.flatMap (fun p =>
      [(p.1 &&& ~~~lanes, p.2)] ++ (if p.2 = 0 then [] else [(p.1 &&& lanes, p.2 - 1)]))).filter
      (fun p => p.1 != 0#32)
  (ws.map (fun x => { x with left := left x })).filter (fun x => x.left != [])

/-- The window of a long-latency word, added when followers or a wait follow it. -/
def addWindow (ws : List Window) (lanes : Mask) (la op : Nat) (u : Uses) : List Window :=
  ws ++ [⟨op, [(lanes, la)], u.vw, u.uw, u.pw, u.vr, u.ur⟩]

/-! ## Faults that come late (R64) -/

/-- Whether an operation is a long-latency word that has failed and whose trap is still to be taken. -/
def PendOp.failed (o : PendOp) : Bool := match o.data with
  | .late _ _ _ _ _ => true
  | _ => false

/-- Whether operation id has failed. -/
def opFailed (ops : List PendOp) (id : Nat) : Bool := ops.any (fun o => o.id == id && o.failed)

/-- Whether the lanes execute followers of a word that has failed. -/
def behindFault (ws : List Window) (ops : List PendOp) (lanes : Mask) : Bool :=
  ws.any (fun x => x.covers lanes && opFailed ops x.op)

/-- Whether an operation is a pop that waits for its entry (R166). -/
def PendOp.pops (o : PendOp) : Bool := match o.data with
  | .pop _ _ _ _ _ _ _ _ => true
  | _ => false

/-- Whether the lanes execute followers of a pop that waits for its entry. -/
def behindPop (ws : List Window) (ops : List PendOp) (lanes : Mask) : Bool :=
  ws.any (fun x => x.covers lanes && ops.any (fun o => o.id == x.op && o.pops))

/-- Whether the lanes execute followers of a word that is outstanding and has not failed. -/
def outstanding (ws : List Window) (ops : List PendOp) (lanes : Mask) : Bool :=
  ws.any (fun x => x.covers lanes && !opDone ops x.op && !opFailed ops x.op)

/-- Whether every word that the lanes follow, and that has failed or may still fail, issued in all of them. -/
def withinFault (ws : List Window) (ops : List PendOp) (lanes : Mask) : Bool :=
  ws.all (fun x => !x.covers lanes || ops.all (fun o => o.id != x.op || match o.data with
    | .late ls _ _ _ _ => lanes &&& ~~~ls == 0#32
    | .pop _ _ _ _ _ ls _ _ => lanes &&& ~~~ls == 0#32
    | _ => true))

/-- The traps of an access, which a device may find after followers have issued: the codes of classes 0 to 4 and Watchpoint. -/
def lateCode (code : Nat) : Bool := decide (code ≤ 0x07) || code == tcWatchpoint

/-- Where a batch stands. -/
def Batch.spot (b : Batch) : Spot := ⟨b.pc, b.guard, b.hints, b.fresh⟩

/-- Some lanes of a batch at a spot, with what they still pass over. -/
def Batch.atSpot (b : Batch) (lanes : Mask) (s : Spot) (replay : List Pass) : Batch :=
  { b with lanes := lanes, pc := s.pc, guard := s.guard, hints := s.hints, fresh := s.fresh, wait := .none, replay := replay }

/-- The followers that are passed over before the next one that executes again. -/
def Pass.skips (p : Pass) : Nat := (p.steps.takeWhile (·.isNone)).length

/-- The next follower that executes again, if any, and what comes after it. -/
def Pass.again (p : Pass) : Option (Spot × Pass) :=
  match p.steps.drop p.skips with
  | some s :: more => some (s, { p with steps := more })
  | _ => none

/-- A group of lanes after its long-latency word has executed again: at the follower that executes again, else at the
continuation. -/
def Batch.resume (b : Batch) (p : Pass) : Batch :=
  match p.again with
  | some (s, q) => b.atSpot p.lanes s [q]
  | none => b.atSpot p.lanes p.next []

/-- n words counted off the windows of some lanes. -/
def tickN : Nat → List Window → Mask → List Window
  | 0, ws, _ => ws
  | n + 1, ws, lanes => tickN n (tick ws lanes) lanes

/-- n words counted back on the windows of some lanes. -/
def untick (ws : List Window) (lanes : Mask) (n : Nat) : List Window :=
  ws.map (fun x =>
    { x with left := (x.left.flatMap (fun p =>
      [(p.1 &&& ~~~lanes, p.2), (p.1 &&& lanes, p.2 + n)])).filter (fun p => p.1 != 0#32) })

/-- The windows after what is passed over has been counted. -/
def passTicks (ps : List Pass) (ws : List Window) : List Window := ps.foldl (fun ws p => tickN p.skips ws p.lanes) ws

/-- The followers still to come of an operation's window, for a lane. -/
def followersLeft (ws : List Window) (id l : Nat) : Nat :=
  ((ws.find? (fun x => x.op == id)).bind (fun x => (x.left.find? (fun p => p.1.getLsbD l)).map (·.2))).getD 0

/-- The followers that have issued of a failed word, for a lane. -/
def followersDone (ws : List Window) (id la l : Nat) : Nat := la - followersLeft ws id l

/-- The n followers of failed word id that a lane has issued: one that failed too is to execute again from where it stood. -/
def laneSteps (ws : List Window) (ops : List PendOp) (id n l : Nat) : List (Option Spot) :=
  (List.range n).map (fun k => ops.findSome? (fun o => match o.data with
    | .late ls la b _ _ =>
      if o.id != id && ls.getLsbD l && n - followersDone ws o.id la l == k + 1 then some b.spot else none
    | _ => none))

/-! ## Pops that wait for their entries (R166) -/

/-- What a pop of queue q writes of its entry: the pair of uniform registers at dst, or in each lane the element at dst, or the pair
at dst for a uniform queue (R166). -/
def Warp.putEntry (w : Warp) (q dst : Nat) (uni : Bool) (lanes : List Nat) (x : QEntry) : Warp :=
  if uni then w.setUW true dst x.x64
  else lanes.foldl (fun w l => if isVecQueue q then w.setVW false l dst (x.lane l) else w.setVW true l dst x.x64) w

/-- A warp whose pop gets its entry and completes; one that has ended has no registers to write (R136). -/
def Warp.popGets (w : Warp) (id : Nat) (x : QEntry) : Warp :=
  match w.ops.find? (fun o => o.id == id) with
  | some ⟨_, _, _, .pop q _ dst uni active _ _ _⟩ =>
    { (if w.ended then w else w.putEntry q dst uni (lanesOf active) x) with ops := retire (w.ops.filter (fun o => o.id != id)) }
  | _ => w

/-- A warp whose pop meets a trap: taken once its issued followers have finished (R64), by the threads that are left. -/
def Warp.popFails (w : Warp) (id code : Nat) : Warp :=
  match w.ops.find? (fun o => o.id == id) with
  | some ⟨_, _, _, .pop _ _ _ _ active lanes la b⟩ =>
    let left := lanes &&& ~~~w.exited
    { w with ops := if left = 0#32 then retire (w.ops.filter (fun o => o.id != id))
      else w.ops.map (fun (o : PendOp) => if o.id = id then
        { o with data := .late left la b { code := code, mask := active &&& ~~~w.exited } none } else o) }
  | _ => w

/-- The pops that wait for entries of a queue served in the order in which they issued, as far as its entries go: each gets the head
entry, or meets the fate of R282 or R396. -/
def servePops : Nat → Run → Nat → Nat → Run
  | 0, r, _, _ => r
  | n + 1, r, cid, q =>
    match (Assoc.get? r.crews cid).map (fun c => c.queue q) with
    | none => r
    | some x => match x.claims with
      | [] => r
      | k :: rest =>
        let next (f : Queue → Queue) (g : Warp → Warp) : Run :=
          servePops n ((r.crew cid (fun c => c.setQueue q (fun y => f { y with claims := rest }))).warp cid k.warp g) cid q
        match x.head with
        | .wait => r
        | .entry d => next (fun y => if k.take then y.pop else y) (fun w => w.popGets k.op d)
        | .poisoned => next id (fun w => w.popFails k.op tcEcc)
        | .orphan => next id (fun w => w.popFails k.op tcQueueOrphan)

/-- A queue changed by its producer, and the pops that wait for its entries served (R166). -/
def feedQueue (r : Run) (cid q : Nat) (f : Queue → Queue) : Run :=
  let r := r.crew cid (fun c => c.setQueue q f)
  let n := ((Assoc.get? r.crews cid).map (fun c => (c.queue q).claims.length)).getD 0
  servePops n r cid q

/-! ## The frame around a word -/

/-- The HPRI that acts at the next arbitration in which a batch is ready: that of the word it has suspended at, or the last one before
(R231). -/
def Batch.nudgeNow (b : Batch) : Nat := match b.hints.hpri with
  | some p => p.nudge
  | none => b.nudge

/-- A batch whose HPRI has acted (R231). A reserved NUDGE stays, for the fate of its word. -/
def Batch.nudged (b : Batch) : Batch :=
  { b with nudge := 0, hints := { b.hints with hpri := b.hints.hpri.filter (fun p => p.nudge == 3) } }

/-- The batch moved past a word: hints used up, a run that the word closes ended (R58, R69). -/
def Batch.past (b : Batch) (bd : Nat) : Batch :=
  { b with
    pc := b.pc + 4
    hints := {}
    wait := .none
    replay := []
    fresh := bd == 1
    guard := if bd = 1 then allLanes else b.guard
    yields := b.yields && bd != 1
    yielded := b.yielded || (b.yields && bd == 1)
    nudge := b.nudgeNow }

/-- The batches after a word that goes on: the next word, or the groups of R64. -/
def Batch.onward (b : Batch) (bd : Nat) : List Batch := match b.replay with
  | [] => [b.past bd]
  | ps => ps.map b.resume

/-- What a lane that stands in a batch has passed of n followers, and where it goes on: a follower that met a fault of its own
counts as issued and executes again (R64). -/
def Batch.passed (b : Batch) (steps : List (Option Spot)) : List (Option Spot) × Spot :=
  match b.wait with
  | .behind bd => (steps ++ [some b.spot], (b.past bd).spot)
  | _ => (steps, b.spot)

/-- The groups of lanes of a failed word as its trap finds them (R64), each with the number of words it has counted. -/
def lanePasses (bs : List Batch) (ws : List Window) (ops : List PendOp) (id la : Nat) (lanes : Mask) : List (Nat × Pass) :=
  let xs := (lanesOf lanes).filterMap (fun l => (bs.find? (fun b => b.lanes.getLsbD l)).map (fun b =>
    let n := followersDone ws id la l
    (l, n, b.passed (laneSteps ws ops id n l))))
  ((xs.map (·.2)).eraseDups).map (fun k => (k.1, ⟨maskOf ((xs.filter (fun x => x.2 == k)).map (·.1)), k.2.1, k.2.2⟩))

/-- The operations and windows after failed word id, with the failed followers of its lanes, has gone: their counts on the
windows that stay are taken back, since they execute or are passed over again. -/
def dropLate (ops : List PendOp) (ws : List Window) (id : Nat) (lanes : Mask) (ps : List (Nat × Pass)) :
    List PendOp × List Window :=
  let gone (k : Nat) : Bool := k == id || (decide (id < k) && opFailed ops k && ws.any (fun x => x.op == k && x.covers lanes))
  (retire (ops.filter (fun o => !gone o.id)),
   ps.foldl (fun ws p => untick ws p.2.lanes (p.1 + 1)) (ws.filter (fun x => !gone x.op)))

/-- Whether the trap of failed word id may be taken: every other word that its lanes have in flight has finished, but for younger
ones that failed too, and its window still stands in all of them (R64). -/
def lateDue (ws : List Window) (ops : List PendOp) (id : Nat) (lanes : Mask) : Bool :=
  ws.all (fun x => x.op == id || !x.covers lanes || opDone ops x.op || (opFailed ops x.op && decide (id < x.op))) &&
  ws.any (fun x => x.op == id && lanes &&& ~~~(x.left.foldl (fun m p => m ||| p.1) 0#32) == 0#32)

/-- A batch at a run boundary at a PC, made of some of the lanes of another (R135). -/
def Batch.at (b : Batch) (lanes : Mask) (pc : Word) : Batch :=
  { (b.past 1) with lanes := lanes, pc := pc }

/-- The distinct targets of a list of jumps. -/
def targets (ts : List (Nat × Word)) : List Word := (ts.map (·.2)).eraseDups

/-- The batches after lanes have gone to their targets and the rest of the batch to the next word: one for each target (R133 to
R135); lanes sent to the return mark wait there (R326). -/
def splitBatch (b : Batch) (ts : List (Nat × Word)) : List Batch :=
  let rest := b.lanes &&& ~~~maskOf (ts.map (·.1))
  let ts := ts ++ (lanesOf rest).map (fun l => (l, b.pc + 4))
  (targets ts).map (fun t =>
    let x := b.at (maskOf ((ts.filter (fun p => p.2 == t)).map (·.1))) t
    if t = returnMark then { x with wait := .mark } else x)

/-- What a warp becomes after one of its batches has executed a word: windows, batches and running state. -/
def afterWord (e : Env) (d : WordDef) (f : Flow) : Run :=
  let ticked (w : Warp) : Warp :=
    let ws := tick w.windows e.b.lanes
    { w with windows := match d.la with
        | some la => addWindow ws e.b.lanes la f.op (match d.window with
          | some u => u e
          | none => d.uses e)
        | none => ws }
  let onWarp (g : Warp → Warp) : Run := f.run.warp e.cid e.wi (fun w => g (ticked w))
  let core := e.crew.core
  match f.next with
  | .seq =>
    let r := onWarp (fun w =>
      ({ w with windows := passTicks e.b.replay w.windows } : Warp).replaceBatch e.lead (e.b.onward d.bd))
    if d.bd = 1 ∨ e.b.replay ≠ [] then stopRunning r core e.w.quad else r
  | .jumps ts =>
    stopRunning (onWarp (fun w => settleHandler (w.replaceBatch e.lead (splitBatch e.b ts)))) core e.w.quad
  | .exits lanes =>
    stopRunning (onWarp (fun w => settleHandler (w.replaceBatch e.lead [e.b.at (e.b.lanes &&& ~~~lanes) (e.b.pc + 4)])))
      core e.w.quad
  | .stay w => stopRunning (f.run.warp e.cid e.wi (fun x => x.replaceBatch e.lead [{ e.b with wait := w }])) core e.w.quad
  | .trapAfter t =>
    let r := f.run.warp e.cid e.wi ticked
    takeTrap e r (e.b.past d.bd) e.b.pc t
  | .parked => stopRunning f.run core e.w.quad
  | .keeps g h =>
    let b := e.b.past d.bd
    let b := if d.bd = 1 then b else { b with guard := g, hints := h, nudge := e.b.nudge }
    onWarp (fun w => w.replaceBatch e.lead [b])
  | .yields =>
    let r := onWarp (fun w => w.replaceBatch e.lead [{ e.b with yields := true }.past d.bd])
    if d.bd = 1 then stopRunning r core e.w.quad else r
  | .resumes bs =>
    let bs := bs.map (fun b => { b with nudge := e.b.nudgeNow, yielded := b.yielded || e.b.yields })
    stopRunning (onWarp (fun w => w.replaceBatch e.lead bs)) core e.w.quad

/-- Whether what a batch recorded still holds it (R196). -/
def Wait.blocks : Wait → Bool
  | .none | .pass | .due _ _ _ | .page | .woken | .merged => false
  | _ => true

/-- The lanes in which a word would read a register, a flag or run state that holds an uncorrectable error, if any (R394). -/
def Env.badRead (e : Env) (u : Uses) : Option Mask :=
  let whole := e.w.bad.any (fun c => match c with
    | .ureg n => u.ur.contains n
    | .pred n => u.pr.contains n
    | .run l => e.b.lanes.getLsbD l
    | _ => false)
  let lanes := maskOf (e.lanes.filter (fun l => e.w.bad.any (fun c => match c with
    | .vreg n k => k == l && u.vr.contains n
    | .lnk k => k == l && u.lnk
    | .afl k => k == l && u.afl
    | _ => false)))
  if whole then some e.active else if lanes = 0#32 then none else some lanes

/-- What a word does when it is the next of its batch and follows no failed word: it waits under R63, is refused by R66, meets the
traps of R324 in their order, holds, or takes effect. -/
def WordDef.check (d : WordDef) (e : Env) : Except Stop Flow :=
  if e.b.wait.blocks || mustAwait e.w.windows e.w.ops e.b.lanes then .error .hold
  else if !d.legal e then .error (illegal e)
  else
    let u := d.uses e
    if hazard e.w.windows e.b.lanes u then .error (.trap { code := tcHazard, mask := e.active })
    else if (u.vr ++ u.vw).any (fun n => decide (e.w.count ≤ n)) then
      .error (.trap { code := tcRegisterBound, mask := e.active })
    else
      match (d.pops e).map (fun q => (e.crew.queue q).head) with
      | some .orphan => .error (.trap { code := tcQueueOrphan, mask := e.active })
      | some .poisoned => .error (.trap { code := tcEcc, mask := e.active })
      | some .wait => .error .hold
      | _ => match e.badRead u with
        | some lanes => .error (.trap { code := tcEcc, mask := lanes, reg := true })
        | none => if d.waits e then .error .hold else d.body e

/-- Whether a word that goes there may issue behind a failed word: it stays in its thread and can be passed over. -/
def Next.mayFollow : Next → Bool
  | .seq | .keeps _ _ | .yields => true
  | .jumps ts => ts.all (fun p => p.2 != returnMark)
  | _ => false

/-- Whether the trap comes with the word's own effect. -/
def Next.trapsAfter : Next → Bool
  | .trapAfter _ => true
  | _ => false

/-- Whether a word that goes there leaves the code in which a pop that it follows could trap: a handler returns (R166, R190, R326). -/
def Next.leaves : Next → Bool
  | .resumes _ => true
  | .jumps ts => ts.any (fun p => p.2 == returnMark)
  | _ => false

/-- What a word does when it is the next of its batch. A trap waits until the outstanding words that it follows have completed.
Behind a failed word only a word of short latency issues (R64; log 6). -/
def WordDef.judge (d : WordDef) (e : Env) : Except Stop Flow :=
  match d.check e with
  | .ok f =>
    if behindFault e.w.windows e.w.ops e.b.lanes && !(d.la.isNone && f.next.mayFollow) then .error .hold
    else if f.next.trapsAfter && outstanding e.w.windows e.w.ops e.b.lanes then .error .hold
    else if f.next.leaves && behindPop e.w.windows e.w.ops e.b.lanes then .error .hold
    else .ok f
  | .error (.trap t) => if outstanding e.w.windows e.w.ops e.b.lanes then .error .hold else .error (.trap t)
  | .error x => .error x

/-- Whether the trap of a word may come after followers of it have issued (R64; log 6). -/
def WordDef.mayBeLate (d : WordDef) (e : Env) (t : Trapping) : Bool :=
  lateCode t.code && d.la.getD 0 != 0 && e.b.replay == [] && e.b.wait == .none && t.mop.isNone &&
  withinFault e.w.windows e.w.ops e.b.lanes

/-- A long-latency word that has failed: its followers may issue until its trap is taken (R64). -/
def WordDef.goOn (d : WordDef) (e : Env) (r : Run) (t : Trapping) : Run :=
  let k := freshOp e.w.ops e.w.windows
  let o : PendOp := { id := k, cls := d.cls e, data := .late e.b.lanes (d.la.getD 0) e.b t none }
  afterWord e d { run := r.warp e.cid e.wi (fun w => { w with ops := w.ops ++ [o] }), op := k }

/-- The trap of a word at the word: behind a failed word it is not reported, and the word executes again (R64). -/
def WordDef.trapNow (d : WordDef) (e : Env) (r : Run) (t : Trapping) : Run :=
  if behindFault e.w.windows e.w.ops e.b.lanes then
    let r := stopRunning r e.crew.core e.w.quad
    if d.steers then r else r.warp e.cid e.wi (fun w => w.replaceBatch e.lead [{ e.b with wait := .behind d.bd }])
  else
    let r := if t.code = tcHostPage then dropRefused r e.asker e.ctx (t.addr / 4096) else r
    takeTrap e r { e.b with wait := .none } e.b.pc t

/-- A word that meets a trap: it is taken at the word, or later, as a free value decides (R62, R64; log 6). -/
def WordDef.trap (d : WordDef) (e : Env) (t : Trapping) : Run :=
  if d.mayBeLate e t then
    let (i, r) := e.r.draw
    if Config.pick i % 2 = 1 then d.goOn e r t else d.trapNow e r t
  else d.trapNow e e.r t

/-- The compute word issued by a party: its effect, its trap, or its wait, with what comes after (R62, R227). -/
def WordDef.run (d : WordDef) (e : Env) : Run :=
  match d.judge e with
  | .ok f => afterWord e d f
  | .error .hold => stopRunning e.r e.crew.core e.w.quad
  | .error (.page page need) => stopRunning (requestPage e.m e.r e.asker e.ctx page need) e.crew.core e.w.quad
  | .error (.trap t) => d.trap e t

/-- What a meaning answers. -/
abbrev Outcome := Host.Outcome State Fault Refusal

/-- A compute word in the state whose turn is a batch: every trap and every wait is a next state; without a live batch
to issue it, a fault. -/
def issue (d : WordDef) (s : State) : Outcome :=
  match s.turn with
  | .batch c w l =>
    match env? s.mgmt s.run c w l with
    | some e => .next { s with run := d.run e, turn := .choose }
    | none => .fault .noParty
  | _ => .fault .noParty

/-- An event in the state whose turn it has: the state after it. -/
def happen (s : State) (f : EvArgs → Run) : Outcome :=
  match s.turn with
  | .event h => .next { s with run := f h.args, turn := .choose }
  | _ => .fault .noParty

/-- An event that base camp's own state may change with. -/
def happenAll (s : State) (f : EvArgs → Mgmt × Run) : Outcome :=
  match s.turn with
  | .event h => .next { s with mgmt := (f h.args).1, run := (f h.args).2, turn := .choose }
  | _ => .fault .noParty

end Sys2Proof.Machine
end

