-- ==== Sys2Proof/Machine/Operands.lean ====
section
/-! DEFINITION. The operand forms of the compute slice: FM operands and immediates (R67 to R69), 64-bit pairs (R87), the
builders of format V, VU and P words (R85, R107, R118), uniform pairs and groups (R15, R155), and effective addresses
(R76, R155). -/

namespace Sys2Proof.Machine

/-- No further restriction on a combination of modifiers. -/
def anyMods : OpHmod → Bool := fun _ => true

/-- HMOD W64 alone (R86). -/
def accW64 : Accept := { w64 := true }

/-- How a short immediate is read (R68). -/
inductive ImmKind where
  | int | f32 | packed (f : FFmt)
deriving DecidableEq, Repr

/-- The 32-bit pattern of a short immediate (R68). -/
def shortImm (k : ImmKind) (f : Nat) : Nat :=
  match k with
  | .int => sextTo 32 7 f
  | .f32 => fp32.ofInt (sext 7 f)
  | .packed g => g.ofInt (sext 7 f) * 65537

/-- Whether an FM operand is well formed: pairs even under 64 bits, no field bit unused, a queue of the right kind
(R18, R67, R87, R107). -/
def fmLegal (e : Env) (fm f x : Nat) (wide : Bool) : Bool :=
  match fm with
  | 0 => (!wide || (f + 128 * x) % 2 == 0) && !e.b.hints.imm?
  | 1 => (!wide || e.w.uIdx f % 2 == 0) && x == 0 && !e.b.hints.imm?
  | 2 => x == 0 && (!e.b.hints.imm? || f == 0)
  | _ => x == 0 && !e.b.hints.imm? && f / 16 == 0 && (e.crew.queue f).depth != 0 &&
      decide (f < if wide then 8 else 12)

/-- The value of an FM operand in a lane (R67, R76, R87). -/
def fmValue (e : Env) (fm f x : Nat) (k : ImmKind) (wide : Bool) (l : Nat) : Nat :=
  match fm with
  | 0 => e.w.vW wide l (f + 128 * x)
  | 1 => e.w.uW wide (e.w.uIdx f)
  | 2 =>
    let v := if e.b.hints.imm? then e.b.hints.immValue else shortImm k f
    if wide then sextTo 64 32 v else v
  | _ =>
    match (e.crew.queue (f % 16)).head with
    | .entry q => if wide then q.x64 else q.lane l
    | _ => 0

/-- The queue an FM operand pops (R19). -/
def fmPops (fm f : Nat) : Option Nat := if fm = 3 then some (f % 16) else none

/-- A register, and its partner under 64 bits. -/
def pair (wide : Bool) (n : Nat) : List Nat := if wide then [n, n + 1] else [n]

/-- The vector registers an FM operand names. -/
def fmVecs (fm f x : Nat) (wide : Bool) : List Nat := if fm = 0 then pair wide (f + 128 * x) else []

/-- The uniform registers an FM operand names. -/
def fmUnis (e : Env) (fm f : Nat) (wide : Bool) : List Nat := if fm = 1 then pair wide (e.w.uIdx f) else []

/-- One entry taken from a queue of the crew, if the word pops one. -/
def popQueue (r : Run) (cid : Nat) (q : Option Nat) : Run :=
  match q with
  | none => r
  | some q => r.crew cid (fun c => c.setQueue q Queue.pop)

/-- Results written in the active lanes with their flags; a queue popped once (R19, R24, R55, R85). -/
def writeLanes (e : Env) (wide : Bool) (d : Nat) (pop : Option Nat) (res : List (Nat × LaneRes)) : Run :=
  let fs := res.map (fun p => (p.1, p.2.2))
  let r := (popQueue e.r e.cid pop).warp e.cid e.wi (fun w =>
    (res.foldl (fun w p => w.setVW wide p.1 d p.2.1) w).raiseAll fs)
  countFlags r e.tile e.ctx fs

/-- Whether the word's operands are 64 bits wide (R87). -/
def Env.wide (e : Env) : Bool := e.mods.w64 == 1

/-- A format-V word whose lanes act alone (R85 to R88). -/
def vecDef (o : OpV) (acc : Accept) (combos : OpHmod → Bool) (k : ImmKind) (readsD : Bool) (op : LaneOp) : WordDef where
  bd := o.bd
  legal e :=
    let wide := e.wide
    ({ imm := o.fm == 2, mod := acc != {}, xa := true, xb := o.fm == 0, keep := true } : HintSet).ok e.b.hints &&
    acc.allows e.mods && combos e.mods && fmLegal e o.fm o.b e.xb wide &&
    (!wide || (o.d % 2 == 0 && o.a % 2 == 0))
  uses e :=
    { vr := pair e.wide (o.a + 128 * e.xa) ++ fmVecs o.fm o.b e.xb e.wide ++ (if readsD then pair e.wide o.d else []),
      vw := pair e.wide o.d,
      ur := fmUnis e o.fm o.b e.wide }
  pops _ := fmPops o.fm o.b
  body e :=
    let res := e.lanes.map (fun l =>
      (l, op e.mods (e.w.vW e.wide l (o.a + 128 * e.xa)) (fmValue e o.fm o.b e.xb k e.wide l) (e.w.vW e.wide l o.d)))
    .ok { run := writeLanes e e.wide o.d (fmPops o.fm o.b) res }

/-- A VUN word: one operand read by FM from the A field (R107). -/
def vunDef (o : OpVU) (acc : Accept) (k : ImmKind) (op : LaneOp) : WordDef where
  bd := o.bd
  legal e :=
    ({ imm := o.fm == 2, mod := acc != {}, ext := true, xa := o.fm == 0, keep := true } : HintSet).ok e.b.hints &&
    acc.allows e.mods && fmLegal e o.fm o.a e.xa e.wide && (!e.wide || o.d % 2 == 0)
  uses e := { vr := fmVecs o.fm o.a e.xa e.wide, vw := pair e.wide o.d, ur := fmUnis e o.fm o.a e.wide }
  pops _ := fmPops o.fm o.a
  body e :=
    let res := e.lanes.map (fun l => (l, op e.mods (fmValue e o.fm o.a e.xa k e.wide l) 0 0))
    .ok { run := writeLanes e e.wide o.d (fmPops o.fm o.a) res }

/-- A compare of format P (R118): a bit and flags for each active lane. -/
def cmpDef (o : OpP) (acc : Accept) (combos : OpHmod → Bool) (codes : Nat) (k : ImmKind)
    (op : OpHmod → Nat → Nat → Bool × Afl) : WordDef where
  bd := o.bd
  legal e :=
    ({ imm := o.fm == 2, mod := true, xa := true, xb := o.fm == 0, keep := true } : HintSet).ok e.b.hints &&
    acc.allows e.mods && combos e.mods && decide (o.cc < codes) && fmLegal e o.fm o.b e.xb e.wide &&
    (!e.wide || o.a % 2 == 0)
  uses e :=
    { vr := pair e.wide (o.a + 128 * e.xa) ++ fmVecs o.fm o.b e.xb e.wide, ur := fmUnis e o.fm o.b e.wide,
      pw := [o.pd] }
  pops _ := fmPops o.fm o.b
  body e :=
    let res := e.lanes.map (fun l =>
      (l, op e.mods (e.w.vW e.wide l (o.a + 128 * e.xa)) (fmValue e o.fm o.b e.xb k e.wide l)))
    let fs := res.map (fun p => (p.1, p.2.2))
    let bitsOn := maskOf ((res.filter (fun p => p.2.1)).map (·.1))
    let r := (popQueue e.r e.cid (fmPops o.fm o.b)).warp e.cid e.wi (fun w =>
      (w.setPredMask o.pd e.active bitsOn).raiseAll fs)
    .ok { run := countFlags r e.tile e.ctx fs }

/-- A warp-level word that only changes the warp (R131). -/
def warpDef (bd : Nat) (legal : Env → Bool) (uses : Env → Uses) (f : Env → Warp → Warp) : WordDef where
  bd := bd
  legal := legal
  uses := uses
  body e := .ok { run := e.r.warp e.cid e.wi (f e) }

/-- The hints of a C-slot word that accepts HPRI alone (R138). -/
def onlyPri (e : Env) : Bool := ({} : HintSet).ok e.b.hints

/-- The hints of an M-slot word that accepts HPRI and HKEEP alone (R155). -/
def priKeep (e : Env) : Bool := ({ keep := true } : HintSet).ok e.b.hints

/-- Whether a uniform field resolves to a multiple of n whose group lies in the file (R155). -/
def uGroup (e : Env) (f n : Nat) : Bool := e.w.uIdx f % n == 0 && decide (e.w.uIdx f + n ≤ 384)

/-- The registers of a uniform group. -/
def uRegs (e : Env) (f n : Nat) : List Nat := (List.range n).map (fun i => e.w.uIdx f + i)

/-- Consecutive vector registers. -/
def vRegs (d n : Nat) : List Nat := (List.range n).map (fun i => d + i)

/-! ## Effective addresses (R75, R76) -/

/-- The address register of formats M and AT; none when it resolves to 255 (R75). -/
def addrReg (e : Env) (a : Nat) : Option Nat := if a + 128 * e.xa = 255 then none else some (a + 128 * e.xa)

/-- Whether the address operand is well formed in a space of format M's coding: an even register, and an even HADR base,
for global memory (R15, R72). -/
def addrLegal (e : Env) (a sp : Nat) : Bool :=
  decide (sp < 4) ||
  ((match addrReg e a with
    | none => true
    | some n => n % 2 == 0) &&
   (match e.b.hints.hadr with
    | none => true
    | some h => e.w.uIdx h.sb % 2 == 0))

/-- The vector registers of an address. -/
def addrVecs (e : Env) (a sp : Nat) : List Nat :=
  match addrReg e a with
  | none => []
  | some n => pair (decide (4 ≤ sp)) n

/-- The uniform registers of an address: those of HADR. -/
def addrUnis (e : Env) (sp : Nat) : List Nat :=
  match e.b.hints.hadr with
  | none => []
  | some h => pair (decide (4 ≤ sp)) (e.w.uIdx h.sb)

/-- The effective address of a lane in a space of format M's coding (R76, EA). -/
def effAddr (e : Env) (a sp l : Nat) : Nat :=
  let wide := decide (4 ≤ sp)
  let reg := match addrReg e a with
    | none => 0
    | some n => e.w.vW wide l n
  let (base, off) := match e.b.hints.hadr with
    | none => (0, (0 : Int))
    | some h => (e.w.uW wide (e.w.uIdx h.sb), sext 13 h.off)
  wrap (if wide then 64 else 32) (reg + base + off)

/-! ## Where an access lies (R157, R240) -/

/-- The bytes of a space seen by a crew's thread k: lane slice, pad, cluster, scratchpad. -/
def spaceLimit (e : Env) (sp : Nat) : Nat :=
  match sp with
  | 0 => e.k.lane
  | 1 => e.k.pad
  | 2 => e.k.cluster
  | _ => match Assoc.get? e.r.contexts e.ctx with
    | some cx => cx.splen
    | none => 0

/-- The first byte of an offset of an untranslated space (R240 to R244). -/
def spacePlace (e : Env) (sp l o : Nat) : Place :=
  match sp with
  | 0 => .lane e.cid ((32 * e.wi + l) * e.k.lane + o)
  | 1 => .pad e.cid o
  | 2 => .clu e.crew.block o
  | _ =>
    let base := match Assoc.get? e.r.contexts e.ctx with
      | some cx => cx.spbase
      | none => 0
    .spad (partOf e.ctx * 2 ^ 40 + base + o)

/-- Whether an access meets a watchpoint of the context armed for its direction (R420; the bit places are log 20): the
aligned block of 2^m bytes around VA. -/
def watched (r : Run) (ctxKey va n : Nat) (rd wr : Bool) : Bool :=
  match Assoc.get? r.contexts ctxKey with
  | none => false
  | some cx =>
    [0, 1, 2, 3].any (fun i =>
      let len := 2 ^ min 12 (bits (rdReg cx.watch (2 * i + 1)).toNat 3 0)
      let lo := bits (rdReg cx.watch (2 * i)).toNat 56 0 / len * len
      let c := (rdReg cx.watch (2 * i + 1)).toNat
      ((rd && bits c 4 4 == 1) || (wr && bits c 5 5 == 1)) && decide (va < lo + len) && decide (lo < va + n))

/-- The place of n aligned bytes that a lane accesses, or the first check of R157 that fails. -/
def lanePlace (e : Env) (sp l ea n align need : Nat) : Except AccFault Place :=
  if ea % align ≠ 0 then .error (.trap tcMisaligned ea)
  else if sp < 4 then
    if ea + n ≤ spaceLimit e sp then localPlace e.m (spacePlace e sp l ea) else .error (.trap tcPermission ea)
  else globalPlace e.m e.r e.asker e.ctx ea need

/-- Whether the access of a lane does not pass its checks. -/
def failsCheck (x : Except AccFault Place) : Bool := match x with
  | .error .held => false
  | .error _ => true
  | .ok _ => false

/-- Whether a pack-up holds an access (R390). -/
def isHeld (x : Except AccFault Place) : Bool := match x with
  | .error .held => true
  | _ => false

/-- The outcome of checking the active lanes: the places, or the stop of the lowest faulting lane with the lanes whose
fault has its code (R157); the word waits where a pack-up holds the access of a lane (R390). -/
def lanePlaces (ps : List (Nat × Except AccFault Place)) : Except Stop (List (Nat × Place)) :=
  match ps.find? (fun p => failsCheck p.2) with
  | some (_, .error (.trap code addr)) =>
    let same := ps.filter (fun p => match p.2 with
      | .error (.trap c _) => c == code
      | _ => false)
    .error (.trap { code := code, mask := maskOf (same.map (·.1)), addr := addr })
  | some (_, .error (.hostMiss page need)) => .error (.page page need)
  | _ =>
    if ps.any (fun p => isHeld p.2) then .error .hold
    else .ok (ps.filterMap (fun p => match p.2 with
      | .ok x => some (p.1, x)
      | .error _ => none))

/-- An access fault as the stop of a warp-level word. -/
def AccFault.stop (e : Env) : AccFault → Stop
  | .trap code addr => .trap { code := code, mask := e.active, addr := addr }
  | .hostMiss page need => .page page need
  | .held => .hold

/-- ECC Uncorrectable in the lanes that would read poison (R161, R396). -/
def poisonStop (r : Run) (ps : List (Nat × Place)) (n : Nat) : Option Stop :=
  let bad := ps.filter (fun p => poisonedSpan r p.2 n)
  match bad with
  | [] => none
  | p :: _ => some (.trap { code := tcEcc, mask := maskOf (bad.map (·.1)), gran := some (p.2.key / 8) })

end Sys2Proof.Machine
end

