-- ==== Sys2Proof/Machine/Convert.lean ====
section
/-! DEFINITION. CVT (R114 to R117): format slots and scale tables (R45, R46), packing, unpacking, and SCALE with its bound
check (R54). -/

namespace Sys2Proof.Machine

/-- Format Slot in the active lanes. -/
def formatSlot (e : Env) : Stop := .trap { code := tcFormatSlot, mask := e.active }

/-- Whether a format slot breaks R45: reserved bits, or scale format 11. -/
def slotBad (s : Nat) : Bool := bits s 15 11 != 0 || bits s 7 6 == 3

/-- A format slot of the grid (R45). -/
def Grid.fslot (g : Grid) (n : Nat) : Nat := g.fslots.getD n 0

/-- Bytes of a scale entry (R46). -/
def scaleBytes (scfmt : Nat) : Nat := match scfmt with
  | 0 => 4
  | 1 => 2
  | _ => 1

/-- The slot and format that a CVT uses, or Format Slot (R114, R416). -/
def cvtFormat (e : Env) (slot : Nat) (ok : EFmt → Bool) : Except Stop (Nat × EFmt) :=
  let s := e.g.fslot slot
  match EFmt.ofCode (bits s 3 0) with
  | none => .error (formatSlot e)
  | some f => if slotBad s || !ok f || decide (2 ≤ bits s 5 4) || !servesFormat e.m e.tile f then .error (formatSlot e) else .ok (s, f)

/-- The scale of a CVT: 1, or entry 0 of the slot's table read through the context's mapping (R46, R115). -/
def cvtScale (e : Env) (s : Nat) : Except Stop FVal :=
  if bits s 5 4 = 0 then .ok (.fin false 1 0)
  else
    let n := scaleBytes (bits s 7 6)
    let off := bits s 63 32
    if e.g.scaleLen < off + n then .error (formatSlot e)
    else
      match globalSpan e.m e.r e.asker e.ctx (e.g.scale + off) n needRd with
      | .error f => .error (f.stop e)
      | .ok ps =>
        match ps.find? (poisoned e.r) with
        | some p => .error (.trap { code := tcEcc, mask := e.active, gran := some (p.key / 8) })
        | none => .ok (scaleValue (bits s 7 6) (ofBytes (ps.map (loadByte e.r e.crew.block))))

/-- Whether PACK4 and UNPACK8 accept a format (R114). -/
def byteFormat : EFmt → Bool
  | .fp32 | .bf16 | .fp16 => false
  | _ => true

/-- Whether PACK2 and UNPACK16 accept a format (R114). -/
def halfFormat : EFmt → Bool
  | .bf16 | .fp16 => true
  | _ => false

/-- The rounding mode of a slot (R45). -/
def slotRnd (s : Nat) : Rnd := .ofCode (bits s 9 8)

/-- One FP32 value narrowed under a slot by a scale, with the flags of the division and of the narrowing (R115). -/
def packOne (s : Nat) (f : EFmt) (sc : FVal) (x : Nat) : Nat × Afl :=
  let (q, fl) := quotient (fp32.unpack x) sc
  let (c, fl') := narrow f (slotRnd s) (bits s 10 10 == 1) q
  (c, fl ||| fl')

/-- The flags of several results joined. -/
def joinFlags (xs : List (Nat × Afl)) : Afl := xs.foldl (fun fl x => fl ||| x.2) flNone

/-- The register that PACK4 or PACK2 writes in a lane (R115). -/
def packLane (f : EFmt) (old : Nat) (es : List (Nat × Afl)) : Nat :=
  let at_ (i : Nat) : Nat := (es.getD i (0, flNone)).1
  if f = .ds4 then old / 2 ^ 16 + 2 ^ 16 * gatherBits 4 4 at_
  else gatherBits es.length f.bits at_

/-- PACK4 and PACK2 with n elements (R115). -/
def packDef (o : OpCV) (n : Nat) (ok : EFmt → Bool) : WordDef where
  bd := o.bd
  legal e :=
    ({ xa := true, keep := true } : HintSet).ok e.b.hints && o.fm == 0 && (o.a + 128 * e.xa) % n == 0
  uses e :=
    { vr := vRegs (o.a + 128 * e.xa) n ++ (match EFmt.ofCode (bits (e.g.fslot o.slot) 3 0) with
        | some .ds4 => [o.d]
        | _ => []), vw := [o.d] }
  body e := do
    let (s, f) ← cvtFormat e o.slot ok
    let sc ← cvtScale e s
    let res := e.lanes.map (fun l =>
      let es := (List.range n).map (fun i => packOne s f sc (e.w.v l (o.a + 128 * e.xa + i)).toNat)
      (l, packLane f (e.w.v l o.d).toNat es, joinFlags es))
    return { run := writeLanes e false o.d none res }

/-- PACK4 (R115). -/
def wPack4 (o : OpCV) : WordDef := packDef o 4 byteFormat
/-- PACK4 issued. -/
def execPack4 (o : OpCV) (s : State) : Outcome := issue (wPack4 o) s
/-- PACK2 (R115). -/
def wPack2 (o : OpCV) : WordDef := packDef o 2 halfFormat
/-- PACK2 issued. -/
def execPack2 (o : OpCV) (s : State) : Outcome := issue (wPack2 o) s

/-- Element i of a register under a format (R31, R116). -/
def elementAt (f : EFmt) (x i : Nat) : FVal := f.value (x / 2 ^ (f.bits * i) % 2 ^ f.bits)

/-- UNPACK8 and UNPACK16 with n elements (R116). -/
def unpackDef (o : OpCV) (n : Nat) (ok : EFmt → Bool) : WordDef where
  bd := o.bd
  legal e :=
    ({ imm := o.fm == 2, ext := true, xa := o.fm == 0, keep := true } : HintSet).ok e.b.hints && fmLegal e o.fm o.a e.xa false &&
    o.d % n == 0
  uses e := { vr := fmVecs o.fm o.a e.xa false, vw := vRegs o.d n, ur := fmUnis e o.fm o.a false }
  pops _ := fmPops o.fm o.a
  body e := do
    let (s, f) ← cvtFormat e o.slot ok
    let sc ← cvtScale e s
    let res := e.lanes.map (fun l =>
      let a := fmValue e o.fm o.a e.xa .int false l
      (l, (List.range n).map (fun i => fp32.mulVal (slotRnd s) (elementAt f a i) sc)))
    let fs := res.map (fun p => (p.1, joinFlags p.2))
    let r := (popQueue e.r e.cid (fmPops o.fm o.a)).warp e.cid e.wi (fun w =>
      (res.foldl (fun w p => ((List.range n).zip p.2).foldl
        (fun w q => w.setV p.1 (o.d + q.1) (BitVec.ofNat 32 q.2.1)) w) w).raiseAll fs)
    return { run := countFlags r e.tile e.ctx fs }

/-- UNPACK8 (R116). -/
def wUnpack8 (o : OpCV) : WordDef := unpackDef o 4 byteFormat
/-- UNPACK8 issued. -/
def execUnpack8 (o : OpCV) (s : State) : Outcome := issue (wUnpack8 o) s
/-- UNPACK16 (R116). -/
def wUnpack16 (o : OpCV) : WordDef := unpackDef o 2 halfFormat
/-- UNPACK16 issued. -/
def execUnpack16 (o : OpCV) (s : State) : Outcome := issue (wUnpack16 o) s

/-- The quotient of SCALE rounded once to FP32 (R117). -/
def scaleOne (s : Nat) (sc : FVal) (x : Nat) : Nat × Afl :=
  let (q, fl) := quotient (fp32.unpack x) sc
  let (c, fl') := narrow .fp32 (slotRnd s) false q
  (c, fl ||| fl')

/-- SCALE (R117). -/
def wScale (o : OpCV) : WordDef where
  bd := o.bd
  legal e :=
    ({ imm := o.fm == 2, ext := true, xa := o.fm == 0, keep := true } : HintSet).ok e.b.hints && fmLegal e o.fm o.a e.xa false
  uses e := { vr := fmVecs o.fm o.a e.xa false, vw := [o.d], ur := fmUnis e o.fm o.a false }
  pops _ := fmPops o.fm o.a
  body e := do
    let (s, _) ← cvtFormat e o.slot (fun f => f == .fp32)
    let be := e.g.bounds.getD o.slot {}
    if be.bad then .error (formatSlot e)
    let sc ← cvtScale e s
    let res := e.lanes.map (fun l =>
      let (x, fl) := scaleOne s sc (fmValue e o.fm o.a e.xa .f32 false l)
      let (y, fl', event, arm) := be.check fp32 x
      (l, y, fl ||| fl', event, arm))
    let r := writeLanes e false o.d (fmPops o.fm o.a) (res.map (fun p => (p.1, p.2.1, p.2.2.1)))
    let r := r.warp e.cid e.wi (fun w =>
      { w with arms := w.arms ||| maskOf ((res.filter (fun p => p.2.2.2.2)).map (·.1)) })
    return { run := countEvents r e.tile e.ctx be.eclass (res.filter (fun p => p.2.2.2.1)).length }
/-- SCALE issued. -/
def execScale (o : OpCV) (s : State) : Outcome := issue (wScale o) s

end Sys2Proof.Machine
end

