-- ==== Sys2Proof/Machine/Matrix.lean ====
section
/-! DEFINITION. Signing and issuing matrix operations: shape records and accumulator descriptors (R251, R252), the checks at
issue (R285, R293), the cut among cores (R288), departures from a signing set (R175), and the words MSIGN, MCLR and MSTAT
(R174 to R177). -/

namespace Sys2Proof.Machine

/-! ## Capabilities (R253, R254) -/

/-- The fields of a capability (R253). -/
def capCid (v : Nat) : Nat := bits v 116 104
def capLen (v : Nat) : Nat := bits v 103 64
/-- Permissions: LD, ST, ATOM, COPYSRC, COPYDST, MATRIX and GLOBAL as bits 0 to 6. -/
def capPerm (v : Nat) : Nat := bits v 63 57
def capAddr (v : Nat) : Nat := bits v 56 0
def capReserved (v : Nat) : Nat := bits v 127 117

/-- The context identifier of a context (R248): the partition tag above the context number. -/
def ctxId (ctxKey : Nat) : Nat := partOf ctxKey * 64 + ctxKey % 64

/-- Whether a tagged capability passes R254 for n bytes at an address under a permission bit, in global memory or, with
glob false, in the scratchpad. -/
def capPasses (ctxKey : Nat) (tag : Bool) (v perm addr n : Nat) (glob : Bool := true) : Bool :=
  tag && capCid v == ctxId ctxKey && capReserved v == 0 && decide (capAddr v ≤ addr) &&
  decide (addr + n ≤ capAddr v + capLen v) && bitOf (capPerm v) perm && bitOf (capPerm v) 6 == glob

/-- The address in a 16-byte field that holds an address, or, in a protected context, a capability (R151, R254). -/
def addrOf (prot : Bool) (x : Nat) : Nat := if prot then capAddr x else x % 2 ^ 64

/-- Whether a context is protected (R254). -/
def isProt (r : Run) (ctxKey : Nat) : Bool := match Assoc.get? r.contexts ctxKey with
  | some x => x.prot
  | none => false

/-! ## Records (R251, R252) -/

/-- The number in n bytes of a record from an offset (R4). -/
def fieldAt (bs : List Byte) (off n : Nat) : Nat := ofBytes ((bs.drop off).take n)

/-- A shape record (R251). -/
structure Shape where
  base : Nat
  /-- BASE bytes +8 to +15 -/
  baseHi : Nat
  rows : Nat
  cols : Nat
  stride : Nat
  fslot : Nat
  layout : Nat
  bound : Nat
  flags : Nat
  reserved : Nat
deriving DecidableEq, Repr, Inhabited

/-- The shape record in 64 bytes (R251). -/
def shapeOf (bs : List Byte) : Shape :=
  ⟨fieldAt bs 0 8, fieldAt bs 8 8, fieldAt bs 16 4, fieldAt bs 20 4, fieldAt bs 24 4, fieldAt bs 28 1, fieldAt bs 29 1,
    fieldAt bs 30 1, fieldAt bs 31 1, fieldAt bs 32 32⟩

/-- The 16 bytes of BASE as a capability (R251, R253). -/
def Shape.cap (s : Shape) : Nat := s.base + 2 ^ 64 * s.baseHi
/-- SPC: 0 cluster memory, 1 a crew's pad, 2 global (R251). -/
def Shape.spc (s : Shape) : Nat := bits s.flags 1 0
/-- CREW (R251). -/
def Shape.crew (s : Shape) : Nat := bits s.flags 5 2
/-- The swizzle (R251). -/
def Shape.swz (s : Shape) : Nat := bits s.layout 3 1
/-- Lines of a record: columns when column-major, else rows (R251). -/
def Shape.lines (s : Shape) : Nat := if s.layout % 2 = 1 then s.cols else s.rows
/-- Elements of a line (R251). -/
def Shape.perLine (s : Shape) : Nat := if s.layout % 2 = 1 then s.rows else s.cols
/-- Bytes of a line of elements of a width in bits. -/
def Shape.lineBytes (s : Shape) (w : Nat) : Nat := (s.perLine * w + 7) / 8

/-- Byte b of line r, as an offset from BASE (R251). -/
def Shape.at (s : Shape) (r b : Nat) : Nat := s.stride * r + (b ^^^ (16 * (r % 8 &&& s.swz)))

/-- The offset from BASE of the first byte of element (i, j) of a width in bits (R251). -/
def Shape.elem (s : Shape) (w i j : Nat) : Nat :=
  let (r, k) := if s.layout % 2 = 1 then (j, i) else (i, j)
  s.at r (k * w / 8)

/-- One past the last byte of the record's elements, from BASE: the last line reaches furthest (R251). -/
def Shape.extent (s : Shape) (w : Nat) : Nat :=
  let n := s.lineBytes w
  (List.range ((n + 15) / 16)).foldl (fun x c =>
    max x (s.at (s.lines - 1) (16 * c) + min 16 (n - 16 * c))) 0

/-- The rules of R251 but those of the format slot; a protected global BASE is a capability, judged by R254. -/
def Shape.ok (s : Shape) (w : Nat) (cap : Bool) (signing : List Nat) (readout : Bool) : Bool :=
  decide (1 ≤ s.rows) && decide (s.rows ≤ 8192) && decide (1 ≤ s.cols) && decide (s.cols ≤ 8192) &&
  s.stride % 16 == 0 && decide (s.lineBytes w ≤ s.stride) && (s.swz == 0 || s.stride % 128 == 0) &&
  decide (s.layout < 16) && decide (s.flags < 64) && s.spc != 3 && (s.spc != 1 || signing.contains s.crew) &&
  (readout || decide (s.fslot < 8)) && s.reserved == 0 && (if cap then capAddr s.cap % 16 == 0 else s.base % 16 == 0 && s.baseHi == 0)

/-- An accumulator descriptor (R252). -/
structure AccDesc where
  base : Nat
  baseHi : Nat
  rows : Nat
  cols : Nat
  /-- window exponent -/
  e : Int
  view : Nat
  bound : Nat
  rsoff : Nat
  csoff : Nat
  reserved : Nat
deriving DecidableEq, Repr, Inhabited

/-- The accumulator descriptor in 64 bytes (R252). -/
def accOf (bs : List Byte) : AccDesc :=
  ⟨fieldAt bs 0 8, fieldAt bs 8 8, fieldAt bs 16 4, fieldAt bs 20 4, sext 16 (fieldAt bs 24 2), fieldAt bs 26 1,
    fieldAt bs 27 1, fieldAt bs 28 4, fieldAt bs 32 4, fieldAt bs 36 28⟩

/-- The 16 bytes of BASE as a capability (R252, R253). -/
def AccDesc.cap (d : AccDesc) : Nat := d.base + 2 ^ 64 * d.baseHi

/-- Bytes that a descriptor covers (R252). -/
def AccDesc.bytes (d : AccDesc) : Nat := (d.rows + 31) / 32 * ((d.cols + 31) / 32) * 16384

/-- The virtual address of element (i, j) (R252). -/
def AccDesc.elem (d : AccDesc) (i j : Nat) : Nat :=
  d.base + 16384 * (i / 32 * ((d.cols + 31) / 32) + j / 32) + 16 * (32 * (i % 32) + j % 32)

/-! ## The checks at issue (R285, R293) -/

/-- A check that failed: trap code and address. -/
abbrev CheckFail := Nat × Nat

/-- Fails with a code unless a condition holds. -/
def need (c : Bool) (code : Nat) (addr : Nat := 0) : Except CheckFail Unit :=
  if c then .ok () else .error (code, addr)

/-- Whether a bound index may be named (R53). -/
def boundOk (g : Grid) (ix : Nat) : Bool :=
  ix == 255 || (decide (ix < 16) && !(g.bounds.getD ix {}).bad)

/-- Whether a table of n entries of a size at an offset lies in the grid's scale region (R46). -/
def tableFits (g : Grid) (off n size : Nat) : Bool := decide (off + n * size ≤ g.scaleLen)

/-- The check of a descriptor's row or column scale offset (R51, R252). -/
def scaleOffOk (g : Grid) (off n : Nat) : Bool :=
  off == 0xFFFFFFFF || (off % 4 == 0 && tableFits g off n 4)

/-- Whether a BASE that stands in a record of cluster memory passes R254 for n bytes: MATRIX and GLOBAL are set, and, as cluster
memory keeps no tags (R253), its tag is 0. -/
def recordCap (ctxKey cap n : Nat) : Bool := capPasses ctxKey false cap 5 (capAddr cap) n

/-- Every page that a descriptor covers translated, each an ACC page (R252, R285). -/
def accPages (m : Mgmt) (r : Run) (tile ctxKey : Nat) (d : AccDesc) (rights : Nat) : Except CheckFail Unit :=
  (List.range (d.bytes / 4096)).forM (fun k =>
    let va := d.base + 4096 * k
    match pagePlace m r tile ctxKey va rights (accOk := true) with
    | .error (.trap code a) => .error (code, a)
    | .error _ => .error (tcPermission, va)
    | .ok _ => need (onAccPage m r ctxKey va) tcPermission va)

/-- The places of a descriptor's pages, once they have been checked. -/
def accPlaces (m : Mgmt) (r : Run) (tile ctxKey : Nat) (d : AccDesc) (rights : Nat) : List Place :=
  (List.range (d.bytes / 4096)).filterMap (fun k =>
    match pagePlace m r tile ctxKey (d.base + 4096 * k) rights (accOk := true) with
    | .ok p => some p
    | .error _ => none)

/-- A descriptor checked by R252: its fields, its tables and view, its capability, its pages. -/
def checkAcc (m : Mgmt) (r : Run) (tile : Nat) (g : Grid) (d : AccDesc) (rights : Nat) : Except CheckFail Unit := do
  let prot := isProt r g.ctx
  need (decide (1 ≤ d.rows) && decide (d.rows ≤ 512) && decide (1 ≤ d.cols) && decide (d.cols ≤ 768) &&
    d.reserved == 0 && (if prot then capAddr d.cap % 16384 == 0 else d.base % 16384 == 0 && d.baseHi == 0)) tcShape
  need (decide (d.view ≤ 2) && scaleOffOk g d.rsoff d.rows && scaleOffOk g d.csoff d.cols && boundOk g d.bound) tcFormatSlot
  need (!prot || recordCap g.ctx d.cap d.bytes) tcCapability
  accPages m r tile g.ctx (if prot then { d with base := capAddr d.cap } else d) rights

/-- Whether the elements of a record lie inside their space, or, where BASE is a capability, inside its range (R240, R251,
R254). -/
def shapeInside (k : Kernel) (s : Shape) (w : Nat) : Bool :=
  let top := s.base + s.extent w
  match s.spc with
  | 0 => decide (top ≤ k.cluster)
  | 1 => decide (top ≤ k.pad)
  | _ => decide (top ≤ 2 ^ 57)

/-- Whether BASE of a record passes R254 where it must: a global BASE in a protected context. -/
def fieldOk (r : Run) (g : Grid) (s : Shape) (w : Nat) : Bool :=
  !(isProt r g.ctx && s.spc == 2) || recordCap g.ctx s.cap (s.extent w)

/-- A record with the address that its BASE names (R251, R254). -/
def plainShape (r : Run) (g : Grid) (s : Shape) : Shape :=
  if isProt r g.ctx && s.spc == 2 then { s with base := capAddr s.cap } else s

/-- The element width of an operand's slot, in bits; 8 for a code with no format, which the format check refuses. -/
def slotBits (s : Nat) : Nat := match EFmt.ofCode (bits s 3 0) with
  | some f => f.bits
  | none => 8

/-- Whether an operand's slot, scales and bound may stand there (R30, R45 to R47, R53, R416). -/
def operandOk (m : Mgmt) (tile : Nat) (g : Grid) (s : Shape) (isB : Bool) : Bool :=
  let sl := g.fslot s.fslot
  let kind := bits sl 5 4
  let n := match kind with
    | 1 => 1
    | 2 => s.rows
    | 3 => s.cols
    | _ => 0
  (match EFmt.ofCode (bits sl 3 0) with
    | some .fp32 => false
    | some .ds8 => isB && servesFormat m tile .ds8
    | some .ds4 => isB && servesFormat m tile .ds4
    | some f => servesFormat m tile f
    | none => false) &&
  !slotBad sl && (kind == 0 || (bits sl 7 6 == 2 && tableFits g (bits sl 63 32) n 1)) && boundOk g s.bound

/-- Bytes of an element of a view (R51). -/
def viewBytes (v : Nat) : Nat := match v with
  | 0 => 16
  | 1 => 4
  | _ => 2

/-- The checks of an operation at issue (R285), or of a readout (R293): signing crews are given by number. -/
def checkMatrix (m : Mgmt) (r : Run) (tile : Nat) (g : Grid) (k : Kernel) (signing : List Nat) (op : MatrixOp) :
    Except CheckFail Unit := do
  let a := shapeOf op.shapeA
  let b := shapeOf op.shapeB
  let d := accOf op.desc
  let prot := isProt r g.ctx
  if op.readout then
    let w := 8 * viewBytes d.view
    need (a.ok w (prot && a.spc == 2) signing true) tcShape
    need (a.rows == d.rows && a.cols == d.cols) tcShape
    need (fieldOk r g a w) tcCapability
    need (shapeInside k (plainShape r g a) w) tcPermission
    checkAcc m r tile g d needRd
  else
    let wa := slotBits (g.fslot a.fslot)
    let wb := slotBits (g.fslot b.fslot)
    need (a.ok wa (prot && a.spc == 2) signing false && b.ok wb (prot && b.spc == 2) signing false) tcShape
    need (b.rows == a.cols && d.rows == a.rows && d.cols == b.cols) tcShape
    need (decide (a.rows ≤ 512) && decide (b.cols ≤ 768) && decide (a.cols ≤ 8192)) tcShape
    need (operandOk m tile g a false && operandOk m tile g b true) tcFormatSlot
    need (fieldOk r g a wa && fieldOk r g b wb) tcCapability
    need (shapeInside k (plainShape r g a) wa && shapeInside k (plainShape r g b) wb) tcPermission
    checkAcc m r tile g d (needRd + needWr)

/-! ## Staged sums (R290) -/

/-- The place of an accumulator element of an operation, from the pages translated at issue (R285). -/
def MatrixOp.place (op : MatrixOp) (va : Nat) : Option Place :=
  (op.pages[(va - (accOf op.desc).base) / 4096]?).map (fun p => p.add (va % 4096))

/-- One element raised by an integer, modulo 2^128 (R50, R290); a poisoned element keeps its poison (R395). -/
def addElement (blk : Nat) (r : Run) (x : Place × Nat) : Run :=
  if poisonedSpan r x.1 16 then r else storeNum r blk x.1 16 ((loadNum r blk x.1 16 + x.2) % 2 ^ 128)

/-- The staging buffer of a core merged into its accumulator and cleared; a piece whose every chunk is merged leaves the core. -/
def mergeStage (r : Run) (core : Nat) : Run :=
  match (r.coreSt core).stage with
  | none => r
  | some s =>
    match Assoc.get? r.matrix s.op with
    | none => r
    | some op =>
      let d := accOf op.desc
      let at_ (x : Nat × BitVec 128) : Option (Place × Nat) := (op.place (d.elem (x.1 / 768) (x.1 % 768))).map (fun p => (p, x.2.toNat))
      let r := (s.sums.filterMap at_).foldl (addElement op.block) r
      let r := s.bad.foldl (fun (r : Run) k => match op.place (d.elem (k / 768) (k % 768)) with
        | some p => { r with poison := setInsert r.poison (p.key / 8) }
        | none => r) r
      let r := { r with matrix := Assoc.modify r.matrix s.op (fun x => match x.pieces[s.piece]? with
        | some p => { x with pieces := setAt x.pieces s.piece { p with k0 := s.upto } }
        | none => x) }
      r.core core (fun c => { c with stage := if (shapeOf op.shapeA).cols ≤ s.upto then none else some { s with sums := [], bad := [] } })

/-- The cores that have staged chunk sums of an operation. -/
def stagedCores (r : Run) (key : Nat) : List Nat :=
  (r.cores.filter (fun (p : Nat × CoreSt) => p.2.stage.any (fun s => s.op == key && (s.sums != [] || s.bad != [])))).map (·.1)

/-- Everything staged of an operation merged. -/
def mergeOp (r : Run) (key : Nat) : Run := (stagedCores r key).foldl mergeStage r

/-- No core works on an operation any more. -/
def leaveOp (r : Run) (key : Nat) : Run :=
  { r with cores := r.cores.map (fun (p : Nat × CoreSt) => (p.1, { p.2 with stage := p.2.stage.filter (fun s => s.op != key) })) }

/-! ## Signing sets -/

/-- The lanes of a mask. -/
def popMask (x : Mask) : Nat := popCount 32 x.toNat

/-- The number of threads in a set kept by warp. -/
def threadCount (s : Assoc Mask) : Nat := (s.map (fun (p : Nat × Mask) => popMask p.2)).sum

/-- Lanes of a warp taken out of a set of threads. -/
def dropLanes (s : Assoc Mask) (w : Nat) (x : Mask) : Assoc Mask := wrReg s w (rdReg s w &&& ~~~x)

/-- Lanes of a warp added to a set of threads. -/
def addLanes (s : Assoc Mask) (w : Nat) (x : Mask) : Assoc Mask := wrReg s w (rdReg s w ||| x)

/-- The threads of a block that have not exited, by warp. -/
def blockThreads (r : Run) (b : Block) : Assoc Mask :=
  (b.crews.flatMap (fun c => match Assoc.get? r.crews c with
    | none => []
    | some cr => (cr.warps.zipIdx).map (fun (p : Warp × Nat) => (cr.idx * 32 + p.2, ~~~p.1.exited)))).filter
    (fun p => p.2 != 0#32)

/-- The members of a signing set or team now: 16 is the whole block (R174). -/
def setMembers (r : Run) (b : Block) (set : Nat) : Assoc Mask :=
  if set = 16 then blockThreads r b
  else (b.teams.filter (fun p => p.1 / 512 == set)).map (fun (p : Nat × Mask) => (p.1 % 512, p.2))

/-- The crew key of crew number n of a block. -/
def crewOf (r : Run) (b : Block) (n : Nat) : Option Nat :=
  b.crews.find? (fun c => match Assoc.get? r.crews c with
    | some cr => cr.idx == n
    | none => false)

/-! ## Issue -/

/-- Every batch of a block's crews changed, a diverted continuation included (R237). -/
def mapBatches (r : Run) (b : Block) (f : Batch → Batch) : Run :=
  b.crews.foldl (fun r c => r.crew c (fun x =>
    { x with warps := x.warps.map (fun (w : Warp) =>
      { w with batches := w.batches.map f, divrec := w.divrec.map f }) })) r

/-- The crews of a block whose core is resident and that hold a signer, in crew order (R288). -/
def participants (r : Run) (signers : List (Nat × Nat × Nat × Mask)) : List Nat :=
  let cs := (signers.map (·.1)).eraseDups.filter (fun c => match Assoc.get? r.crews c with
    | some x => x.status == .resident
    | none => false)
  let idx (c : Nat) : Nat := match Assoc.get? r.crews c with
    | some x => x.idx
    | none => 0
  sortBy (fun a b => decide (idx a < idx b)) cs

/-- The pieces of a result of M rows and N columns over P participants (R288). -/
def cutPieces (rows cols : Nat) (ps : List Nat) : List Piece :=
  let nc := (cols + 191) / 192
  (List.range ((rows + 127) / 128)).flatMap (fun i => (List.range nc).map (fun j =>
    { crew := ps.getD ((i * nc + j) % ps.length) 0, i0 := 128 * i, i1 := min rows (128 * i + 128),
      j0 := 192 * j, j1 := min cols (192 * j + 192) }))

/-- A dispatched operation cut among the participating cores, once some signing crew is resident (R288). -/
def cutOp (r : Run) (op : MatrixOp) : MatrixOp :=
  if op.cut || op.readout then op
  else
    let ps := participants r op.signers
    if ps = [] then op
    else { op with cut := true, parts := ps, pieces := cutPieces (accOf op.desc).rows (accOf op.desc).cols ps }

/-- An operation counted in a warp's class MX: its number, and the run after (R25, R175). -/
def pushOp (r : Run) (cid wi : Nat) (cls : OpClass) (data : OpData) : Nat × Run :=
  match (Assoc.get? r.crews cid).bind (fun c => c.warps[wi]?) with
  | none => (0, r)
  | some w =>
    let n := freshOp w.ops w.windows
    (n, r.warp cid wi (fun w => { w with ops := w.ops ++ [⟨n, cls, false, data⟩] }))

/-- The lowest signing thread's ordinal advanced for a readout: its thread index, its ordinal and the run (R316). -/
def takeOrd (r : Run) (g : Grid) (who : List (Nat × Nat × Mask)) : Nat × Nat × Run :=
  match who with
  | [] => (0, 0, r)
  | (c, w, lanes) :: _ =>
    let l := lowLane lanes
    match Assoc.get? r.crews c with
    | none => (0, 0, r)
    | some x =>
      let n := match x.warps[w]? with
        | some y => (rdReg y.ords l).toNat
        | none => 0
      let r := if g.det = 0 then r else r.warp c w (fun y => { y with ords := wrReg y.ords l (BitVec.ofNat 64 (n + 1)) })
      (x.idx * x.threads + 32 * w + l, n, r)

/-- The completed signing of a convergence register: snapshot, checks, and dispatch or the trap of every signer
(R175, R285). -/
def dispatchMatrix (m : Mgmt) (r : Run) (bk cv : Nat) : Run :=
  match Assoc.get? r.blocks bk with
  | none => r
  | some b =>
    match Assoc.get? b.cvs cv, Assoc.get? r.grids b.grid with
    | some c, some g =>
      let k := kernelOf g b
      let rec64 (o : Nat) : List Byte := loadBytes r bk (.clu bk o) 64
      let who := c.who.filterMap (fun p => (crewOf r b (p.1 / 32)).map (fun ck => (ck, p.1 % 32, p.2)))
      let op : MatrixOp :=
        { block := bk, shapeA := rec64 c.offA, shapeB := rec64 c.offB, desc := rec64 c.offD,
          readout := c.offA == c.offB, offD := c.offD }
      let tile := match who with
        | w :: _ => match Assoc.get? r.crews w.1 with
          | some x => x.core / 24
          | none => 0
        | [] => 0
      let idle := r.block bk (fun x => { x with cvs := Assoc.set x.cvs cv { gen := c.gen + 1 } })
      let wake (w : Wait) (r : Run) : Run :=
        mapBatches r b (fun x => if x.wait = .msign cv then { x with wait := w } else x)
      match checkMatrix m r tile g k ((c.who.map (fun (p : Nat × Mask) => p.1 / 32)).eraseDups) op with
      | .error (code, addr) => wake (.due code addr 0) idle
      | .ok () =>
        let key := Assoc.fresh r.matrix
        let (r, sg) := who.foldl (fun (acc : Run × List (Nat × Nat × Nat × Mask)) (w : Nat × Nat × Mask) =>
          let (n, r) := pushOp acc.1 w.1 w.2.1 .mx (.matrix key)
          (r, acc.2 ++ [(w.1, w.2.1, n, w.2.2)])) (openInterval idle bk, [])
        let (t, n, r) := if op.readout then takeOrd r g who else (0, 0, r)
        let pages := accPlaces m r tile g.ctx (accOf op.desc) (if op.readout then needRd else needRd + needWr)
        let op := cutOp r { op with signers := sg, thread := t, ord := n, pages := pages }
        wake .pass { r with matrix := Assoc.set r.matrix key op }
    | _, _ => r

/-- A signing whose signatures have reached the number expected issues (R175). -/
def settleSigning (m : Mgmt) (r : Run) (bk cv : Nat) : Run :=
  match (Assoc.get? r.blocks bk).bind (fun b => Assoc.get? b.cvs cv) with
  | none => r
  | some c => if c.signing && decide (c.expected ≤ c.signed) then dispatchMatrix m r bk cv else r

/-- Threads that leave a signing set before signing reduce what its signings expect (R175). -/
def leaveSignings (m : Mgmt) (r : Run) (bk set wkey : Nat) (lanes : Mask) : Run :=
  (List.range 16).foldl (fun r cv =>
    match (Assoc.get? r.blocks bk).bind (fun b => Assoc.get? b.cvs cv) with
    | none => r
    | some c =>
      let gone := lanes &&& rdReg c.expect wkey &&& ~~~rdReg c.who wkey
      if c.signing && c.set == set && gone != 0#32 then
        let c := { c with expected := c.expected - popMask gone, expect := dropLanes c.expect wkey gone }
        settleSigning m (r.block bk (fun x => { x with cvs := Assoc.set x.cvs cv c })) bk cv
      else r) r

/-! ## MSIGN (R174, R175) -/

/-- The cluster offsets that an MSIGN names, checked by R155 and R174. -/
def recordFault (k : Kernel) (o : Nat) : Option Nat :=
  if o % 64 ≠ 0 then some tcMisaligned else if k.cluster < o + 64 then some tcPermission else none

/-- The convergence registers in whose present signing a warp has signed and that have not issued (R25). -/
def openSignings (b : Block) (wkey : Nat) : Nat :=
  (b.cvs.filter (fun p => p.2.signing && rdReg p.2.who wkey != 0#32)).length

/-- A convergence register of the block. -/
def Block.cv (b : Block) (n : Nat) : Conv := (Assoc.get? b.cvs n).getD {}

/-- The MX count of a warp with its signings that have not issued: what MSIGN and MCLR keep at 63 or less (R25, R175). -/
def mxDue (e : Env) : Nat := counter e.w.ops .mx + openSignings e.blk e.wkey

/-- Whether MSIGN waits before it signs (R25, R175). -/
def msignWaits (e : Env) : Bool := e.active != 0#32 && e.b.wait == .none && decide (63 ≤ mxDue e)

/-- The active threads that have signed the generation being signed (R175). -/
def resigning (e : Env) (o : OpMsign) : Mask :=
  if (e.blk.cv o.cv).signing then rdReg (e.blk.cv o.cv).who e.wkey &&& e.active else 0#32

/-- The i-th record offset of MSIGN's group. -/
def signOff (e : Env) (o : OpMsign) (i : Nat) : Nat := (e.w.u (e.w.uIdx o.sb + i)).toNat

/-- MSIGN signs the order that is being signed, or opens one (R175). -/
def sameOrder (e : Env) (o : OpMsign) : Bool :=
  let c := e.blk.cv o.cv
  !c.signing || (c.set == o.set && c.offA == signOff e o 0 && c.offB == signOff e o 1 && c.offD == signOff e o 2)

/-- The convergence register after some active lanes of e signed it: the first signature takes the set, the records and the
threads expected (R175). -/
def signConv (e : Env) (o : OpMsign) (lanes : Mask) : Conv :=
  let c := e.blk.cv o.cv
  let members := setMembers e.r e.blk o.set
  let c := if c.signing then c
    else { c with signing := true, expected := threadCount members, set := o.set, offA := signOff e o 0,
                  offB := signOff e o 1, offD := signOff e o 2, expect := members }
  { c with signed := c.signed + popMask lanes, who := addLanes c.who e.wkey lanes }

/-- MSIGN's effect: the signatures are in, its batch is parked, and a signing now whole issues its order. Lanes that have signed
this generation stand at the word, to sign the next one (R175). -/
def signRun (e : Env) (o : OpMsign) : Run :=
  let again := resigning e o
  let r := (openInterval e.r e.crew.block).block e.crew.block (fun x =>
    { x with cvs := Assoc.set x.cvs o.cv (signConv e o (e.active &&& ~~~again)) })
  let r := r.warp e.cid e.wi (fun w => w.replaceBatch e.lead
    [{ e.b with lanes := e.b.lanes &&& ~~~again, wait := .msign o.cv }, { e.b with lanes := again }])
  settleSigning e.m r e.crew.block o.cv

/-- MSIGN (R175). -/
def wMsign (o : OpMsign) : WordDef where
  bd := o.bd
  la := some o.la
  legal e := priKeep e && uGroup e o.sb 4 && decide (o.set ≤ 16)
  uses e := { ur := uRegs e o.sb 4 }
  waits := msignWaits
  body e :=
    match e.b.wait with
    | .pass => .ok { run := e.r }
    | .due code addr _ => .error (.trap { code := code, mask := e.active, addr := addr, info1 := o.set })
    | _ =>
      if e.active = 0#32 then .ok { run := e.r }
      else
        match [signOff e o 0, signOff e o 1, signOff e o 2].findSome? (fun x => (recordFault e.k x).map (fun c => (c, x))) with
        | some (code, x) => .error (.trap { code := code, mask := e.active, addr := x, info1 := o.set })
        | none =>
          let bad := if sameOrder e o then e.active &&& ~~~rdReg (setMembers e.r e.blk o.set) e.wkey else e.active
          if bad != 0#32 then .error (.trap { code := tcMuster, mask := bad, info1 := o.set })
          else if resigning e o = e.active then .error .hold
          else .ok { run := signRun e o, next := .parked }
/-- MSIGN issued. -/
def execMsign (o : OpMsign) (s : State) : Outcome := issue (wMsign o) s

/-- MCLR (R176): the descriptor is read and checked at issue, and the zeroing counts in MX until it completes. -/
def wMclr (o : OpMclr) : WordDef where
  bd := o.bd
  la := some o.la
  legal e := priKeep e
  uses e := { ur := [e.w.uIdx o.sb] }
  waits e := decide (63 ≤ mxDue e)
  cls _ := .mx
  body e :=
    let off := (e.w.u (e.w.uIdx o.sb)).toNat
    match recordFault e.k off with
    | some code => .error (.trap { code := code, mask := e.active, addr := off })
    | none =>
      let ds := loadBytes e.r e.crew.block (.clu e.crew.block off) 64
      match checkAcc e.m e.r e.tile e.g (accOf ds) (needRd + needWr) with
      | .error (code, addr) => .error (.trap { code := code, mask := e.active, addr := addr })
      | .ok () =>
        let pages := accPlaces e.m e.r e.tile e.ctx (accOf ds) (needRd + needWr)
        let (n, r) := pushOp (openInterval e.r e.crew.block) e.cid e.wi .mx (.mclr ds pages)
        .ok { run := r, op := n }
/-- MCLR issued. -/
def execMclr (o : OpMclr) (s : State) : Outcome := issue (wMclr o) s

/-- The crews whose cores an operation is of: those with a piece; before the cut, and for a readout, its signers' (R177, R288;
log 30). -/
def MatrixOp.crews (op : MatrixOp) : List Nat := if op.cut then op.pieces.map (·.crew) else op.signers.map (·.1)

/-- The matrix operations of a core that are dispatched and have not completed, readouts among them (R177). -/
def opsOnCore (r : Run) (core : Nat) : Nat :=
  (r.matrix.filter (fun p => p.2.crews.any (fun x => match Assoc.get? r.crews x with
    | some c => c.core == core
    | none => false))).length

/-- The two values of MSTAT (R177). -/
def mstatValue (e : Env) (sel : Nat) : Nat × Nat :=
  if sel = 16 then ((e.r.coreSt e.crew.core).mxgov.toNat, (e.r.coreSt e.crew.core).budget)
  else if sel = 17 then (opsOnCore e.r e.crew.core, 0)
  else
    let c := e.blk.cv sel
    (b2n c.signing * 2 ^ 31 + c.expected % 2 ^ 13 * 2 ^ 16 + c.signed % 2 ^ 13, c.gen.toNat)

/-- MSTAT (R177). -/
def wMstat (o : OpMstat) : WordDef where
  bd := o.bd
  la := some o.la
  legal e := priKeep e && uGroup e o.sd 2 && decide (o.sel ≤ 17)
  uses e := { uw := uRegs e o.sd 2 }
  body e :=
    let (x, y) := mstatValue e o.sel
    .ok { run := e.r.warp e.cid e.wi (fun w => w.setUs (e.w.uIdx o.sd) [BitVec.ofNat 32 x, BitVec.ofNat 32 y]) }
/-- MSTAT issued. -/
def execMstat (o : OpMstat) (s : State) : Outcome := issue (wMstat o) s

end Sys2Proof.Machine
end

