-- ==== Sys2Proof/Machine/Sync.lean ====
section
/-! DEFINITION. Synchronisation: cairns (R397), barriers of blocks and teams (R179, R180), team membership (R181), fences
(R182), arrival words (R183, R276 to R278), grid dependences (R184) and monitors (R185). -/

namespace Sys2Proof.Machine

/-! ## Cairns (R397, R398) -/

/-- Whether an engine still works for a block: a copy, GATHER, CREDUCE, matrix operation or MCLR outstanding (R397). -/
def engineWork (r : Run) (bk : Nat) (b : Block) : Bool :=
  r.matrix.any (fun p => p.2.block == bk) ||
  b.crews.any (fun c => match Assoc.get? r.crews c with
    | none => false
    | some x => x.aslice.copies != [] ||
        x.warps.any (fun w => w.ops.any (fun o => !o.done && (o.cls == .gt || o.cls == .cl || o.cls == .mx))))

/-- The state of a block at a cairn (R397). -/
def cairnOf (r : Run) (b : Block) : Cairn :=
  let cs := b.crews.filterMap (fun c => Assoc.get? r.crews c)
  { warps := cs.map (·.warps), aslices := cs.map (·.aslice), pads := cs.map (·.pad), laneMems := cs.map (·.lanes),
    queues := cs.map (·.queues), teams := b.teams, bar := b.bar, barns := b.barns, cluster := b.cluster, digest := b.digest }

/-- A cairn set, when the launch enables them, their shadows have space and no engine works for the block: held stores are performed first, and the
interval that begins is closed (R397, R398). -/
def setCairn (r : Run) (bk : Nat) : Run :=
  match Assoc.get? r.blocks bk with
  | none => r
  | some b =>
    match Assoc.get? r.grids b.grid with
    | none => r
    | some g =>
      if !g.cairn || b.shadowSpace == 0 || engineWork r bk b then r
      else
        let r := openInterval r bk
        r.block bk (fun x =>
          { x with cairn := some (cairnOf r x), closedInterval := true, shadow := [], rollbacks := 0, held := [],
                   heldCount := 0, heldTags := [] })

/-! ## Barriers -/

/-- Whether every thread of a set is in another. -/
def coveredBy (xs ys : Assoc Mask) : Bool := xs.all (fun p => p.2 &&& ~~~rdReg ys p.1 == 0#32)

/-- The threads of a completed episode are ordered at block scope (R267). -/
def settleThreads (r : Run) (b : Block) (arrived : Assoc Mask) : Run :=
  arrived.foldl (fun r a => match b.crews[a.1 / 32]? with
    | some c => settleSynonyms r c (fun p => p / 32 == a.1 % 32 && a.2.getLsbD (p % 32))
    | none => r) r

/-- The block's episode, completed when every thread that has not exited has arrived (R179). -/
def settleBar (r : Run) (bk : Nat) : Run :=
  match Assoc.get? r.blocks bk with
  | none => r
  | some b =>
    if b.bar.arrived != [] && coveredBy (blockThreads r b) b.bar.arrived then
      let r := r.block bk (fun x => { x with bar := { episode := x.bar.episode + 1 } })
      let r := settleThreads r b b.bar.arrived
      setCairn (mapBatches r b (fun x => if x.wait = .bar then { x with wait := .pass } else x)) bk
    else r

/-- A team's barrier. -/
def Block.barn (b : Block) (k : Nat) : Barrier := (Assoc.get? b.barns k).getD {}

/-- A team's episode, completed when every expected member has arrived or left (R180). -/
def settleBarn (r : Run) (bk k : Nat) : Run :=
  match Assoc.get? r.blocks bk with
  | none => r
  | some b =>
    let x := b.barn k
    if x.inProgress && coveredBy x.expected x.arrived then
      let r := r.block bk (fun y => { y with barns := Assoc.set y.barns k { episode := x.episode + 1 } })
      let r := settleThreads r b x.arrived
      mapBatches r b (fun y => if y.wait = .barn k then { y with wait := .pass } else y)
    else r

/-- Threads of a warp out of a team, with what that does to its pending episode and signings (R175, R180, R181). -/
def leaveTeam (m : Mgmt) (r : Run) (bk k wkey : Nat) (lanes : Mask) : Run :=
  match Assoc.get? r.blocks bk with
  | none => r
  | some b =>
    let key := k * 512 + wkey
    let gone := lanes &&& rdReg b.teams key
    if gone = 0#32 then r
    else
      let r := r.block bk (fun y =>
        let x := y.barn k
        let waiting := gone &&& ~~~rdReg x.arrived wkey
        { y with teams := dropLanes y.teams key gone,
                 barns := if x.inProgress then Assoc.set y.barns k { x with expected := dropLanes x.expected wkey waiting }
                          else y.barns })
      leaveSignings m (settleBarn r bk k) bk k wkey gone

/-- Threads of a warp that have exited, out of every team and of the counts of the block (R136, R175, R179). -/
def threadsGone (m : Mgmt) (r : Run) (bk wkey : Nat) (lanes : Mask) : Run :=
  let r := (List.range 16).foldl (fun r k => leaveTeam m r bk k wkey lanes) r
  settleBar (leaveSignings m r bk 16 wkey lanes) bk

/-- The word has arrived somewhere and its batch waits in place. -/
def parkBatch (e : Env) (r : Run) (w : Wait) : Run :=
  r.warp e.cid e.wi (fun x => x.replaceBatch e.lead [{ e.b with wait := w }])

/-- BAR (R179). -/
def wBar (o : OpBare) : WordDef where
  bd := o.bd
  legal e := priKeep e
  body e :=
    if e.b.wait == .pass || e.active == 0#32 then .ok { run := e.r }
    else
      let r := e.r.block e.crew.block (fun x => { x with bar := { x.bar with arrived := addLanes x.bar.arrived e.wkey e.active } })
      .ok { run := settleBar (parkBatch e r .bar) e.crew.block, next := .parked }
/-- BAR issued. -/
def execBar (o : OpBare) (s : State) : Outcome := issue (wBar o) s

/-- The active threads that are no members of a team. -/
def outsiders (e : Env) (k : Nat) : Mask := e.active &&& ~~~rdReg e.blk.teams (k * 512 + e.wkey)

/-- BARN (R180). A batch none of whose lanes the episode in progress expects waits for the next one. -/
def wBarn (o : OpBarn) : WordDef where
  bd := o.bd
  legal e := priKeep e
  waits e :=
    let x := e.blk.barn o.team
    e.b.wait == .none && e.active != 0#32 && outsiders e o.team == 0#32 && x.inProgress &&
      rdReg x.expected e.wkey &&& e.active == 0#32
  body e :=
    if e.b.wait == .pass || e.active == 0#32 then .ok { run := e.r }
    else if outsiders e o.team != 0#32 then .error (.trap { code := tcMuster, mask := outsiders e o.team })
    else
      let x := e.blk.barn o.team
      let x := if x.inProgress then x else { x with inProgress := true, expected := setMembers e.r e.blk o.team, arrived := [] }
      let x := { x with arrived := addLanes x.arrived e.wkey e.active }
      let r := e.r.block e.crew.block (fun y => { y with barns := Assoc.set y.barns o.team x })
      .ok { run := settleBarn (parkBatch e r (.barn o.team)) e.crew.block o.team, next := .parked }
/-- BARN issued. -/
def execBarn (o : OpBarn) (s : State) : Outcome := issue (wBarn o) s

/-! ## Fences and teams -/

/-- FENCE (R182): every access of the model is performed when it issues, so the ordering is in force at once (log 1), but for what the
synonyms of a page may still show (R259). -/
def wFence (o : OpFence) : WordDef where
  bd := o.bd
  legal e := priKeep e && decide (o.scope ≤ 4)
  body e :=
    let r := if e.active != 0#32 && decide (2 ≤ o.scope) then openInterval e.r e.crew.block else e.r
    .ok { run := if 1 ≤ o.scope then fenceSynonyms r e.cid (fun p => p / 32 == e.wi && e.active.getLsbD (p % 32)) else r }
/-- FENCE issued. -/
def execFence (o : OpFence) (s : State) : Outcome := issue (wFence o) s

/-- TJOIN (R181). -/
def wTjoin (o : OpTeam) : WordDef where
  bd := o.bd
  la := some o.la
  legal e := priKeep e
  body e :=
    .ok { run := e.r.block e.crew.block (fun x => { x with teams := addLanes x.teams (o.team * 512 + e.wkey) e.active }) }
/-- TJOIN issued. -/
def execTjoin (o : OpTeam) (s : State) : Outcome := issue (wTjoin o) s

/-- TLEAVE (R181). -/
def wTleave (o : OpTeam) : WordDef where
  bd := o.bd
  la := some o.la
  legal e := priKeep e
  body e := .ok { run := leaveTeam e.m e.r e.crew.block o.team e.wkey e.active }
/-- TLEAVE issued. -/
def execTleave (o : OpTeam) (s : State) : Outcome := issue (wTleave o) s

/-! ## Arrival words (R178, R276 to R278) -/

/-- The place of an arrival word, or the code of the check that fails (R178). -/
def arrivalPlace (k : Kernel) (cid blk off : Nat) : Except Nat Place :=
  let o := off % 2 ^ 31
  let clu := off / 2 ^ 31 % 2 == 1
  if o % 16 ≠ 0 then .error tcMisaligned
  else if (if clu then k.cluster else k.pad) < o + 16 then .error tcPermission
  else .ok (if clu then .clu blk o else .pad cid o)

/-- COUNT, GEN and FLAGS of an arrival word after n units (R277): each TARGET in the count completes a generation, and the units
beyond carry. -/
def arrivalUpdate (target count gen flags n : Nat) : Nat × Nat × Nat :=
  let count := (count + n) % 2 ^ 32
  if target = 0 ∨ count < target then (count, gen, flags)
  else
    let flags := if bits flags 3 3 = 1 ∧ bits flags 1 0 = 1 then flags + 1 else flags
    let flags := if count % target ≠ 0 ∧ bits flags 2 2 = 0 then flags + 4 else flags
    (count % target, gen + count / target, flags)

/-- An arrival of n units at an arrival word (R277). -/
def arrive (r : Run) (blk : Nat) (p : Place) (n : Nat) : Run :=
  let x := arrivalUpdate (loadNum r blk p 4) (loadNum r blk (p.add 4) 4) (loadNum r blk (p.add 8) 4) (loadNum r blk (p.add 12) 4) n
  storeBytes r blk (p.add 4) (toBytes 4 x.1 ++ toBytes 4 x.2.1 ++ toBytes 4 x.2.2)

/-- The generation of an arrival word. -/
def generation (r : Run) (blk : Nat) (p : Place) : Nat := loadNum r blk (p.add 8) 4

/-- A fault of a warp-level word at an offset. -/
def offsetTrap (e : Env) (code off : Nat) : Stop := .trap { code := code, mask := e.active, addr := off }

/-- ARRIVE (R183). -/
def wArrive (o : OpArrive) : WordDef where
  bd := o.bd
  la := some o.la
  legal e := priKeep e && o.cnt != 0
  uses e := { ur := [e.w.uIdx o.sa] }
  body e :=
    let off := (e.w.u (e.w.uIdx o.sa)).toNat
    match arrivalPlace e.k e.cid e.crew.block off with
    | .error c => .error (offsetTrap e c off)
    | .ok p => .ok { run := arrive e.r e.crew.block p o.cnt }
/-- ARRIVE issued. -/
def execArrive (o : OpArrive) (s : State) : Outcome := issue (wArrive o) s

/-- AWAIT (R183): it holds while the word's generation is the one in s[SG], and then writes the generation there. -/
def wAwait (o : OpAwait) : WordDef where
  bd := o.bd
  legal e := priKeep e
  uses e := { ur := [e.w.uIdx o.sa, e.w.uIdx o.sg], uw := [e.w.uIdx o.sg] }
  waits e :=
    match arrivalPlace e.k e.cid e.crew.block (e.w.u (e.w.uIdx o.sa)).toNat with
    | .error _ => false
    | .ok p => generation e.r e.crew.block p == (e.w.u (e.w.uIdx o.sg)).toNat
  body e :=
    let off := (e.w.u (e.w.uIdx o.sa)).toNat
    match arrivalPlace e.k e.cid e.crew.block off with
    | .error c => .error (offsetTrap e c off)
    | .ok p =>
      .ok { run := e.r.warp e.cid e.wi (fun w =>
              w.setU (e.w.uIdx o.sg) (BitVec.ofNat 32 (generation e.r e.crew.block p))) }
/-- AWAIT issued. -/
def execAwait (o : OpAwait) (s : State) : Outcome := issue (wAwait o) s

/-! ## Grid dependences (R184) -/

/-- A block marked as triggered, once: a task and a re-execution add nothing to the blocks of their grid (R184, R312, R321). -/
def triggerBlock (r : Run) (bk : Nat) (b : Block) : Run :=
  if b.triggered then r
  else
    let r := r.block bk (fun x => { x with triggered := true })
    if b.isTask || b.replay then r else r.grid b.grid (fun g => { g with blocksTriggered := g.blocksTriggered + 1 })

/-- TRIGGER (R184). -/
def wTrigger (o : OpTrigger) : WordDef where
  bd := o.bd
  la := some o.la
  legal e := priKeep e
  body e :=
    .ok { run := if e.active = 0#32 then e.r else triggerBlock (openInterval e.r e.crew.block) e.crew.block e.blk }
/-- TRIGGER issued. -/
def execTrigger (o : OpTrigger) (s : State) : Outcome := issue (wTrigger o) s

/-- GRIDWAIT (R184). -/
def wGridwait (o : OpBare) : WordDef where
  bd := o.bd
  legal e := priKeep e
  waits e := !producersTriggered e.r e.g
  body e := .ok { run := e.r.block e.crew.block (fun b => { b with passedWait := true }) }
/-- GRIDWAIT issued. -/
def execGridwait (o : OpBare) (s : State) : Outcome := issue (wGridwait o) s

/-! ## Monitors (R185) -/

/-- The place of a watched word of n bytes, or the stop (R185, R157). -/
def watchPlace (e : Env) (va n : Nat) : Except Stop Place :=
  if va % n ≠ 0 then .error (offsetTrap e tcMisaligned va)
  else
    match globalPlace e.m e.r e.asker e.ctx va needRd with
    | .error f => .error (f.stop e)
    | .ok p => .ok p

/-- MWAIT (R185): a word that still holds the expected value is recorded and watched. -/
def wMwait (o : OpMwait) : WordDef where
  bd := o.bd
  legal e :=
    ({ mod := true, keep := true } : HintSet).ok e.b.hints && ({ w64 := true, order := true } : Accept).allows e.mods &&
    decide (e.mods.ord ≤ 1) && uGroup e o.sa 2 && (!e.wide || uGroup e o.sv 2)
  uses e := { ur := uRegs e o.sa 2 ++ pair e.wide (e.w.uIdx o.sv) }
  body e :=
    if e.b.wait == .pass then .ok { run := e.r }
    else
      let n := if e.wide then 8 else 4
      let va := e.w.u64 (e.w.uIdx o.sa)
      match watchPlace e va n with
      | .error x => .error x
      | .ok p =>
        let v := e.w.uW e.wide (e.w.uIdx o.sv)
        if loadNum e.r e.crew.block p n = v then
          .ok { run := e.r, next := .stay (.monitor va v n) }
        else .ok { run := e.r }
/-- MWAIT issued. -/
def execMwait (o : OpMwait) (s : State) : Outcome := issue (wMwait o) s

end Sys2Proof.Machine
end

