-- ==== Sys2Proof/Machine/MemInstr.lean ====
section
/-! DEFINITION. LD, ST and ATOM (R155 to R164): operand rules, the checks of R157, the access, and the digest terms of
R316. Each access is performed when the word issues (log 1); what counts in LDG, STG and AT completes later. -/

namespace Sys2Proof.Machine

/-! ## Digest terms (R316) -/

/-- The terms a, d, s of a lane's writes folded in order into the task's digest, the store ordinal rising by 1 after each
(R316). -/
def foldWrites (e : Env) (r : Run) (l : Nat) (ts : List (Nat × Nat × Nat)) : Run :=
  if e.g.det = 0 then r
  else
    ts.foldl (fun r t =>
      let n := match (Assoc.get? r.crews e.cid).bind (fun c => c.warps[e.wi]?) with
        | some w => (rdReg w.ords l).toNat
        | none => 0
      let r := r.block e.crew.block (fun b =>
        { b with digest := digestAdd e.g.detkey0 e.g.detkey1 b.digest t.1 t.2.1 t.2.2 (e.thread l) n })
      r.warp e.cid e.wi (fun w => { w with ords := wrReg w.ords l (BitVec.ofNat 64 (n + 1)) })) r

/-- The digest terms of a plain store of n bytes (R316): a 16-byte one folds its two halves, the lower address first. -/
def storeTerms (sp ea n x : Nat) : List (Nat × Nat × Nat) :=
  let a := sp * 2 ^ 57 + ea
  if n = 16 then [(a, x % 2 ^ 64, 8), (a + 8, x / 2 ^ 64 % 2 ^ 64, 8)] else [(a, x % 2 ^ (8 * n), n)]

/-! ## Checks shared by LD, ST and ATOM (R157) -/

/-- Each active lane's place, or the stop that R157 gives: the checks in order, then the watchpoints (R420). -/
def accessPlaces (e : Env) (a sp n need : Nat) : Except Stop (List (Nat × Place)) :=
  match lanePlaces (e.lanes.map (fun l => (l, lanePlace e sp l (effAddr e a sp l) n n need))) with
  | .error x => .error x
  | .ok ps =>
    let hit := if sp < 4 then [] else e.lanes.filter (fun l =>
      watched e.r e.ctx (effAddr e a sp l) n (need != needWr) (need != needRd))
    match hit with
    | [] => .ok ps
    | l :: _ => .error (.trap { code := tcWatchpoint, mask := maskOf hit, addr := effAddr e a sp l })

/-- Bytes of an access of format M (R156). -/
def accessBytes (e : Env) (w : Nat) : Nat := match w with
  | 0 => 4
  | 1 => 8
  | 2 => 16
  | _ => if e.mods.sz = 1 then 1 else 2

/-- Registers of the data group (R156). -/
def groupSize (w : Nat) : Nat := match w with
  | 1 => 2
  | 2 => 4
  | _ => 1

/-- The operand rules of LD and ST (R156, R159): ORD is limited by the word. -/
def memLegal (e : Env) (o : OpM) (ords : List Nat) : Bool :=
  ({ mod := true, xa := true, adr := true, keep := true } : HintSet).ok e.b.hints &&
  ({ sz := true, order := true } : Accept).allows e.mods && ords.contains e.mods.ord && decide (o.sp ≤ 5) &&
  o.d % groupSize o.w == 0 && ((o.w == 3) == (e.mods.sz != 0)) && (e.mods.sgn == 0 || e.mods.sz != 0) &&
  addrLegal e o.a o.sp

/-- An operation of a class added to the warp, its number with the run. -/
def addOp (e : Env) (r : Run) (cls : OpClass) (data : OpData) : Nat × Run := pushOp r e.cid e.wi cls data

/-- Whether a place is one whose use opens the interval of a cairn: host or peer memory (R398). -/
def Place.outside : Place → Bool
  | .host _ => true
  | .peer _ => true
  | _ => false

/-- The interval opened when an access leaves the device (R398). -/
def openFor (r : Run) (blk : Nat) (ps : List (Nat × Place)) : Run :=
  if ps.any (fun p => p.2.outside) then openInterval r blk else r

/-- The registers that a loaded value is written to, low word first (R156). -/
def groupWrites (l d n x : Nat) : List (Nat × Nat × Word) :=
  (List.range n).map (fun i => (l, d + i, BitVec.ofNat 32 (x / 2 ^ (32 * i))))

/-- A list of lane, register and value written. -/
def Warp.setAll (w : Warp) (ws : List (Nat × Nat × Word)) : Warp := ws.foldl (fun w x => w.setV x.1 x.2.1 x.2.2) w

/-! ## LD (R157) -/

/-- The page by which an access of the issuer goes, where it may have synonyms (R250). -/
def Env.page (e : Env) (sp va : Nat) : Option Nat := synonymPage e.m e.r e.ctx sp va

/-- The value that LD writes, of the bytes read: a sub-word is extended by SGN (R157). -/
def loadExtend (e : Env) (w n x : Nat) : Nat := if w = 3 ∧ e.mods.sgn = 1 then sextTo 32 (8 * n) x else x

/-- One lane's load: the run after, and the registers to write with the values read (R157, R259). -/
def loadLane (e : Env) (o : OpM) (n : Nat) (acc : Run × List (Nat × Nat × Word)) (p : Nat × Place) :
    Run × List (Nat × Nat × Word) :=
  let x := synLoad acc.1 e.crew.block e.cid (laneParty e.wi p.1) (e.page o.sp (effAddr e o.a o.sp p.1)) p.2 n
  (x.2, acc.2 ++ groupWrites p.1 o.d (groupSize o.w) (loadExtend e o.w n x.1))

/-- LD (R157): in spaces 0 to 3 the registers are written at once, in 4 and 5 when the load completes (R160). -/
def wLd (o : OpM) : WordDef where
  bd := o.bd
  la := some o.la
  legal e := memLegal e o [0, 1]
  uses e := { vr := addrVecs e o.a o.sp, vw := vRegs o.d (groupSize o.w), ur := addrUnis e o.sp }
  waits e := decide (4 ≤ o.sp) && decide (63 ≤ counter e.w.ops .ldg)
  cls _ := if 4 ≤ o.sp then .ldg else .none
  body e :=
    let n := accessBytes e o.w
    match accessPlaces e o.a o.sp n needRd with
    | .error x => .error x
    | .ok ps =>
      match poisonStop e.r ps n with
      | some x => .error x
      | none =>
        let (r, ws) := ps.foldl (loadLane e o n) (openFor e.r e.crew.block ps, [])
        if o.sp < 4 then .ok { run := r.warp e.cid e.wi (fun w => w.setAll ws) }
        else
          let (k, r) := addOp e r .ldg (.vregs ws)
          .ok { run := r, op := k }
/-- LD issued. -/
def execLd (o : OpM) (s : State) : Outcome := issue (wLd o) s

/-! ## ST (R158) -/

/-- The number in a data group of a lane (R156). -/
def Warp.group (w : Warp) (l d n : Nat) : Nat := gatherBits n 32 (fun i => (w.v l (d + i)).toNat)

/-- One lane's store: the bytes, then the digest term (R158, R316). -/
def storeLane (e : Env) (o : OpM) (n : Nat) (r : Run) (p : Nat × Place) : Run :=
  let x := e.w.group p.1 o.d (groupSize o.w) % 2 ^ (8 * n)
  let va := effAddr e o.a o.sp p.1
  foldWrites e (synStore r e.crew.block e.cid (laneParty e.wi p.1) (e.page o.sp va) .stg p.2 n x) p.1 (storeTerms o.sp va n x)

/-- ST (R158). -/
def wSt (o : OpM) : WordDef where
  bd := o.bd
  la := some o.la
  legal e := memLegal e o [0, 2]
  uses e := { vr := addrVecs e o.a o.sp ++ vRegs o.d (groupSize o.w), ur := addrUnis e o.sp }
  waits e := decide (4 ≤ o.sp) && decide (63 ≤ counter e.w.ops .stg)
  cls _ := if 4 ≤ o.sp then .stg else .none
  body e :=
    let n := accessBytes e o.w
    match accessPlaces e o.a o.sp n needWr with
    | .error x => .error x
    | .ok ps =>
      let r := openFor e.r e.crew.block ps
      let r := if e.mods.ord = 2 ∧ 2 ≤ e.mods.scope then openInterval r e.crew.block else r
      let r := ps.foldl (storeLane e o n) r
      .ok { run := if o.sp < 4 then r else (addOp e r .stg .none).2 }
/-- ST issued. -/
def execSt (o : OpM) (s : State) : Outcome := issue (wSt o) s

/-! ## ATOM (R162, R163) -/

/-- The new value of an atomic of width w on memory m with operand b and, for CAS, new value c (R163), and its flags. -/
def atomNew (aop w m b c : Nat) : Nat × Afl :=
  match aop with
  | 0 => ((m + b) % 2 ^ w, flNone)
  | 1 => (if sext w m ≤ sext w b then m else b, flNone)
  | 2 => (if sext w m ≤ sext w b then b else m, flNone)
  | 3 => (min m b, flNone)
  | 4 => (max m b, flNone)
  | 5 => (m &&& b, flNone)
  | 6 => (m ||| b, flNone)
  | 7 => (m ^^^ b, flNone)
  | 8 => (b, flNone)
  | 9 => (if m = b then c else m, flNone)
  | 10 => fp32.add .rne m b
  | 11 => fp32.minNum m b
  | 12 => fp32.maxNum m b
  | 13 => (if b ≤ m then 0 else m + 1, flNone)
  | _ => (if m = 0 ∨ b < m then b else m - 1, flNone)

/-- The digest operand of an atomic (R316). -/
def atomTerm (aop sp ea n b c : Nat) : Nat × Nat × Nat :=
  (sp * 2 ^ 57 + ea, if aop = 9 then b ^^^ (c * 2 ^ 32 % 2 ^ 64) else b, n + 16 * aop)

/-- Registers of an ATOM's group: operands, and the old value (R162). -/
def atomRegs (e : Env) (aop : Nat) : Nat := (if e.wide then 2 else 1) * (if aop = 9 then 2 else 1)

/-- The operand rules of ATOM (R162, R315). -/
def atomLegal (e : Env) (o : OpAT) : Bool :=
  ({ mod := true, xa := true, xb := true, adr := true, keep := true } : HintSet).ok e.b.hints &&
  ({ w64 := true, order := true } : Accept).allows e.mods && decide (o.aop ≤ 14) &&
  !(e.wide && decide (10 ≤ o.aop) && decide (o.aop ≤ 12)) && (o.d + 128 * e.xb) % atomRegs e o.aop == 0 &&
  addrLegal e o.a (o.sp + 1) && !(o.aop == 10 && e.g.det != 0)

/-- One lane's atomic: the run after, the old values to write and the flags raised (R163). -/
def atomLane (e : Env) (o : OpAT) (acc : Run × List (Nat × Nat × Word) × List (Nat × Afl)) (p : Nat × Place) :
    Run × List (Nat × Nat × Word) × List (Nat × Afl) :=
  let n := if e.wide then 8 else 4
  let d := o.d + 128 * e.xb
  let b := e.w.vW e.wide p.1 d
  let c := if o.aop = 9 then e.w.vW e.wide p.1 (d + n / 4) else 0
  let va := effAddr e o.a (o.sp + 1) p.1
  let (m, r) := synLoad acc.1 e.crew.block e.cid (laneParty e.wi p.1) (e.page (o.sp + 1) va) p.2 n
  let (x, fl) := atomNew o.aop (8 * n) m b c
  let r := synStore r e.crew.block e.cid (laneParty e.wi p.1) (e.page (o.sp + 1) va) .at p.2 n x
  let r := foldWrites e r p.1 [atomTerm o.aop (o.sp + 1) va n b c]
  (r, acc.2.1 ++ groupWrites p.1 d (n / 4) m, acc.2.2 ++ [(p.1, fl)])

/-- ATOM (R163). -/
def wAtom (o : OpAT) : WordDef where
  bd := o.bd
  la := some o.la
  legal e := atomLegal e o
  uses e :=
    { vr := addrVecs e o.a (o.sp + 1) ++ vRegs (o.d + 128 * e.xb) (atomRegs e o.aop),
      vw := vRegs (o.d + 128 * e.xb) (if e.wide then 2 else 1), ur := addrUnis e (o.sp + 1) }
  waits e := o.sp == 3 && decide (63 ≤ counter e.w.ops .at)
  cls _ := if o.sp = 3 then .at else .none
  body e :=
    let n := if e.wide then 8 else 4
    match accessPlaces e o.a (o.sp + 1) n needAt with
    | .error x => .error x
    | .ok ps =>
      match poisonStop e.r ps n with
      | some x => .error x
      | none =>
        let r := if o.sp = 3 ∨ (2 ≤ e.mods.ord ∧ 2 ≤ e.mods.scope) then openInterval e.r e.crew.block else e.r
        let (r, ws, fs) := ps.foldl (atomLane e o) (r, [], [])
        if o.sp < 3 then
          let r := r.warp e.cid e.wi (fun w => (w.setAll ws).raiseAll fs)
          .ok { run := countFlags r e.tile e.ctx fs }
        else
          let (k, r) := addOp e r .at (.atom ws fs)
          .ok { run := r, op := k }
/-- ATOM issued. -/
def execAtom (o : OpAT) (s : State) : Outcome := issue (wAtom o) s

end Sys2Proof.Machine
end

