-- ==== Sys2Proof/Machine/SliceOps.lean ====
section
/-! DEFINITION. The operations that every word of the address slice shares: its issuer and registers (R21, R197), the
checks before a word takes effect (R75, R198, R324), what comes after it, and its traps (R327 to R330). -/

namespace Sys2Proof.Machine

/-! ## Registers -/

/-- g(n): g0 reads as zero (R21). -/
def ASlice.g (s : ASlice) (n : Nat) : DWord := if n = 0 then 0 else rdReg s.gregs n

/-- g(n) as a number. -/
def ASlice.gn (s : ASlice) (n : Nat) : Nat := (s.g n).toNat

/-- g(n) written: a write of g0 is discarded, and the register's pair loses its capability tag (R21, R192). -/
def ASlice.setG (s : ASlice) (n : Nat) (x : Nat) : ASlice :=
  if n = 0 then s
  else { s with
    gregs := wrReg s.gregs n (BitVec.ofNat 64 x)
    gtags := s.gtags &&& ~~~(1#32 <<< (n / 2))
    bad := s.bad.filter (fun k => k != n) }

/-- Consecutive g registers written. -/
def ASlice.setGs (s : ASlice) (n : Nat) : List DWord → ASlice
  | [] => s
  | x :: xs => ASlice.setGs (s.setG n x.toNat) (n + 1) xs

/-- The tag of the even pair that holds a register. -/
def ASlice.tag (s : ASlice) (n : Nat) : Bool := s.gtags.getLsbD (n / 2)

/-! ## The issuer -/

/-- The party that issues an address-slice word and what it may read. -/
structure SEnv where
  m : Mgmt
  r : Run
  cid : Nat
  crew : Crew
  s : ASlice
  blk : Block
  g : Grid
  k : Kernel

/-- The address slice of a crew, when it exists. -/
def senv? (m : Mgmt) (r : Run) (cid : Nat) : Option SEnv := do
  let c ← Assoc.get? r.crews cid
  let bl ← Assoc.get? r.blocks c.block
  let g ← Assoc.get? r.grids bl.grid
  return ⟨m, r, cid, c, c.aslice, bl, g, kernelOf g bl⟩

def SEnv.tile (e : SEnv) : Nat := e.crew.core / 24
/-- Who asks for translations when a word of an address slice does. -/
def sliceAsker (tile cid : Nat) : Nat := asks tile (8 * cid + 2)
/-- The slice, as it asks its tile's translation unit. -/
def SEnv.asker (e : SEnv) : Nat := sliceAsker e.tile e.cid
def SEnv.ctx (e : SEnv) : Nat := e.g.ctx
def SEnv.hints (e : SEnv) : Hints := e.s.hints
/-- The thread index under which an address slice keeps its digest terms (R316). -/
def SEnv.thread (e : SEnv) : Nat := 4096 + e.crew.idx

/-- The immediate of HIMM and HIMMX sign-extended to 64 bits, or zero (R198). -/
def SEnv.imm (e : SEnv) : Nat := if e.hints.imm? then sextTo 64 32 e.hints.immValue else 0

/-! ## What a word is -/

/-- Where the slice goes after a word. -/
inductive SNext where
  | seq
  | jump (t : Word)
  /-- the slice has ended (R211) -/
  | ends
  /-- the word has been recorded and waits in its place (R196) -/
  | stay (w : Wait)
  /-- a hint: what applies to the next word (R74) -/
  | keeps (h : Hints)
  /-- the trap is taken after the word (R220) -/
  | trapAfter (t : Trapping)
  /-- the handler returns (R327) -/
  | back
  /-- the word does not take effect, but what it has recorded stands (R205, R214) -/
  | stops (s : Stop)
deriving DecidableEq, Repr, Inhabited

/-- What a word of the slice does: the state after its own effect, where the slice goes, and the operation a lookahead
window waits for. -/
structure SFlow where
  run : Run
  next : SNext := .seq
  op : Nat := 0

/-- A word of the address slice. -/
structure SliceDef where
  /-- a hint word: the hints it meets are those it adds to -/
  hint : Bool := false
  /-- accepts HIMM and HIMMX (R198) -/
  imm : Bool := false
  legal : SEnv → Bool
  uses : SEnv → Uses := fun _ => {}
  waits : SEnv → Bool := fun _ => false
  body : SEnv → Except Stop SFlow
  /-- LA, for a long-latency word (R197) -/
  la : Option Nat := none
  /-- the counter it stands in until it completes (R25) -/
  cls : OpClass := .none
  /-- the queue whose entry it reserves at issue (R204) -/
  queue : Option Nat := none
  /-- it reads and writes nothing but the slice's registers and PC -/
  plain : Bool := false
  /-- a hint or a transfer of control -/
  steers : Bool := false

/-- A trap of the slice: it has no lanes (R327). -/
def sliceTrap (code : Nat) (addr : Nat := 0) (info0 : Nat := 0) : Stop := .trap { code := code, addr := addr, info0 := info0 }

/-- An access fault as the stop of an address-slice word. -/
def AccFault.sliceStop : AccFault → Stop
  | .trap code addr => sliceTrap code addr
  | .hostMiss page need => .page page need
  | .held => .hold

/-! ## Traps (R327 to R330) -/

/-- Entry of the slice's handler (R327); the restart state and the lookahead windows, whose words have completed, are set
aside. -/
def enterSliceHandler (s : ASlice) (ahand : Nat) (t : TrapRec) : ASlice :=
  let ws := t.words (fun _ => 0)
  let w (i : Nat) : DWord := (ws.getD i 0).setWidth 64
  let save : SliceSave :=
    { gregs := (List.range 16).map (fun i => s.g (48 + i)), tags := s.gtags, pc := t.pc, hints := s.hints,
      replay := s.replay, windows := s.windows.map (fun x => { x with op := 0 }) }
  let s := { s with hsave := some save, pc := BitVec.ofNat 32 ahand, hints := {}, wait := .none, replay := [], windows := [] }
  let s := s.setGs 48 [w 0, w 1, w 2, t.addr, w 6, w 7, 0, 0]
  s.setG 63 returnMark.toNat

/-- The slice after its handler has returned: g48 to g63 with their tags, the PC, the immediate and what it passes over are back
(R327). -/
def leaveSliceHandler (s : ASlice) (h : SliceSave) : ASlice :=
  let x := s.setGs 48 h.gregs
  { x with
    gtags := (s.gtags &&& 0x00FFFFFF#32) ||| (h.tags &&& 0xFF000000#32)
    hsave := none, pc := h.pc, hints := h.hints, wait := .none, replay := h.replay, windows := s.windows ++ h.windows }

/-- Taking a trap in an address slice: the restart PC and hints and the originating word are given (R327 to R330,
R399). -/
def takeSliceTrap (e : SEnv) (r : Run) (pc : Word) (hints : Hints) (origin : Word) (t : Trapping) : Run :=
  if rollbackDue r e.crew.block t then rollback r e.crew.block e.tile t
  else
    let r := noteEcc r e.crew.block e.tile t
    let r := if t.reg then r.slice e.cid (fun s => { s with bad := s.bad.filter (fun k => k != 64) }) else r
    let nested := e.s.hsave.isSome
    let rec_ : TrapRec :=
      { code := t.code, pc := pc, origin := origin, mask := 0, addr := BitVec.ofNat 64 t.addr,
        info0 := BitVec.ofNat 32 t.info0, info1 := BitVec.ofNat 32 t.info1, nested := nested,
        skip := skipCount e.s.replay, redo := redoMask e.s.replay }
    let r := r.slice e.cid (fun s => { s with pc := pc, hints := hints, wait := .none })
    match dispOf e.g t.code nested with
    | .handler => r.slice e.cid (fun s => enterSliceHandler s e.g.ahand rec_)
    | .kill => killGrid r e.blk.grid 6
    | .host =>
      let r := r.crew e.cid (fun c => { c with reason := 4 })
      let r := r.slice e.cid (fun s => { s with hostrec := some rec_ })
      raiseStop e.m r e.ctx (some e.g.queue)

/-! ## The frame around a word -/

/-- The windows of a slice after a word, and the operations that have not retired. -/
def sliceTick (e : SEnv) (d : SliceDef) (f : SFlow) (s : ASlice) : ASlice :=
  let ws := tick s.windows 1#32
  { s with windows := match d.la with
      | some la => addWindow ws 1#32 la f.op (d.uses e)
      | none => ws }

/-- The slice as a batch of one lane, for the operations that both slices share. -/
def ASlice.batch (s : ASlice) : Batch := { lanes := 1, pc := s.pc, hints := s.hints, wait := s.wait, replay := s.replay }

/-- The entry that a stopped word has reserved, kept for its restart (R205). -/
def keepEntry (e : SEnv) (d : SliceDef) (k : Nat) (r : Run) : Run :=
  match d.queue with
  | none => r
  | some q => r.slice e.cid (fun s =>
      if s.resv.contains (e.s.pc.toNat, q, k) then s else { s with resv := s.resv ++ [(e.s.pc.toNat, q, k)] })

/-- The slice gone on to a word with its hints, or, after a word that has executed again, to where R64 sends it. -/
def ASlice.onward (s : ASlice) (replay : List Pass) (pc : Word) (h : Hints) : ASlice :=
  match replay with
  | [] => { s with pc := pc, hints := h, wait := .none }
  | ps =>
    let b := s.batch.resume (ps.headD ⟨1, [], s.batch.spot⟩)
    { s with windows := passTicks ps s.windows, pc := b.pc, hints := b.hints, wait := .none, replay := b.replay }

/-- The slice gone on after a word, to a word with its hints. -/
def goSlice (e : SEnv) (d : SliceDef) (f : SFlow) (pc : Word) (h : Hints) : Run :=
  f.run.slice e.cid (fun s => (sliceTick e d f s).onward e.s.replay pc h)

/-- A fresh operation number of a slice: none outstanding, and none of an entry that a stopped word has reserved. -/
def sliceOpId (e : SEnv) : Nat := e.s.resv.foldl (fun n x => max n (x.2.2 + 1)) (freshOp e.s.ops e.s.windows)

/-- Whether the trap of a word may come after followers of it have issued (R64; log 6). -/
def SliceDef.mayBeLate (d : SliceDef) (e : SEnv) (t : Trapping) : Bool :=
  lateCode t.code && d.la.getD 0 != 0 && e.s.replay == [] && e.s.wait == .none

/-- A long-latency word that has failed: its followers may issue until its trap is taken (R64). -/
def SliceDef.goOn (d : SliceDef) (e : SEnv) (r : Run) (k : Nat) (t : Trapping) : Run :=
  let o : PendOp := { id := k, cls := d.cls, data := .late 1 (d.la.getD 0) e.s.batch t d.queue }
  goSlice e d { run := r.slice e.cid (fun s => { s with ops := s.ops ++ [o], resv := s.resv.filter (fun x => x.2.2 != k) }),
                 op := k } (e.s.pc + 4) {}

/-- The trap of a word at the word, in the run that what it has recorded leaves; behind a failed word it is not reported, and the
word executes again (R64, R197). -/
def SliceDef.trapNow (d : SliceDef) (e : SEnv) (r : Run) (k : Nat) (t : Trapping) : Run :=
  if behindFault e.s.windows e.s.ops 1#32 then
    if d.steers then e.r else e.r.slice e.cid (fun s => { s with wait := .behind 0 })
  else
    let r := keepEntry e d k r
    let r := if t.code = tcHostPage then dropRefused r e.asker e.ctx (t.addr / 4096) else r
    takeSliceTrap e r e.s.pc e.s.hints e.s.pc t

/-- A word that meets a trap: it is taken at the word, or later, as a free value decides (R64, R197; log 6). -/
def SliceDef.trap (d : SliceDef) (e : SEnv) (r : Run) (k : Nat) (t : Trapping) : Run :=
  if d.mayBeLate e t then
    let (i, r) := r.draw
    if Config.pick i % 2 = 1 then d.goOn e r (if d.queue.isSome then k else sliceOpId e) t else d.trapNow e r k t
  else d.trapNow e r k t

/-- What the slice becomes after it has executed a word. -/
def afterSliceWord (e : SEnv) (d : SliceDef) (f : SFlow) : Run :=
  match f.next with
  | .seq => goSlice e d f (e.s.pc + 4) {}
  | .jump t => goSlice e d f t {}
  | .keeps h => goSlice e d f (e.s.pc + 4) h
  | .ends => endCrewIfDone e.m (f.run.slice e.cid (fun s => { s with ended := true, hints := {} })) e.cid
  | .stay w => f.run.slice e.cid (fun s => { s with wait := w })
  | .trapAfter t => takeSliceTrap e (f.run.slice e.cid (sliceTick e d f)) (e.s.pc + 4) {} e.s.pc t
  | .back => f.run.slice e.cid (fun s => match s.hsave with
      | some h => leaveSliceHandler (sliceTick e d f s) h
      | none => s)
  | .stops .hold => keepEntry e d f.op f.run
  | .stops (.page page need) => requestPage e.m (keepEntry e d f.op f.run) e.asker e.ctx page need
  | .stops (.trap t) => d.trap e f.run f.op t

/-- Whether a word would read a register, or run state, that holds an uncorrectable error (R394). -/
def SEnv.badRead (e : SEnv) (u : Uses) : Bool := e.s.bad.any (fun k => k == 64 || u.ur.contains k)

/-- What a word of the slice does when it is the next one and follows no failed word. -/
def SliceDef.check (d : SliceDef) (e : SEnv) : Except Stop SFlow :=
  if e.s.wait.blocks || mustAwait e.s.windows e.s.ops 1#32 then .error .hold
  else if (!d.hint && (e.hints.bad || (!d.imm && e.hints.imm?))) || !d.legal e then .error (sliceTrap tcIllegal)
  else if hazard e.s.windows 1#32 (d.uses e) then .error (sliceTrap tcHazard)
  else if e.badRead (d.uses e) then .error (.trap { code := tcEcc, reg := true })
  else if d.waits e then .error .hold
  else d.body e

/-- Whether the trap comes with the word's own effect. -/
def SNext.trapsAfter : SNext → Bool
  | .trapAfter _ | .stops (.trap _) => true
  | _ => false

/-- Whether a word that goes there may issue behind a failed word: it keeps to the slice's registers and PC, or fails too. -/
def SNext.mayFollow (plain : Bool) : SNext → Bool
  | .seq | .keeps _ | .jump _ => plain
  | .stops (.trap _) => true
  | _ => false

/-- What a word of the slice does when it is the next one. A trap waits until the outstanding words that it follows have completed;
behind a failed word only a word that keeps to the slice's registers issues, or one that fails too (R64, R197; log 6). -/
def SliceDef.judge (d : SliceDef) (e : SEnv) : Except Stop SFlow :=
  match d.check e with
  | .ok f =>
    if f.next.trapsAfter && outstanding e.s.windows e.s.ops 1#32 then .error .hold
    else if behindFault e.s.windows e.s.ops 1#32 && !f.next.mayFollow d.plain then .error .hold
    else .ok f
  | .error (.trap t) => if outstanding e.s.windows e.s.ops 1#32 then .error .hold else .error (.trap t)
  | .error x => .error x

/-- The address-slice word issued: its effect, its trap, or its wait. -/
def SliceDef.run (d : SliceDef) (e : SEnv) : Run :=
  match d.judge e with
  | .ok f => afterSliceWord e d f
  | .error .hold => e.r
  | .error (.page page need) => requestPage e.m e.r e.asker e.ctx page need
  | .error (.trap t) => d.trap e e.r 0 t

/-- An address-slice word in the state whose turn is a slice. -/
def issueSlice (d : SliceDef) (s : State) : Outcome :=
  match s.turn with
  | .slice c =>
    match senv? s.mgmt s.run c with
    | some e => .next { s with run := d.run e, turn := .choose }
    | none => .fault .noParty
  | _ => .fault .noParty

/-- A word that both slices execute with one encoding (R74). -/
def issueEither (d : WordDef) (a : SliceDef) (s : State) : Outcome :=
  match s.turn with
  | .slice _ => issueSlice a s
  | _ => issue d s

/-! ## Operands -/

/-- Registers without g0, which no window can name. -/
def gRegs (ns : List Nat) : List Nat := ns.filter (fun n => n != 0)

/-- An operation of the slice begun: its number and the run. -/
def pushSliceOp (e : SEnv) (r : Run) (cls : OpClass) (data : OpData) : Nat × Run :=
  let k := sliceOpId e
  (k, r.slice e.cid (fun s => { s with ops := s.ops ++ [{ id := k, cls := cls, data := data }] }))

/-- A control transfer of the slice: a target outside the image takes Permission and changes nothing (R57, R210, R211). -/
def sliceJump (e : SEnv) (r : Run) (t : Nat) : Except Stop SFlow :=
  if 4 * e.k.aimg.length ≤ t then .error (sliceTrap tcPermission t) else .ok { run := r, next := .jump (BitVec.ofNat 32 t) }

/-- A word of the slice that writes one register at once. -/
def gDef (imm : Bool) (legal : Bool) (reads : List Nat) (d : Nat) (f : SEnv → Nat) : SliceDef where
  imm := imm
  plain := true
  legal _ := legal
  uses _ := { ur := gRegs reads, uw := gRegs [d] }
  body e := .ok { run := e.r.slice e.cid (fun s => s.setG d (f e)) }

end Sys2Proof.Machine
end

