-- ==== Sys2Proof/Machine/Capability.lean ====
section
/-! DEFINITION. Capabilities (R253, R254) and the CAP family of both slices (R192 to R195, R255). -/

namespace Sys2Proof.Machine

/-! ## Capabilities -/

/-- The tag of the granule at a place, as the agents of a block see it (R253, R255). -/
def granuleTag (r : Run) (blk : Nat) : Place → Bool
  | .dev a => match Assoc.get? r.blocks blk with
    | some b =>
      if (List.range 16).any (fun i => Assoc.has b.held (a / 16 * 16 + i)) then b.heldTags.contains (a / 16)
      else r.capTags.contains (a / 16)
    | none => r.capTags.contains (a / 16)
  | _ => false

/-- The tag of a granule of device memory set, after its bytes have been stored (R255). -/
def setGranuleTag (r : Run) (blk : Nat) : Place → Run
  | .dev a =>
    if holdsStores r blk then r.block blk (fun b => { b with heldTags := setInsert b.heldTags (a / 16) })
    else { r with capTags := setInsert r.capTags (a / 16) }
  | _ => r

/-- The place of the 16 bytes of a capability access, or the check of R157, R192 or R193 that fails. -/
def capPlace (m : Mgmt) (r : Run) (asker ctxKey va need : Nat) : Except AccFault Place :=
  if !isProt r ctxKey then .error (.trap tcCapability 0)
  else if va % 16 ≠ 0 then .error (.trap tcMisaligned va)
  else
    match globalPlace m r asker ctxKey va need with
    | .error f => .error f
    | .ok p => .ok p

/-- CAPLD of an agent of a block: the value and the tag, from a page that keeps tags (R193). -/
def capLoad (m : Mgmt) (r : Run) (blk asker ctxKey va : Nat) : Except AccFault (Nat × Bool) :=
  match capPlace m r asker ctxKey va needRd with
  | .error f => .error f
  | .ok p =>
    if poisonedSpan r p 16 then .error (.trap tcEcc va)
    else .ok (loadNum r blk p 16, onProtPage m r ctxKey va && granuleTag r blk p)

/-- CAPST of an agent of a block (R193): a tagged capability goes to PROT pages alone. -/
def capStore (m : Mgmt) (r : Run) (blk asker ctxKey va x : Nat) (tag : Bool) : Except AccFault Run :=
  match capPlace m r asker ctxKey va needWr with
  | .error f => .error f
  | .ok p =>
    if tag && !onProtPage m r ctxKey va then .error (.trap tcCapability va)
    else
      let r := if p.outside then openInterval r blk else r
      let r := storeNum r blk p 16 x
      .ok (if tag then setGranuleTag r blk p else r)

/-- The capability narrowed by a request of 128 bits, or none where R194 refuses it. -/
def narrowCap (ctxKey : Nat) (tag : Bool) (v req : Nat) : Option Nat :=
  let addr := bits req 63 0
  let len := bits req 103 64
  let perm := bits req 110 104
  if tag && capCid v == ctxId ctxKey && decide (capAddr v ≤ addr) && decide (addr + len ≤ capAddr v + capLen v) &&
      perm &&& capPerm v == perm && bits req 127 111 == 0 then
    some (addr % 2 ^ 57 + perm * 2 ^ 57 + len * 2 ^ 64 + bits v 127 104 * 2 ^ 104)
  else none

/-- The summary of CAPCHK (R195). -/
def capSummary (ctxKey : Nat) (tag : Bool) (v : Nat) : Nat :=
  b2n tag + 2 * b2n (capCid v == ctxId ctxKey) + (if tag then 4 * capPerm v else 0)

/-! ## The compute slice -/

/-- The 128 bits of a uniform quad. -/
def Warp.quad128 (w : Warp) (n : Nat) : Nat := gatherBits 4 32 (fun i => (w.u (n + i)).toNat)

/-- The tag of a uniform quad (R192). -/
def Warp.utag (w : Warp) (n : Nat) : Bool := w.utags.getLsbD (n / 4)

/-- A capability written to a uniform quad with its tag (R192). -/
def Warp.setCap (w : Warp) (n x : Nat) (tag : Bool) : Warp :=
  let w := w.setUs n ((List.range 4).map (fun i => BitVec.ofNat 32 (x / 2 ^ (32 * i))))
  if tag then { w with utags := w.utags ||| (1#96 <<< (n / 4)) } else w

/-- Whether a field names a quad (R192). -/
def quadField (e : Env) (f : Nat) : Bool := uGroup e f 4

/-- CAPLD (R193). -/
def wCapld (o : OpPair) : WordDef where
  bd := o.bd
  la := some o.la
  legal e := priKeep e && quadField e o.sd && uGroup e o.sa 2
  uses e := { ur := uRegs e o.sa 2, uw := uRegs e o.sd 4 }
  waits e := isProt e.r e.ctx && decide (63 ≤ counter e.w.ops .ldg)
  cls _ := .ldg
  body e :=
    match capLoad e.m e.r e.crew.block e.asker e.ctx (e.w.u64 (e.w.uIdx o.sa)) with
    | .error f => .error (f.stop e)
    | .ok (x, tag) =>
      let (k, r) := addOp e e.r .ldg (.cap (e.w.uIdx o.sd) x tag)
      .ok { run := r, op := k }
/-- CAPLD issued. -/
def execCapld (o : OpPair) (s : State) : Outcome := issue (wCapld o) s

/-- CAPST (R193): its digest terms are those of a 16-byte ST of the lowest active lane (R316). -/
def wCapst (o : OpPair) : WordDef where
  bd := o.bd
  la := some o.la
  legal e := priKeep e && quadField e o.sd && uGroup e o.sa 2
  uses e := { ur := uRegs e o.sa 2 ++ uRegs e o.sd 4 }
  waits e := isProt e.r e.ctx && decide (63 ≤ counter e.w.ops .stg)
  cls _ := .stg
  body e :=
    let va := e.w.u64 (e.w.uIdx o.sa)
    let n := e.w.uIdx o.sd
    let x := e.w.quad128 n
    match capStore e.m e.r e.crew.block e.asker e.ctx va x (e.w.utag n) with
    | .error f => .error (f.stop e)
    | .ok r =>
      let r := foldWrites e r (e.lanes.headD e.lead) (storeTerms 4 va 16 x)
      let (k, r) := addOp e r .stg .none
      .ok { run := r, op := k }
/-- CAPST issued. -/
def execCapst (o : OpPair) (s : State) : Outcome := issue (wCapst o) s

/-- Capability, as a warp-level word takes it. -/
def capTrap (e : Env) : Stop := .trap { code := tcCapability, mask := e.active }

/-- CAPNARROW (R194). -/
def wCapnarrow (o : OpPair) : WordDef where
  bd := o.bd
  la := some o.la
  legal e := priKeep e && quadField e o.sd && quadField e o.sa
  uses e := { ur := uRegs e o.sd 4 ++ uRegs e o.sa 4, uw := uRegs e o.sd 4 }
  body e :=
    let n := e.w.uIdx o.sd
    if !isProt e.r e.ctx then .error (capTrap e)
    else
      match narrowCap e.ctx (e.w.utag n) (e.w.quad128 n) (e.w.quad128 (e.w.uIdx o.sa)) with
      | none => .error (capTrap e)
      | some x => .ok { run := e.r.warp e.cid e.wi (fun w => w.setCap n x true) }
/-- CAPNARROW issued. -/
def execCapnarrow (o : OpPair) (s : State) : Outcome := issue (wCapnarrow o) s

/-- CAPCHK (R195). -/
def wCapchk (o : OpPair) : WordDef where
  bd := o.bd
  la := some o.la
  legal e := priKeep e && quadField e o.sa
  uses e := { ur := uRegs e o.sa 4, uw := [e.w.uIdx o.sd] }
  body e :=
    let n := e.w.uIdx o.sa
    if !isProt e.r e.ctx then .error (capTrap e)
    else .ok { run := e.r.warp e.cid e.wi (fun w =>
      w.setU (e.w.uIdx o.sd) (BitVec.ofNat 32 (capSummary e.ctx (e.w.utag n) (e.w.quad128 n)))) }
/-- CAPCHK issued. -/
def execCapchk (o : OpPair) (s : State) : Outcome := issue (wCapchk o) s

/-! ## The address slice -/

/-- The 128 bits of an even g pair. -/
def ASlice.pair128 (s : ASlice) (n : Nat) : Nat := s.gn n + 2 ^ 64 * s.gn (n + 1)

/-- A capability written to an even g pair with its tag (R192). -/
def ASlice.setCap (s : ASlice) (n x : Nat) (tag : Bool) : ASlice :=
  let s := (s.setG n x).setG (n + 1) (x / 2 ^ 64)
  if tag then { s with gtags := s.gtags ||| (1#32 <<< (n / 2)) } else s

/-- The digest terms of an address slice's writes, its store ordinal rising by 1 after each (R316). -/
def foldSlice (e : SEnv) (r : Run) (ts : List (Nat × Nat × Nat)) : Run :=
  if e.g.det = 0 then r
  else
    ts.foldl (fun r t =>
      let n := match Assoc.get? r.crews e.cid with
        | some c => c.aslice.ord.toNat
        | none => 0
      let r := r.block e.crew.block (fun b =>
        { b with digest := digestAdd e.g.detkey0 e.g.detkey1 b.digest t.1 t.2.1 t.2.2 e.thread n })
      r.slice e.cid (fun s => { s with ord := s.ord + 1 })) r

/-- CAPLD of the address slice (R192, R193). -/
def sCapld (o : OpGPair) : SliceDef where
  la := some o.la
  legal _ := o.sd % 2 == 0
  uses _ := { ur := gRegs [o.sa], uw := gRegs [o.sd, o.sd + 1] }
  waits e := isProt e.r e.ctx && decide (63 ≤ counter e.s.ops .gld)
  cls := .gld
  body e :=
    match capLoad e.m e.r e.crew.block e.asker e.ctx (e.s.gn o.sa) with
    | .error f => .error f.sliceStop
    | .ok (x, tag) =>
      let (k, r) := pushSliceOp e e.r .gld (.cap o.sd x tag)
      .ok { run := r, op := k }
/-- CAPLD of the address slice issued. -/
def execCapldAslice (o : OpGPair) (s : State) : Outcome := issueSlice (sCapld o) s

/-- CAPST of the address slice (R193): it is not counted. -/
def sCapst (o : OpGPair) : SliceDef where
  la := some o.la
  legal _ := o.sd % 2 == 0
  uses _ := { ur := gRegs [o.sa, o.sd, o.sd + 1] }
  body e :=
    let va := e.s.gn o.sa
    let x := e.s.pair128 o.sd
    match capStore e.m e.r e.crew.block e.asker e.ctx va x (e.s.tag o.sd) with
    | .error f => .error f.sliceStop
    | .ok r => .ok { run := foldSlice e r (storeTerms 4 va 16 x) }
/-- CAPST of the address slice issued. -/
def execCapstAslice (o : OpGPair) (s : State) : Outcome := issueSlice (sCapst o) s

/-- CAPNARROW of the address slice: the request stands in an even pair, in the quad's layout (R192, R194). -/
def sCapnarrow (o : OpGPair) : SliceDef where
  la := some o.la
  legal _ := o.sd % 2 == 0 && o.sa % 2 == 0
  uses _ := { ur := gRegs [o.sd, o.sd + 1, o.sa, o.sa + 1], uw := gRegs [o.sd, o.sd + 1] }
  body e :=
    if !isProt e.r e.ctx then .error (sliceTrap tcCapability)
    else
      match narrowCap e.ctx (e.s.tag o.sd) (e.s.pair128 o.sd) (e.s.pair128 o.sa) with
      | none => .error (sliceTrap tcCapability)
      | some x => .ok { run := e.r.slice e.cid (fun s => s.setCap o.sd x true) }
/-- CAPNARROW of the address slice issued. -/
def execCapnarrowAslice (o : OpGPair) (s : State) : Outcome := issueSlice (sCapnarrow o) s

/-- CAPCHK of the address slice (R195). -/
def sCapchk (o : OpGPair) : SliceDef where
  la := some o.la
  legal _ := o.sa % 2 == 0
  uses _ := { ur := gRegs [o.sa, o.sa + 1], uw := gRegs [o.sd] }
  body e :=
    if !isProt e.r e.ctx then .error (sliceTrap tcCapability)
    else .ok { run := e.r.slice e.cid (fun s => s.setG o.sd (capSummary e.ctx (e.s.tag o.sa) (e.s.pair128 o.sa))) }
/-- CAPCHK of the address slice issued. -/
def execCapchkAslice (o : OpGPair) (s : State) : Outcome := issueSlice (sCapchk o) s

end Sys2Proof.Machine
end

