-- ==== Sys2Proof/Machine/Ending.lean ====
section
/-! DEFINITION. The end of threads, warps and slices (R136, R239). -/

namespace Sys2Proof.Machine

/-- A warp without the registers of its extended block (R12). -/
def Warp.dropExtended (w : Warp) : Warp := { w with gran := 0, vregs := w.vregs.filter (fun p => decide (p.1 < 2048)) }

/-- A crew whose last warp has ended: its feedback queues are closed, what remains in the others is discarded and later
pushes to them complete without effect (R136); no pop waits for an entry any more. -/
def endCompute (c : Crew) : Crew :=
  let step (p : Queue × Nat) : Queue :=
    if 12 ≤ p.2 then { p.1 with closed := true } else { p.1 with entries := [], claims := [], cend := true }
  { c with queues := (c.queues.zipIdx).map step }

/-- A warp whose every thread has ended and whose operations in the counters have retired ends: its granules are released, and with the
last warp the compute slice ends (R136). -/
def settleWarp (m : Mgmt) (r : Run) (cid wi : Nat) : Run :=
  match Assoc.get? r.crews cid with
  | none => r
  | some c =>
    match c.warps[wi]? with
    | none => r
    | some w =>
      if w.ended || w.exited != allLanes || w.ops.any (fun o => !o.pops) then r
      else
        let r := r.warp cid wi (fun w => { w.dropExtended with ended := true, windows := [] })
        let done := (match Assoc.get? r.crews cid with
          | some c => c.warps.all (·.ended)
          | none => false)
        if done then endCrewIfDone m (r.crew cid endCompute) cid else r

/-- Threads of a warp ended: they leave teams, signings and barriers, and a diverted continuation loses them (R136). -/
def endThreads (m : Mgmt) (r : Run) (cid wi blk wkey : Nat) (lanes : Mask) : Run :=
  let r := r.warp cid wi (fun w =>
    { w with
      exited := w.exited ||| lanes
      divrec := match w.divrec with
        | some d => if d.lanes &&& ~~~lanes = 0#32 then none else some (d.only (d.lanes &&& ~~~lanes))
        | none => none })
  threadsGone m r blk wkey lanes

end Sys2Proof.Machine
end

