-- ==== Sys2Proof/Machine/Queue.lean ====
section
/-! DEFINITION. The queue and ring families of the compute slice (R165 to R169, R279, R280). -/

namespace Sys2Proof.Machine

/-! ## Queue facts -/

/-- Whether a queue port is declared (R18). -/
def Crew.declared (c : Crew) (q : Nat) : Bool := (c.queue q).depth != 0

/-- Whether a queue holds as many entries as its depth (R18). -/
def Queue.isFull (q : Queue) : Bool := decide (q.depth ≤ q.entries.length)

/-- Whether an entry is reserved and not filled (R204). -/
def QEntry.isReserved : QEntry → Bool
  | .reserved _ => true
  | _ => false

/-- Entries present (R168). -/
def Queue.present (q : Queue) : Nat := (q.entries.filter (fun x => !x.isReserved)).length

/-- The crew's context is halted by the debugger (R419). -/
def ctxHalted (r : Run) (ctxKey : Nat) : Bool := match Assoc.get? r.contexts ctxKey with
  | some x => x.halted
  | none => false

/-- The producer state of a queue: 0 running, 1 stopped on a fault, 2 killed (R168, R282). -/
def producerState (r : Run) (ctxKey : Nat) (c : Crew) (q : Nat) : Nat :=
  if (c.queue q).killed then 2
  else if q < 12 then (if c.aslice.hostrec.isSome then 1 else 0)
  else if c.warps.any (fun w => w.hostrec.isSome) || ctxHalted r ctxKey then 1 else 0

/-- The result of QSTAT and GQSTAT (R168, R209). -/
def queueStatus (r : Run) (ctxKey : Nat) (c : Crew) (q : Nat) : Nat :=
  let x := c.queue q
  x.present + 2 ^ 8 * x.depth + 2 ^ 15 * b2n (decide (12 ≤ q) && x.cend) + 2 ^ 16 * b2n x.closed +
    2 ^ 17 * producerState r ctxKey c q

/-- A pop of queue q: its entry is written at once where one is present. Else the word waits for it: with followers as an operation
that keeps its place among the pops of the queue, without any at issue (R19, R63, R166; log 21). -/
def popWord (e : Env) (q dst : Nat) (uni take : Bool) (la : Nat) : Except Stop Flow :=
  match (e.crew.queue q).head with
  | .orphan => .error (.trap { code := tcQueueOrphan, mask := e.active })
  | .poisoned => .error (.trap { code := tcEcc, mask := e.active })
  | .entry x =>
    let r := popQueue e.r e.cid (if take then some q else none)
    .ok { run := r.warp e.cid e.wi (fun w => w.putEntry q dst uni e.lanes x) }
  | .wait =>
    if la = 0 ∨ withinFault e.w.windows e.w.ops e.b.lanes = false then .error .hold
    else
      let (k, r) := pushOp e.r e.cid e.wi .none (.pop q take dst uni e.active e.b.lanes la e.b)
      .ok { run := r.crew e.cid (fun c => c.setQueue q (fun x => { x with claims := x.claims ++ [⟨e.wi, k, take⟩] })), op := k }

/-! ## QOP (R165 to R168) -/

/-- QPOP (R166). -/
def wQpop (o : OpQpop) : WordDef where
  bd := o.bd
  la := some o.la
  legal e := priKeep e && decide (o.q ≤ 11) && e.crew.declared o.q && (isVecQueue o.q || o.d % 2 == 0)
  uses _ := { vw := if isVecQueue o.q then [o.d] else [o.d, o.d + 1] }
  body e := popWord e o.q o.d false true o.la
/-- QPOP issued. -/
def execQpop (o : OpQpop) (s : State) : Outcome := issue (wQpop o) s

/-- QPOPS and QPEEK: the head entry into a uniform pair (R166). -/
def headToPair (o : OpQU) (take : Bool) : WordDef where
  bd := o.bd
  la := some o.la
  legal e := priKeep e && decide (o.q ≤ 7) && e.crew.declared o.q && uGroup e o.sd 2
  uses e := { uw := uRegs e o.sd 2 }
  body e := popWord e o.q (e.w.uIdx o.sd) true take o.la

/-- QPOPS (R166). -/
def wQpops (o : OpQU) : WordDef := headToPair o true
/-- QPOPS issued. -/
def execQpops (o : OpQU) (s : State) : Outcome := issue (wQpops o) s
/-- QPEEK (R166). -/
def wQpeek (o : OpQU) : WordDef := headToPair o false
/-- QPEEK issued. -/
def execQpeek (o : OpQU) (s : State) : Outcome := issue (wQpeek o) s

/-- The value that QPUSH appends: a uniform pair, or the registers of the lowest active lane; none without such a lane
(R167). -/
def pushValue (e : Env) (o : OpQpush) : Option Nat :=
  if o.k = 0 then some (e.w.u64 (e.w.uIdx o.reg))
  else match e.lanes with
    | [] => none
    | l :: _ => some (e.w.vW e.wide l o.reg)

/-- QPUSH (R167). -/
def wQpush (o : OpQpush) : WordDef where
  bd := o.bd
  la := some o.la
  legal e :=
    ({ mod := o.k == 1, keep := true } : HintSet).ok e.b.hints && accW64.allows e.mods &&
    decide (12 ≤ o.q) && e.crew.declared o.q &&
    (if o.k = 0 then decide (o.reg < 128) && uGroup e o.reg 2 else !e.wide || o.reg % 2 == 0)
  uses e := if o.k = 0 then { ur := uRegs e o.reg 2 } else { vr := pair e.wide o.reg }
  waits e := (pushValue e o).isSome && !(e.crew.queue o.q).cend && (e.crew.queue o.q).isFull
  body e :=
    .ok { run := match pushValue e o with
      | none => e.r
      | some x => if (e.crew.queue o.q).cend then e.r
        else e.r.crew e.cid (fun c => c.setQueue o.q (fun q =>
          { q with entries := q.entries ++ [.uni (BitVec.ofNat 64 x)] })) }
/-- QPUSH issued. -/
def execQpush (o : OpQpush) (s : State) : Outcome := issue (wQpush o) s

/-- QSTAT (R168). -/
def wQstat (o : OpQU) : WordDef where
  bd := o.bd
  la := some o.la
  legal e := priKeep e && e.crew.declared o.q
  uses e := { uw := [e.w.uIdx o.sd] }
  body e :=
    .ok { run := e.r.warp e.cid e.wi (fun w =>
      w.setU (e.w.uIdx o.sd) (BitVec.ofNat 32 (queueStatus e.r e.ctx e.crew o.q))) }
/-- QSTAT issued. -/
def execQstat (o : OpQU) (s : State) : Outcome := issue (wQstat o) s

/-- Up to n present entries dropped from the head of a queue, stopping at a reserved one (R166). -/
def dropEntries : Nat → List QEntry → List QEntry
  | 0, es => es
  | _, [] => []
  | n + 1, x :: xs => if x.isReserved then x :: xs else dropEntries n xs

/-- QDROP (R166). -/
def wQdrop (o : OpQdrop) : WordDef where
  bd := o.bd
  la := some o.la
  legal e := priKeep e && decide (o.q ≤ 11) && e.crew.declared o.q && decide (1 ≤ o.n) && decide (o.n ≤ 32)
  body e :=
    .ok { run := e.r.crew e.cid (fun c => c.setQueue o.q (fun q => { q with entries := dropEntries o.n q.entries })) }
/-- QDROP issued. -/
def execQdrop (o : OpQdrop) (s : State) : Outcome := issue (wQdrop o) s

/-! ## Rings (R169, R279, R280) -/

/-- A ring header (R279). -/
structure RingHdr where
  slots : Nat
  ridx : Nat
  widx : Nat
  slotsz : Nat
  data : Nat
  awarr : Nat
deriving DecidableEq, Repr, Inhabited

/-- The ring header at a pad offset, or the code and the offset of the check that fails (R155, R169, R279): DATA and AWARR are offsets
too, whose alignment and whose bytes inside the pad are checked after the header's own fields (log 44). -/
def ringHeader (r : Run) (k : Kernel) (blk cid off : Nat) : Except (Nat × Nat) RingHdr :=
  if off % 64 ≠ 0 then .error (tcMisaligned, off)
  else if k.pad < off + 64 then .error (tcPermission, off)
  else
    let bs := loadBytes r blk (.pad cid off) 64
    let h : RingHdr := ⟨fieldAt bs 0 1, fieldAt bs 1 1, fieldAt bs 2 1, fieldAt bs 4 4, fieldAt bs 8 4, fieldAt bs 12 4⟩
    if h.slots = 0 ∨ 64 < h.slots ∨ h.slotsz = 0 ∨ h.slotsz % 256 ≠ 0 ∨ 2 ^ 18 < h.slotsz ∨ h.slots ≤ h.ridx ∨
        h.slots ≤ h.widx ∨ fieldAt bs 3 1 ≠ 0 ∨ fieldAt bs 16 48 ≠ 0 then .error (tcIllegal, 0)
    else if h.data % 256 ≠ 0 then .error (tcMisaligned, h.data)
    else if h.awarr % 16 ≠ 0 then .error (tcMisaligned, h.awarr)
    else if k.pad < h.data + h.slots * h.slotsz then .error (tcPermission, h.data)
    else if k.pad < h.awarr + 16 * h.slots then .error (tcPermission, h.awarr)
    else .ok h

/-- The place of slot k's arrival word (R279). -/
def RingHdr.word (h : RingHdr) (cid k : Nat) : Place := .pad cid (h.awarr + 16 * k)

/-- The STATE of slot k: 0 free, 1 armed, 2 full (R276). -/
def RingHdr.state (h : RingHdr) (r : Run) (blk cid k : Nat) : Nat :=
  bits (loadNum r blk ((h.word cid k).add 12) 4) 1 0

/-- The STATE of slot k written, the other flags kept. -/
def RingHdr.setState (h : RingHdr) (r : Run) (blk cid k x : Nat) : Run :=
  let p := (h.word cid k).add 12
  storeNum r blk p 4 (loadNum r blk p 4 / 4 * 4 + x)

/-- The number of slots in a state. -/
def RingHdr.inState (h : RingHdr) (r : Run) (blk cid x : Nat) : Nat :=
  ((List.range h.slots).filter (fun k => h.state r blk cid k == x)).length

/-- The header that a word of the compute slice names, or its stop (R169). -/
def ringOf (e : Env) (sh : Nat) : Except Stop RingHdr :=
  let off := (e.w.u (e.w.uIdx sh)).toNat
  match ringHeader e.r e.k e.crew.block e.cid off with
  | .error c => .error (offsetTrap e c.1 c.2)
  | .ok h => .ok h

/-- RAWAIT (R169). -/
def wRawait (o : OpRingD) : WordDef where
  bd := o.bd
  la := some o.la
  legal e := priKeep e && uGroup e o.sd 2
  uses e := { ur := [e.w.uIdx o.sh], uw := uRegs e o.sd 2 }
  waits e := match ringOf e o.sh with
    | .error _ => false
    | .ok h => h.state e.r e.crew.block e.cid h.ridx != 2
  body e := do
    let h ← ringOf e o.sh
    return { run := e.r.warp e.cid e.wi (fun w => w.setUs (e.w.uIdx o.sd)
      [BitVec.ofNat 32 h.ridx, BitVec.ofNat 32 (h.data + h.ridx * h.slotsz)]) }
/-- RAWAIT issued. -/
def execRawait (o : OpRingD) (s : State) : Outcome := issue (wRawait o) s

/-- RREL (R169). -/
def wRrel (o : OpRrel) : WordDef where
  bd := o.bd
  la := some o.la
  legal e := priKeep e
  uses e := { ur := [e.w.uIdx o.sh] }
  body e := do
    let h ← ringOf e o.sh
    if h.state e.r e.crew.block e.cid h.ridx ≠ 2 then .error (illegal e)
    let r := h.setState e.r e.crew.block e.cid h.ridx 0
    let off := (e.w.u (e.w.uIdx o.sh)).toNat
    return { run := storeNum r e.crew.block (.pad e.cid (off + 1)) 1 ((h.ridx + 1) % h.slots) }
/-- RREL issued. -/
def execRrel (o : OpRrel) (s : State) : Outcome := issue (wRrel o) s

/-- RSTAT (R169). -/
def wRstat (o : OpRingD) : WordDef where
  bd := o.bd
  la := some o.la
  legal e := priKeep e
  uses e := { ur := [e.w.uIdx o.sh], uw := [e.w.uIdx o.sd] }
  body e := do
    let h ← ringOf e o.sh
    let x := h.ridx + 2 ^ 8 * h.widx + 2 ^ 16 * h.inState e.r e.crew.block e.cid 2 + 2 ^ 24 * h.slots
    return { run := e.r.warp e.cid e.wi (fun w => w.setU (e.w.uIdx o.sd) (BitVec.ofNat 32 x)) }
/-- RSTAT issued. -/
def execRstat (o : OpRingD) (s : State) : Outcome := issue (wRstat o) s

end Sys2Proof.Machine
end

