-- ==== Sys2Proof/Machine/Engine.lean ====
section
/-! DEFINITION. The engine family (R170 to R173): WAITC with the fault of a stopped matrix operation (R297), CNTRD, GATHER
and CREDUCE as they issue. What GATHER and CREDUCE do to memory happens when they complete. -/

namespace Sys2Proof.Machine

/-- The counter class of a CLS code (R170). -/
def clsOf (c : Nat) : OpClass := match c with
  | 0 => .ldg
  | 1 => .stg
  | 2 => .mx
  | 3 => .gt
  | 4 => .cl
  | _ => .at

/-- The operations of a class that a wait for at most n waits for: all but the youngest n (R171). -/
def coveredOps (ops : List PendOp) (c : OpClass) (n : Nat) : List PendOp :=
  let xs := ops.filter (fun o => o.cls == c)
  xs.take (xs.length - n)

/-- The stopped matrix operation that a wait meets first: its key and record (R297). -/
def stoppedOp (r : Run) (ops : List PendOp) : Option (Nat × MatrixOp) :=
  ops.findSome? (fun o => match o.data with
    | .matrix k => match Assoc.get? r.matrix k with
      | some x => if x.fault.isSome then some (k, x) else none
      | none => none
    | _ => none)

/-- The signing lanes of a warp in an operation. -/
def MatrixOp.lanesOf (x : MatrixOp) (cid wi : Nat) : Mask := match x.signers.find? (fun s => s.1 == cid && s.2.1 == wi) with
  | some s => s.2.2.2
  | none => 0#32

/-- Whether a word restarts the one at which its warp took the fault of an operation: at the same PC, in some of the same lanes,
outside the handler (R297). -/
def restarts (e : Env) (x : MatrixOp) : Bool :=
  e.b.lanes &&& e.w.handlerLanes == 0#32 &&
  x.taken.any (fun t => t.1 == e.cid && t.2.1 == e.wi && t.2.2.1 == e.b.pc && t.2.2.2 &&& e.b.lanes != 0#32)

/-- The staged sums of the operations that a wait covers merged (R290). -/
def mergeCovered (r : Run) (ops : List PendOp) : Run :=
  ops.foldl (fun r o => match o.data with
    | .matrix k => mergeOp r k
    | _ => r) r

/-- Whether something is staged of the operations that a wait covers. -/
def stagedCovered (r : Run) (ops : List PendOp) : Bool :=
  ops.any (fun o => match o.data with
    | .matrix k => stagedCores r k != []
    | _ => false)

/-- A wait that meets a stopped operation takes its fault. Once the warp has taken it, the restart of the word that took it resumes
the operation, and any other wait of the warp holds (R297). -/
def meetStopped (e : Env) (k : Nat) (x : MatrixOp) : Except Stop Flow :=
  if x.taken.any (fun t => t.1 == e.cid && t.2.1 == e.wi) then
    if restarts e x then
      .ok { run := { e.r with matrix := Assoc.set e.r.matrix k { x with fault := none, taken := [] } }, next := .stay .none }
    else .error .hold
  else
    match x.fault with
    | none => .error .hold
    | some (code, addr) =>
      .error (.trap { code := code, mask := x.lanesOf e.cid e.wi, addr := addr, info0 := x.offD, mop := some k })

/-- WAITC (R171, R290, R297): one of MX that waits first has what is staged of the operations it covers merged. -/
def wWaitc (o : OpWaitc) : WordDef where
  bd := o.bd
  legal e := priKeep e && decide (o.cls ≤ 5)
  body e :=
    let covered := coveredOps e.w.ops (clsOf o.cls) o.n
    if counter e.w.ops (clsOf o.cls) ≤ o.n then
      .ok { run := if counter e.w.ops (clsOf o.cls) = 0 then waitedStores e.r e.cid e.wi (clsOf o.cls) else e.r }
    else match stoppedOp e.r covered with
      | some (k, x) => meetStopped e k x
      | none =>
        if e.b.wait != .merged && stagedCovered e.r covered then
          .ok { run := mergeCovered e.r covered, next := .stay .merged }
        else .error .hold
/-- WAITC issued. -/
def execWaitc (o : OpWaitc) (s : State) : Outcome := issue (wWaitc o) s

/-- CNTRD (R171). -/
def wCntrd (o : OpCntrd) : WordDef where
  bd := o.bd
  legal e := priKeep e && decide (o.cls ≤ 5)
  uses e := { uw := [e.w.uIdx o.sd] }
  body e :=
    .ok { run := e.r.warp e.cid e.wi (fun w =>
      w.setU (e.w.uIdx o.sd) (BitVec.ofNat 32 (counter e.w.ops (clsOf o.cls)))) }
/-- CNTRD issued. -/
def execCntrd (o : OpCntrd) (s : State) : Outcome := issue (wCntrd o) s

/-! ## GATHER (R172) -/

/-- Whether a number is a power of two from 4 to 256 (R172). -/
def gatherSize (n : Nat) : Bool := [4, 8, 16, 32, 64, 128, 256].contains n

/-- Where a lane of a GATHER reads, or the first check that fails: alignment of both addresses, the pad, translation. -/
def gatherPlace (e : Env) (dst size va : Nat) (l : Nat) : Except AccFault Place :=
  if va % size ≠ 0 then .error (.trap tcMisaligned va)
  else if (dst + l * size) % size ≠ 0 then .error (.trap tcMisaligned (dst + l * size))
  else if e.k.pad < dst + l * size + size then .error (.trap tcPermission (dst + l * size))
  else globalPlace e.m e.r e.asker e.ctx va needRd

/-- The store ordinal of a lane. -/
def Warp.ord (w : Warp) (l : Nat) : Nat := (rdReg w.ords l).toNat

/-- The ordinals of some lanes advanced by 1, where the grid keeps digests (R316). -/
def bumpOrds (e : Env) (w : Warp) (ls : List Nat) : Warp :=
  if e.g.det = 0 then w
  else ls.foldl (fun w l => { w with ords := wrReg w.ords l (BitVec.ofNat 64 (w.ord l + 1)) }) w

/-- GATHER (R172): every source is checked and translated at issue, and the elements are fetched by its completion. -/
def wGather (o : OpGather) : WordDef where
  bd := o.bd
  la := some o.la
  legal e := priKeep e && uGroup e o.sb 4
  uses e := { vr := [o.ix], ur := uRegs e o.sb 4 }
  waits e := decide (63 ≤ counter e.w.ops .gt)
  cls _ := .gt
  body e :=
    let k := e.w.uIdx o.sb
    let dst := (e.w.u k).toNat
    let size := (e.w.u (k + 1)).toNat
    let va (l : Nat) : Nat := (e.w.u64 (k + 2) + (e.w.v l o.ix).toNat * size) % 2 ^ 64
    if !gatherSize size then .error (illegal e)
    else match lanePlaces (e.lanes.map (fun l => (l, gatherPlace e dst size (va l) l))) with
    | .error x => .error x
    | .ok ps =>
      let (n, r) := addOp e (openFor e.r e.crew.block ps) .gt
        (.gather size dst (ps.map (fun p => (p.1, p.2, e.w.ord p.1))))
      .ok { run := r.warp e.cid e.wi (fun w => bumpOrds e w e.lanes), op := n }
/-- GATHER issued. -/
def execGather (o : OpGather) (s : State) : Outcome := issue (wGather o) s

/-! ## CREDUCE (R173) -/

/-- The check of a CREDUCE's operands that fails first: Illegal Instruction for the count, s[k+3] or a sum that a
deterministic grid refuses, then alignment, then extents (R155, R173, R315). -/
def creduceFault (e : Env) (o : OpCreduce) (src dst cnt z : Nat) : Option (Nat × Nat) :=
  if cnt = 0 ∨ 65536 < cnt ∨ z ≠ 0 ∨ (o.opr = 8 ∧ e.g.det ≠ 0) then some (tcIllegal, 0)
  else if src % 4 ≠ 0 then some (tcMisaligned, src)
  else if dst % 4 ≠ 0 then some (tcMisaligned, dst)
  else if e.k.pad < src + 4 * cnt then some (tcPermission, src)
  else if e.k.cluster < dst + 4 * cnt then some (tcPermission, dst)
  else none

/-- CREDUCE (R173). -/
def wCreduce (o : OpCreduce) : WordDef where
  bd := o.bd
  la := some o.la
  legal e := priKeep e && uGroup e o.sb 4 && decide (o.opr ≤ 8)
  uses e := { ur := uRegs e o.sb 4 }
  waits e := decide (63 ≤ counter e.w.ops .cl)
  cls _ := .cl
  body e :=
    let k := e.w.uIdx o.sb
    let at_ (i : Nat) : Nat := (e.w.u (k + i)).toNat
    match creduceFault e o (at_ 0) (at_ 1) (at_ 2) (at_ 3) with
    | some (code, addr) => .error (offsetTrap e code addr)
    | none =>
      let l := e.lanes.headD e.lead
      let (n, r) := addOp e e.r .cl (.creduce (at_ 0) (at_ 1) (at_ 2) o.opr e.active (e.thread l) (e.w.ord l))
      .ok { run := r.warp e.cid e.wi (fun w => bumpOrds e w [l]), op := n }
/-- CREDUCE issued. -/
def execCreduce (o : OpCreduce) (s : State) : Outcome := issue (wCreduce o) s

end Sys2Proof.Machine
end

