-- ==== Sys2Proof/Machine/Control.lean ====
section
/-! DEFINITION. Branches, calls, returns and the end of threads (R131 to R136, R326). -/

namespace Sys2Proof.Machine

/-- The word after the executing one, plus a signed offset in words (R133, R134). -/
def branchTarget (pc : Word) (bits_ off : Nat) : Word := pc + 4 + BitVec.ofNat 32 (wrap 32 (4 * sext bits_ off))

/-- Whether a target lies in the compute-slice image (R57). -/
def inImage (k : Kernel) (t : Word) : Bool := decide (t.toNat < 4 * k.cimg.length)

/-- Jumps of some lanes, or the trap of the lowest lane whose target breaks a rule: Misaligned, then Permission outside
the image; through a register, a lane that runs the handler may go to the return mark (R57, R134, R326). -/
def checkJumps (e : Env) (register : Bool) (ts : List (Nat × Word)) : Except Stop (List (Nat × Word)) :=
  let fault (p : Nat × Word) : Option Nat :=
    if register && p.2 == returnMark && e.w.handlerLanes.getLsbD p.1 then none
    else if p.2.toNat % 4 ≠ 0 then some tcMisaligned
    else if inImage e.k p.2 then none
    else some tcPermission
  match ts.find? (fun p => (fault p).isSome) with
  | none => .ok ts
  | some p =>
    let code := (fault p).getD tcPermission
    let mask := maskOf ((ts.filter (fun q => fault q == some code)).map (·.1))
    .error (.trap { code := code, mask := mask, addr := p.2.toNat })

/-- BRC (R133). -/
def wBrc (o : OpBrc) : WordDef where
  bd := 1
  steers := true
  legal := onlyPri
  uses _ := { pr := [o.ps] }
  body e := do
    let t := branchTarget e.b.pc 16 o.off
    let takes := e.lanes.filter (fun l => e.w.p l o.ps != (o.n == 1))
    let ts ← checkJumps e false (takes.map (fun l => (l, t)))
    return { run := e.r, next := .jumps ts }
/-- BRC issued. -/
def execBrc (o : OpBrc) (s : State) : Outcome := issue (wBrc o) s

/-- JMP (R134). -/
def wJmp (o : OpJump) : WordDef where
  bd := 1
  steers := true
  legal := onlyPri
  body e := do
    let ts ← checkJumps e false (e.lanes.map (fun l => (l, branchTarget e.b.pc 21 o.off)))
    return { run := e.r, next := .jumps ts }
/-- JMP issued. -/
def execJmp (o : OpJump) (s : State) : Outcome := issue (wJmp o) s

/-- CALL (R134). -/
def wCall (o : OpJump) : WordDef where
  bd := 1
  steers := true
  legal := onlyPri
  body e := do
    let ts ← checkJumps e false (e.lanes.map (fun l => (l, branchTarget e.b.pc 21 o.off)))
    return { run := e.r.warp e.cid e.wi (fun w => e.lanes.foldl (fun w l => w.setLnk l (e.b.pc + 4)) w),
             next := .jumps ts }
/-- CALL issued. -/
def execCall (o : OpJump) (s : State) : Outcome := issue (wCall o) s

/-- RET (R134, R326). -/
def wRet : WordDef where
  bd := 1
  steers := true
  legal := onlyPri
  uses _ := { lnk := true }
  body e := do
    let ts ← checkJumps e true (e.lanes.map (fun l => (l, e.w.lnk l)))
    return { run := e.r, next := .jumps ts }
/-- RET issued. -/
def execRet (s : State) : Outcome := issue wRet s

/-- JMPR (R134, R326). -/
def wJmpr (o : OpJmpr) : WordDef where
  bd := 1
  steers := true
  legal := onlyPri
  uses _ := { vr := [o.d] }
  body e := do
    let ts ← checkJumps e true (e.lanes.map (fun l => (l, e.w.v l o.d)))
    return { run := e.r, next := .jumps ts }
/-- JMPR issued. -/
def execJmpr (o : OpJmpr) (s : State) : Outcome := issue (wJmpr o) s

/-- Whether the word ends the last threads of its warp. -/
def endsWarp (e : Env) : Bool := e.w.exited ||| e.active == allLanes && e.active != 0#32

/-- EXIT (R136): the last threads of a warp wait for its matrix operations, and take the fault of one that is stopped
(R297). -/
def wExit : WordDef where
  bd := 1
  steers := true
  legal := onlyPri
  body e :=
    if endsWarp e && counter e.w.ops .mx != 0 then
      match stoppedOp e.r (coveredOps e.w.ops .mx 0) with
      | some (k, x) => meetStopped e k x
      | none => .error .hold
    else
      let r := endThreads e.m e.r e.cid e.wi e.crew.block e.wkey e.active
      .ok { run := settleWarp e.m r e.cid e.wi, next := .exits e.active }
/-- EXIT issued. -/
def execExit (s : State) : Outcome := issue wExit s

end Sys2Proof.Machine
end

