-- ==== Sys2Proof/Machine/Hints.lean ====
section
/-! DEFINITION. The hint words (R60, R69, R74, R137): each shapes the next word; only HGRD writes state, the run guard. -/

namespace Sys2Proof.Machine

/-- A hint of the compute slice: what it makes of the guard and the hints that apply (R69). -/
def hintDef (bd : Nat) (uses : Uses) (f : Env → Mask × Hints) : WordDef where
  bd := bd
  steers := true
  legal _ := true
  uses _ := uses
  body e :=
    let (g, h) := f e
    .ok { run := e.r, next := .keeps g h }

/-- A hint that leaves the guard alone. -/
def plainHint (bd : Nat) (f : Hints → Hints) : WordDef := hintDef bd {} (fun e => (e.b.guard, f e.b.hints))

/-- A hint of the address slice: two of one kind make the word they apply to illegal (R74). -/
def sliceHint (f : Hints → Hints) : SliceDef where
  hint := true
  plain := true
  steers := true
  legal _ := true
  body e := .ok { run := e.r, next := .keeps (f e.s.hints) }

/-- HIMM applied (R69). -/
def himmOnto (o : OpHimm) (h : Hints) : Hints := { h with himm := some o.imm, bad := h.bad || h.himm.isSome }
/-- HIMM of the compute slice. -/
def wHimm (o : OpHimm) : WordDef := plainHint o.bd (himmOnto o)
/-- HIMM issued by either slice (R74). -/
def execHimm (o : OpHimm) (s : State) : Outcome := issueEither (wHimm o) (sliceHint (himmOnto o)) s

/-- HIMMX applied (R69). -/
def himmxOnto (o : OpHimmx) (h : Hints) : Hints := { h with himmx := some o.immx, bad := h.bad || h.himmx.isSome }
/-- HIMMX of the compute slice. -/
def wHimmx (o : OpHimmx) : WordDef := plainHint o.bd (himmxOnto o)
/-- HIMMX issued by either slice (R74). -/
def execHimmx (o : OpHimmx) (s : State) : Outcome := issueEither (wHimmx o) (sliceHint (himmxOnto o)) s

/-- HMOD (R69, R70). -/
def wHmod (o : OpHmod) : WordDef := plainHint o.bd (fun h => { h with hmod := some o, bad := h.bad || h.hmod.isSome })
/-- HMOD issued. -/
def execHmod (o : OpHmod) (s : State) : Outcome := issue (wHmod o) s

/-- HGRD (R60, R69): the guard in lane L is P(L, PRED) xor NEG, read once. -/
def wHgrd (o : OpHgrd) : WordDef := hintDef o.bd { pr := [o.pred] } (fun e =>
  (if o.neg = 1 then ~~~e.w.predMask o.pred else e.w.predMask o.pred, e.b.hints))
/-- HGRD issued. -/
def execHgrd (o : OpHgrd) (s : State) : Outcome := issue (wHgrd o) s

/-- HXB (R69). -/
def wHxb (o : OpHxb) : WordDef := plainHint o.bd (fun h => { h with hxb := some o, bad := h.bad || h.hxb.isSome })
/-- HXB issued. -/
def execHxb (o : OpHxb) (s : State) : Outcome := issue (wHxb o) s

/-- HADR (R69). -/
def wHadr (o : OpHadr) : WordDef := plainHint o.bd (fun h => { h with hadr := some o, bad := h.bad || h.hadr.isSome })
/-- HADR issued. -/
def execHadr (o : OpHadr) (s : State) : Outcome := issue (wHadr o) s

/-- HKEEP (R69): advice to the register cache, which no program outcome shows (R27). -/
def wHkeep (o : OpHkeep) : WordDef := plainHint o.bd (fun h => { h with hkeep := some o, bad := h.bad || h.hkeep.isSome })
/-- HKEEP issued. -/
def execHkeep (o : OpHkeep) (s : State) : Outcome := issue (wHkeep o) s

/-- HPRI (R69, R231). -/
def wHpri (o : OpHpri) : WordDef := plainHint o.bd (fun h => { h with hpri := some o, bad := h.bad || h.hpri.isSome })
/-- HPRI issued. -/
def execHpri (o : OpHpri) (s : State) : Outcome := issue (wHpri o) s

end Sys2Proof.Machine
end

