-- ==== Sys2Proof/Machine/Kernels.lean ====
section
/-! DEFINITION. Code objects (R82 to R84), what a crew needs of a core (R224), a crew's state when it starts (R8, R9,
R279), and tasks (R151 to R153). -/

namespace Sys2Proof.Machine

/-! ## Code objects -/

/-- A field of n bytes of a record. -/
def recField (bs : List Byte) (off n : Nat) : Nat := ofBytes ((bs.drop off).take n)

/-- The greatest depth of a queue port (R17). -/
def maxDepth (q : Nat) : Nat := if q < 8 then 32 else if q < 12 then 8 else 16

/-- Bytes of memory as instruction words (R57). -/
def wordsOf : Nat → List Byte → List Word
  | 0, _ => []
  | n + 1, bs => BitVec.ofNat 32 (ofBytes (bs.take 4)) :: wordsOf n (bs.drop 4)

/-- Ring declaration n of a kernel descriptor (R83). -/
def ringDecl (bs : List Byte) (n : Nat) : RingDecl :=
  let o := 64 + 16 * n
  { hdr := recField bs o 4, data := recField bs (o + 4) 4, awarr := recField bs (o + 8) 4,
    slots := recField bs (o + 12) 1, slotsz := 256 * recField bs (o + 14) 2 }

/-- The pad regions of a ring: header, arrival words, slots. -/
def RingDecl.regions (d : RingDecl) : List (Nat × Nat) :=
  [(d.hdr, d.hdr + 64), (d.awarr, d.awarr + 16 * d.slots), (d.data, d.data + d.slots * d.slotsz)]

/-- Whether two lists of regions overlap. -/
def overlap (xs ys : List (Nat × Nat)) : Bool := xs.any (fun a => ys.any (fun b => decide (a.1 < b.2) && decide (b.1 < a.2)))

/-- Whether no two rings overlap. -/
def ringsApart : List RingDecl → Bool
  | [] => true
  | d :: ds => ds.all (fun x => !overlap d.regions x.regions) && ringsApart ds

/-- Whether a ring declaration keeps the limits of R83 within a pad. -/
def RingDecl.ok (d : RingDecl) (pad : Nat) : Bool :=
  decide (1 ≤ d.slots) && decide (d.slots ≤ 64) && decide (256 ≤ d.slotsz) && decide (d.slotsz ≤ 2 ^ 18) &&
  d.hdr % 64 == 0 && d.data % 256 == 0 && d.awarr % 16 == 0 && d.regions.all (fun p => decide (p.2 ≤ pad))

/-- Whether an image and its entry keep the rules of R84. -/
def imageOk (off len entry objLen : Nat) : Bool :=
  off % 64 == 0 && len != 0 && len % 4 == 0 && decide (off + len ≤ objLen) && entry % 4 == 0 && decide (entry < len)

/-- Whether the bytes of a kernel descriptor keep the rules of R84 for a pad of the given size. -/
def descriptorOk (bs : List Byte) (objLen pad : Nat) : Bool :=
  let f := recField bs
  let nring := f 26 1
  let rings := (List.range nring).map (ringDecl bs)
  imageOk (f 0 4) (f 4 4) (f 16 4) objLen && imageOk (f 8 4) (f 12 4) (f 20 4) objLen &&
  (List.range 16).all (fun q =>
    let d := f (28 + q) 1
    decide (d ≤ maxDepth q) && ((d != 0) == bitOf (f 24 2) q)) &&
  decide (nring ≤ 8) && rings.all (fun d => d.ok pad) && ringsApart rings &&
  (List.range nring).all (fun n => f (64 + 16 * n + 13) 1 == 0) &&
  (bs.drop (64 + 16 * nring)).take (128 - 16 * nring) == List.replicate (128 - 16 * nring) 0

/-- Whether the bytes of a code-object header keep R82. -/
def headerOk (bs : List Byte) : Bool :=
  recField bs 0 4 == 0x4C4F4331 && recField bs 4 2 == 1 && decide (1 ≤ recField bs 6 2) &&
  decide (recField bs 6 2 ≤ 4096) && recField bs 8 4 % 256 == 0 && bs.drop 24 == List.replicate 40 0

/-- Kernel KIDX of the code object at an address, read whole through the context's mapping; pad gives the crew's pad
where it is not the descriptor's own (R84). None where a rule of R84 is broken or the object cannot be read. -/
def readKernel (m : Mgmt) (r : Run) (ctxKey code kidx : Nat) (pad : Option Nat) : Option Kernel := do
  let h ← readVa m r ctxKey code 64
  if !headerOk h || recField h 6 2 ≤ kidx then none
  else
    let d ← readVa m r ctxKey (code + recField h 8 4 + 256 * kidx) 256
    let f := recField d
    if !descriptorOk d (recField h 12 4) (pad.getD (f 56 4)) then none
    else
      let c ← readVa m r ctxKey (code + f 0 4) (f 4 4)
      let a ← readVa m r ctxKey (code + f 8 4) (f 12 4)
      return { cimg := wordsOf (f 4 4 / 4) c, aimg := wordsOf (f 12 4 / 4) a, centry := f 16 4, aentry := f 20 4,
               qdepth := (List.range 16).map (fun q => f (28 + q) 1),
               rings := (List.range (f 26 1)).map (ringDecl d), crew := f 48 2, span := f 50 1, regs := f 51 1,
               lane := f 52 4, pad := f 56 4, cluster := f 60 4 }

/-! ## What a crew needs (R224) -/

/-- Resources of a core: crew slots, warps, bytes of base registers, lane slices and pad. -/
def Needs.add (a b : Needs) : Needs :=
  ⟨a.slots + b.slots, a.warps + b.warps, a.regs + b.regs, a.lane + b.lane, a.pad + b.pad, a.gran + b.gran⟩

/-- The capacity of an empty core, of 64 granules less those retired (R13, R224). Warp slots are also bounded for each
quadrant. -/
def coreCapacity (retired : Nat) : Needs := ⟨16, 64, 2 ^ 19, 2 ^ 19, 2 ^ 21, 64 - retired⟩

def Needs.fits (a b : Needs) : Bool :=
  decide (a.slots ≤ b.slots) && decide (a.warps ≤ b.warps) && decide (a.regs ≤ b.regs) && decide (a.lane ≤ b.lane) &&
  decide (a.pad ≤ b.pad) && decide (a.gran ≤ b.gran)

/-- What crew c of a block of a kernel needs (R224); a crew restored also needs its granules (R13). -/
def Kernel.needs (k : Kernel) (c : Nat) (gran : Nat := 0) : Needs :=
  { slots := 1, warps := k.crew / 32, regs := (k.regs + 7) / 8 * 32 * k.crew, lane := k.lane * k.crew,
    pad := k.pad + (k.cluster + 4096 * k.span - 1) / (4096 * k.span) * 4096 + (if c = 0 then 1024 else 0), gran := gran }

/-- Whether every crew of a block of a kernel fits an empty core (R224). -/
def Kernel.fitsEmpty (k : Kernel) : Bool := (k.needs 0).fits (coreCapacity 0)

/-- Whether a shape keeps the limits of R80 and R305. -/
def Kernel.shapeOk (k : Kernel) : Bool :=
  decide (1 ≤ k.span) && decide (k.span ≤ 16) && decide (32 ≤ k.crew) && decide (k.crew ≤ 1024) && k.crew % 32 == 0 &&
  decide (k.span * k.crew ≤ 4096) && decide (1 ≤ k.regs) && decide (k.regs ≤ 64) && decide (k.lane ≤ 16384) &&
  k.lane % 16 == 0 && k.pad % 64 == 0 && k.cluster % 4096 == 0

/-! ## A crew when it starts (R8, R9, R279) -/

/-- The pad of a crew with its ring headers and arrival words written (R279): RING is bit 3 of an arrival word's
flags. -/
def ringPad (ds : List RingDecl) : Mem :=
  ds.foldl (fun m d =>
    let m := Mem.writeBytes m d.hdr
      ([BitVec.ofNat 8 d.slots, 0, 0, 0] ++ toBytes 4 d.slotsz ++ toBytes 4 d.data ++ toBytes 4 d.awarr)
    (List.range d.slots).foldl (fun m k => Mem.write m 4 (d.awarr + 16 * k + 12) 8) m) []

/-- A warp when it starts: one batch of 32 lanes at the kernel entry, its first uniform registers given (R8, R223). -/
def startWarp (k : Kernel) (us : List Word) : Warp :=
  { batches := [{ lanes := allLanes, pc := BitVec.ofNat 32 k.centry }], base := k.regs,
    uregs := (us.foldl (fun (p : Assoc Word × Nat) u => (wrReg p.1 p.2 u, p.2 + 1)) ([], 0)).1 }

/-- A crew when it starts (R8, R9): us begins with the argument-block address. -/
def startCrew (k : Kernel) (block idx level args : Nat) (us : List Word) : Crew :=
  { block := block, idx := idx, threads := k.crew, level := level,
    queues := k.qdepth.map (fun d => { depth := d }), pad := ringPad k.rings,
    warps := List.replicate (k.crew / 32)
      (startWarp k ([BitVec.ofNat 32 args, BitVec.ofNat 32 (args / 2 ^ 32)] ++ us)),
    aslice := { gregs := wrReg [] 1 (BitVec.ofNat 64 args), pc := BitVec.ofNat 32 k.aentry } }

/-! ## Tasks (R151 to R153) -/

/-- Whether the bytes of a task record keep the rules of R151: the address fields have no high half in a raw context, and hold
capabilities in a protected one. -/
def taskRecordOk (prot : Bool) (bs : List Byte) : Bool :=
  let f := recField bs
  (prot || (f 8 8 == 0 && f 24 8 == 0)) && addrOf prot (f 16 16) % 8 == 0 && f 34 2 / 2 == 0 && f 38 2 == 0 && f 60 4 == 0 &&
  (f 36 2 == 0 || (f 36 2 % 32 == 0 && decide (32 ≤ f 36 2) && decide (f 36 2 ≤ 1024)))

/-- The kernel of a task: its descriptor's shape with the record's thread count, if the record and the kernel are sound
and the shape fits one core (R152). -/
def taskKernel (m : Mgmt) (r : Run) (g : Grid) (bs : List Byte) : Option Kernel := do
  let k ← readKernel m r g.ctx g.code (recField bs 32 2) none
  let k := if recField bs 36 2 = 0 then k else { k with crew := recField bs 36 2 }
  if k.shapeOk && k.fitsEmpty && k.span == 1 then some k else none

/-- The join word's address in a 16-byte field: none for all zero (R151, R154). -/
def joinAddr (prot : Bool) (x : Nat) : Option Nat := if x = 0 then none else some (addrOf prot x)

/-- A task pushed at the head of a core's deque: its block and its crew, not yet admitted (R152, R225). -/
def pushTask (r : Run) (e : Env) (k : Kernel) (bs : List Byte) : Run :=
  let f := recField bs
  let prot := isProt r e.g.ctx
  let args := addrOf prot (f 0 16)
  let gk := e.blk.grid
  let kk := Assoc.fresh e.g.kernels
  let bk := Assoc.fresh r.blocks
  let ck := Assoc.fresh r.crews
  let us := (List.range 5).map (fun i => BitVec.ofNat 32 (if i < 4 then f (44 + 4 * i) 4 else f 40 4))
  let blk : Block :=
    { grid := gk, lin := e.blk.lin, isTask := true, taskix := f 40 4,
      joinw := joinAddr prot (f 16 16), nosteal := f 34 2 % 2 == 1, user := us.take 4, args := args,
      kernel := kk, span := 1, crews := [ck] }
  let crew := { startCrew k bk 0 e.crew.level args us with core := e.crew.core, placed := r.order }
  let r := r.grid gk (fun g => { g with kernels := Assoc.set g.kernels kk k, tasksLive := g.tasksLive + 1 })
  let r := { r with blocks := Assoc.set r.blocks bk blk, crews := Assoc.set r.crews ck crew, order := r.order + 1 }
  r.core e.crew.core (fun c => { c with deque := bk :: c.deque })

end Sys2Proof.Machine
end

