-- ==== Sys2Proof/Machine/SliceMem.lean ====
section
/-! DEFINITION. The address slice's loads, stores, run-ahead loads into queues, and atomics (R202 to R205, R219). Each access
is performed when the word issues (log 1); what counts in GLD completes later. -/

namespace Sys2Proof.Machine

/-! ## Addresses -/

/-- An address of a space in format M's coding: modulo 2^64 in spaces 4 and 5, else modulo 2^32 (R202). -/
def spaceWrap (sp x : Nat) : Nat := if 4 ≤ sp then x % 2 ^ 64 else x % 2 ^ 32

/-- g(GA) plus the offset of the hints (R198, R202). -/
def SEnv.addr (e : SEnv) (sp ga : Nat) : Nat := spaceWrap sp (e.s.gn ga + e.imm)

/-- The bytes of spaces 1 to 3 that a slice reaches (R240). -/
def sliceLimit (e : SEnv) (sp : Nat) : Nat := match sp with
  | 1 => e.k.pad
  | 2 => e.k.cluster
  | _ => match Assoc.get? e.r.contexts e.ctx with
    | some cx => cx.splen
    | none => 0

/-- The place of an offset of spaces 1 to 3 (R240 to R244). -/
def slicePlace (e : SEnv) (sp o : Nat) : Place := match sp with
  | 1 => .pad e.cid o
  | 2 => .clu e.crew.block o
  | _ =>
    let base := match Assoc.get? e.r.contexts e.ctx with
      | some cx => cx.spbase
      | none => 0
    .spad (partOf e.ctx * 2 ^ 40 + base + o)

/-- The place of n aligned bytes that the slice accesses, or the check of R157 or R420 that fails. -/
def sliceAccess (e : SEnv) (sp ea n need : Nat) : Except AccFault Place :=
  if ea % n ≠ 0 then .error (.trap tcMisaligned ea)
  else if sp < 4 then
    if ea + n ≤ sliceLimit e sp then localPlace e.m (slicePlace e sp ea) else .error (.trap tcPermission ea)
  else
    match globalPlace e.m e.r e.asker e.ctx ea need with
    | .error f => .error f
    | .ok p => if watched e.r e.ctx ea n (need != needWr) (need != needRd) then .error (.trap tcWatchpoint ea) else .ok p

/-- ECC Uncorrectable where a slice would read poison (R396). -/
def slicePoison (p : Place) (ea : Nat) : Stop := .trap { code := tcEcc, addr := ea, gran := some (p.key / 8) }

/-- The interval opened when the slice leaves the device (R398). -/
def openOutside (r : Run) (blk : Nat) (p : Place) : Run := if p.outside then openInterval r blk else r

/-- What the slice reads of n bytes at an address, and what it stores there (R202, R259). -/
def SEnv.loads (e : SEnv) (r : Run) (sp va : Nat) (p : Place) (n : Nat) : Nat × Run :=
  synLoad r e.crew.block e.cid sliceParty (synonymPage e.m e.r e.ctx sp va) p n
def SEnv.stores (e : SEnv) (r : Run) (sp va : Nat) (p : Place) (n x : Nat) : Run :=
  synStore r e.crew.block e.cid sliceParty (synonymPage e.m e.r e.ctx sp va) .none p n x

/-! ## GLD and GST (R202) -/

/-- Bytes of a width code of GLD and GST (R202). -/
def glBytes (w : Nat) : Nat := match w with
  | 0 => 4
  | 1 => 8
  | 2 => 1
  | _ => 2

/-- Whether a space code is one of 1 to 5 (R202). -/
def glSpace (sp : Nat) : Bool := decide (1 ≤ sp) && decide (sp ≤ 5)

/-- GLD (R202). -/
def sGld (o : OpGL) : SliceDef where
  imm := true
  la := some o.la
  legal _ := glSpace o.sp && (o.w != 1 || o.sgn == 0)
  uses _ := { ur := gRegs [o.ga], uw := gRegs [o.gd] }
  waits e := decide (63 ≤ counter e.s.ops .gld)
  cls := .gld
  body e :=
    let n := glBytes o.w
    let ea := e.addr o.sp o.ga
    match sliceAccess e o.sp ea n needRd with
    | .error f => .error f.sliceStop
    | .ok p =>
      if poisonedSpan e.r p n then .error (slicePoison p ea)
      else
        let (x, r) := e.loads (openOutside e.r e.crew.block p) o.sp ea p n
        let x := if o.sgn = 1 then sextTo 64 (8 * n) x else x
        let (k, r) := pushSliceOp e r .gld (.greg o.gd (BitVec.ofNat 64 x))
        .ok { run := r, op := k }
/-- GLD issued. -/
def execGld (o : OpGL) (s : State) : Outcome := issueSlice (sGld o) s

/-- GST (R202). -/
def sGst (o : OpGL) : SliceDef where
  imm := true
  la := some o.la
  legal _ := glSpace o.sp && o.sgn == 0
  uses _ := { ur := gRegs [o.ga, o.gd] }
  body e :=
    let n := glBytes o.w
    let ea := e.addr o.sp o.ga
    match sliceAccess e o.sp ea n needWr with
    | .error f => .error f.sliceStop
    | .ok p =>
      let x := e.s.gn o.gd % 2 ^ (8 * n)
      let r := e.stores (openOutside e.r e.crew.block p) o.sp ea p n x
      .ok { run := foldSlice e r (storeTerms o.sp ea n x) }
/-- GST issued. -/
def execGst (o : OpGL) (s : State) : Outcome := issueSlice (sGst o) s

/-! ## GLDQ and GLDQV (R204, R205) -/

/-- Whether an operation may fill a queue: declared, and not closed by GQCLOSE (R204). -/
def fillable (e : SEnv) (q : Nat) : Bool := e.crew.declared q && !(e.crew.queue q).closed

/-- The reservation that a trapped word at this address still holds (R205). -/
def heldReservation (e : SEnv) (q : Nat) : Option Nat :=
  (e.s.resv.find? (fun x => x.1 == e.s.pc.toNat && x.2.1 == q)).map (·.2.2)

/-- Whether a load into a queue holds at issue (R25, R204). -/
def fillWaits (e : SEnv) (q : Nat) : Bool :=
  decide (63 ≤ counter e.s.ops .gld) ||
  ((heldReservation e q).isNone && !(e.crew.queue q).cend && (e.crew.queue q).isFull)

/-- The next entry of a queue reserved, once: the operation's number and the run (R204). -/
def reserve (e : SEnv) (q : Nat) : Nat × Run :=
  match heldReservation e q with
  | some k => (k, e.r)
  | none =>
    let used := e.crew.queues.flatMap (fun q => q.entries.filterMap (fun x => match x with
      | .reserved k => some (k + 1)
      | _ => none))
    let k := used.foldl max (freshOp e.s.ops e.s.windows)
    if (e.crew.queue q).cend then (k, e.r)
    else (k, e.r.crew e.cid (fun c => c.setQueue q (fun x => { x with entries := x.entries ++ [.reserved k] })))

/-- A load into a queue: a stop leaves the entry reserved for the restart, and otherwise the value is on its way
(R204, R205). -/
def fillQueue (e : SEnv) (q : Nat) (x : Except Stop (OpData × Run → OpData × Run)) : SFlow :=
  let (k, r) := reserve e q
  match x with
  | .error s => { run := r, next := .stops s, op := k }
  | .ok f =>
    let (d, r) := f (.none, r)
    let o : PendOp := { id := k, cls := .gld, data := d }
    { run := r.slice e.cid (fun s => { s with ops := s.ops ++ [o], resv := s.resv.filter (fun x => x.2.2 != k) }), op := k }

/-- GLDQ (R204). -/
def sGldq (o : OpGldq) : SliceDef where
  imm := true
  la := some o.la
  legal e := glSpace o.sp && decide (o.w ≤ 1) && fillable e o.q
  uses _ := { ur := gRegs [o.ga] }
  waits e := fillWaits e o.q
  cls := .gld
  queue := some o.q
  body e :=
    let n := glBytes o.w
    let ea := e.addr o.sp o.ga
    .ok (fillQueue e o.q (match sliceAccess e o.sp ea n needRd with
      | .error f => .error f.sliceStop
      | .ok p =>
        if poisonedSpan e.r p n then .error (slicePoison p ea)
        else .ok (fun (_, r) =>
          let (x, r) := e.loads (openOutside r e.crew.block p) o.sp ea p n
          (.fillUni o.q (BitVec.ofNat 64 x), r))))
/-- GLDQ issued. -/
def execGldq (o : OpGldq) (s : State) : Outcome := issueSlice (sGldq o) s

/-- The address of element L of GLDQV (R204). -/
def elementAddr (e : SEnv) (o : OpGldqv) (l : Nat) : Nat :=
  spaceWrap o.sp (e.addr o.sp o.ga + l * e.s.gn o.gb)

/-- The places of the 32 elements of GLDQV, or the stop of the lowest-numbered one whose address or translation faults, with its
index (R204, R205). -/
def elementPlaces (e : SEnv) (o : OpGldqv) : Except Stop (List Place) :=
  (List.range 32).foldr (fun l acc =>
    match sliceAccess e o.sp (elementAddr e o l) 4 needRd with
    | .error (.trap code addr) => .error (sliceTrap code addr l)
    | .error f => .error f.sliceStop
    | .ok p => match acc with
      | .error x => .error x
      | .ok ps => .ok (p :: ps)) (.ok [])

/-- ECC Uncorrectable at the lowest-numbered poisoned element, when every element has been checked (R205, R396). -/
def elementPoison (e : SEnv) (o : OpGldqv) (ps : List Place) : Option Stop :=
  ((ps.zipIdx).find? (fun p => poisonedSpan e.r p.1 4)).map (fun p =>
    .trap { code := tcEcc, addr := elementAddr e o p.2, info0 := p.2, gran := some (p.1.key / 8) })

/-- The elements of GLDQV read in order (R204, R259). -/
def loadElements (e : SEnv) (o : OpGldqv) (r : Run) (ps : List Place) : List Word × Run :=
  (ps.zipIdx).foldl (fun (acc : List Word × Run) p =>
    let (x, r) := e.loads acc.2 o.sp (elementAddr e o p.2) p.1 4
    (acc.1 ++ [BitVec.ofNat 32 x], r)) ([], r)

/-- GLDQV (R204). -/
def sGldqv (o : OpGldqv) : SliceDef where
  imm := true
  la := some o.la
  legal e := glSpace o.sp && fillable e (8 + o.q)
  uses _ := { ur := gRegs [o.ga, o.gb] }
  waits e := fillWaits e (8 + o.q)
  cls := .gld
  queue := some (8 + o.q)
  body e :=
    .ok (fillQueue e (8 + o.q) (match elementPlaces e o with
      | .error s => .error s
      | .ok ps => match elementPoison e o ps with
        | some s => .error s
        | none => .ok (fun (_, r) =>
          let r := if ps.any (·.outside) then openInterval r e.crew.block else r
          let (xs, r) := loadElements e o r ps
          (.fillVec (8 + o.q) xs, r))))
/-- GLDQV issued. -/
def execGldqv (o : OpGldqv) (s : State) : Outcome := issueSlice (sGldqv o) s

/-! ## GATOM (R219) -/

/-- GATOM (R219): in global memory g(GD) is written when it completes. -/
def sGatom (o : OpGatom) : SliceDef where
  imm := true
  la := some o.la
  legal _ := (decide (o.aop ≤ 9) || o.aop == 13 || o.aop == 14) && (o.aop != 9 || o.gd % 2 == 0)
  uses _ := { ur := gRegs ([o.ga, o.gd] ++ (if o.aop = 9 then [o.gd + 1] else [])), uw := gRegs [o.gd] }
  body e :=
    let n := if o.w = 1 then 8 else 4
    let sp := o.sp + 1
    let ea := e.addr sp o.ga
    match sliceAccess e sp ea n needAt with
    | .error f => .error f.sliceStop
    | .ok p =>
      if poisonedSpan e.r p n then .error (slicePoison p ea)
      else
        let r := if sp = 4 then openInterval e.r e.crew.block else e.r
        let b := e.s.gn o.gd % 2 ^ (8 * n)
        let c := if o.aop = 9 then e.s.gn (o.gd + 1) % 2 ^ (8 * n) else 0
        let (m, r) := e.loads r sp ea p n
        let r := e.stores r sp ea p n (atomNew o.aop (8 * n) m b c).1
        let r := foldSlice e r [atomTerm o.aop sp ea n b c]
        if sp < 4 then .ok { run := r.slice e.cid (fun s => s.setG o.gd m) }
        else
          let (k, r) := pushSliceOp e r .none (.greg o.gd (BitVec.ofNat 64 m))
          .ok { run := r, op := k }
/-- GATOM issued. -/
def execGatom (o : OpGatom) (s : State) : Outcome := issueSlice (sGatom o) s

/-! ## GQOP (R206 to R209) -/

/-- GQPUSH (R207). -/
def sGqpush (o : OpGQ) : SliceDef where
  legal e := decide (o.q ≤ 7) && fillable e o.q
  uses _ := { ur := gRegs [o.gd] }
  waits e := !(e.crew.queue o.q).cend && (e.crew.queue o.q).isFull
  body e :=
    .ok { run := if (e.crew.queue o.q).cend then e.r
      else feedQueue e.r e.cid o.q (fun q => { q with entries := q.entries ++ [.uni (e.s.g o.gd)] }) }
/-- GQPUSH issued. -/
def execGqpush (o : OpGQ) (s : State) : Outcome := issueSlice (sGqpush o) s

/-- GQPOP (R208). -/
def sGqpop (o : OpGQ) : SliceDef where
  legal e := decide (12 ≤ o.q) && e.crew.declared o.q
  uses _ := { uw := gRegs [o.gd] }
  body e := match (e.crew.queue o.q).head with
    | .entry x => .ok { run := (popQueue e.r e.cid (some o.q)).slice e.cid (fun s => s.setG o.gd x.x64) }
    | .wait => .error .hold
    | .orphan => .error (sliceTrap tcQueueOrphan)
    | .poisoned => .error (sliceTrap tcEcc)
/-- GQPOP issued. -/
def execGqpop (o : OpGQ) (s : State) : Outcome := issueSlice (sGqpop o) s

/-- GQTRY (R208). -/
def sGqtry (o : OpGQ) : SliceDef where
  legal e := decide (12 ≤ o.q) && e.crew.declared o.q && o.gd % 2 == 0
  uses _ := { uw := gRegs [o.gd, o.gd + 1] }
  body e :=
    let write (r : Run) (x y : Nat) : SFlow := { run := r.slice e.cid (fun s => (s.setG o.gd x).setG (o.gd + 1) y) }
    match (e.crew.queue o.q).head with
    | .entry x => .ok (write (popQueue e.r e.cid (some o.q)) x.x64 0)
    | .wait => .ok (write e.r 0 1)
    | .orphan => .ok (write e.r 0 2)
    | .poisoned => .error (sliceTrap tcEcc)
/-- GQTRY issued. -/
def execGqtry (o : OpGQ) (s : State) : Outcome := issueSlice (sGqtry o) s

/-- GQCLOSE (R209). -/
def sGqclose (o : OpGqclose) : SliceDef where
  legal e := decide (o.q ≤ 11) && e.crew.declared o.q
  waits e := (e.crew.queue o.q).entries.any (·.isReserved)
  body e := .ok { run := feedQueue e.r e.cid o.q (fun q => { q with closed := true }) }
/-- GQCLOSE issued. -/
def execGqclose (o : OpGqclose) (s : State) : Outcome := issueSlice (sGqclose o) s

/-- The result of GQSTAT (R209). -/
def sliceQueueStatus (r : Run) (ctxKey : Nat) (c : Crew) (q : Nat) : Nat :=
  let x := c.queue q
  x.present + 2 ^ 8 * x.depth + 2 ^ 16 * b2n x.closed + 2 ^ 17 * producerState r ctxKey c q +
    2 ^ 32 * (x.entries.length - x.present)

/-- GQSTAT (R209). -/
def sGqstat (o : OpGQ) : SliceDef where
  legal e := e.crew.declared o.q
  uses _ := { uw := gRegs [o.gd] }
  body e := .ok { run := e.r.slice e.cid (fun s => s.setG o.gd (sliceQueueStatus e.r e.ctx e.crew o.q)) }
/-- GQSTAT issued. -/
def execGqstat (o : OpGQ) (s : State) : Outcome := issueSlice (sGqstat o) s

end Sys2Proof.Machine
end

