-- ==== Sys2Proof/Machine/Copies.lean ====
section
/-! DEFINITION. Copies: CSTART, CWAIT and CQUERY (R212 to R215), GEXIT and GWAITC, which wait for them, and the engine's walk
(R270 to R275, R281, R283, R284, R316). -/

namespace Sys2Proof.Machine

/-! ## Elements (R270) -/

/-- A scatter-gather element. -/
structure Element where
  src : Nat
  dst : Nat
  count : Nat
  rows : Nat
  nglb : Bool
  flags : Nat
  sstride : Nat
  dstride : Nat
  next : Nat
deriving DecidableEq, Repr, Inhabited

/-- The element of 64 bytes. -/
def elementOf (bs : List Byte) : Element :=
  { src := recField bs 0 16, dst := recField bs 16 16, count := recField bs 32 4, rows := recField bs 36 2 % 2 ^ 15,
    nglb := bitOf (recField bs 36 2) 15, flags := recField bs 38 2, sstride := recField bs 40 4,
    dstride := recField bs 44 4, next := recField bs 48 16 }

def Element.dsp (x : Element) : Nat := bits x.flags 15 13
def Element.ssp (x : Element) : Nat := bits x.flags 12 10
def Element.twoD (x : Element) : Bool := bitOf x.flags 9
def Element.last (x : Element) : Bool := bitOf x.flags 8
def Element.skipBit (x : Element) : Nat := bits x.flags 7 2
def Element.skipPol (x : Element) : Bool := bitOf x.flags 1
def Element.skipEn (x : Element) : Bool := bitOf x.flags 0
/-- R of R272. -/
def Element.r (x : Element) : Nat := if x.twoD then x.rows else 1
/-- The bytes the element delivers. -/
def Element.total (x : Element) : Nat := x.r * x.count

/-- A field of a space as its offset or address: its low 8 bytes, or the address of the capability it holds. -/
def fieldAddr (prot : Bool) (sp x : Nat) : Nat := if prot && 3 ≤ sp then capAddr x else x % 2 ^ 64

/-- The address of byte 0 of row r (R272). -/
def rowAddr (sp base stride r : Nat) : Nat :=
  let n := if 4 ≤ sp then 64 else 32
  wrap n ((base : Int) + r * sext 32 stride)

/-- The rows of an operand that hold bytes to check: none where the element delivers nothing (R272). -/
def checkedRows (rows count : Nat) : List Nat := if count = 0 then [] else List.range rows

/-- Whether the rows of an operand lie inside their space (R240, R272). -/
def rowsInside (lim : Nat) (sp base stride rows count : Nat) : Bool :=
  (checkedRows rows count).all (fun r => decide (rowAddr sp base stride r + count ≤ lim))

/-- Whether the rows of an operand lie inside a capability (R254). -/
def rowsAllowed (ctxKey : Nat) (tag : Bool) (cap perm sp stride rows count : Nat) : Bool :=
  (checkedRows rows count).all (fun r => capPasses ctxKey tag cap perm (rowAddr sp (capAddr cap) stride r) count (4 ≤ sp))

/-! ## The owner of a copy -/

/-- A copy of a crew by its place among those outstanding. -/
def SEnv.copy? (e : SEnv) (i : Nat) : Option Copy := e.s.copies[i]?

/-- One copy of a crew changed. -/
def setCopy (r : Run) (cid i : Nat) (f : Copy → Copy) : Run :=
  r.slice cid (fun s => match s.copies[i]? with
    | some c => { s with copies := setAt s.copies i (f c) }
    | none => s)

/-- The copies that have not retired: the completed ones at the head leave (R25). -/
def retireCopies : List Copy → List Copy
  | [] => []
  | c :: cs => if c.done then retireCopies cs else c :: cs

/-- A slice whose copies have been retired. -/
def settleCopies (r : Run) (cid : Nat) : Run := r.slice cid (fun s => { s with copies := retireCopies s.copies })

/-! ## CSTART (R213) -/

/-- The extent of spaces 1 to 5 (R240). -/
def copyLimit (e : SEnv) (sp : Nat) : Nat := if 4 ≤ sp then 2 ^ 57 else sliceLimit e sp

/-- The first check of CSTART that fails. -/
def cstartFault (e : SEnv) (head ctl : Nat) : Option (Nat × Nat) :=
  let arr := ctl % 2 ^ 32
  let pred := ctl / 2 ^ 32
  if head % 64 ≠ 0 then some (tcMisaligned, head)
  else if e.k.pad < head + 64 then some (tcPermission, head)
  else if ctl = 0 then none
  else
    match (if arr = 0xFFFFFFFF then none else match arrivalPlace e.k e.cid e.crew.block arr with
      | .error c => some (c, arr)
      | .ok _ => none) with
    | some x => some x
    | none =>
      if pred = 0xFFFFFFFF then none
      else if pred % 8 ≠ 0 then some (tcMisaligned, pred)
      else if e.k.pad < pred + 8 then some (tcPermission, pred)
      else none

/-- CSTART (R213). -/
def sCstart (o : OpCstart) : SliceDef where
  legal _ := true
  uses _ := { ur := gRegs [o.gh, o.gc], uw := gRegs [o.gd] }
  waits e := decide (63 ≤ e.s.copies.length)
  body e :=
    let head := e.s.gn o.gh
    let ctl := e.s.gn o.gc
    match cstartFault e head ctl with
    | some (code, addr) => .error (sliceTrap code addr)
    | none =>
      let part (x : Nat) : Option Nat := if ctl = 0 ∨ x = 0xFFFFFFFF then none else some x
      let c : Copy :=
        { tag := e.s.seqno.toNat, elem := head, arrival := part (ctl % 2 ^ 32), predWord := part (ctl / 2 ^ 32) }
      let writesGlobal := decide (4 ≤ (elementOf (loadBytes e.r e.crew.block (.pad e.cid head) 64)).dsp)
      let r := if writesGlobal then openInterval e.r e.crew.block else e.r
      .ok { run := r.slice e.cid (fun s =>
        { (s.setG o.gd c.tag) with copies := s.copies ++ [c], seqno := s.seqno + 1 }) }
/-- CSTART issued. -/
def execCstart (o : OpCstart) (s : State) : Outcome := issueSlice (sCstart o) s

/-! ## Waiting for copies (R214) -/

/-- A word that waits for copies: it takes the fault of the first that is stopped, resumes one whose fault has been taken,
or holds. The numbers are those of the copies it waits for. -/
def meetCopies (e : SEnv) (is : List Nat) : SFlow :=
  let stopped := is.filter (fun i => match e.s.copies[i]? with
    | some c => c.fault.isSome
    | none => false)
  match stopped with
  | [] => { run := e.r, next := .stops .hold }
  | i :: _ =>
    match e.copy? i with
    | none => { run := e.r, next := .stops .hold }
    | some c =>
      if c.taken then { run := setCopy e.r e.cid i (fun c => { c with fault := none, taken := false }), next := .stops .hold }
      else
        let (code, addr) := c.fault.getD (0, 0)
        { run := setCopy e.r e.cid i (fun c => { c with taken := true }), next := .stops (sliceTrap code addr c.tag) }

/-- The outstanding copy with a tag. -/
def tagged (s : ASlice) (tag : Nat) : Option Nat := s.copies.findIdx? (fun c => c.tag == tag && !c.done)

/-- CWAIT (R214). -/
def sCwait (o : OpCwait) : SliceDef where
  legal _ := true
  uses _ := { ur := gRegs [o.ga] }
  body e := .ok (match tagged e.s (e.s.gn o.ga % 65536) with
    | none => { run := e.r }
    | some i => meetCopies e [i])
/-- CWAIT issued. -/
def execCwait (o : OpCwait) (s : State) : Outcome := issueSlice (sCwait o) s

/-- The result of CQUERY (R215). -/
def queryCopy (c : Copy) : Nat :=
  let written := min c.written (2 ^ 32 - 1) * 2 ^ 32
  match c.fault with
  | some (code, _) => written + code * 2 ^ 8 + 2
  | none => written + (if c.parked then 3 else 1)

/-- CQUERY (R215). -/
def sCquery (o : OpCquery) : SliceDef where
  legal _ := true
  uses _ := { ur := gRegs [o.ga], uw := gRegs [o.gd] }
  body e :=
    let x := match (tagged e.s (e.s.gn o.ga % 65536)).bind e.copy? with
      | none => 0
      | some c => queryCopy c
    .ok { run := e.r.slice e.cid (fun s => s.setG o.gd x) }
/-- CQUERY issued. -/
def execCquery (o : OpCquery) (s : State) : Outcome := issueSlice (sCquery o) s

/-- GWAITC (R220). -/
def sGwaitc (o : OpGwaitc) : SliceDef where
  legal _ := true
  body e :=
    if o.cls = 1 then (if counter e.s.ops .gld ≤ o.n then .ok { run := e.r } else .error .hold)
    else if e.s.copies.length ≤ o.n then .ok { run := e.r }
    else .ok (meetCopies e (List.range (e.s.copies.length - o.n)))
/-- GWAITC issued. -/
def execGwaitc (o : OpGwaitc) (s : State) : Outcome := issueSlice (sGwaitc o) s

/-- The queues of a crew whose address slice ends (R211). -/
def endSliceQueues (c : Crew) : Crew :=
  let step (p : Queue × Nat) : Queue :=
    if p.1.depth = 0 then p.1
    else if p.2 < 12 then { p.1 with closed := true }
    else { p.1 with entries := [], cend := true }
  { c with queues := c.queues.zipIdx.map step }

/-- GEXIT (R211). -/
def sGexit (_ : OpBare) : SliceDef where
  legal _ := true
  body e :=
    if e.s.copies ≠ [] then .ok (meetCopies e (List.range e.s.copies.length))
    else if counter e.s.ops .gld ≠ 0 then .error .hold
    else .ok { run := e.r.crew e.cid endSliceQueues, next := .ends }
/-- GEXIT issued. -/
def execGexit (o : OpBare) (s : State) : Outcome := issueSlice (sGexit o) s

/-! ## The engine's walk (R271 to R275) -/

/-- Who asks for translations when the engine works for a copy: each copy for itself. -/
def copyAsker (e : SEnv) (c : Copy) : Nat := asks e.tile (8 * (64 * e.cid + c.tag % 64) + 3)

/-- The 64 bytes of the element a copy reaches, with the tags of its four granules, or what stops it. -/
def readElement (e : SEnv) (c : Copy) : Except AccFault (List Byte × List Bool) :=
  if c.elemGlobal then
    match globalPlace e.m e.r (copyAsker e c) e.ctx c.elem needRd with
    | .error f => .error f
    | .ok p =>
      if poisonedSpan e.r p 64 then .error (.trap tcEcc c.elem)
      else .ok (loadBytes e.r e.crew.block p 64, (List.range 4).map (fun i =>
        onProtPage e.m e.r e.ctx c.elem && granuleTag e.r e.crew.block (p.add (16 * i))))
  else if e.k.pad < c.elem + 64 then .error (.trap tcPermission c.elem)
  else if poisonedSpan e.r (.pad e.cid c.elem) 64 then .error (.trap tcEcc c.elem)
  else .ok (loadBytes e.r e.crew.block (.pad e.cid c.elem) 64, [true, true, true, true])

/-- Whether the fields of an element keep R270 and R272. -/
def elementFieldsOk (prot : Bool) (x : Element) : Bool :=
  let field (sp v : Nat) : Bool := (prot && 3 ≤ sp) || v / 2 ^ 64 == 0
  glSpace x.ssp && glSpace x.dsp && field x.ssp x.src && field x.dsp x.dst &&
  (x.twoD || (x.rows == 0 && x.sstride == 0 && x.dstride == 0)) && decide (x.total < 2 ^ 32) &&
  (x.last || (if x.nglb then prot || x.next / 2 ^ 64 == 0 else x.next / 2 ^ 32 == 0))

/-- The check of R271 or R272 that an element fails, or none. -/
def elementFault (e : SEnv) (c : Copy) (x : Element) (tags : List Bool) : Option Nat :=
  let prot := isProt e.r e.ctx
  let tag (i : Nat) : Bool := tags.getD i false
  let next := if prot && x.nglb then capAddr x.next else x.next % 2 ^ 64
  let inside (sp v stride : Nat) : Bool := rowsInside (copyLimit e sp) sp (fieldAddr prot sp v) stride x.r x.count
  let may (i sp v stride perm : Nat) : Bool :=
    !prot || sp < 3 || rowsAllowed e.ctx (tag i) v perm sp stride x.r x.count
  if !elementFieldsOk prot x then some tcPermission
  else if !x.last && next % 64 != 0 then some tcMisaligned
  else if x.skipEn && c.predWord.isNone then some tcPermission
  else if !inside x.ssp x.src x.sstride || !inside x.dsp x.dst x.dstride then some tcPermission
  else if !may 0 x.ssp x.src x.sstride 3 || !may 1 x.dsp x.dst x.dstride 4 then some tcCapability
  else if prot && x.nglb && !x.last && !capPasses e.ctx (tag 3) x.next 3 next 64 then some tcCapability
  else none

/-- A copy stopped on a fault, with its cursor (R214). -/
def Copy.stop (c : Copy) (code : Nat) : Copy := { c with fault := some (code, c.elem), taken := false, ahead := [] }

/-- The copy moved on to its next element; after the last it waits for its completion (R273). -/
def Copy.advance (prot : Bool) (x : Element) (c : Copy) : Copy :=
  if x.last then c
  else { c with
    snapshot := none, prefixLen := 0, skip := false, ahead := [], elemGlobal := x.nglb
    elem := if x.nglb then (if prot then capAddr x.next else x.next % 2 ^ 64) else x.next % 2 ^ 32 }

/-- Whether a copy has delivered everything of its element. -/
def Copy.finished (c : Copy) : Bool := match c.snapshot with
  | some bs => c.skip || decide ((elementOf bs).total ≤ c.prefixLen)
  | none => false

/-- Whether the engine may work for a copy. -/
def Copy.runs (c : Copy) : Bool := !c.done && !c.parked && c.fault.isNone

/-- Whether a copy may not go on while the pad of its crew is away: where it stands, or where it goes next, touches the pad (R283). -/
def padCopy (c : Copy) : Bool :=
  c.predWord.isSome || (match c.arrival with
    | some o => o / 2 ^ 31 % 2 == 0
    | none => false) ||
  match c.snapshot with
  | none => !c.elemGlobal
  | some bs =>
    let x := elementOf bs
    x.ssp == 1 || x.dsp == 1 || (!x.last && !x.nglb)

/-- A copy parked at its cursor: what it has read ahead is read again (R283, R284). -/
def Copy.park (c : Copy) : Copy := { c with parked := true, ahead := [] }

/-- Whether a span of a context's scratchpad share touches a bank of some logical tiles (R244). -/
def banksMeet (tiles base lo n : Nat) (moved : Nat → Bool) : Bool :=
  let units := (lo + n + 65535) / 65536 - lo / 65536
  (List.range (min units tiles)).any (fun j => moved (scratchHome tiles base ((lo / 65536 + j) * 65536)).1)

/-- Whether the current element of a copy lies in a scratchpad bank of a tile that a pack-up of its partition moves (R283, R389). -/
def bankMoves (m : Mgmt) (r : Run) (ctx : Nat) (c : Copy) : Bool :=
  match Assoc.get? m.parts (partOf ctx), Assoc.get? r.contexts ctx, c.snapshot with
  | some q, some cx, some bs =>
    let x := elementOf bs
    let moved (t : Nat) : Bool := q.pack.any (fun k => k.affected.contains (q.tiles.getD t 0))
    let meets (sp v stride : Nat) : Bool :=
      sp == 3 && banksMeet q.tiles.length cx.spbase (fieldAddr cx.prot sp v) (stride * (x.r - 1) + x.count) moved
    q.pack.isSome && (meets x.ssp x.src x.sstride || meets x.dsp x.dst x.dstride)
  | _, _, _ => false

/-- A copy parked where it may not go on: one of a saved crew that has come to where it needs the pad, or one that has come to a bank that
a pack-up moves (R221, R283, R389). -/
def Copy.awayOf (m : Mgmt) (r : Run) (ctx : Nat) (status : CrewStatus) (c : Copy) : Copy :=
  if (status == .saved && padCopy c) || bankMoves m r ctx c then c.park else c

/-- A copy's engine at work: its owner, in a run where the crew lives, or where the copy of a killed crew delivers its last element
(R331). -/
def copyEnv (m : Mgmt) (r : Run) (cid i : Nat) : Option (SEnv × Copy) := do
  let e ← senv? m r cid
  let c ← e.copy? i
  if !c.runs || (e.crew.status == .ended && c.snapshot.isNone) then none else return (e, c)

/-- A copy taken out, as those of a killed crew go (R331). -/
def dropCopy (r : Run) (cid i : Nat) : Run := r.slice cid (fun s => { s with copies := s.copies.eraseIdx i })

/-- A copy that a fault stops: that of a killed crew goes (R214, R331). -/
def stopCopy (r : Run) (e : SEnv) (i code : Nat) : Run :=
  if e.crew.status = .ended then dropCopy r e.cid i else setCopy r e.cid i (·.stop code)

/-- The engine reaches the next element of a copy: it reads it whole, checks it and decides its skip (R271 to R275). -/
def reachElement (m : Mgmt) (r : Run) (cid i : Nat) : Run :=
  match copyEnv m r cid i with
  | none => r
  | some (e, c) =>
    if c.snapshot.isSome then r
    else
      let asker := copyAsker e c
      let r := spendKept r asker
      match readElement e c with
      | .error .held => r
      | .error (.hostMiss page need) => requestPage m r asker e.ctx page need
      | .error (.trap code _) => stopCopy (dropRefused r asker e.ctx (c.elem / 4096)) e i code
      | .ok (bs, tags) =>
        let x := elementOf bs
        match elementFault e c x tags with
        | some code => stopCopy r e i code
        | none =>
          let w := match c.predWord with
            | some o => loadNum r e.crew.block (.pad cid o) 8
            | none => 0
          let skip := x.skipEn && (bitOf w x.skipBit == x.skipPol)
          let r := if 4 ≤ x.dsp && !skip && x.total != 0 then openInterval r e.crew.block else r
          let c' := { c with snapshot := some bs, skip := skip, prefixLen := 0 }
          setCopy r cid i (fun _ =>
            (if c'.finished then c'.advance (isProt r e.ctx) x else c').awayOf m r e.ctx e.crew.status)

/-- The address of byte n of an operand of an element, and its place (R272). -/
def byteAddr (sp base stride count n : Nat) : Nat := rowAddr sp base stride (n / count) + n % count
def copyPlace (e : SEnv) (r : Run) (asker sp base stride count n need : Nat) : Except AccFault Place :=
  let a := byteAddr sp base stride count n
  if sp < 4 then localPlace e.m (slicePlace e sp a) else globalPlace e.m r asker e.ctx a need

/-- The addresses of byte n of an element's source and destination. -/
def Element.srcAddr (x : Element) (prot : Bool) (n : Nat) : Nat := byteAddr x.ssp (fieldAddr prot x.ssp x.src) x.sstride x.count n
def Element.dstAddr (x : Element) (prot : Bool) (n : Nat) : Nat := byteAddr x.dsp (fieldAddr prot x.dsp x.dst) x.dstride x.count n

/-- The digest term of the destination word a copy has written, folded when the word is left (R316). -/
def flushWord (e : SEnv) (r : Run) (i : Nat) : Run :=
  match (Assoc.get? r.crews e.cid).bind (fun c => c.aslice.copies[i]?) with
  | none => r
  | some c =>
    if c.partMask = 0 then r
    else
      let r := if e.g.det = 0 then r
        else r.block e.crew.block (fun b =>
          let ord := 2 ^ 63 + c.tag * 2 ^ 32 + c.words
          { b with digest := digestAdd e.g.detkey0 e.g.detkey1 b.digest c.partWord c.partData (128 + c.partMask) e.thread ord })
      setCopy r e.cid i (fun c => { c with partMask := 0, partData := 0, words := c.words + 1 })

/-- One byte noted in the destination word that it falls in; a byte of that word written anew, by another row, begins the word's next
term (R316). -/
def noteByte (e : SEnv) (r : Run) (i sp a : Nat) (b : Byte) : Run :=
  let word := sp * 2 ^ 57 + a / 8 * 8
  let here := match (Assoc.get? r.crews e.cid).bind (fun c => c.aslice.copies[i]?) with
    | some c => c.partMask == 0 || (c.partWord == word && !bitOf c.partMask (a % 8))
    | none => true
  let r := if here then r else flushWord e r i
  setCopy r e.cid i (fun c =>
    { c with partWord := word, partMask := c.partMask ||| 2 ^ (a % 8), partData := c.partData + b.toNat * 2 ^ (8 * (a % 8)) })

/-- A place's word as poisoned as the byte moved into it (R395): clean bytes clear it only when they cover it. -/
def carryPoison (r : Run) (bad : Bool) (dst : Place) (covers : Bool) : Run :=
  if bad then { r with poison := setInsert r.poison (dst.key / 8) }
  else if covers then { r with poison := setErase r.poison (dst.key / 8) }
  else r

/-- How far an element has been delivered: the run, the bytes delivered, and the source bytes read ahead of them. -/
structure Moved where
  run : Run
  n : Nat
  ahead : List (Byte × Bool)

/-- The bytes of an element from byte n on that lie in one aligned 4-byte source word, and so are read at once (R274). -/
def sourceWord (x : Element) (prot : Bool) (n : Nat) : List Nat :=
  ((List.range 4).map (n + ·)).takeWhile (fun k => decide (k < x.total) && x.srcAddr prot k / 4 == x.srcAddr prot n / 4)

/-- Whether an event may end before byte n: no aligned 4-byte destination word is left half written (R257, R274). -/
def Element.cutAt (x : Element) (prot : Bool) (n : Nat) : Bool :=
  decide (x.total ≤ n) || x.dstAddr prot n / 4 != x.dstAddr prot (n - 1) / 4

/-- One byte of an element delivered, its source word read first where it begins one (R272, R274). -/
def copyByte (e : SEnv) (x : Element) (asker i : Nat) (d : Moved) : Except AccFault Moved :=
  let prot := isProt d.run e.ctx
  match copyPlace e d.run asker x.ssp (fieldAddr prot x.ssp x.src) x.sstride x.count d.n needRd,
    copyPlace e d.run asker x.dsp (fieldAddr prot x.dsp x.dst) x.dstride x.count d.n needWr with
  | .error f, _ => .error f
  | _, .error f => .error f
  | .ok s, .ok t =>
    let read (k : Nat) : Byte × Bool :=
      let p := (copyPlace e d.run asker x.ssp (fieldAddr prot x.ssp x.src) x.sstride x.count k needRd).toOption.getD s
      (loadByte d.run e.crew.block p, poisoned d.run p)
    let bytes := if d.ahead = [] then (sourceWord x prot d.n).map read else d.ahead
    let b := bytes.headD (0, false)
    let covers := decide (7 ≤ d.n % x.count) && t.key % 8 == 7
    let r := carryPoison (rawStore (markShadow d.run t) t b.1) b.2 t covers
    .ok { run := noteByte e r i x.dsp (x.dstAddr prot d.n) b.1, n := d.n + 1, ahead := bytes.drop 1 }

/-- Bytes of an element delivered in ascending index until a wanted number of them is, and no word is half written; or as far as a fault
lets whole words go, with the fault. The second of the two is where the last whole word ended. -/
def deliver (e : SEnv) (x : Element) (asker i want : Nat) : Nat → Moved → Moved → Moved × Option AccFault
  | 0, d, _ => (d, none)
  | k + 1, d, whole =>
    let prot := isProt d.run e.ctx
    if decide (want ≤ d.n) && x.cutAt prot d.n then (d, none)
    else match copyByte e x asker i d with
      | .error f => (whole, some f)
      | .ok d => deliver e x asker i want k d (if x.cutAt prot d.n then d else whole)

/-- Bytes counted into a copy's arrival word (R274, R277). -/
def countBytes (e : SEnv) (r : Run) (c : Copy) (n : Nat) : Run :=
  match c.arrival with
  | none => r
  | some off =>
    match arrivalPlace e.k e.cid e.crew.block off with
    | .error _ => r
    | .ok p => if n = 0 then r else arrive r e.crew.block p n

/-- A copy whose element has been delivered to byte p, with what it has read ahead. -/
def Copy.reach (prot : Bool) (x : Element) (p : Nat) (ahead : List (Byte × Bool)) (c : Copy) : Copy :=
  let c := { c with prefixLen := p, ahead := ahead, written := c.written + (p - c.prefixLen) }
  if c.finished then c.advance prot x else c

/-- The engine delivers and counts n further bytes of a copy's element, at least one, and the rest of the word in which the last lies
(R274, R277, R284). A copy of a killed crew counts nothing and goes once its element is delivered (R331). -/
def deliverBytes (m : Mgmt) (r : Run) (cid i n : Nat) : Run :=
  match copyEnv m r cid i with
  | none => r
  | some (e, c) =>
    match c.snapshot with
    | none => r
    | some bs =>
      let x := elementOf bs
      if c.finished then r
      else
        let asker := copyAsker e c
        let dead := e.crew.status == .ended
        let start : Moved := { run := spendKept r asker, n := c.prefixLen, ahead := c.ahead }
        let (d, stop) := deliver e x asker i (min (c.prefixLen + max 1 n) x.total) (x.total - c.prefixLen) start start
        let r := if d.n = x.total then flushWord e d.run i else d.run
        let r := if dead then r else countBytes e r c (d.n - c.prefixLen)
        let r := setCopy r cid i (fun y => (y.reach (isProt r e.ctx) x d.n d.ahead).awayOf m r e.ctx e.crew.status)
        match stop with
        | some .held => r
        | none => if dead && d.n == x.total then dropCopy r cid i else r
        | some (.hostMiss page need) => requestPage m r asker e.ctx page need
        | some (.trap code va) => stopCopy (dropRefused r asker e.ctx (va / 4096)) e i code

/-- A copy whose last element is delivered completes and retires (R273). -/
def completeCopy (m : Mgmt) (r : Run) (cid i : Nat) : Run :=
  match copyEnv m r cid i with
  | none => r
  | some (_, c) =>
    if c.finished then settleCopies (setCopy r cid i (fun c => { c with done := true })) cid else r

/-- COPY_ELEMENT_REACH: copy n of a crew. -/
def execCopyElementReach (s : State) : Outcome := happen s (fun a => reachElement s.mgmt s.run a.crew a.n)
/-- COPY_ARRIVAL: copy n of a crew, up to value bytes. -/
def execCopyArrival (s : State) : Outcome := happen s (fun a => deliverBytes s.mgmt s.run a.crew a.n a.value)
/-- COPY_COMPLETION: copy n of a crew. -/
def execCopyCompletion (s : State) : Outcome := happen s (fun a => completeCopy s.mgmt s.run a.crew a.n)

end Sys2Proof.Machine
end

