-- ==== Sys2Proof/Machine/VecLane.lean ====
section
/-! DEFINITION. The words that read other lanes, special registers, or registers by a run-time index, and the table byte
tools (R106, R122 to R130). -/

namespace Sys2Proof.Machine

/-- Results written in the active lanes with no flag, a queue popped once. -/
def writePlain (e : Env) (wide : Bool) (d : Nat) (pop : Option Nat) (f : Nat → Nat) : Run :=
  (popQueue e.r e.cid pop).warp e.cid e.wi (fun w => e.lanes.foldl (fun w l => w.setVW wide l d (f l)) w)

/-- Vector register n of a lane as a lane reads it that need not be its own: an exited thread keeps no state to read, so what its lane
gives is open (R136; log 46). -/
def Env.other (e : Env) (l n : Nat) : Word := if e.w.exited.getLsbD l then Config.goneReg e.r.free (32 * n + l) else e.w.v l n

/-- The index of free values spent by a word that may have read the lane of an exited thread. -/
def Env.spent (e : Env) (r : Run) : Run := if e.w.exited = 0 then r else { r with free := r.free + 1 }

/-- The control value of SHFL: a uniform register, or the immediate with B zero (R122). -/
def shflControl (e : Env) (o : OpSH) : Nat :=
  if e.b.hints.imm? then e.b.hints.immValue else (e.w.u (e.w.uIdx o.b)).toNat

/-- SHFL (R122). -/
def wShfl (o : OpSH) : WordDef where
  bd := o.bd
  legal e := ({ imm := true, xa := true, keep := true } : HintSet).ok e.b.hints && (!e.b.hints.imm? || o.b == 0)
  uses e :=
    { vr := [o.a + 128 * e.xa], vw := [o.d], ur := if e.b.hints.imm? then [] else [e.w.uIdx o.b] }
  body e :=
    let c := shflControl e o
    let w := 2 ^ (5 - bits c 7 5)
    let src := o.a + 128 * e.xa
    .ok { run := e.spent (writePlain e false o.d none (fun l =>
      let (t, inside) := shflTarget o.md (l % w) (bits c 4 0) w
      let sb := l - l % w
      if inside then (e.other (sb + t.toNat) src).toNat
      else match bits c 9 8 with
        | 1 => 0
        | 2 => (e.other (sb + (t % w).toNat) src).toNat
        | _ => (e.w.v l src).toNat)) }
/-- SHFL issued. -/
def execShfl (o : OpSH) (s : State) : Outcome := issue (wShfl o) s

/-- The active lanes of the segment of w lanes that holds lane l (R123). -/
def segLanes (e : Env) (w l : Nat) : List Nat := e.lanes.filter (fun j => j / w == l / w)

/-- A vote into a predicate (R123). -/
def voteDef (o : OpVote) (f : List Bool → Bool) : WordDef where
  bd := o.bd
  legal e := ({ keep := true } : HintSet).ok e.b.hints && decide (o.seg ≤ 5)
  uses _ := { pr := [o.a], pw := [o.d] }
  body e :=
    .ok { run := e.r.warp e.cid e.wi (fun w => w.setPredMask o.d e.active (maskOf (e.lanes.filter (fun l =>
      f ((segLanes e (2 ^ (5 - o.seg)) l).map (fun j => e.w.p j o.a)))))) }

/-- VOTE.ALL (R123). -/
def wVoteAll (o : OpVote) : WordDef := voteDef o (fun bs => bs.all id)
/-- VOTE.ALL issued. -/
def execVoteAll (o : OpVote) (s : State) : Outcome := issue (wVoteAll o) s
/-- VOTE.ANY (R123). -/
def wVoteAny (o : OpVote) : WordDef := voteDef o (fun bs => bs.any id)
/-- VOTE.ANY issued. -/
def execVoteAny (o : OpVote) (s : State) : Outcome := issue (wVoteAny o) s
/-- VOTE.EQ (R123). -/
def wVoteEq (o : OpVote) : WordDef := voteDef o (fun bs => bs.all id || bs.all (fun b => !b))
/-- VOTE.EQ issued. -/
def execVoteEq (o : OpVote) (s : State) : Outcome := issue (wVoteEq o) s

/-- BALLOT (R123). -/
def wBallot (o : OpBallot) : WordDef where
  bd := o.bd
  legal e := ({ keep := true } : HintSet).ok e.b.hints && decide (o.seg ≤ 5)
  uses _ := { pr := [o.a], vw := [o.d] }
  body e :=
    let w := 2 ^ (5 - o.seg)
    .ok { run := writePlain e false o.d none (fun l =>
      ((segLanes e w l).map (fun j => b2n (e.w.p j o.a) * 2 ^ (j % w))).sum) }
/-- BALLOT issued. -/
def execBallot (o : OpBallot) (s : State) : Outcome := issue (wBallot o) s

/-- The values of a list joined by one of the reductions of REDUX (R124). -/
def reduceList (op : Nat) : List Nat → Nat
  | [] => 0
  | [x] => x
  | x :: xs => reduxOp op x (reduceList op xs)

/-- REDUX (R124). -/
def wRedux (o : OpRedux) : WordDef where
  bd := o.bd
  legal e := ({ keep := true } : HintSet).ok e.b.hints && decide (o.seg ≤ 5)
  uses _ := { vr := [o.a], vw := [o.d] }
  body e :=
    .ok { run := writePlain e false o.d none (fun l =>
      reduceList o.op ((segLanes e (2 ^ (5 - o.seg)) l).map (fun j => (e.w.v j o.a).toNat))) }
/-- REDUX issued. -/
def execRedux (o : OpRedux) (s : State) : Outcome := issue (wRedux o) s

/-- BCAST (R125): the lane that the uniform operand names, read by every active lane. -/
def wBcast (o : OpV) : WordDef where
  bd := o.bd
  legal e :=
    ({ imm := o.fm == 2, xa := true, keep := true } : HintSet).ok e.b.hints && fmLegal e o.fm o.b e.xb false &&
    o.fm != 0 && !(o.fm == 3 && isVecQueue o.b)
  uses e := { vr := [o.a + 128 * e.xa], vw := [o.d], ur := fmUnis e o.fm o.b false }
  pops _ := fmPops o.fm o.b
  body e :=
    .ok { run := e.spent (writePlain e false o.d (fmPops o.fm o.b) (fun l =>
      (e.other (fmValue e o.fm o.b 0 .int false l % 32) (o.a + 128 * e.xa)).toNat)) }
/-- BCAST issued. -/
def execBcast (o : OpV) (s : State) : Outcome := issue (wBcast o) s

/-- LANEX (R125): each active lane names the lane it reads, of a register or of a vector queue's entry. -/
def wLanex (o : OpV) : WordDef where
  bd := o.bd
  legal e :=
    ({ xa := true, xb := o.fm == 0, keep := true } : HintSet).ok e.b.hints && fmLegal e o.fm o.b e.xb false &&
    (o.fm == 0 || (o.fm == 3 && isVecQueue o.b))
  uses e := { vr := (o.a + 128 * e.xa) :: fmVecs o.fm o.b e.xb false, vw := [o.d] }
  pops _ := fmPops o.fm o.b
  body e :=
    .ok { run := e.spent (writePlain e false o.d (fmPops o.fm o.b) (fun l =>
      let t := (e.w.v l (o.a + 128 * e.xa)).toNat % 32
      if o.fm = 0 then (e.other t (o.b + 128 * e.xb)).toNat else fmValue e o.fm o.b e.xb .int false t)) }
/-- LANEX issued. -/
def execLanex (o : OpV) (s : State) : Outcome := issue (wLanex o) s

/-! ## Special registers (R28, R29) -/

/-- The number of presented cores of a tile (R2). -/
def coresOf (m : Mgmt) (t : Nat) : List Nat := match Assoc.get? m.tiles t with
  | some x => x.cores
  | none => List.range 22

/-- The logical tile number of a tile in a partition (R2). -/
def logicalTile (p : Part) (t : Nat) : Nat := p.tiles.idxOf t

/-- The logical core number of a core in a partition (R2). -/
def logicalCore (m : Mgmt) (p : Part) (core : Nat) : Nat :=
  ((p.tiles.take (logicalTile p (core / 24))).map (fun t => (coresOf m t).length)).sum +
    (coresOf m (core / 24)).idxOf (core % 24)

/-- The special registers that both slices read, but the two counters (R28): crew index, block, grid and core. -/
def sharedSpecial (m : Mgmt) (r : Run) (c : Crew) (b : Block) (g : Grid) (code : Nat) : Nat :=
  let part := (Assoc.get? m.parts (partOf g.ctx)).getD {}
  match code with
  | 0x02 => c.idx
  | 0x03 => b.lin % g.nbx
  | 0x04 => b.lin / g.nbx % g.nby
  | 0x05 => b.lin / (g.nbx * g.nby)
  | 0x06 => g.nbx
  | 0x07 => g.nby
  | 0x08 => g.nbz
  | 0x09 => c.core / 24
  | 0x0A => c.core % 24
  | 0x0B => logicalCore m part c.core
  | 0x0C => logicalTile part (c.core / 24)
  | 0x10 => (r.coreSt c.core).mxgov.toNat
  | 0x11 => g.ctx % 64
  | 0x12 => partOf g.ctx
  | _ => 0

/-- %clock or %refc sampled once, and the state in which the counter has reached the sample (R6, R126). -/
def sampleCounter (r : Run) (core code : Nat) : Run × Nat :=
  if code = 0x0D then
    let (i, r) := r.draw
    let r := r.core core (fun k => { k with clock := k.clock + Config.elapsed i })
    (r, (r.coreSt core).clock.toNat)
  else if code = 0x0E then
    let r := r.sampleRefc (core / 24)
    (r, (r.tileSt (core / 24)).refc.toNat)
  else (r, 0)

/-- Bit k set when the thread is a member of team k (R28 %team). -/
def teamBits (b : Block) (wkey l : Nat) : Nat :=
  gatherBits 16 1 (fun k => b2n ((rdReg b.teams (k * 512 + wkey)).getLsbD l))

/-- The value of a special register in a lane, given the sample of the counters (R28). -/
def specialLane (e : Env) (code sample l : Nat) : Nat :=
  match code with
  | 0x00 => l
  | 0x01 => e.wi
  | 0x0D => sample
  | 0x0E => sample
  | 0x0F => (e.w.afl l).toNat
  | 0x13 => (e.w.lnk l).toNat
  | 0x14 => teamBits e.blk e.wkey l
  | _ => sharedSpecial e.m e.r e.crew e.blk e.g code

/-- SREAD (R126). -/
def wSread (o : OpSR) : WordDef where
  bd := o.bd
  legal e :=
    ({ mod := true, keep := true } : HintSet).ok e.b.hints && ({ w64 := true } : Accept).allows e.mods &&
    decide (o.code ≤ 0x14) && (!e.wide || o.d % 2 == 0)
  uses e := { vw := pair e.wide o.d, afl := o.code == 0x0F, lnk := o.code == 0x13 }
  body e :=
    let (r, x) := sampleCounter e.r e.crew.core o.code
    .ok { run := r.warp e.cid e.wi (fun w =>
      e.lanes.foldl (fun w l => w.setVW e.wide l o.d (specialLane e o.code x l)) w) }
/-- SREAD issued. -/
def execSread (o : OpSR) (s : State) : Outcome := issue (wSread o) s

/-! ## Register indexing (R127) -/

/-- The run-time index of VGETI and VPUTI, when its queue has shown it. -/
def indexRegs (e : Env) (fm b : Nat) : List Nat :=
  if fm = 3 then match (e.crew.queue (b % 16)).head with
    | .entry _ => [fmValue e fm b 0 .int false 0]
    | _ => []
  else [fmValue e fm b 0 .int false 0]

/-- The operand rules of VGETI and VPUTI (R127). -/
def indexLegal (e : Env) (fm b : Nat) : Bool :=
  fmLegal e fm b 0 false && fm != 0 && !(fm == 3 && isVecQueue b)

/-- VGETI (R127). -/
def wVgeti (o : OpVgeti) : WordDef where
  bd := o.bd
  legal e := ({ imm := o.fm == 2, ext := true, keep := true } : HintSet).ok e.b.hints && indexLegal e o.fm o.b
  uses e := { vr := indexRegs e o.fm o.b, vw := [o.d], ur := fmUnis e o.fm o.b false }
  pops _ := fmPops o.fm o.b
  body e :=
    .ok { run := writePlain e false o.d (fmPops o.fm o.b) (fun l => (e.w.v l (fmValue e o.fm o.b 0 .int false 0)).toNat) }
/-- VGETI issued. -/
def execVgeti (o : OpVgeti) (s : State) : Outcome := issue (wVgeti o) s

/-- VPUTI (R127). -/
def wVputi (o : OpVputi) : WordDef where
  bd := o.bd
  legal e := ({ imm := o.fm == 2, xa := true, keep := true } : HintSet).ok e.b.hints && indexLegal e o.fm o.b
  uses e := { vr := [o.a + 128 * e.xa], vw := indexRegs e o.fm o.b, ur := fmUnis e o.fm o.b false }
  pops _ := fmPops o.fm o.b
  body e :=
    .ok { run := writePlain e false (fmValue e o.fm o.b 0 .int false 0) (fmPops o.fm o.b)
                      (fun l => (e.w.v l (o.a + 128 * e.xa)).toNat) }
/-- VPUTI issued. -/
def execVputi (o : OpVputi) (s : State) : Outcome := issue (wVputi o) s

/-! ## Table and stream byte tools (R129, R130) -/

/-- Whether the table operand of NLUTL and NLUTH is well formed (R129). -/
def tableLegal (e : Env) (o : OpV) : Bool :=
  ({ xa := true, xb := o.fm == 0, keep := true } : HintSet).ok e.b.hints &&
  (match o.fm with
    | 0 => o.b % 4 == 0
    | 1 => e.w.uIdx o.b % 4 == 0
    | _ => false)

/-- Byte n of the 16-byte table in a lane (R129). -/
def tableByte (e : Env) (o : OpV) (l n : Nat) : Nat :=
  let x := if o.fm = 0 then e.w.v l (o.b + 128 * e.xb + n / 4) else e.w.u (e.w.uIdx o.b + n / 4)
  byteOf x.toNat (n % 4)

/-- A table look-up by the low or high nibble (R129). -/
def nlutDef (o : OpV) (high : Bool) : WordDef where
  bd := o.bd
  legal e := tableLegal e o
  uses e :=
    { vr := (o.a + 128 * e.xa) :: (if o.fm = 0 then vRegs (o.b + 128 * e.xb) 4 else []), vw := [o.d],
      ur := if o.fm = 1 then uRegs e o.b 4 else [] }
  body e :=
    .ok { run := writePlain e false o.d none (fun l =>
      lutBytes high (tableByte e o l) (e.w.v l (o.a + 128 * e.xa)).toNat) }

/-- NLUTL (R129). -/
def wNlutl (o : OpV) : WordDef := nlutDef o false
/-- NLUTL issued. -/
def execNlutl (o : OpV) (s : State) : Outcome := issue (wNlutl o) s
/-- NLUTH (R129). -/
def wNluth (o : OpV) : WordDef := nlutDef o true
/-- NLUTH issued. -/
def execNluth (o : OpV) (s : State) : Outcome := issue (wNluth o) s

/-- PREVB (R130). -/
def wPrevb (o : OpV) : WordDef where
  bd := o.bd
  legal e :=
    ({ imm := o.fm == 2, xa := true, xb := o.fm == 0, keep := true } : HintSet).ok e.b.hints &&
    fmLegal e o.fm o.b e.xb false
  uses e :=
    { vr := [o.a + 128 * e.xa, o.d] ++ fmVecs o.fm o.b e.xb false, vw := [o.d], ur := fmUnis e o.fm o.b false }
  pops _ := fmPops o.fm o.b
  body e :=
    .ok { run := e.spent (writePlain e false o.d (fmPops o.fm o.b) (fun l =>
      let n := fmValue e o.fm o.b e.xb .int false l % 4
      gatherBytes 4 (fun i =>
        if n ≤ 4 * l + i then byteOf (e.other ((4 * l + i - n) / 4) (o.a + 128 * e.xa)).toNat ((4 * l + i - n) % 4)
        else byteOf (e.other ((128 + 4 * l + i - n) / 4) o.d).toNat ((128 + 4 * l + i - n) % 4)))) }
/-- PREVB issued. -/
def execPrevb (o : OpV) (s : State) : Outcome := issue (wPrevb o) s

end Sys2Proof.Machine
end

