-- ==== Sys2Proof/Machine/SliceSys.lean ====
section
/-! DEFINITION. Rings, synchronisation and system words of the address slice (R216 to R220). -/

namespace Sys2Proof.Machine

/-! ## Rings (R216) -/

/-- The ring header that bits 31:0 of a register name, or the stop. -/
def sliceRing (e : SEnv) (gh : Nat) : Except Stop RingHdr :=
  let off := e.s.gn gh % 2 ^ 32
  match ringHeader e.r e.k e.crew.block e.cid off with
  | .error c => .error (sliceTrap c.1 c.2)
  | .ok h => .ok h

/-- RFREE (R216). -/
def sRfree (o : OpGR) : SliceDef where
  legal _ := true
  uses _ := { ur := gRegs [o.gh], uw := gRegs [o.gd] }
  body e := do
    let h ← sliceRing e o.gh
    if h.state e.r e.crew.block e.cid h.widx ≠ 0 then .error .hold
    return { run := e.r.slice e.cid (fun s => s.setG o.gd (h.data + h.widx * h.slotsz + h.widx * 2 ^ 32)) }
/-- RFREE issued. -/
def execRfree (o : OpGR) (s : State) : Outcome := issueSlice (sRfree o) s

/-- RARM (R216). -/
def sRarm (o : OpRarm) : SliceDef where
  legal _ := true
  uses _ := { ur := gRegs [o.gh, o.gb], uw := gRegs [o.gd] }
  body e := do
    let h ← sliceRing e o.gh
    let target := e.s.gn o.gb
    if h.slotsz < target ∨ h.state e.r e.crew.block e.cid h.widx ≠ 0 then .error (sliceTrap tcIllegal)
    let p := h.word e.cid h.widx
    let r := storeBytes e.r e.crew.block p (toBytes 4 (if target = 0 then h.slotsz else target) ++ toBytes 4 0)
    let r := h.setState r e.crew.block e.cid h.widx 1
    let r := storeNum r e.crew.block (.pad e.cid (e.s.gn o.gh % 2 ^ 32 + 2)) 1 ((h.widx + 1) % h.slots)
    return { run := r.slice e.cid (fun s => s.setG o.gd (h.awarr + 16 * h.widx)) }
/-- RARM issued. -/
def execRarm (o : OpRarm) (s : State) : Outcome := issueSlice (sRarm o) s

/-- RPEEK (R216). -/
def sRpeek (o : OpGR) : SliceDef where
  legal _ := true
  uses _ := { ur := gRegs [o.gh], uw := gRegs [o.gd] }
  body e := do
    let h ← sliceRing e o.gh
    let x := h.ridx + 2 ^ 8 * h.widx + 2 ^ 16 * h.inState e.r e.crew.block e.cid 2 + 2 ^ 24 * h.slots +
      2 ^ 32 * h.inState e.r e.crew.block e.cid 1
    return { run := e.r.slice e.cid (fun s => s.setG o.gd x) }
/-- RPEEK issued. -/
def execRpeek (o : OpGR) (s : State) : Outcome := issueSlice (sRpeek o) s

/-! ## Synchronisation (R217, R218) -/

/-- GFENCE (R217): kinds acq, ar and sc hold until the slice's earlier loads have completed; every store of the model is
performed when it issues (log 1), but for what synonyms may still show (R259). -/
def sGfence (o : OpFence) : SliceDef where
  legal _ := decide (o.scope ≤ 4)
  waits e := o.kind != 1 && counter e.s.ops .gld != 0
  body e :=
    let r := if 2 ≤ o.scope then openInterval e.r e.crew.block else e.r
    .ok { run := if 1 ≤ o.scope then fenceSynonyms r e.cid (· == sliceParty) else r }
/-- GFENCE issued. -/
def execGfence (o : OpFence) (s : State) : Outcome := issueSlice (sGfence o) s

/-- GARRIVE (R218). -/
def sGarrive (o : OpGarrive) : SliceDef where
  legal _ := o.cnt != 0
  uses _ := { ur := gRegs [o.ga] }
  body e :=
    let off := e.s.gn o.ga % 2 ^ 32
    match arrivalPlace e.k e.cid e.crew.block off with
    | .error c => .error (sliceTrap c off)
    | .ok p => .ok { run := arrive e.r e.crew.block p o.cnt }
/-- GARRIVE issued. -/
def execGarrive (o : OpGarrive) (s : State) : Outcome := issueSlice (sGarrive o) s

/-- GMWAIT (R218). -/
def sGmwait (o : OpGmwait) : SliceDef where
  legal _ := decide (o.scope ≤ 4) && (o.acq == 1 || o.scope == 0)
  uses _ := { ur := gRegs [o.ga, o.gv] }
  body e :=
    if e.s.wait == .pass then .ok { run := e.r }
    else
      let n := if o.w = 1 then 8 else 4
      let va := e.s.gn o.ga
      if va % n ≠ 0 then .error (sliceTrap tcMisaligned va)
      else
        match globalPlace e.m e.r e.asker e.ctx va needRd with
        | .error f => .error f.sliceStop
        | .ok p =>
          let v := e.s.gn o.gv % 2 ^ (8 * n)
          if loadNum e.r e.crew.block p n = v then
            .ok { run := e.r, next := .stay (.monitor va v n) }
          else .ok { run := e.r }
/-- GMWAIT issued. -/
def execGmwait (o : OpGmwait) (s : State) : Outcome := issueSlice (sGmwait o) s

/-! ## GSYS (R220) -/

/-- GNOP. -/
def sGnop : SliceDef where
  plain := true
  legal _ := true
  body e := .ok { run := e.r }
/-- GNOP issued. -/
def execGnop (s : State) : Outcome := issueSlice sGnop s

/-- GTRAP: the trap is taken after the word. -/
def sGtrap (o : OpCode) : SliceDef where
  imm := true
  legal e := !e.hints.imm? || o.code == 0
  body e :=
    let code := if e.hints.imm? then e.hints.immValue else o.code
    .ok { run := e.r, next := .trapAfter { code := tcSoftware, info0 := code } }
/-- GTRAP issued. -/
def execGtrap (o : OpCode) (s : State) : Outcome := issueSlice (sGtrap o) s

/-- The special registers that the compute slice alone reads (R28). -/
def computeOnly (code : Nat) : Bool := [0x00, 0x01, 0x0F, 0x13, 0x14].contains code

/-- GSREAD (R28, R220). -/
def sGsread (o : OpGsread) : SliceDef where
  legal _ := decide (o.code ≤ 0x14) && !computeOnly o.code
  uses _ := { uw := gRegs [o.gd] }
  body e :=
    let (r, x) := sampleCounter e.r e.crew.core o.code
    let v := if o.code = 0x0D ∨ o.code = 0x0E then x else sharedSpecial e.m e.r e.crew e.blk e.g o.code
    .ok { run := r.slice e.cid (fun s => s.setG o.gd v) }
/-- GSREAD issued. -/
def execGsread (o : OpGsread) (s : State) : Outcome := issueSlice (sGsread o) s

/-- GYIELD (R220, R234). -/
def sGyield (_ : OpBare) : SliceDef where
  legal _ := true
  body e := .ok { run := e.r.slice e.cid (fun s => { s with yielded := true }) }
/-- GYIELD issued. -/
def execGyield (o : OpBare) (s : State) : Outcome := issueSlice (sGyield o) s

end Sys2Proof.Machine
end

