-- ==== Sys2Proof/Machine/Complete.lean ====
section
/-! DEFINITION. Completions of loads, stores, atomics, queue fills, GATHER, CREDUCE and watched words (R25, R160, R163, R172,
R173, R185, R202, R204). -/

namespace Sys2Proof.Machine

/-! ## An operation that completes (R25) -/

/-- The operations after one of them has completed: those that can retire leave. -/
def completeOp (ops : List PendOp) (id : Nat) : List PendOp :=
  retire (ops.map (fun (o : PendOp) => if o.id = id then { o with done := true } else o))

/-- Operation id of a warp, if it is outstanding, has not failed and is of the class given. -/
def warpOp (r : Run) (cid wi id : Nat) (c : OpClass) : Option PendOp := do
  let x ← Assoc.get? r.crews cid
  let w ← x.warps[wi]?
  w.ops.find? (fun o => o.id == id && o.cls == c && !o.done && !o.failed)

/-- Operation id of an address slice, if it is outstanding, has not failed and is of the class given. -/
def sliceOp (r : Run) (cid id : Nat) (c : OpClass) : Option PendOp := do
  let x ← Assoc.get? r.crews cid
  x.aslice.ops.find? (fun o => o.id == id && o.cls == c && !o.done && !o.failed)

/-- An operation of a warp completed with a change to the warp; a warp whose threads have ended may end (R136). -/
def finishWarpOp (m : Mgmt) (r : Run) (cid wi id : Nat) (f : Warp → Warp) : Run :=
  settleWarp m (r.warp cid wi (fun w =>
    let w := f w
    { w with ops := completeOp w.ops id })) cid wi

/-- An operation of an address slice completed with a change to the slice. -/
def finishSliceOp (r : Run) (cid id : Nat) (f : ASlice → ASlice) : Run :=
  r.slice cid (fun s =>
    let s := f s
    { s with ops := completeOp s.ops id })

/-- The physical tile of a crew. -/
def crewTile (r : Run) (cid : Nat) : Nat := match Assoc.get? r.crews cid with
  | some c => c.core / 24
  | none => 0

/-- The context of a crew. -/
def crewCtx (r : Run) (cid : Nat) : Nat :=
  match (Assoc.get? r.crews cid).bind (fun c => Assoc.get? r.blocks c.block) with
  | some b => match Assoc.get? r.grids b.grid with
    | some g => g.ctx
    | none => 0
  | none => 0

/-! ## Long-latency words that have failed (R64) -/

/-- A warp whose failed word takes its trap: the lanes of the word have left their batches and stand at the word, with what they
have issued since to pass over. -/
def Warp.backTo (w : Warp) (id la : Nat) (lanes : Mask) (b : Batch) : Warp :=
  let ps := lanePasses w.batches w.windows w.ops id la lanes
  let here := ps.foldl (fun m p => m ||| p.2.lanes) 0#32
  let x := dropLate w.ops w.windows id lanes ps
  let rest := (w.batches.map (fun b => b.only (b.lanes &&& ~~~here))).filter (fun b => b.lanes != 0#32)
  let rest := rest.map (fun b => match b.wait with
    | .behind _ => { b with wait := .none }
    | _ => b)
  { w with ops := x.1, windows := x.2,
           batches := rest ++ [{ b with lanes := here, wait := .none, replay := ps.map (·.2) }] }

/-- The quadrant of a warp issues none of these lanes any more. -/
def stopLanes (r : Run) (cid wi : Nat) (c : Crew) (w : Warp) (lanes : Mask) : Run :=
  match Assoc.get? (r.coreSt c.core).running w.quad with
  | some (x, y, lead) =>
    if x = cid ∧ y = wi ∧ (w.batch? lead).any (fun b => b.lanes &&& lanes != 0#32) then stopRunning r c.core w.quad else r
  | none => r

/-- Whether no batch of some lanes waits in place for what it has recorded: each follower that has issued has finished (R64). -/
def settled (bs : List Batch) (lanes : Mask) : Bool :=
  bs.all (fun b => b.lanes &&& lanes == 0#32 || match b.wait with
    | .none | .behind _ | .page | .merged => true
    | _ => false)

/-- Whether the trap of a failed word of a warp may be taken now: the issued followers have finished (R64). -/
def Warp.lateReady (w : Warp) (o : PendOp) : Bool := match o.data with
  | .late lanes _ _ _ _ => lateDue w.windows w.ops o.id lanes && settled w.batches lanes
  | _ => false

/-- The trap of a failed word of a warp, once its followers have finished: its PC is the word (R64). In a warp that stands stopped
on the record of another trap it is not reported, and the word executes again after the resume (R329; log 6). -/
def failLate (m : Mgmt) (r : Run) (cid wi id : Nat) : Run :=
  match (Assoc.get? r.crews cid).bind (fun c => (c.warps[wi]?).map (fun w => (c, w))) with
  | none => r
  | some (c, w) => match w.ops.find? (fun o => o.id == id) with
    | some ⟨i, k, dn, .late lanes la b t q⟩ =>
      if !w.lateReady ⟨i, k, dn, .late lanes la b t q⟩ || c.status == .saved then r
      else
        let stopped := w.hostrec.isSome
        let r := stopLanes r cid wi c w lanes
        let w := w.backTo id la lanes b
        let r := r.warp cid wi (fun _ => w)
        if stopped then r else
        match w.batches.getLast? with
        | none => r
        | some b => match env? m r cid wi (lowLane b.lanes) with
          | none => r
          | some e =>
            let r := if t.code = tcHostPage then dropRefused r e.asker e.ctx (t.addr / 4096) else r
            deliverTrap e r b b.pc t
    | _ => r

/-! ## Loads and stores (R160) -/

/-- A load of a warp completes: registers or a capability quad are written. Else the trap of a word that has failed is taken. -/
def completeLoad (m : Mgmt) (r : Run) (cid wi id : Nat) : Run :=
  match warpOp r cid wi id .ldg with
  | none => failLate m r cid wi id
  | some o => finishWarpOp m r cid wi id (fun w => match o.data with
      | .vregs ws => w.setAll ws
      | .cap n x tag => w.setCap n x tag
      | _ => w)

/-- LD_COMPLETION: operation op of a warp, a load or any long-latency word that has failed. -/
def execLdCompletion (s : State) : Outcome := happen s (fun a => completeLoad s.mgmt s.run a.crew a.warp a.op)

/-- The acknowledgement of a store returns. -/
def acknowledge (m : Mgmt) (r : Run) (cid wi id : Nat) : Run :=
  match warpOp r cid wi id .stg with
  | none => r
  | some _ => finishWarpOp m r cid wi id id_
where
  id_ (w : Warp) : Warp := w

/-- ST_ACKNOWLEDGEMENT: operation op of a warp. -/
def execStAcknowledgement (s : State) : Outcome := happen s (fun a => acknowledge s.mgmt s.run a.crew a.warp a.op)

/-! ## Atomics (R163, R219) -/

/-- An atomic of a warp completes: old values are written, and flags delivered and counted. -/
def completeAtom (m : Mgmt) (r : Run) (cid wi id : Nat) : Run :=
  match warpOp r cid wi id .at with
  | none => r
  | some o => match o.data with
    | .atom ws fs =>
      finishWarpOp m (countFlags r (crewTile r cid) (crewCtx r cid) fs) cid wi id (fun w => (w.setAll ws).raiseAll fs)
    | _ => r

/-- A GATOM completes: g(GD) is written. -/
def completeGatom (r : Run) (cid id : Nat) : Run :=
  match sliceOp r cid id .none with
  | none => r
  | some o => finishSliceOp r cid id (fun s => match o.data with
      | .greg n x => s.setG n x.toNat
      | _ => s)

/-- ATOM_COMPLETION: operation op of a warp, or of the address slice. -/
def execAtomCompletion (s : State) : Outcome := happen s (fun a =>
  if a.slice then completeGatom s.run a.crew a.op else completeAtom s.mgmt s.run a.crew a.warp a.op)

/-! ## The address slice's loads (R202, R204) -/

/-- The entries that a failed word, and the failed words that follow it, have reserved (R205). -/
def lateEntries (ops : List PendOp) (id : Nat) : List (Nat × Nat × Nat) :=
  ops.filterMap (fun o => match o.data with
    | .late _ _ b _ (some q) => if id ≤ o.id then some (b.pc.toNat, q, o.id) else none
    | _ => none)

/-- The trap of a failed word of an address slice, once its followers have finished (R64, R197, R205). In a slice that stands stopped
on the record of another trap it is not reported, and the word executes again after the resume (R329; log 6). -/
def failLateSlice (m : Mgmt) (r : Run) (cid id : Nat) : Run :=
  match Assoc.get? r.crews cid with
  | none => r
  | some c => match c.aslice.ops.find? (fun o => o.id == id) with
    | some ⟨_, _, _, .late lanes la b t _⟩ =>
      let s := c.aslice
      if !lateDue s.windows s.ops id lanes || c.status == .saved then r
      else
        let ps := lanePasses [s.batch] s.windows s.ops id la lanes
        let x := dropLate s.ops s.windows id lanes ps
        let r := r.slice cid (fun s =>
          { s with ops := x.1, windows := x.2, resv := s.resv ++ lateEntries s.ops id, replay := ps.map (·.2) })
        if s.hostrec.isSome then r.slice cid (fun s => { s with pc := b.pc, hints := b.hints, wait := .none }) else
        match senv? m r cid with
        | none => r
        | some e =>
          let r := if t.code = tcHostPage then dropRefused r e.asker e.ctx (t.addr / 4096) else r
          takeSliceTrap e r b.pc b.hints b.pc t
    | _ => r

/-- A GLD or CAPLD of the address slice completes. Else the trap of a word that has failed is taken. -/
def completeGld (m : Mgmt) (r : Run) (cid id : Nat) : Run :=
  match sliceOp r cid id .gld with
  | none => failLateSlice m r cid id
  | some o => match o.data with
    | .greg n x => finishSliceOp r cid id (fun s => s.setG n x.toNat)
    | .cap n x tag => finishSliceOp r cid id (fun s => s.setCap n x tag)
    | _ => r

/-- GLD_COMPLETION: operation op of an address slice, a load or any long-latency word that has failed. -/
def execGldCompletion (s : State) : Outcome := happen s (fun a => completeGld s.mgmt s.run a.crew a.op)

/-- A queue whose reserved entry of an operation holds its data. -/
def Queue.fill (q : Queue) (id : Nat) (x : QEntry) : Queue :=
  { q with entries := q.entries.map (fun e => if e = .reserved id then x else e) }

/-- The data of a GLDQ or GLDQV arrives in its reserved entry (R204). -/
def fillEntry (r : Run) (cid id : Nat) : Run :=
  match sliceOp r cid id .gld with
  | none => r
  | some o =>
    let put (q : Nat) (x : QEntry) : Run :=
      finishSliceOp (feedQueue r cid q (fun y => y.fill id x)) cid id (fun s => s)
    match o.data with
    | .fillUni q x => put q (.uni x)
    | .fillVec q xs => put q (.vec xs)
    | _ => r

/-- QUEUE_ENTRY_FILL: operation op of an address slice. -/
def execQueueEntryFill (s : State) : Outcome := happen s (fun a => fillEntry s.run a.crew a.op)

/-! ## GATHER (R172) -/

/-- A digest term of a crew's block with an ordinal, where the grid keeps digests (R316). -/
def foldTerm (r : Run) (cid a d s t n : Nat) : Run :=
  match Assoc.get? r.crews cid with
  | none => r
  | some c => match (Assoc.get? r.blocks c.block).bind (fun b => Assoc.get? r.grids b.grid) with
    | none => r
    | some g =>
      if g.det = 0 then r
      else r.block c.block (fun b => { b with digest := digestAdd g.detkey0 g.detkey1 b.digest a d s t n })

/-- One byte moved from place to place, poison with it (R395). -/
def moveByte (blk : Nat) (src dst : Place) (covers : Bool) (r : Run) (i : Nat) : Run :=
  let s := src.add i
  let d := dst.add i
  carryPoison (rawStore (markShadow r d) d (loadByte r blk s)) (poisoned r s) d covers

/-- The digest terms of one gathered element (R316). -/
def gatherTerms (cid blk dst n thread ord : Nat) (r : Run) : Run :=
  (List.range ((n + 7) / 8)).foldl (fun r j =>
    let lo := dst + 8 * j
    let k := min 8 n
    let x := loadNum r blk (.pad cid lo) k
    let sh := lo % 8
    foldTerm r cid (2 ^ 57 + lo / 8 * 8) (x * 2 ^ (8 * sh)) (128 + (2 ^ k - 1) * 2 ^ sh) thread (2 ^ 62 + ord * 2 ^ 8 + j)) r

/-- The elements of a GATHER written (R172). -/
def gatherAll (cid wi blk threads idx size dst : Nat) (src : List (Nat × Place × Nat)) (r : Run) : Run :=
  src.foldl (fun r x =>
    let o := dst + x.1 * size
    let r := (List.range size).foldl (moveByte blk x.2.1 (.pad cid o) (decide (8 ≤ size))) r
    gatherTerms cid blk o size (idx * threads + 32 * wi + x.1) x.2.2 r) r

/-- A GATHER completes. -/
def completeGather (m : Mgmt) (r : Run) (cid wi id : Nat) : Run :=
  match warpOp r cid wi id .gt, Assoc.get? r.crews cid with
  | some o, some c => match o.data with
    | .gather size dst src =>
      finishWarpOp m (gatherAll cid wi c.block c.threads c.idx size dst src r) cid wi id (fun w => w)
    | _ => r
  | _, _ => r

/-- GATHER_COMPLETION: operation op of a warp. -/
def execGatherCompletion (s : State) : Outcome := happen s (fun a => completeGather s.mgmt s.run a.crew a.warp a.op)

/-! ## CREDUCE (R173) -/

/-- One element combined into cluster memory: the run and the flags. -/
def combineElement (cid blk src dst opr thread ord : Nat) (acc : Run × Afl) (i : Nat) : Run × Afl :=
  let r := acc.1
  let ps : Place := .pad cid (src + 4 * i)
  let pd : Place := .clu blk (dst + 4 * i)
  let x := loadNum r blk ps 4
  let (y, fl) := atomNew (if opr = 8 then 10 else opr) 32 (loadNum r blk pd 4) x 0
  let bad := poisoned r ps || poisoned r pd
  let r := rawStores (markShadow r pd) pd (toBytes 4 y)
  let r := if bad then { r with poison := setInsert r.poison (pd.key / 8) } else r
  (foldTerm r cid (2 * 2 ^ 57 + dst + 4 * i) x (4 + 16 * opr) thread (2 ^ 61 + ord * 2 ^ 16 + i), acc.2 ||| fl)

/-- A CREDUCE retires: every element is combined and the flags delivered. -/
def retireCreduce (m : Mgmt) (r : Run) (cid wi id : Nat) : Run :=
  match warpOp r cid wi id .cl, Assoc.get? r.crews cid with
  | some o, some c => match o.data with
    | .creduce src dst cnt opr lanes thread ord =>
      let (r, fl) := (List.range cnt).foldl (combineElement cid c.block src dst opr thread ord) (r, flNone)
      let fs := (lanesOf lanes).map (fun l => (l, fl))
      finishWarpOp m (countFlags r (c.core / 24) (crewCtx r cid) fs) cid wi id (fun w => w.raiseAll fs)
    | _ => r
  | _, _ => r

/-- CREDUCE_RETIREMENT: operation op of a warp. -/
def execCreduceRetirement (s : State) : Outcome := happen s (fun a => retireCreduce s.mgmt s.run a.crew a.warp a.op)

/-! ## Watched words (R185, R218) -/

/-- A wait after its monitor has looked, as an asker: a watched word seen to differ lets it pass; one that can no longer be read has its
word issue again. -/
def seenWait (m : Mgmt) (r : Run) (asker cid blk : Nat) : Wait → Wait
  | .monitor va v n => match globalPlace m r asker (crewCtx r cid) va needRd with
    | .ok p => if loadNum r blk p n != v then .pass else .monitor va v n
    | .error (.trap _ _) => .none
    | .error _ => .monitor va v n
  | w => w

/-- The HOST page that a monitor needs translated before it can look (R347). -/
def askWatched (m : Mgmt) (r : Run) (asker cid : Nat) : Wait → Run
  | .monitor va _ _ => match globalPlace m r asker (crewCtx r cid) va needRd with
    | .error (.hostMiss page need) => requestPage m r asker (crewCtx r cid) page need
    | _ => r
  | _ => r

/-- The monitor of a warp's batch, or of the address slice, sees a change. -/
def observe (m : Mgmt) (r : Run) (cid wi lane : Nat) (slice : Bool) : Run :=
  match Assoc.get? r.crews cid with
  | none => r
  | some c =>
    if slice then
      let a := sliceAsker (c.core / 24) cid
      (askWatched m r a cid c.aslice.wait).slice cid (fun s => { s with wait := seenWait m r a cid c.block s.wait })
    else
      let a := batchAsker (c.core / 24) cid wi lane
      let r' := match (c.warps[wi]?).bind (fun w => w.batch? lane) with
        | some b => askWatched m r a cid b.wait
        | none => r
      r'.warp cid wi (fun w => { w with batches := w.batches.map (fun b =>
        if lowLane b.lanes = lane then { b with wait := seenWait m r a cid c.block b.wait } else b) })

/-- MWAIT_OBSERVE: the batch of a warp with this leading lane, or the address slice. -/
def execMwaitObserve (s : State) : Outcome := happen s (fun a => observe s.mgmt s.run a.crew a.warp a.lane a.slice)

end Sys2Proof.Machine
end

