-- ==== Sys2Proof/Machine/MatrixRun.lean ====
section
/-! DEFINITION. Matrix operations after dispatch: operands (R286, R287, R289), exact products (R49), chunks, staging and merges
(R290 to R292), readouts (R51, R52, R293, R294), MCLR (R176), the governor (R295) and faults (R297). -/

namespace Sys2Proof.Machine

/-! ## Factors (R49, R54, R286, R287) -/

/-- A signed magnitude m * 2^e. -/
structure Term where
  neg : Bool
  mag : Nat
  exp : Int
deriving DecidableEq, Repr, Inhabited

/-- A decoded operand element: its terms, or none when its products are skipped, and what its bound check found. -/
structure Factor where
  terms : Option (List Term)
  event : Bool := false
  arm : Bool := false
deriving DecidableEq, Repr, Inhabited

/-- The code a bound is clamped to in a format: LO rounded up or HI rounded down, a canonical one in DS8 and DS4 (R38, R54); where
the format has no value inside the bound, a free code (log 14). -/
def clampCode (f : EFmt) (e : BoundEntry) (up : Bool) : Nat :=
  match f with
  | .bf16 => e.clamp bf16 up
  | .fp16 => e.clamp fp16 up
  | _ =>
    let vs := ((List.range (2 ^ f.bits)).filter (fun c => match f.value c with
      | .nan _ => false
      | v => !v.lt (fp32.unpack e.lo) && !(fp32.unpack e.hi).lt v && canonical f c))
    match vs with
    | [] => Config.noInside (f.bits + b2n up) (if up then e.lo else e.hi) % 2 ^ f.bits
    | c :: cs => cs.foldl (fun a b => if (if up then (f.value b).lt (f.value a) else (f.value a).lt (f.value b)) then b else a) c
where
  /-- whether a conversion of the value gives the code -/
  canonical (f : EFmt) (c : Nat) : Bool := match f.value c with
    | .fin n m e => (narrow f .rne true (.fin n m 1 e)).1 == c
    | _ => true

/-- An operand element under its bound entry: the code its products use, which CLAMP alone changes, whether it is an event, and
whether it arms (R54, R287). -/
def boundOperand (g : Grid) (ix : Nat) (f : EFmt) (x : Nat) : Nat × Bool × Bool :=
  if ix = 255 then (x, false, false)
  else
    let e := g.bounds.getD ix {}
    let lo := (f.value x).lt (fp32.unpack e.lo)
    let hi := (fp32.unpack e.hi).lt (f.value x)
    if e.action = 0 || !(lo || hi) then (x, false, false)
    else (if e.action = 2 then clampCode f e lo else x, true, e.action == 3)

/-- The terms of a value: a DS8 value as its two terms when it stands in B (R37, R49). -/
def termsOf (f : EFmt) (isB : Bool) (code : Nat) (v : FVal) (sc : Int) : Option (List Term) :=
  match v with
  | .fin n m e =>
    if f = .ds8 && isB then
      let t (x : Int) : Term := ⟨decide (x < 0), x.natAbs, -6 + sc⟩
      some [t (ds8Term1 code), t (ds8Term2 code)]
    else some [⟨n, m, e + sc⟩]
  | _ => none

/-- A product's contribution in units of 2^(E - 96): each pair of terms rounded to nearest even on its own (R49). -/
def productUnits (e : Int) (as bs : List Term) : Int :=
  (as.flatMap (fun a => bs.map (fun b =>
    let neg := a.neg != b.neg
    signed neg (roundTo .rne neg (a.mag * b.mag) (a.exp + b.exp) (e - 96)).1))).foldl (· + ·) 0

/-! ## Fetching (R46, R289) -/

/-- Who asks for translations when a matrix operation does. -/
def matrixAsker (tile op : Nat) : Nat := asks tile (8 * op + 4)

/-- The place of a byte of a record's space, from its offset or address. -/
def shapePlace (m : Mgmt) (r : Run) (asker ctxKey blk : Nat) (b : Block) (s : Shape) (a need : Nat) : Except AccFault Place :=
  match s.spc with
  | 0 => .ok (.clu blk a)
  | 1 => match crewOf r b s.crew with
    | some c => .ok (.pad c a)
    | none => .error (.trap tcPermission a)
  | _ => globalPlace m r asker ctxKey a need

/-- n aligned bytes at an address read for an operation; poison is its fault (R396). -/
def fetchNum (m : Mgmt) (r : Run) (asker ctxKey blk : Nat) (b : Block) (s : Shape) (a n : Nat) : Except AccFault Nat :=
  match shapePlace m r asker ctxKey blk b s a needRd with
  | .error f => .error f
  | .ok p => if poisonedSpan r p n then .error (.trap tcEcc a) else .ok (loadNum r blk p n)

/-- n bytes of the grid's scale region (R46). -/
def scaleNum (m : Mgmt) (r : Run) (asker : Nat) (g : Grid) (blk off n : Nat) : Except AccFault Nat :=
  match globalSpan m r asker g.ctx (g.scale + off) n needRd with
  | .error f => .error f
  | .ok ps =>
    if ps.any (poisoned r) then .error (.trap tcEcc (g.scale + off)) else .ok (ofBytes (ps.map (loadByte r blk)))

/-- The exponent of the operand scale of element (i, j) under a slot: none for a NaN scale (R46, R286). -/
def operandScale (m : Mgmt) (r : Run) (asker : Nat) (g : Grid) (blk slot i j : Nat) : Except AccFault (Option Int) :=
  let at_ (n : Nat) : Except AccFault (Option Int) :=
    match scaleNum m r asker g blk (bits slot 63 32 + n) 1 with
    | .error f => .error f
    | .ok x => .ok (if x = 255 then none else some ((x : Int) - 127))
  match bits slot 5 4 with
  | 0 => .ok (some 0)
  | 1 => at_ 0
  | 2 => at_ i
  | _ => at_ j

/-- Element (i, j) of an operand, decoded, checked and scaled. -/
def factor (m : Mgmt) (r : Run) (asker : Nat) (g : Grid) (blk : Nat) (b : Block) (s : Shape) (isB : Bool) (i j : Nat) :
    Except AccFault Factor :=
  let slot := g.fslot s.fslot
  let f := (EFmt.ofCode (bits slot 3 0)).getD .bf16
  let k := if s.layout % 2 = 1 then i else j
  match fetchNum m r asker g.ctx blk b s (s.base + s.elem f.bits i j) ((f.bits + 7) / 8), operandScale m r asker g blk slot i j with
  | .error x, _ => .error x
  | _, .error x => .error x
  | .ok x, .ok sc =>
    let x := if f = .ds4 then x / 16 ^ (k % 2) % 16 else x
    let (code, event, arm) := boundOperand g s.bound f x
    .ok ⟨sc.bind (fun c => termsOf f isB code (f.value code) c), event, arm⟩

/-- A list of results, or the first failure. -/
def collect : List (Except AccFault α) → Except AccFault (List α)
  | [] => .ok []
  | .error f :: _ => .error f
  | .ok x :: rest => match collect rest with
    | .error f => .error f
    | .ok xs => .ok (x :: xs)

/-! ## Chunks and merges (R290) -/

/-- What a chunk adds: units for each element of the piece, row by row, the elements with a skipped product, and the bound
events of A and of B with whether one arms. -/
structure ChunkSum where
  units : List Int
  skipped : List Nat
  eventsA : Nat
  eventsB : Nat
  arm : Bool
deriving DecidableEq, Repr, Inhabited

/-- The values of k of the piece's next chunk. -/
def Piece.chunk (p : Piece) (cols : Nat) : List Nat := (List.range (min 128 (cols - p.k0))).map (p.k0 + ·)

/-- One element's row of A against a column of B. -/
def elementSum (e : Int) (as bs : List Factor) : Int × Bool :=
  (as.zip bs).foldl (fun (x : Int × Bool) (p : Factor × Factor) =>
    match p.1.terms, p.2.terms with
    | some ts, some us => (x.1 + productUnits e ts us, x.2)
    | _, _ => (x.1, true)) (0, false)

/-- The chunk sum of a piece (R290): its factors fetched, its products formed. -/
def chunkSum (m : Mgmt) (r : Run) (asker : Nat) (g : Grid) (b : Block) (op : MatrixOp) (p : Piece) : Except AccFault ChunkSum := do
  let sa := shapeOf op.shapeA
  let sb := shapeOf op.shapeB
  let d := accOf op.desc
  let ks := p.chunk sa.cols
  let rows := (List.range (p.i1 - p.i0)).map (p.i0 + ·)
  let cols := (List.range (p.j1 - p.j0)).map (p.j0 + ·)
  let as ← collect (rows.map (fun i => collect (ks.map (fun k => factor m r asker g op.block b sa false i k))))
  let bs ← collect (cols.map (fun j => collect (ks.map (fun k => factor m r asker g op.block b sb true k j))))
  let sums := (rows.zip as).flatMap (fun ra => (cols.zip bs).map (fun cb =>
    (ra.1 * 768 + cb.1, elementSum d.e ra.2 cb.2)))
  let as := if p.j0 = 0 then as.flatten else []
  let bs := if p.i0 = 0 then bs.flatten else []
  return { units := sums.map (fun x => x.2.1), skipped := (sums.filter (fun x => x.2.2)).map (·.1),
           eventsA := (as.filter (·.event)).length, eventsB := (bs.filter (·.event)).length,
           arm := (as ++ bs).any (·.arm) }

/-- The first poisoned accumulator element of a piece, by its address (R396). -/
def poisonedElement (r : Run) (op : MatrixOp) (p : Piece) : Option Nat :=
  ((List.range (p.i1 - p.i0)).flatMap (fun i => (List.range (p.j1 - p.j0)).map (fun j =>
    (accOf op.desc).elem (p.i0 + i) (p.j0 + j)))).find? (fun va => (op.place va).any (fun pl => poisonedSpan r pl 16))

/-- Bound events of an operand counted in their class (R54). -/
def countBound (r : Run) (tile : Nat) (g : Grid) (ix n : Nat) : Run :=
  if ix = 255 then r else countEvents r tile g.ctx (g.bounds.getD ix {}).eclass n

/-- The sums of a staging buffer after a chunk of a piece has been added to it, modulo 2^128 (R290). -/
def addSums (sums : Assoc (BitVec 128)) (p : Piece) (units : List Int) : Assoc (BitVec 128) :=
  let keys := (List.range (p.i1 - p.i0)).flatMap (fun i => (List.range (p.j1 - p.j0)).map (fun j => 768 * (p.i0 + i) + p.j0 + j))
  (keys.zip units).foldl (fun s x => wrReg s x.1 (rdReg s x.1 + BitVec.ofInt 128 x.2)) sums

/-- The next chunk of the piece that a core works on, formed and staged, or the fault that it meets (R290, R297). -/
def stageChunk (m : Mgmt) (r : Run) (core : Nat) (s : Stage) (op : MatrixOp) (p : Piece) : Except AccFault Run :=
  match Assoc.get? r.blocks op.block with
  | none => .ok r
  | some b =>
    match Assoc.get? r.grids b.grid with
    | none => .ok r
    | some g =>
      let tile := core / 24
      let q := { p with k0 := s.upto }
      match chunkSum m r (matrixAsker tile s.op) g b op q, poisonedElement r op p with
      | .error f, _ => .error f
      | _, some va => .error (.trap tcEcc va)
      | .ok c, none =>
        let fresh := c.skipped.filter (fun x => !op.skipped.contains x)
        let r := countEvents r tile g.ctx 0 fresh.length
        let r := countBound r tile g (shapeOf op.shapeA).bound c.eventsA
        let r := countBound r tile g (shapeOf op.shapeB).bound c.eventsB
        let fl := (if c.skipped = [] then flNone else flNV) ||| (if c.eventsA + c.eventsB = 0 then flNone else flBND)
        let r := { r with matrix := Assoc.modify r.matrix s.op (fun x =>
          { x with skipped := fresh.foldl setInsert x.skipped, flags := x.flags ||| fl, armed := x.armed || c.arm }) }
        .ok (r.core core (fun k =>
          { k with stage := some { s with upto := s.upto + (q.chunk (shapeOf op.shapeA).cols).length, issued := 0,
                                          sums := addSums s.sums p c.units } }))

/-! ## When a piece may go on (R176, R288, R289, R295, R298) -/

/-- Whether a piece has merged every chunk. -/
def Piece.finished (p : Piece) (op : MatrixOp) : Bool := decide ((shapeOf op.shapeA).cols ≤ p.k0)

/-- Whether a crew is resident. -/
def crewResident (r : Run) (c : Nat) : Bool := match Assoc.get? r.crews c with
  | some x => x.status == .resident
  | none => false

/-- Whether two descriptors cover a byte in common. -/
def AccDesc.overlaps (a b : AccDesc) : Bool := decide (a.base < b.base + b.bytes) && decide (b.base < a.base + a.bytes)

/-- Whether an earlier MX operation of a warp that must take effect first, on overlapping elements, is not complete: an
MCLR or a readout before a product, anything before an MCLR or a readout (R176, R293). -/
def mustFollow (r : Run) (d : AccDesc) (adds : Bool) (o : PendOp) : Bool :=
  o.cls == .mx && !o.done && match o.data with
    | .mclr ds _ => (accOf ds).overlaps d
    | .matrix k => match Assoc.get? r.matrix k with
      | some x => (accOf x.desc).overlaps d && (x.readout || !adds)
      | none => false
    | _ => false

/-- Whether the operations that a warp issued before one of its operations let it take effect. -/
def earlierDone (r : Run) (cid wi id : Nat) (d : AccDesc) (adds : Bool) : Bool :=
  match (Assoc.get? r.crews cid).bind (fun c => c.warps[wi]?) with
  | none => true
  | some w => !(w.ops.takeWhile (fun o => o.id != id)).any (mustFollow r d adds)

/-- Whether every signer's earlier operations let an operation take effect. -/
def signersReady (r : Run) (op : MatrixOp) : Bool :=
  op.signers.all (fun s => earlierDone r s.1 s.2.1 s.2.2.1 (accOf op.desc) !op.readout)

/-- Whether the pad that a record lies in is there to be used (R289). -/
def padHere (r : Run) (op : MatrixOp) (s : Shape) : Bool :=
  s.spc != 1 || match (Assoc.get? r.blocks op.block).bind (fun b => crewOf r b s.crew) with
    | some c => crewResident r c
    | none => false

/-- Matrix-unit issues for one chunk of a piece (R3, R295). -/
def chunkIssues (g : Grid) (op : MatrixOp) (p : Piece) : Nat :=
  let f (s : Shape) : EFmt := (EFmt.ofCode (bits (g.fslot s.fslot) 3 0)).getD .bf16
  let a := f (shapeOf op.shapeA)
  let b := f (shapeOf op.shapeB)
  let rate := if b = .ds8 ∨ b = .ds4 then 8192 else if a.bits = 16 ∨ b.bits = 16 then 2048 else 4096
  ((p.i1 - p.i0) * (p.j1 - p.j0) * (p.chunk (shapeOf op.shapeA).cols).length + rate - 1) / rate

/-- The physical core of a crew. -/
def crewCore (r : Run) (c : Nat) : Nat := match Assoc.get? r.crews c with
  | some x => x.core
  | none => 0

/-- The grid of an operation's block. -/
def opGrid (r : Run) (op : MatrixOp) : Grid := ((Assoc.get? r.blocks op.block).bind (fun b => Assoc.get? r.grids b.grid)).getD { ctx := 0 }

/-- Whether a core works on a piece now. -/
def pieceStaged (r : Run) (key q : Nat) : Bool :=
  r.cores.any (fun p => p.2.stage.any (fun s => s.op == key && s.piece == q))

/-- The participating crew of an operation that is resident on a core. -/
def partOn (r : Run) (op : MatrixOp) (core : Nat) : Option Nat :=
  op.parts.find? (fun c => crewResident r c && crewCore r c == core)

/-- The piece of an operation that a core takes next for one of its crews: the first unfinished one of its own, else one that an
evicted crew's core has left (R288, R298). -/
def pieceFor (r : Run) (key : Nat) (op : MatrixOp) (c : Nat) : Option Nat :=
  let open_ (x : Piece × Nat) : Bool := !x.1.finished op && !pieceStaged r key x.2
  let ps := op.pieces.zipIdx
  match ps.find? (fun x => x.1.crew == c && open_ x) with
  | some x => some x.2
  | none => (ps.find? (fun x => !crewResident r x.1.crew && open_ x)).map (·.2)

/-- What a core takes up next: the first operation, in dispatch order, that has a piece for it (R288). -/
def nextStage (r : Run) (core : Nat) : Option Stage :=
  r.matrix.findSome? (fun x =>
    if x.2.fault.isSome then none
    else do
      let c ← partOn r x.2 core
      let q ← pieceFor r x.1 x.2 c
      let p ← x.2.pieces[q]?
      return { op := x.1, piece := q, crew := c, upto := p.k0 })

/-- Whether the operation of a stage may form chunks now: it is not stopped, earlier operations of its signers let it, and the pads
that it reads are there (R176, R289). -/
def canForm (r : Run) (op : MatrixOp) : Bool :=
  op.fault.isNone && !op.readout && signersReady r op && padHere r op (shapeOf op.shapeA) && padHere r op (shapeOf op.shapeB)

/-- The work of a core: what it holds, else what it takes up, with its operation and piece. -/
def coreWork (r : Run) (core : Nat) : Option (Stage × MatrixOp × Piece) := do
  let s ← match (r.coreSt core).stage with
    | some s => some s
    | none => nextStage r core
  let op ← Assoc.get? r.matrix s.op
  let p ← op.pieces[s.piece]?
  if canForm r op then return (s, op, p) else none

/-! ## The governor (R295) -/

/-- Whether a stage holds every chunk of its piece. -/
def Stage.whole (s : Stage) (op : MatrixOp) : Bool := decide ((shapeOf op.shapeA).cols ≤ s.upto)

/-- The issues of a window spent: chunks are formed and staged as they are paid for, up to the end of a piece (R290). -/
def spendIssues : Nat → Mgmt → Run → Nat → Run
  | 0, _, r, _ => r
  | n + 1, m, r, core =>
    match coreWork r core with
    | none => r
    | some (s, op, p) =>
      let cost := chunkIssues (opGrid r op) op { p with k0 := s.upto }
      let left := (r.coreSt core).issues
      if s.whole op then r
      else if s.issued + left < cost then
        r.core core (fun k => { k with stage := some { s with issued := s.issued + left }, issues := 0 })
      else
        match stageChunk m r core s op p with
        | .error (.hostMiss page need) => requestPage m r (matrixAsker (core / 24) s.op) (opGrid r op).ctx page need
        | .error _ => r.core core (fun k => { k with stage := some s })
        | .ok r => spendIssues n m (r.core core (fun k => { k with issues := left - (cost - s.issued) })) core

/-- Whether a core's matrix unit holds work that is not staged. -/
def holdsWork (r : Run) (core : Nat) : Bool :=
  match coreWork r core with
  | some (s, op, _) => !s.whole op || (nextStage r core).isSome
  | none => false

/-- A core after it has spent what it could: with no issue left and work held, the rest of the window's cycles are stalls. -/
def countStalls (r : Run) (core : Nat) : Run :=
  let busy := holdsWork r core
  r.core core (fun k =>
    if busy && k.issues == 0 then { k with mxBusy := true, mxgov := k.mxgov + BitVec.ofNat 32 k.spare, spare := 0 }
    else { k with mxBusy := busy })

/-- A window of 256 cycles of a core (R295). Work that began part way through it, after so many cycles, has the cycles that
remain. -/
def governorWindow (m : Mgmt) (r : Run) (core began : Nat) : Run :=
  let k := r.coreSt core
  let cycles := if k.mxBusy then 256 else 256 - began % 256
  let n := min k.budget cycles
  countStalls (spendIssues 257 m (r.core core (fun k => { k with issues := n, spare := cycles - n })) core) core

/-- GOVERNOR_WINDOW: a core; value is the cycle of the window in which its work began, where it held none before. -/
def execGovernorWindow (s : State) : Outcome := happen s (fun a => governorWindow s.mgmt s.run a.core a.value)

/-- Whether a pack-up holds the accesses to a page of an accumulator (R390). -/
def accHeld (m : Mgmt) (r : Run) (ctxKey : Nat) (d : AccDesc) : Bool :=
  (List.range (d.bytes / 4096)).any (fun k => homeHeld m r ctxKey (d.base + 4096 * k))

/-- A core that has staged the last chunk of its piece merges it and goes on with what is left of its window (R290). A wait, an
eviction and a fault merge of themselves. -/
def mergeDone (m : Mgmt) (r : Run) (core : Nat) : Run :=
  match (r.coreSt core).stage.bind (fun s => (Assoc.get? r.matrix s.op).map (fun op => (s, op))) with
  | some (s, op) => if s.whole op && !accHeld m r (opGrid r op).ctx (accOf op.desc) then countStalls (spendIssues 257 m (mergeStage r core) core) core else r
  | none => r

/-- MERGE: core. -/
def execMerge (s : State) : Outcome := happen s (fun a => mergeDone s.mgmt s.run a.core)

/-- A crew's core leaves the matrix work that it does for it: it finishes its current chunk and merges, and what remains of the
piece returns to the operation (R298). -/
def leaveMatrix (m : Mgmt) (r : Run) (core crew : Nat) : Run :=
  match (r.coreSt core).stage with
  | none => r
  | some s =>
    if s.crew != crew then r
    else
      let r := match coreWork r core with
        | some (s, op, p) => if s.issued = 0 ∨ s.whole op then r else match stageChunk m r core s op p with
          | .ok r => r
          | .error _ => r
        | none => r
      (mergeStage r core).core core (fun k => { k with stage := none })

/-! ## Completion (R292) -/

/-- An operation retired from MX of every warp that signed it, with its flags and arms (R25, R287, R294). -/
def retireMatrix (m : Mgmt) (r : Run) (key : Nat) (op : MatrixOp) : Run :=
  op.signers.foldl (fun r s =>
    finishWarpOp m r s.1 s.2.1 s.2.2.1 (fun w =>
      let w := w.raiseAll ((lanesOf s.2.2.2).map (fun l => (l, op.flags)))
      if op.armed then { w with arms := w.arms ||| s.2.2.2 } else w)) { r with matrix := Assoc.erase r.matrix key }

/-- An operation whose every piece has been merged completes. -/
def completeMatrix (m : Mgmt) (r : Run) (key : Nat) : Run :=
  match Assoc.get? r.matrix key with
  | none => r
  | some op => if op.cut && !op.readout && op.pieces.all (fun p => p.finished op) then retireMatrix m r key op else r

/-- MATRIX_COMPLETION: operation op. -/
def execMatrixCompletion (s : State) : Outcome := happen s (fun a => completeMatrix s.mgmt s.run a.op)

/-! ## MCLR (R176) -/

/-- An MCLR that its warp's earlier operations let take effect zeroes its elements and retires. -/
def completeMclr (m : Mgmt) (r : Run) (cid wi id : Nat) : Run :=
  match warpOp r cid wi id .mx, Assoc.get? r.crews cid with
  | some o, some c => match o.data with
    | .mclr ds ps =>
      if earlierDone r cid wi id (accOf ds) false && !accHeld m r (crewCtx r cid) (accOf ds) then
        finishWarpOp m (ps.foldl (fun r p => storeBytes r c.block p (List.replicate 4096 0)) r) cid wi id (fun w => w)
      else r
    | _ => r
  | _, _ => r

/-- MCLR_COMPLETION: operation op of a warp. -/
def execMclrCompletion (s : State) : Outcome := happen s (fun a => completeMclr s.mgmt s.run a.crew a.warp a.op)

/-! ## Readouts (R51, R52, R293, R294) -/

/-- The FP32 scale of a row or column, from its table (R51). -/
def viewScale (m : Mgmt) (r : Run) (asker : Nat) (g : Grid) (blk off i : Nat) : Except AccFault FVal :=
  if off = 0xFFFFFFFF then .ok (.fin false 1 0)
  else match scaleNum m r asker g blk (off + 4 * i) 4 with
    | .error f => .error f
    | .ok x => .ok (fp32.unpack x)

/-- A floating-point view of N (R51): one rounding of the exact product. -/
def viewValue (f : FFmt) (e : Int) (n : Nat) (rs cs : FVal) : Nat × Afl :=
  let x := sext 128 n
  match rs, cs with
  | .nan _, _ => (f.qnan, flNV)
  | _, .nan _ => (f.qnan, flNV)
  | .fin na ma ea, .fin nb mb eb =>
    if n = 0 ∨ ma = 0 ∨ mb = 0 then (0, flNone)
    else f.roundMag .ieee .rne ((decide (x < 0) != na) != nb) (x.natAbs * ma * mb) (e - 96 + ea + eb) false
  | _, _ =>
    let zero : FVal → Bool
      | .fin _ m _ => m == 0
      | _ => false
    if n = 0 then (f.qnan, flNV)
    else if zero rs || zero cs then (0, flNone)
    else (f.sgn ((decide (x < 0) != rs.isNeg) != cs.isNeg) + f.topCode, flNone)

/-- One element read out: its bytes as a number, its flags, whether it is a bound event and whether it arms. -/
def viewElement (g : Grid) (d : AccDesc) (n : Nat) (rs cs : FVal) : Nat × Afl × Bool × Bool :=
  if d.view = 0 then (n, flNone, false, false)
  else
    let f := if d.view = 1 then fp32 else bf16
    let (x, fl) := viewValue f d.e n rs cs
    let acr := if 2 ^ 126 ≤ (sext 128 n).natAbs then flACR else flNone
    if d.bound = 255 then (x, fl ||| acr, false, false)
    else
      let (y, fl', event, arm) := (g.bounds.getD d.bound {}).check f x
      (y, fl ||| acr ||| fl', event, arm)

/-- One element of a readout: its index, where it goes as an address and a place, and what it is. -/
structure ReadElem where
  ix : Nat
  addr : Nat
  place : Place
  value : Nat × Afl × Bool × Bool

/-- Every element of a readout formed, with its place, or the fault that it meets (R293, R297). -/
def readElements (m : Mgmt) (r : Run) (asker : Nat) (g : Grid) (b : Block) (op : MatrixOp) : Except AccFault (List ReadElem) :=
  let s := shapeOf op.shapeA
  let d := accOf op.desc
  let w := viewBytes d.view
  collect ((List.range d.rows).flatMap (fun i => (List.range d.cols).map (fun j => do
    let va := d.elem i j
    let p ← match op.place va with
      | some p => .ok p
      | none => globalPlace m r asker g.ctx va needRd
    if poisonedSpan r p 16 then .error (.trap tcEcc va)
    let rs ← if d.view = 0 then .ok (.fin false 1 0) else viewScale m r asker g op.block d.rsoff i
    let cs ← if d.view = 0 then .ok (.fin false 1 0) else viewScale m r asker g op.block d.csoff j
    let a := s.base + s.elem (8 * w) i j
    let q ← shapePlace m r asker g.ctx op.block b s a needWr
    return ⟨i * d.cols + j, a, q, viewElement g d (loadNum r op.block p 16) rs cs⟩)))

/-- The space of a record in the coding of format M (R316). -/
def Shape.space (s : Shape) : Nat := match s.spc with
  | 0 => 2
  | 1 => 1
  | _ => 4

/-- The elements of a readout written, with their digest terms (R293, R316). -/
def writeElements (r : Run) (g : Grid) (op : MatrixOp) (xs : List ReadElem) : Run :=
  let s := shapeOf op.shapeA
  let w := viewBytes (accOf op.desc).view
  xs.foldl (fun r x =>
    let r := storeNum r op.block x.place w x.value.1
    if g.det = 0 then r
    else r.block op.block (fun b =>
      let n := 2 ^ 60 + op.ord * 2 ^ 20 + x.ix
      let a := s.space * 2 ^ 57 + x.addr
      { b with digest := digestAdd g.detkey0 g.detkey1 b.digest a x.value.1 w op.thread n })) r

/-- The tile that a readout uses: that of its first signer. -/
def opTile (r : Run) (op : MatrixOp) : Nat := match op.signers with
  | s :: _ => crewTile r s.1
  | [] => 0

/-- A readout that may take effect: its operation, block and grid. -/
def readyReadout (r : Run) (key : Nat) : Option (MatrixOp × Block × Grid) := do
  let op ← Assoc.get? r.matrix key
  let b ← Assoc.get? r.blocks op.block
  let g ← Assoc.get? r.grids b.grid
  if op.readout && op.fault.isNone && signersReady r op && padHere r op (shapeOf op.shapeA) then return (op, b, g) else none

/-- A readout writes every element, counts its events and completes; a HOST page it lacks is asked for (R293 to R296). -/
def completeReadout (m : Mgmt) (r : Run) (key : Nat) : Run :=
  match readyReadout r key with
  | none => r
  | some (op, b, g) =>
    let tile := opTile r op
    if accHeld m r g.ctx (accOf op.desc) then r
    else match readElements m r (matrixAsker tile key) g b op with
    | .error (.hostMiss page need) => requestPage m r (matrixAsker tile key) g.ctx page need
    | .error _ => r
    | .ok xs =>
      let fs := xs.map (fun x => (x.ix, x.value.2.1))
      let r := countFlags (writeElements r g op xs) tile g.ctx fs
      let r := countBound r tile g (accOf op.desc).bound (xs.filter (fun x => x.value.2.2.1)).length
      retireMatrix m r key { op with flags := joinFlags fs, armed := xs.any (fun x => x.value.2.2.2) }

/-- READOUT_COMPLETION: operation op. -/
def execReadoutCompletion (s : State) : Outcome := happen s (fun a => completeReadout s.mgmt s.run a.op)

/-! ## Faults after dispatch (R297) -/

/-- The fault that the next chunk of a core's piece, or a readout, would meet: the operation, with the code and the address. -/
def nextFault (m : Mgmt) (r : Run) (key core : Nat) : Option (Nat × Nat × Nat) :=
  let judge (k : Nat) (x : Except AccFault Unit) : Option (Nat × Nat × Nat) := match x with
    | .error (.trap code a) => some (k, code, a)
    | _ => none
  match readyReadout r key, coreWork r core with
  | some (op, b, g), _ => judge key ((readElements m r (matrixAsker (opTile r op) key) g b op).map (fun _ => ()))
  | none, some (s, op, p) => if s.whole op then none else judge s.op ((stageChunk m r core s op p).map (fun _ => ()))
  | none, none => none

/-- An operation stopped (R297): every core merges what it has staged of it, and leaves it at its merged chunks. -/
def stopMatrix (m : Mgmt) (r : Run) (key core : Nat) : Run :=
  match nextFault m r key core with
  | some (k, code, a) =>
    let r := leaveOp (mergeOp r k) k
    let op := (Assoc.get? r.matrix k).getD { block := 0, shapeA := [], shapeB := [], desc := [] }
    let r := if code = tcHostPage then dropRefused r (matrixAsker (opTile r op) k) (opGrid r op).ctx (a / 4096) else r
    { r with matrix := Assoc.modify r.matrix k (fun x => { x with fault := some (code, a), taken := [] }) }
  | none => r

/-- MATRIX_FAULT: readout op, or what core works on. -/
def execMatrixFault (s : State) : Outcome := happen s (fun a => stopMatrix s.mgmt s.run a.op a.core)

end Sys2Proof.Machine
end

