-- ==== Sys2Proof/Machine/SliceArith.lean ====
section
/-! DEFINITION. Scalar arithmetic, branches and calls of the address slice (R199 to R201, R210, R211). -/

namespace Sys2Proof.Machine

/-! ## Arithmetic -/

/-- The modifiers of a 64-bit operation. -/
def mods64 : OpHmod := { noMods with w64 := 1 }

/-- Signed and unsigned less-than (R199). -/
def opSlt : LaneOp := fun _ a b _ => pureRes (b2n (decide (sext 64 a < sext 64 b)))
def opSltn : LaneOp := fun _ a b _ => pureRes (b2n (decide (a < b)))

/-- A word of GOPA (R199). -/
def gopaDef (o : OpGA) (op : LaneOp) : SliceDef :=
  gDef false true [o.ga, o.gb] o.gd (fun e => (op mods64 (e.s.gn o.ga) (e.s.gn o.gb) 0).1)

/-- The operand of GOPI: the 9-bit field, or the immediate of R198. -/
def SEnv.imm9 (e : SEnv) (f : Nat) : Nat := if e.hints.imm? then e.imm else sextTo 64 9 f

/-- A word of GOPI (R198, R200): with a hint IMM must be 0. -/
def gopiDef (o : OpGI) (op : LaneOp) : SliceDef where
  imm := true
  plain := true
  legal e := !e.hints.imm? || o.imm == 0
  uses _ := { ur := gRegs [o.ga], uw := gRegs [o.gd] }
  body e := .ok { run := e.r.slice e.cid (fun s => s.setG o.gd (op mods64 (e.s.gn o.ga) (e.imm9 o.imm) 0).1) }

/-- GADD (R199). -/
def execGadd (o : OpGA) (s : State) : Outcome := issueSlice (gopaDef o opIadd) s
/-- GSUB (R199). -/
def execGsub (o : OpGA) (s : State) : Outcome := issueSlice (gopaDef o opIsub) s
/-- GMUL (R199). -/
def execGmul (o : OpGA) (s : State) : Outcome := issueSlice (gopaDef o opImul) s
/-- GMULH (R199). -/
def execGmulh (o : OpGA) (s : State) : Outcome := issueSlice (gopaDef o opImulh) s
/-- GAND (R199). -/
def execGand (o : OpGA) (s : State) : Outcome := issueSlice (gopaDef o opAnd) s
/-- GOR (R199). -/
def execGor (o : OpGA) (s : State) : Outcome := issueSlice (gopaDef o opOr) s
/-- GXOR (R199). -/
def execGxor (o : OpGA) (s : State) : Outcome := issueSlice (gopaDef o opXor) s
/-- GSHL (R199). -/
def execGshl (o : OpGA) (s : State) : Outcome := issueSlice (gopaDef o opShl) s
/-- GSHR (R199). -/
def execGshr (o : OpGA) (s : State) : Outcome := issueSlice (gopaDef o opShr) s
/-- GSAR (R199). -/
def execGsar (o : OpGA) (s : State) : Outcome := issueSlice (gopaDef o opSar) s
/-- GMIN (R199). -/
def execGmin (o : OpGA) (s : State) : Outcome := issueSlice (gopaDef o opImin) s
/-- GMAX (R199). -/
def execGmax (o : OpGA) (s : State) : Outcome := issueSlice (gopaDef o opImax) s
/-- GMINN (R199). -/
def execGminn (o : OpGA) (s : State) : Outcome := issueSlice (gopaDef o opIminn) s
/-- GMAXN (R199). -/
def execGmaxn (o : OpGA) (s : State) : Outcome := issueSlice (gopaDef o opImaxn) s
/-- GSLT (R199). -/
def execGslt (o : OpGA) (s : State) : Outcome := issueSlice (gopaDef o opSlt) s
/-- GSLTN (R199). -/
def execGsltn (o : OpGA) (s : State) : Outcome := issueSlice (gopaDef o opSltn) s

/-- GADDI (R200). -/
def execGaddi (o : OpGI) (s : State) : Outcome := issueSlice (gopiDef o opIadd) s
/-- GANDI (R200). -/
def execGandi (o : OpGI) (s : State) : Outcome := issueSlice (gopiDef o opAnd) s
/-- GORI (R200). -/
def execGori (o : OpGI) (s : State) : Outcome := issueSlice (gopiDef o opOr) s
/-- GXORI (R200). -/
def execGxori (o : OpGI) (s : State) : Outcome := issueSlice (gopiDef o opXor) s
/-- GSHLI (R200). -/
def execGshli (o : OpGI) (s : State) : Outcome := issueSlice (gopiDef o opShl) s
/-- GSHRI (R200). -/
def execGshri (o : OpGI) (s : State) : Outcome := issueSlice (gopiDef o opShr) s
/-- GSARI (R200). -/
def execGsari (o : OpGI) (s : State) : Outcome := issueSlice (gopiDef o opSar) s
/-- GSLTI (R200). -/
def execGslti (o : OpGI) (s : State) : Outcome := issueSlice (gopiDef o opSlt) s

/-- GMOVI (R201). -/
def sGmovi (o : OpGM) : SliceDef := gDef false true [] o.gd (fun _ => o.imm * 2 ^ (16 * o.sh))
/-- GMOVI issued. -/
def execGmovi (o : OpGM) (s : State) : Outcome := issueSlice (sGmovi o) s

/-- GMOVK (R201). -/
def sGmovk (o : OpGM) : SliceDef := gDef false true [o.gd] o.gd (fun e =>
  let x := e.s.gn o.gd
  x - x / 2 ^ (16 * o.sh) % 65536 * 2 ^ (16 * o.sh) + o.imm * 2 ^ (16 * o.sh))
/-- GMOVK issued. -/
def execGmovk (o : OpGM) (s : State) : Outcome := issueSlice (sGmovk o) s

/-! ## Branches and calls (R210, R211) -/

/-- The word after the executing one, plus a signed offset in words. -/
def sliceTarget (pc : Word) (n off : Nat) : Nat := wrap 32 ((pc.toNat : Int) + 4 + 4 * sext n off)

/-- A word of GBR (R210). -/
def gbrDef (o : OpGB) (test : Int → Bool) : SliceDef where
  plain := true
  steers := true
  legal _ := true
  uses _ := { ur := gRegs [o.ga] }
  body e :=
    if test (sext 64 (e.s.gn o.ga)) then sliceJump e e.r (sliceTarget e.s.pc 15 o.off) else .ok { run := e.r }

/-- GBEQZ (R210). -/
def execGbeqz (o : OpGB) (s : State) : Outcome := issueSlice (gbrDef o (fun x => x == 0)) s
/-- GBNEZ (R210). -/
def execGbnez (o : OpGB) (s : State) : Outcome := issueSlice (gbrDef o (fun x => x != 0)) s
/-- GBLTZ (R210). -/
def execGbltz (o : OpGB) (s : State) : Outcome := issueSlice (gbrDef o (fun x => decide (x < 0))) s
/-- GBGEZ (R210). -/
def execGbgez (o : OpGB) (s : State) : Outcome := issueSlice (gbrDef o (fun x => decide (0 ≤ x))) s
/-- GBGTZ (R210). -/
def execGbgtz (o : OpGB) (s : State) : Outcome := issueSlice (gbrDef o (fun x => decide (0 < x))) s
/-- GBLEZ (R210). -/
def execGblez (o : OpGB) (s : State) : Outcome := issueSlice (gbrDef o (fun x => decide (x ≤ 0))) s

/-- GJMP (R211). -/
def sGjmp (o : OpGJ) : SliceDef where
  plain := true
  steers := true
  legal _ := true
  body e := sliceJump e e.r (sliceTarget e.s.pc 22 o.off)
/-- GJMP issued. -/
def execGjmp (o : OpGJ) (s : State) : Outcome := issueSlice (sGjmp o) s

/-- GCALL (R211). -/
def sGcall (o : OpGJ) : SliceDef where
  plain := true
  steers := true
  legal _ := true
  uses _ := { uw := [63] }
  body e := sliceJump e (e.r.slice e.cid (fun s => s.setG 63 (e.s.pc + 4).toNat)) (sliceTarget e.s.pc 22 o.off)
/-- GCALL issued. -/
def execGcall (o : OpGJ) (s : State) : Outcome := issueSlice (sGcall o) s

/-- GRET (R211); in a handler the return mark returns (R327). -/
def sGret (o : OpGret) : SliceDef where
  plain := true
  steers := true
  legal _ := true
  uses _ := { ur := gRegs [o.ga] }
  body e :=
    let t := e.s.gn o.ga
    if t = returnMark.toNat ∧ e.s.hsave.isSome then .ok { run := e.r, next := .back }
    else if t % 4 ≠ 0 then .error (sliceTrap tcMisaligned t)
    else sliceJump e e.r t
/-- GRET issued. -/
def execGret (o : OpGret) (s : State) : Outcome := issueSlice (sGret o) s

end Sys2Proof.Machine
end

