-- ==== Sys2Proof/Machine/Sys.lean ====
section
/-! DEFINITION. The SYS family (R143 to R154): NOP, TRAPFENCE, traps, granules, tasks, the window base, YIELD and
AFLCLR. -/

namespace Sys2Proof.Machine

/-- NOP (R144). -/
def wNop (o : OpBare) : WordDef where
  bd := o.bd
  legal := onlyPri
  body e := .ok { run := e.r }
/-- NOP issued. -/
def execNop (o : OpBare) (s : State) : Outcome := issue (wNop o) s

/-- YIELD (R144, R231). -/
def wYield (o : OpBare) : WordDef where
  bd := o.bd
  legal := onlyPri
  body e :=
    .ok { run := e.r, next := .yields }
/-- YIELD issued. -/
def execYield (o : OpBare) (s : State) : Outcome := issue (wYield o) s

/-! ## Traps by word -/

/-- Whether an outstanding operation will still set flags or a bound arm of some of the lanes (R145). -/
def PendOp.flagsDue (r : Run) (cid wi : Nat) (lanes : Mask) (o : PendOp) : Bool :=
  !o.done && match o.data with
  | .atom _ fs => fs.any (fun p => lanes.getLsbD p.1)
  | .creduce _ _ _ _ ls _ _ => ls &&& lanes != 0#32
  | .matrix k => match Assoc.get? r.matrix k with
    | some x => x.signers.any (fun s => s.1 == cid && s.2.1 == wi && s.2.2.2 &&& lanes != 0#32)
    | none => false
  | .late ls _ _ _ _ => ls &&& lanes != 0#32
  | _ => false

/-- TRAPFENCE (R145). -/
def wTrapfence (o : OpBare) : WordDef where
  bd := o.bd
  legal := onlyPri
  waits e := e.w.ops.any (fun x => x.flagsDue e.r e.cid e.wi e.active)
  uses _ := { afl := true }
  body e :=
    let armed := e.w.arms &&& e.active
    let sticky := maskOf (e.lanes.filter (fun l => e.w.afl l &&& e.g.temask != 0#8))
    if armed != 0#32 then
      .ok { run := e.r.warp e.cid e.wi (fun w => { w with arms := w.arms &&& ~~~armed }),
            next := .trapAfter { code := tcBound, mask := armed } }
    else if sticky != 0#32 then .ok { run := e.r, next := .trapAfter { code := tcSticky, mask := sticky } }
    else .ok { run := e.r }
/-- TRAPFENCE issued. -/
def execTrapfence (o : OpBare) (s : State) : Outcome := issue (wTrapfence o) s

/-- Whether a code word takes its hints: HIMM and HIMMX with CODE 0 (R138, R146). -/
def codeLegal (e : Env) (code : Nat) : Bool :=
  ({ imm := true } : HintSet).ok e.b.hints && (!e.b.hints.imm? || code == 0)

/-- The code in the record (R146). -/
def codeValue (h : Hints) (code : Nat) : Nat := if h.imm? then h.immValue else code

/-- TRAP (R146). -/
def wTrap (o : OpCode) : WordDef where
  bd := o.bd
  legal e := codeLegal e o.code
  body e :=
    .ok { run := e.r, next :=
      if e.active = 0#32 then .seq
      else .trapAfter { code := tcSoftware, mask := e.active, info0 := codeValue e.b.hints o.code } }
/-- TRAP issued. -/
def execTrap (o : OpCode) (s : State) : Outcome := issue (wTrap o) s

/-- A snapshot event that floods the router network from a tile (R421). -/
def raiseSnapshot (r : Run) (tile : Nat) : Run := { r with floods := r.floods ++ [(tile, List.range 96)] }

/-- BKPT (R146). -/
def wBkpt (o : OpBkpt) : WordDef where
  bd := o.bd
  legal e := codeLegal e o.code
  body e :=
    if e.active = 0#32 then .ok { run := e.r }
    else
      .ok { run := if o.snap = 1 then raiseSnapshot e.r e.tile else e.r,
            next := .trapAfter { code := tcBreakpoint, mask := e.active, info0 := codeValue e.b.hints o.code } }
/-- BKPT issued. -/
def execBkpt (o : OpBkpt) (s : State) : Outcome := issue (wBkpt o) s

/-! ## Granules (R10 to R13, R147, R148) -/

/-- Granules of a core's pool in use: those of the warps of the crews placed there. -/
def granUsed (r : Run) (core : Nat) : Nat :=
  ((r.crews.filter (fun (p : Nat × Crew) => p.2.core == core && (p.2.status == .resident || p.2.status == .saving))).map
    (fun (p : Nat × Crew) => (p.2.warps.map (·.gran)).sum)).sum

/-- The usable size of a core's pool (R13). -/
def poolSize (m : Mgmt) (core : Nat) : Nat := 64 - (Assoc.get? m.granRetired core).getD 0

/-- n granules given to a warp: they read as zero (R12). -/
def Warp.grant (w : Warp) (n : Nat) : Warp := { w.dropExtended with gran := n, xpend := none }

/-- XACQ (R13, R147). -/
def wXacq (o : OpXacq) : WordDef where
  bd := o.bd
  legal e := onlyPri e && decide (1 ≤ o.n) && decide (o.n ≤ 6)
  body e :=
    if e.b.wait == .pass then .ok { run := e.r }
    else if e.w.base < 64 ∨ e.w.gran ≠ 0 ∨ e.w.xpend.isSome ∨ poolSize e.m e.crew.core < o.n then
      .error (.trap { code := tcXacq, mask := e.active })
    else if (e.r.coreSt e.crew.core).xacq = [] ∧ granUsed e.r e.crew.core + o.n ≤ poolSize e.m e.crew.core then
      .ok { run := e.r.warp e.cid e.wi (fun w => w.grant o.n) }
    else
      let r := e.r.warp e.cid e.wi (fun w => { w with xpend := some o.n })
      .ok { run := r.core e.crew.core (fun k => { k with xacq := k.xacq ++ [(e.cid, e.wi, e.lead, o.n)] }),
            next := .stay .xacq }
/-- XACQ issued. -/
def execXacq (o : OpXacq) (s : State) : Outcome := issue (wXacq o) s

/-- Whether an outstanding operation writes a register at or above v64, or may when it executes again (R148). -/
def PendOp.extended (o : PendOp) : Bool :=
  !o.done && match o.data with
  | .vregs ws => ws.any (fun p => decide (64 ≤ p.2.1))
  | .atom ws _ => ws.any (fun p => decide (64 ≤ p.2.1))
  | .pop _ _ dst uni _ _ _ _ => !uni && decide (64 ≤ dst)
  | .late _ _ _ _ _ => true
  | _ => false

/-- XREL (R148). -/
def wXrel (o : OpBare) : WordDef where
  bd := o.bd
  legal := onlyPri
  waits e := e.w.ops.any (·.extended)
  body e := .ok { run := e.r.warp e.cid e.wi (·.dropExtended) }
/-- XREL issued. -/
def execXrel (o : OpBare) (s : State) : Outcome := issue (wXrel o) s

/-! ## Tasks (R151 to R154) -/

/-- The address field of a task record that R254 refuses, in a protected context: ARGS, of which LD is used, or a JOINW, of which ATOM is.
The record lies in the crew's private pad, whose fields are checked without the tag test, as R271 says of elements there (log 26). -/
def taskCapFault (e : Env) (bs : List Byte) : Bool :=
  let args := recField bs 0 16
  let join := recField bs 16 16
  isProt e.r e.ctx &&
    !(capPasses e.ctx true args 0 (capAddr args) 0 && (join == 0 || capPasses e.ctx true join 2 (capAddr join) 8))

/-- A join word changed by an amount modulo 2^64: an atomic of the block, or the stop (R152, R157). -/
def addJoin (e : Env) (r : Run) (va d : Nat) : Except Stop Run :=
  match globalPlace e.m r e.asker e.ctx va needAt with
  | .error f => .error (f.stop e)
  | .ok p =>
    if poisonedSpan r p 8 then .error (.trap { code := tcEcc, mask := e.active, gran := some (p.key / 8) })
    else .ok (storeNum r e.crew.block p 8 (loadNum r e.crew.block p 8 + d))

/-- A fault of FORK that its record is to blame for: INFO1 names the record's offset, and so does the address of one that has an
address (R152, R323, R325). -/
def forkTrap (e : Env) (code off : Nat) : Stop :=
  .trap { code := code, mask := e.active, addr := if code = tcIllegal then 0 else off, info1 := off }

/-- FORK (R152); in a re-execution it pushes nothing (R322). -/
def wFork (o : OpFork) : WordDef where
  bd := o.bd
  legal := onlyPri
  uses e := { ur := [e.w.uIdx o.sa], uw := [e.w.uIdx o.sd] }
  body e := do
    let off := (e.w.u (e.w.uIdx o.sa)).toNat
    let prot := isProt e.r e.ctx
    if off % 64 ≠ 0 then .error (forkTrap e tcMisaligned off)
    if e.k.pad < off + 64 then .error (forkTrap e tcPermission off)
    let bs := loadBytes e.r e.crew.block (.pad e.cid off) 64
    if !taskRecordOk prot bs then .error (forkTrap e tcIllegal off)
    match taskKernel e.m e.r e.g bs with
    | none => .error (forkTrap e tcIllegal off)
    | some k =>
      if taskCapFault e bs then .error (forkTrap e tcCapability off)
      let answer (r : Run) (x : Nat) : Flow :=
        { run := r.warp e.cid e.wi (fun w => w.setU (e.w.uIdx o.sd) (BitVec.ofNat 32 x)) }
      if e.blk.replay then return answer e.r 0
      if 64 ≤ (e.r.coreSt e.crew.core).deque.length then return answer e.r 1
      let r := openInterval e.r e.crew.block
      let r ← match joinAddr prot (recField bs 16 16) with
        | none => pure r
        | some a => addJoin e r a 1
      return answer (pushTask r e k bs) 0
/-- FORK issued. -/
def execFork (o : OpFork) (s : State) : Outcome := issue (wFork o) s

/-- JOIN (R154): a field that is not of JOINW's form is Illegal Instruction in a raw context, and takes Capability in a
protected one. -/
def wJoin (o : OpJoin) : WordDef where
  bd := o.bd
  legal e := onlyPri e && uGroup e o.sa 4 && (isProt e.r e.ctx || e.w.u64 (e.w.uIdx o.sa + 2) == 0)
  uses e := { ur := uRegs e o.sa 4 }
  body e :=
    let n := e.w.uIdx o.sa
    let x := e.w.quad128 n
    if x = 0 then .ok { run := e.r }
    else
      let prot := isProt e.r e.ctx
      let va := if prot then capAddr x else x
      if prot && !capPasses e.ctx (e.w.utag n) x 0 va 8 then .error (offsetTrap e tcCapability va)
      else
        match watchPlace e va 8 with
        | .error s => .error s
        | .ok p =>
          if poisonedSpan e.r p 8 then .error (.trap { code := tcEcc, mask := e.active, gran := some (p.key / 8) })
          else if loadNum e.r e.crew.block p 8 = 0 then .ok { run := e.r }
          else .error .hold
/-- JOIN issued. -/
def execJoin (o : OpJoin) (s : State) : Outcome := issue (wJoin o) s

/-! ## The window base and flags -/

/-- USWIN (R149). -/
def wUswin (o : OpUswin) : WordDef := warpDef o.bd onlyPri (fun _ => {}) (fun _ w => { w with wb := o.wb })
/-- USWIN issued. -/
def execUswin (o : OpUswin) (s : State) : Outcome := issue (wUswin o) s

/-- AFLCLR (R150). -/
def wAflclr (o : OpAflclr) : WordDef := warpDef o.bd onlyPri (fun _ => {}) (fun e w =>
  e.lanes.foldl (fun w l => { w with afls := wrReg w.afls l (w.afl l &&& ~~~(BitVec.ofNat 8 o.mask)) }) w)
/-- AFLCLR issued. -/
def execAflclr (o : OpAflclr) (s : State) : Outcome := issue (wAflclr o) s

end Sys2Proof.Machine
end

