-- ==== Sys2Proof/Machine/Uniform.lean ====
section
/-! DEFINITION. Uniform arithmetic (R139 to R142): UOPA, UOPB, UOPI and UCMP act once each time a batch issues them,
whatever the run guard holds, and set no flag. -/

namespace Sys2Proof.Machine

/-- Whether every uniform field resolves to an even register when operands are pairs (R15, R140). -/
def evenUnis (e : Env) (fs : List Nat) : Bool := !e.wide || fs.all (fun f => e.w.uIdx f % 2 == 0)

/-- A word of format U (R139, R140): all sources are read before the destination is written. -/
def uniDef (o : OpU) (acc : Accept) (op : LaneOp) : WordDef where
  bd := o.bd
  legal e := ({ mod := true } : HintSet).ok e.b.hints && acc.allows e.mods && evenUnis e [o.sd, o.sa, o.sb]
  uses e :=
    { ur := pair e.wide (e.w.uIdx o.sa) ++ pair e.wide (e.w.uIdx o.sb), uw := pair e.wide (e.w.uIdx o.sd) }
  body e :=
    let x := (op e.mods (e.w.uW e.wide (e.w.uIdx o.sa)) (e.w.uW e.wide (e.w.uIdx o.sb)) 0).1
    .ok { run := e.r.warp e.cid e.wi (fun w => w.setUW e.wide (e.w.uIdx o.sd) x) }

/-- UADD (R140). -/
def wUadd (o : OpU) : WordDef := uniDef o { w64 := true } opIadd
/-- UADD issued. -/
def execUadd (o : OpU) (s : State) : Outcome := issue (wUadd o) s
/-- USUB (R140). -/
def wUsub (o : OpU) : WordDef := uniDef o { w64 := true } opIsub
/-- USUB issued. -/
def execUsub (o : OpU) (s : State) : Outcome := issue (wUsub o) s
/-- UMUL (R140). -/
def wUmul (o : OpU) : WordDef := uniDef o { w64 := true } opImul
/-- UMUL issued. -/
def execUmul (o : OpU) (s : State) : Outcome := issue (wUmul o) s
/-- UMULH (R140). -/
def wUmulh (o : OpU) : WordDef := uniDef o { w64 := true, n := true } opImulh
/-- UMULH issued. -/
def execUmulh (o : OpU) (s : State) : Outcome := issue (wUmulh o) s
/-- UAND (R140). -/
def wUand (o : OpU) : WordDef := uniDef o { w64 := true } opAnd
/-- UAND issued. -/
def execUand (o : OpU) (s : State) : Outcome := issue (wUand o) s
/-- UOR (R140). -/
def wUor (o : OpU) : WordDef := uniDef o { w64 := true } opOr
/-- UOR issued. -/
def execUor (o : OpU) (s : State) : Outcome := issue (wUor o) s
/-- UXOR (R140). -/
def wUxor (o : OpU) : WordDef := uniDef o { w64 := true } opXor
/-- UXOR issued. -/
def execUxor (o : OpU) (s : State) : Outcome := issue (wUxor o) s
/-- UANDN (R140). -/
def wUandn (o : OpU) : WordDef := uniDef o { w64 := true } opAndn
/-- UANDN issued. -/
def execUandn (o : OpU) (s : State) : Outcome := issue (wUandn o) s
/-- USHL (R140). -/
def wUshl (o : OpU) : WordDef := uniDef o { w64 := true } opShl
/-- USHL issued. -/
def execUshl (o : OpU) (s : State) : Outcome := issue (wUshl o) s
/-- USHR (R140). -/
def wUshr (o : OpU) : WordDef := uniDef o { w64 := true } opShr
/-- USHR issued. -/
def execUshr (o : OpU) (s : State) : Outcome := issue (wUshr o) s
/-- USAR (R140). -/
def wUsar (o : OpU) : WordDef := uniDef o { w64 := true } opSar
/-- USAR issued. -/
def execUsar (o : OpU) (s : State) : Outcome := issue (wUsar o) s
/-- UMIN (R140). -/
def wUmin (o : OpU) : WordDef := uniDef o { w64 := true } opImin
/-- UMIN issued. -/
def execUmin (o : OpU) (s : State) : Outcome := issue (wUmin o) s
/-- UMAX (R140). -/
def wUmax (o : OpU) : WordDef := uniDef o { w64 := true } opImax
/-- UMAX issued. -/
def execUmax (o : OpU) (s : State) : Outcome := issue (wUmax o) s
/-- UMINN (R140). -/
def wUminn (o : OpU) : WordDef := uniDef o { w64 := true } opIminn
/-- UMINN issued. -/
def execUminn (o : OpU) (s : State) : Outcome := issue (wUminn o) s
/-- UMAXN (R140). -/
def wUmaxn (o : OpU) : WordDef := uniDef o { w64 := true } opImaxn
/-- UMAXN issued. -/
def execUmaxn (o : OpU) (s : State) : Outcome := issue (wUmaxn o) s

/-- UMOV (R140). -/
def wUmov (o : OpUmov) : WordDef where
  bd := o.bd
  legal e := ({ mod := true } : HintSet).ok e.b.hints && accW64.allows e.mods && evenUnis e [o.sd, o.sa]
  uses e := { ur := pair e.wide (e.w.uIdx o.sa), uw := pair e.wide (e.w.uIdx o.sd) }
  body e :=
    .ok { run := e.r.warp e.cid e.wi (fun w => w.setUW e.wide (e.w.uIdx o.sd) (e.w.uW e.wide (e.w.uIdx o.sa))) }
/-- UMOV issued. -/
def execUmov (o : OpUmov) (s : State) : Outcome := issue (wUmov o) s

/-- The immediate of UOPI: the 14-bit field, or the value of the hints, sign-extended to 64 bits under W64 (R141). -/
def uniImm (e : Env) (imm : Nat) : Nat :=
  let v := if e.b.hints.imm? then e.b.hints.immValue else sextTo 32 14 imm
  if e.wide then sextTo 64 32 v else v

/-- A word of format UI (R141). -/
def uniImmDef (o : OpUI) (op : LaneOp) : WordDef where
  bd := o.bd
  legal e :=
    ({ imm := true, mod := true } : HintSet).ok e.b.hints && accW64.allows e.mods && evenUnis e [o.sd] &&
    (!e.b.hints.imm? || o.imm == 0)
  uses e := { ur := pair e.wide (e.w.uIdx o.sd), uw := pair e.wide (e.w.uIdx o.sd) }
  body e :=
    let x := (op e.mods (e.w.uW e.wide (e.w.uIdx o.sd)) (uniImm e o.imm) 0).1
    .ok { run := e.r.warp e.cid e.wi (fun w => w.setUW e.wide (e.w.uIdx o.sd) x) }

/-- UADDI (R141). -/
def wUaddi (o : OpUI) : WordDef := uniImmDef o opIadd
/-- UADDI issued. -/
def execUaddi (o : OpUI) (s : State) : Outcome := issue (wUaddi o) s
/-- UANDI (R141). -/
def wUandi (o : OpUI) : WordDef := uniImmDef o opAnd
/-- UANDI issued. -/
def execUandi (o : OpUI) (s : State) : Outcome := issue (wUandi o) s
/-- UORI (R141). -/
def wUori (o : OpUI) : WordDef := uniImmDef o opOr
/-- UORI issued. -/
def execUori (o : OpUI) (s : State) : Outcome := issue (wUori o) s
/-- UXORI (R141). -/
def wUxori (o : OpUI) : WordDef := uniImmDef o opXor
/-- UXORI issued. -/
def execUxori (o : OpUI) (s : State) : Outcome := issue (wUxori o) s
/-- USHLI (R141). -/
def wUshli (o : OpUI) : WordDef := uniImmDef o opShl
/-- USHLI issued. -/
def execUshli (o : OpUI) (s : State) : Outcome := issue (wUshli o) s
/-- USHRI (R141). -/
def wUshri (o : OpUI) : WordDef := uniImmDef o opShr
/-- USHRI issued. -/
def execUshri (o : OpUI) (s : State) : Outcome := issue (wUshri o) s
/-- USARI (R141). -/
def wUsari (o : OpUI) : WordDef := uniImmDef o opSar
/-- USARI issued. -/
def execUsari (o : OpUI) (s : State) : Outcome := issue (wUsari o) s
/-- UMOVI (R141). -/
def wUmovi (o : OpUI) : WordDef := uniImmDef o (fun _ _ b _ => pureRes b)
/-- UMOVI issued. -/
def execUmovi (o : OpUI) (s : State) : Outcome := issue (wUmovi o) s

/-- UCMP (R142): 1 or 0 in a single register. -/
def wUcmp (o : OpUC) : WordDef where
  bd := o.bd
  legal e :=
    ({ mod := true } : HintSet).ok e.b.hints && ({ w64 := true, n := true } : Accept).allows e.mods &&
    decide (o.cc < 6) && evenUnis e [o.sa, o.sb]
  uses e :=
    { ur := pair e.wide (e.w.uIdx o.sa) ++ pair e.wide (e.w.uIdx o.sb), uw := [e.w.uIdx o.sd] }
  body e :=
    let a := e.w.uW e.wide (e.w.uIdx o.sa)
    let b := e.w.uW e.wide (e.w.uIdx o.sb)
    let n := opWidth e.mods
    let holds := if e.mods.n = 1 then ccInt o.cc a b else ccInt o.cc (sext n a) (sext n b)
    .ok { run := e.r.warp e.cid e.wi (fun w => w.setU (e.w.uIdx o.sd) (BitVec.ofNat 32 (b2n holds))) }
/-- UCMP issued. -/
def execUcmp (o : OpUC) (s : State) : Outcome := issue (wUcmp o) s

end Sys2Proof.Machine
end

