-- ==== Sys2Proof/Machine/Post.lean ====
section
/-! DEFINITION. Posting and delivery of user interrupts (R361 to R369). -/

namespace Sys2Proof.Machine

/-! ## The interrupt block (R361 to R363) -/

/-- A vector entry: MODE, ROUTE, VFLAGS, GRID and BLOCK (R362). -/
structure VecRoute where
  mode : Nat
  route : Nat
  wake : Bool
  grid : Nat
  block : Nat
deriving DecidableEq, Repr, Inhabited

/-- Vector entry v of an interrupt block. -/
def vecEntry (blk : Mem) (v : Nat) : VecRoute :=
  { mode := Mem.read blk 1 (16 * v), route := Mem.read blk 1 (16 * v + 1), wake := Mem.read blk 1 (16 * v + 2) % 2 == 1,
    grid := Mem.read blk 4 (16 * v + 4), block := Mem.read blk 8 (16 * v + 8) }

/-- Who posts (R363, R364). -/
inductive Sender where
  /-- a block or slice of a context's grid: context key and grid identifier -/
  | here (ctx grid : Nat)
  /-- a queue interface of the PF (0) or of the partition's VF (1) -/
  | host (fn queue : Nat)
  /-- a peer context: peer-table index, partition tag, context -/
  | peer (ix part ctx : Nat)
deriving DecidableEq, Repr, Inhabited

/-- Whether a permission entry names the sender (R363); of ID1, KIND 2 has bits 6:0 and 13:8 alone (R5). -/
def permMatches (blk : Mem) (i : Nat) (from_ : Sender) : Bool :=
  let o := 0x400 + 16 * i
  let kind := Mem.read blk 1 o
  let id0 := Mem.read blk 2 (o + 2)
  let id1 := Mem.read blk 4 (o + 4)
  match from_ with
  | .host fn q => kind == 1 && id0 == fn && (id1 == q || id1 == 0xFFFFFFFF)
  | .peer ix part ctx => kind == 2 && id0 == ix && bits id1 6 0 == part && bits id1 13 8 == ctx
  | .here ctx g => id0 == ctx % 64 && (kind == 3 || (kind == 4 && id1 == g))

/-- Whether a post of vector v is allowed (R363). -/
def allowed (blk : Mem) (ctxKey v : Nat) (from_ : Sender) : Bool :=
  (match from_ with
    | .here c _ => c == ctxKey
    | _ => false) ||
  (List.range 64).any (fun i => permMatches blk i from_ && bitOf (Mem.read blk 8 (0x400 + 16 * i + 8)) v)

/-- The payload after a merge, of a vector that is pending or not (R364). -/
def mergePay (mode old p : Nat) : Nat := match mode with
  | 0 => old ||| p
  | 1 => min (old + p) (2 ^ 32 - 1)
  | _ => p

/-! ## Delivery (R365 to R367) -/

/-- Whether some crew of a block is resident. -/
def blockResident (r : Run) (b : Block) : Bool := b.crews.any (fun c => match Assoc.get? r.crews c with
  | some x => x.status == .resident
  | none => false)

/-- Whether a block has a vector that is pending and not masked. -/
def UserInt.deliverable (u : UserInt) : Bool := u.pending &&& u.mask != 0#64

/-- The lookout's batches held in UIWAIT woken, when a vector can be accepted (R188). -/
def wakeLookout (r : Run) (bk : Nat) : Run :=
  match Assoc.get? r.blocks bk with
  | none => r
  | some b =>
    match b.ui.lookout with
    | none => r
    | some (c, w) =>
      if b.ui.deliverable then
        r.warp c w (fun x =>
          { x with batches := x.batches.map (fun y => if y.wait = .uiwait then { y with wait := .woken } else y) })
      else r

/-- One post merged into a block; a wake vector raises the level at which its crews are readmitted (R334, R364, R367). -/
def mergePost (r : Run) (bk v p mode : Nat) (wake : Bool) : Run :=
  match Assoc.get? r.blocks bk with
  | none => r
  | some _ =>
    let r := r.block bk (fun x =>
      { x with ui := { x.ui with
          payloads := wrReg x.ui.payloads v (BitVec.ofNat 32 (mergePay mode (rdReg x.ui.payloads v).toNat p))
          pending := x.ui.pending ||| (1#64 <<< v)
          wakeRaised := x.ui.wakeRaised || wake }})
    wakeLookout r bk

/-- A post counted in DROPS (R361). -/
def dropPost (r : Run) (ctxKey : Nat) : Run :=
  r.context ctxKey (fun c => { c with intblk := bumpCounter c.intblk 0xE04 1 })

/-- A post put into a held slot, or discarded for want of one (R365). -/
def holdPost (r : Run) (ctxKey ident target v p mode : Nat) : Run :=
  r.context ctxKey (fun c =>
    let valid (i : Nat) : Bool := Mem.read c.intblk 1 (heldOff i + 1) % 2 == 1
    let same (i : Nat) : Bool :=
      valid i && Mem.read c.intblk 1 (heldOff i) == v && Mem.read c.intblk 4 (heldOff i + 8) == ident &&
      Mem.read c.intblk 8 (heldOff i + 16) == target
    match (List.range 64).find? same with
    | some i => { c with intblk := Mem.write c.intblk 4 (heldOff i + 4) (mergePay mode (Mem.read c.intblk 4 (heldOff i + 4)) p) }
    | none =>
      match (List.range 64).find? (fun i => !valid i) with
      | some i =>
        let bs := toBytes 1 v ++ [1, 0, 0] ++ toBytes 4 (mergePay mode 0 p) ++ toBytes 4 ident ++ [0, 0, 0, 0] ++ toBytes 8 target
        { c with intblk := Mem.writeBytes c.intblk (heldOff i) bs }
      | none => { c with intblk := bumpCounter (bumpCounter c.intblk 0xE04 1) 0xE08 1 })

/-- The targets of a held slot that are no block (R365). -/
def heldAny : Nat := 2 ^ 64 - 1
def heldBroadcast : Nat := 2 ^ 64 - 2

/-- The live grid of a context with an identifier. -/
def gridNamed (r : Run) (ctxKey ident : Nat) : Option Nat :=
  (r.grids.find? (fun p => p.2.ctx == ctxKey && p.2.ident == ident && p.2.status.isNone)).map (·.1)

/-- The blocks of a grid that have started, tasks and re-executions apart, by linear index and key. -/
def startedBlocks (r : Run) (gk : Nat) : List (Nat × Nat × Block) :=
  (r.blocks.filter (fun p => p.2.grid == gk && !p.2.isTask && !p.2.replay && p.2.admitted)).map (fun p => (p.2.lin, p.1, p.2))

/-- The blocks of a grid that have started and not ended. -/
def liveStarted (r : Run) (gk : Nat) : List (Nat × Nat × Block) := (startedBlocks r gk).filter (fun p => !p.2.2.ended)

/-- Route BLOCK (R365). -/
def postBlock (r : Run) (ctxKey gk : Nat) (g : Grid) (e : VecRoute) (v p : Nat) : Run :=
  if g.nb ≤ e.block then dropPost r ctxKey
  else
    match (startedBlocks r gk).find? (fun b => b.1 == e.block) with
    | none => holdPost r ctxKey g.ident e.block v p e.mode
    | some (_, bk, b) => if b.ended then dropPost r ctxKey else mergePost r bk v p e.mode e.wake

/-- Route ANY (R366). -/
def postAny (r : Run) (ctxKey gk : Nat) (g : Grid) (e : VecRoute) (v p : Nat) : Run :=
  let live := liveStarted r gk
  let waiting (b : Block) : Bool := match b.ui.lookout with
    | none => false
    | some (c, w) => match Assoc.get? r.crews c with
      | some x => x.status == .resident && (match x.warps[w]? with
        | some y => y.batches.any (fun z => z.wait == .uiwait)
        | none => false)
      | none => false
  let best (f : Block → Bool) : Option (Nat × Nat × Block) := minBy (·.1) (live.filter (fun b => f b.2.2))
  match best waiting with
  | some (_, bk, _) => mergePost r bk v p e.mode e.wake
  | none =>
    match best (blockResident r) with
    | some (_, bk, _) => mergePost r bk v p e.mode e.wake
    | none =>
      match best (fun _ => true) with
      | some (_, bk, _) => mergePost r bk v p e.mode e.wake
      | none =>
        if (startedBlocks r gk).length < g.nb then holdPost r ctxKey g.ident heldAny v p e.mode else dropPost r ctxKey

/-- Route BROADCAST in one grid: its live blocks at once, and one held slot for those that have not started (R365). -/
def postGrid (ctxKey v p : Nat) (e : VecRoute) (r : Run) (gk : Nat) : Run :=
  match Assoc.get? r.grids gk with
  | none => r
  | some g =>
    let started := (startedBlocks r gk).length
    let r := (liveStarted r gk).foldl (fun r b => mergePost r b.2.1 v p e.mode e.wake) r
    if started < g.nb then holdPost r ctxKey g.ident heldBroadcast v p e.mode else r

/-- Whether a broadcast finds a block in a grid, started or not. -/
def reaches (r : Run) (gk : Nat) : Bool := match Assoc.get? r.grids gk with
  | some g => (liveStarted r gk) != [] || decide ((startedBlocks r gk).length < g.nb)
  | none => false

/-- A post to a live context: the run after, and its status (R364). -/
def post (r : Run) (from_ : Sender) (ctxKey v p : Nat) : Run × Nat :=
  match Assoc.get? r.contexts ctxKey with
  | none => (r, 2)
  | some c =>
    if !c.live then (r, 2)
    else if 63 < v then (r, 3)
    else if !allowed c.intblk ctxKey v from_ then
      (r.context ctxKey (fun c => { c with intblk := bumpCounter c.intblk 0xE00 1 }), 1)
    else
      let e := vecEntry c.intblk v
      let named := gridNamed r ctxKey e.grid
      match e.route, named with
      | 1, some gk => (match Assoc.get? r.grids gk with
          | some g => postBlock r ctxKey gk g e v p
          | none => dropPost r ctxKey, 0)
      | 3, some gk => (match Assoc.get? r.grids gk with
          | some g => postAny r ctxKey gk g e v p
          | none => dropPost r ctxKey, 0)
      | 2, _ =>
        let gs := (if e.grid = 0 then liveGrids r ctxKey else named.toList).filter (reaches r)
        (if gs = [] then dropPost r ctxKey else gs.foldl (postGrid ctxKey v p e) r, 0)
      | _, _ => (dropPost r ctxKey, 0)

/-- The held posts of a block that starts merged into it, in ascending slot order (R365): a forked task and a re-execution are no block
that starts. -/
def takeHeld (r : Run) (bk : Nat) : Run :=
  match Assoc.get? r.blocks bk with
  | none => r
  | some b =>
    if b.isTask || b.replay then r
    else match Assoc.get? r.grids b.grid with
    | none => r
    | some g =>
      match Assoc.get? r.contexts g.ctx with
      | none => r
      | some c =>
        let last := decide (g.nb ≤ (startedBlocks r b.grid).length)
        (heldOf c.intblk g.ident).foldl (fun r i =>
          let target := Mem.read c.intblk 8 (heldOff i + 16)
          if target = b.lin ∨ target = heldAny ∨ target = heldBroadcast then
            let v := Mem.read c.intblk 1 (heldOff i)
            let e := vecEntry c.intblk v
            let r := mergePost r bk v (Mem.read c.intblk 4 (heldOff i + 4)) e.mode false
            if target ≠ heldBroadcast ∨ last then
              r.context g.ctx (fun c => { c with intblk := Mem.zero c.intblk (heldOff i) 24 })
            else r
          else r) r

end Sys2Proof.Machine
end

