-- ==== Sys2Proof/Machine/UserIntr.lean ====
section
/-! DEFINITION. The UINT family (R186 to R190) and SVC (R191, R370) of both slices. -/

namespace Sys2Proof.Machine

/-! ## UIPOST (R187) -/

/-- A local post: dropped in a re-execution, with POSTED (R322); else MALFORMED for bits 31:6 of the context word, before the context
is looked up (R187, R364). -/
def localPost (r : Run) (blk : Nat) (g : Grid) (target vec payload : Nat) : Run × Nat :=
  let r := openInterval r blk
  let again := match Assoc.get? r.blocks blk with
    | some b => b.replay
    | none => false
  if again then (r, 0)
  else if bits target 31 6 ≠ 0 then (r, 4)
  else post r (.here g.ctx g.ident) (partOf g.ctx * 64 + target % 64) vec (payload % 2 ^ 32)

/-- UIPOST (R187). -/
def wUipost (o : OpPair) : WordDef where
  bd := o.bd
  la := some o.la
  legal e := priKeep e && uGroup e o.sa 4
  uses e := { ur := uRegs e o.sa 4, uw := [e.w.uIdx o.sd] }
  body e :=
    let k := e.w.uIdx o.sa
    let at_ (i : Nat) : Nat := (e.w.u (k + i)).toNat
    let (r, status) := localPost e.r e.crew.block e.g (at_ 0) (at_ 1) (at_ 2)
    .ok { run := r.warp e.cid e.wi (fun w => w.setU (e.w.uIdx o.sd) (BitVec.ofNat 32 status)) }
/-- UIPOST issued. -/
def execUipost (o : OpPair) (s : State) : Outcome := issue (wUipost o) s

/-- UIPOST of the address slice (R187). -/
def sUipost (o : OpGPair) : SliceDef where
  la := some o.la
  legal _ := decide (o.sa ≤ 61)
  uses _ := { ur := gRegs [o.sa, o.sa + 1, o.sa + 2], uw := gRegs [o.sd] }
  body e :=
    let (r, status) := localPost e.r e.crew.block e.g (e.s.gn o.sa) (e.s.gn (o.sa + 1)) (e.s.gn (o.sa + 2))
    .ok { run := r.slice e.cid (fun s => s.setG o.sd status) }
/-- UIPOST of the address slice issued. -/
def execUipostAslice (o : OpGPair) (s : State) : Outcome := issueSlice (sUipost o) s

/-! ## The lookout's words (R186, R188, R190) -/

/-- Whether the issuing warp is the block's lookout (R186). -/
def isLookout (e : Env) : Bool := e.blk.ui.lookout == some (e.cid, e.wi)

/-- The lowest-numbered vector that can be accepted (R188). -/
def UserInt.next (u : UserInt) : Nat := trailingZeros 64 (u.pending &&& u.mask).toNat

/-- One acceptance: the vector and its payload, and the block's state without them (R188). -/
def UserInt.accept (u : UserInt) : Nat × Word × UserInt :=
  let v := u.next
  (v, rdReg u.payloads v, { u with pending := u.pending &&& ~~~(1#64 <<< v), payloads := wrReg u.payloads v 0 })

/-- The acceptance written to the pair s[SD], s[SD+1] (R188). -/
def acceptTo (e : Env) (sd : Nat) : Run :=
  let (v, p, u) := e.blk.ui.accept
  let r := (openInterval e.r e.crew.block).block e.crew.block (fun b => { b with ui := u })
  r.warp e.cid e.wi (fun w => w.setUs (e.w.uIdx sd) [BitVec.ofNat 32 v, p])

/-- UIWAIT (R188). -/
def wUiwait (o : OpUiwait) : WordDef where
  bd := o.bd
  legal e := priKeep e && isLookout e && uGroup e o.sd 2
  uses e := { uw := uRegs e o.sd 2 }
  body e :=
    .ok (if e.blk.ui.deliverable then { run := acceptTo e o.sd }
      else { run := openInterval e.r e.crew.block, next := .stay .uiwait })
/-- UIWAIT issued. -/
def execUiwait (o : OpUiwait) (s : State) : Outcome := issue (wUiwait o) s

/-- UIACK (R188). -/
def wUiack (o : OpUiack) : WordDef where
  bd := o.bd
  la := some o.la
  legal e := priKeep e && isLookout e && uGroup e o.sd 2
  uses e := { uw := uRegs e o.sd 2 }
  body e :=
    .ok { run := if e.blk.ui.deliverable then acceptTo e o.sd
      else (openInterval e.r e.crew.block).warp e.cid e.wi (fun w => w.setUs (e.w.uIdx o.sd) [0xFFFFFFFF#32, 0#32]) }
/-- UIACK issued. -/
def execUiack (o : OpUiack) (s : State) : Outcome := issue (wUiack o) s

/-- UIMASK (R188). -/
def wUimask (o : OpPair) : WordDef where
  bd := o.bd
  la := some o.la
  legal e := priKeep e && isLookout e && uGroup e o.sd 2 && uGroup e o.sa 2
  uses e := { ur := uRegs e o.sa 2, uw := uRegs e o.sd 2 }
  body e :=
    let old := e.blk.ui.mask.toNat
    let r := e.r.block e.crew.block (fun b => { b with ui := { b.ui with mask := BitVec.ofNat 64 (e.w.u64 (e.w.uIdx o.sa)) }})
    let r := r.warp e.cid e.wi (fun w => w.setUW true (e.w.uIdx o.sd) old)
    .ok { run := wakeLookout r e.crew.block }
/-- UIMASK issued. -/
def execUimask (o : OpPair) (s : State) : Outcome := issue (wUimask o) s

/-- LOOKOUT (R189). -/
def wLookout (o : OpLookout) : WordDef where
  bd := o.bd
  legal e := priKeep e && (o.as == 1 || o.sa == 0)
  uses e := if o.as = 1 then { ur := [e.w.uIdx o.sa] } else {}
  body e :=
    let entry := e.w.u (e.w.uIdx o.sa)
    if o.as = 1 ∧ entry.toNat % 4 ≠ 0 then .error (offsetTrap e tcMisaligned entry.toNat)
    else .ok { run := e.r.block e.crew.block (fun b =>
      { b with ui := { b.ui with lookout := some (e.cid, e.wi), async := if o.as = 1 then some entry else none }}) }
/-- LOOKOUT issued. -/
def execLookout (o : OpLookout) (s : State) : Outcome := issue (wLookout o) s

/-- Whether the batch runs an asynchronous handler (R190). -/
def inDiversion (e : Env) : Bool := match e.w.divrec with
  | some d => e.b.lanes &&& ~~~d.lanes == 0#32
  | none => false

/-- UIRET (R190): each lane goes back to what it was diverted from. -/
def wUiret : WordDef where
  bd := 1
  steers := true
  legal e := priKeep e && isLookout e && inDiversion e
  body e := match e.w.divrec with
    | none => .error (illegal e)
    | some d =>
      let left := d.lanes &&& ~~~e.b.lanes
      .ok { run := e.r.warp e.cid e.wi (fun w =>
              { w with divrec := if left = 0#32 then none else some (d.only left) }),
            next := .resumes [{ (d.only e.b.lanes) with losses := e.b.losses, promoted := e.b.promoted }] }
/-- UIRET issued. -/
def execUiret (s : State) : Outcome := issue wUiret s

/-- A batch diverted to the asynchronous handler of its block (R190, R237). -/
def divert (r : Run) (cid wi : Nat) (b : Batch) (entry : Word) : Run :=
  r.warp cid wi (fun w =>
    let h : Batch := { lanes := b.lanes, pc := entry, losses := 0 }
    { (w.replaceBatch (lowLane b.lanes) [h]) with divrec := some { b with losses := 0, promoted := none } })

/-! ## SVC (R191, R370) -/

/-- The service queue of a partition. -/
def Run.svcQueue (r : Run) (part : Nat) : List Nat := (Assoc.get? r.svcQueues part).getD []

/-- A service call begun: the parameter block's bytes, or the code and address of the trap of R191 or R370; no call
when the partition's queue is full. -/
def beginCall (r : Run) (k : Kernel) (g : Grid) (cid blk : Nat) (who : Option (Nat × Nat)) (n off : Nat) :
    Except (Nat × Nat) (Option (Nat × Run)) :=
  if off % 64 ≠ 0 then .error (tcMisaligned, off)
  else if k.pad < off + 64 then .error (tcPermission, off)
  else
    let bs := loadBytes r blk (.pad cid off) 64
    let bad := poisonedSpan r (.pad cid off) 64
    if !bad && (fieldAt bs 0 1 != n || fieldAt bs 1 1 != 0) then .error (tcService, off)
    else
      let part := partOf g.ctx
      if 256 ≤ (r.svcQueue part).length then .ok none
      else
        let r := openInterval r blk
        let key := Assoc.fresh r.calls
        let call : Call :=
          { part := part, ctx := g.ctx % 64, crew := cid, warp := who, num := n, off := off, block := bs, poisoned := bad }
        .ok (some (key, { r with
          calls := Assoc.set r.calls key call
          svcQueues := Assoc.set r.svcQueues part (r.svcQueue part ++ [key]) }))

/-- SVC (R191). -/
def wSvc (o : OpSvc) : WordDef where
  bd := o.bd
  legal e := priKeep e && decide (o.n ≤ 47)
  uses e := { ur := [e.w.uIdx o.sa] }
  body e :=
    if e.b.wait == .pass then .ok { run := e.r }
    else
      match beginCall e.r e.k e.g e.cid e.crew.block (some (e.wi, e.lead)) o.n (e.w.u (e.w.uIdx o.sa)).toNat with
      | .error (code, addr) => .error (offsetTrap e code addr)
      | .ok none => .error .hold
      | .ok (some (key, r)) => .ok { run := r, next := .stay (.svc key) }
/-- SVC issued. -/
def execSvc (o : OpSvc) (s : State) : Outcome := issue (wSvc o) s

/-- SVC of the address slice (R191). -/
def sSvc (o : OpGSvc) : SliceDef where
  legal _ := decide (o.n ≤ 47)
  uses _ := { ur := gRegs [o.sa] }
  body e :=
    if e.s.wait == .pass then .ok { run := e.r }
    else
      match beginCall e.r e.k e.g e.cid e.crew.block none o.n (e.s.gn o.sa) with
      | .error (code, addr) => .error (sliceTrap code addr)
      | .ok none => .error .hold
      | .ok (some (key, r)) => .ok { run := r, next := .stay (.svc key) }
/-- SVC of the address slice issued. -/
def execSvcAslice (o : OpGSvc) (s : State) : Outcome := issueSlice (sSvc o) s

end Sys2Proof.Machine
end

