-- ==== Sys2Proof/Machine/VecArith.lean ====
section
/-! DEFINITION. The vector arithmetic words of format V (R85 to R103) and the two byte tools BSUBS and BMINU (R128): what
each accepts in HMOD, how its short immediate reads, and its operation in one lane. -/

namespace Sys2Proof.Machine


/-- HMOD of FP32 sums and products and of packed halves (R86). -/
def accFp : Accept := { rnd := true, signA := true, signB := true }
/-- HMOD of FMIN and FMAX (R86). -/
def accMinMax : Accept := { signA := true, signB := true }
/-- HMOD of IADD, ISUB, IMUL and IMAD (R86). -/
def accInt : Accept := { sat := true, w64 := true, n := true, sz := true, signA := true, signB := true }
/-- HMOD of IMULH (R86). -/
def accMulh : Accept := { w64 := true, n := true, signA := true, signB := true }
/-- HMOD of IMIN and IMAX (R86). -/
def accIMin : Accept := { w64 := true, sz := true, signA := true, signB := true }
/-- HMOD of DP4A (R86). -/
def accDp : Accept := { sat := true, n := true, sz := true }
/-- DP4A takes SZ = 00 or 01, and SGN only beside SZ = 01 (R86, R103). -/
def dpMods (m : OpHmod) : Bool := decide (m.sz ≤ 1) && (m.sgn == 0 || m.sz == 1)

/-- FADD (R89): a + b in FP32. -/
def wFadd (o : OpV) : WordDef := vecDef o accFp anyMods .f32 false opFadd
/-- FADD issued. -/
def execFadd (o : OpV) (s : State) : Outcome := issue (wFadd o) s

/-- FSUB (R89): a - b in FP32. -/
def wFsub (o : OpV) : WordDef := vecDef o accFp anyMods .f32 false opFsub
/-- FSUB issued. -/
def execFsub (o : OpV) (s : State) : Outcome := issue (wFsub o) s

/-- FMUL (R89): a times b in FP32. -/
def wFmul (o : OpV) : WordDef := vecDef o accFp anyMods .f32 false opFmul
/-- FMUL issued. -/
def execFmul (o : OpV) (s : State) : Outcome := issue (wFmul o) s

/-- FFMA (R90): a times b plus the old D, rounded once. -/
def wFfma (o : OpV) : WordDef := vecDef o accFp anyMods .f32 true opFfma
/-- FFMA issued. -/
def execFfma (o : OpV) (s : State) : Outcome := issue (wFfma o) s

/-- FMIN (R91): minimumNumber. -/
def wFmin (o : OpV) : WordDef := vecDef o accMinMax anyMods .f32 false opFmin
/-- FMIN issued. -/
def execFmin (o : OpV) (s : State) : Outcome := issue (wFmin o) s

/-- FMAX (R91): maximumNumber. -/
def wFmax (o : OpV) : WordDef := vecDef o accMinMax anyMods .f32 false opFmax
/-- FMAX issued. -/
def execFmax (o : OpV) (s : State) : Outcome := issue (wFmax o) s

/-- HADD2 (R92): two FP16 sums. -/
def wHadd2 (o : OpV) : WordDef := vecDef o accFp anyMods (.packed fp16) false opHadd2
/-- HADD2 issued. -/
def execHadd2 (o : OpV) (s : State) : Outcome := issue (wHadd2 o) s

/-- HMUL2 (R92): two FP16 products. -/
def wHmul2 (o : OpV) : WordDef := vecDef o accFp anyMods (.packed fp16) false opHmul2
/-- HMUL2 issued. -/
def execHmul2 (o : OpV) (s : State) : Outcome := issue (wHmul2 o) s

/-- HFMA2 (R92): two FP16 multiply-adds. -/
def wHfma2 (o : OpV) : WordDef := vecDef o accFp anyMods (.packed fp16) true opHfma2
/-- HFMA2 issued. -/
def execHfma2 (o : OpV) (s : State) : Outcome := issue (wHfma2 o) s

/-- BADD2 (R92): two BF16 sums. -/
def wBadd2 (o : OpV) : WordDef := vecDef o accFp anyMods (.packed bf16) false opBadd2
/-- BADD2 issued. -/
def execBadd2 (o : OpV) (s : State) : Outcome := issue (wBadd2 o) s

/-- BMUL2 (R92): two BF16 products. -/
def wBmul2 (o : OpV) : WordDef := vecDef o accFp anyMods (.packed bf16) false opBmul2
/-- BMUL2 issued. -/
def execBmul2 (o : OpV) (s : State) : Outcome := issue (wBmul2 o) s

/-- BFMA2 (R92): two BF16 multiply-adds. -/
def wBfma2 (o : OpV) : WordDef := vecDef o accFp anyMods (.packed bf16) true opBfma2
/-- BFMA2 issued. -/
def execBfma2 (o : OpV) (s : State) : Outcome := issue (wBfma2 o) s

/-- IADD (R94): a + b. -/
def wIadd (o : OpV) : WordDef := vecDef o accInt intModsOk .int false opIadd
/-- IADD issued. -/
def execIadd (o : OpV) (s : State) : Outcome := issue (wIadd o) s

/-- ISUB (R94): a - b. -/
def wIsub (o : OpV) : WordDef := vecDef o accInt intModsOk .int false opIsub
/-- ISUB issued. -/
def execIsub (o : OpV) (s : State) : Outcome := issue (wIsub o) s

/-- IMUL (R94): the low half of a times b. -/
def wImul (o : OpV) : WordDef := vecDef o accInt intModsOk .int false opImul
/-- IMUL issued. -/
def execImul (o : OpV) (s : State) : Outcome := issue (wImul o) s

/-- IMAD (R94): the low half of a times b plus the old D. -/
def wImad (o : OpV) : WordDef := vecDef o accInt intModsOk .int true opImad
/-- IMAD issued. -/
def execImad (o : OpV) (s : State) : Outcome := issue (wImad o) s

/-- IMULH (R95): the high half of a times b. -/
def wImulh (o : OpV) : WordDef := vecDef o accMulh intModsOk .int false opImulh
/-- IMULH issued. -/
def execImulh (o : OpV) (s : State) : Outcome := issue (wImulh o) s

/-- IMIN (R94): the lesser operand. -/
def wImin (o : OpV) : WordDef := vecDef o accIMin intModsOk .int false opImin
/-- IMIN issued. -/
def execImin (o : OpV) (s : State) : Outcome := issue (wImin o) s

/-- IMAX (R94): the greater operand. -/
def wImax (o : OpV) : WordDef := vecDef o accIMin intModsOk .int false opImax
/-- IMAX issued. -/
def execImax (o : OpV) (s : State) : Outcome := issue (wImax o) s

/-- IMINN (R96): the lesser operand, unsigned. -/
def wIminn (o : OpV) : WordDef := vecDef o accW64 anyMods .int false opIminn
/-- IMINN issued. -/
def execIminn (o : OpV) (s : State) : Outcome := issue (wIminn o) s

/-- IMAXN (R96): the greater operand, unsigned. -/
def wImaxn (o : OpV) : WordDef := vecDef o accW64 anyMods .int false opImaxn
/-- IMAXN issued. -/
def execImaxn (o : OpV) (s : State) : Outcome := issue (wImaxn o) s

/-- AND (R99). -/
def wAnd (o : OpV) : WordDef := vecDef o accW64 anyMods .int false opAnd
/-- AND issued. -/
def execAnd (o : OpV) (s : State) : Outcome := issue (wAnd o) s

/-- OR (R99). -/
def wOr (o : OpV) : WordDef := vecDef o accW64 anyMods .int false opOr
/-- OR issued. -/
def execOr (o : OpV) (s : State) : Outcome := issue (wOr o) s

/-- XOR (R99). -/
def wXor (o : OpV) : WordDef := vecDef o accW64 anyMods .int false opXor
/-- XOR issued. -/
def execXor (o : OpV) (s : State) : Outcome := issue (wXor o) s

/-- ANDN (R99): a and not b. -/
def wAndn (o : OpV) : WordDef := vecDef o accW64 anyMods .int false opAndn
/-- ANDN issued. -/
def execAndn (o : OpV) (s : State) : Outcome := issue (wAndn o) s

/-- SHL (R100). -/
def wShl (o : OpV) : WordDef := vecDef o accW64 anyMods .int false opShl
/-- SHL issued. -/
def execShl (o : OpV) (s : State) : Outcome := issue (wShl o) s

/-- SHR (R100). -/
def wShr (o : OpV) : WordDef := vecDef o accW64 anyMods .int false opShr
/-- SHR issued. -/
def execShr (o : OpV) (s : State) : Outcome := issue (wShr o) s

/-- SAR (R100). -/
def wSar (o : OpV) : WordDef := vecDef o accW64 anyMods .int false opSar
/-- SAR issued. -/
def execSar (o : OpV) (s : State) : Outcome := issue (wSar o) s

/-- FUNL (R101): the high word of a:d shifted left. -/
def wFunl (o : OpV) : WordDef := vecDef o {} anyMods .int true opFunl
/-- FUNL issued. -/
def execFunl (o : OpV) (s : State) : Outcome := issue (wFunl o) s

/-- PRMT (R102): bytes of a and the old D chosen by b. -/
def wPrmt (o : OpV) : WordDef := vecDef o {} anyMods .int true opPrmt
/-- PRMT issued. -/
def execPrmt (o : OpV) (s : State) : Outcome := issue (wPrmt o) s

/-- DP4A (R103): four byte products added to the old D. -/
def wDp4a (o : OpV) : WordDef := vecDef o accDp dpMods .int true opDp4a
/-- DP4A issued. -/
def execDp4a (o : OpV) (s : State) : Outcome := issue (wDp4a o) s

/-- BSUBS (R128): byte differences, no less than 0. -/
def wBsubs (o : OpV) : WordDef := vecDef o {} anyMods .int false opBsubs
/-- BSUBS issued. -/
def execBsubs (o : OpV) (s : State) : Outcome := issue (wBsubs o) s

/-- BMINU (R128): byte minima. -/
def wBminu (o : OpV) : WordDef := vecDef o {} anyMods .int false opBminu
/-- BMINU issued. -/
def execBminu (o : OpV) (s : State) : Outcome := issue (wBminu o) s

end Sys2Proof.Machine
end

