-- ==== Sys2Proof/Machine/VecUnary.lean ====
section
/-! DEFINITION. The one-operand words of VUN (R107 to R113), SETLNK, the compares and class test (R118, R119), predicate
logic and moves under a predicate (R120, R121). -/

namespace Sys2Proof.Machine

/-- HMOD of INEG and IABS (R108). -/
def accNeg : Accept := { sat := true, w64 := true }
/-- HMOD of FRCP, FSQRT, FRINT, CVTFI and CVTFN (R108). -/
def accRndA : Accept := { rnd := true, signA := true }
/-- HMOD of the functions of a fixed rounding (R108). -/
def accA : Accept := { signA := true }
/-- HMOD of CVTIF and CVTNF (R108). -/
def accRnd : Accept := { rnd := true }

/-- MOV (R109). -/
def wMov (o : OpVU) : WordDef := vunDef o accW64 .int opMov
/-- MOV issued. -/
def execMov (o : OpVU) (s : State) : Outcome := issue (wMov o) s

/-- NOT (R109). -/
def wNot (o : OpVU) : WordDef := vunDef o accW64 .int opNot
/-- NOT issued. -/
def execNot (o : OpVU) (s : State) : Outcome := issue (wNot o) s

/-- INEG (R109). -/
def wIneg (o : OpVU) : WordDef := vunDef o accNeg .int opIneg
/-- INEG issued. -/
def execIneg (o : OpVU) (s : State) : Outcome := issue (wIneg o) s

/-- IABS (R109). -/
def wIabs (o : OpVU) : WordDef := vunDef o accNeg .int opIabs
/-- IABS issued. -/
def execIabs (o : OpVU) (s : State) : Outcome := issue (wIabs o) s

/-- POPC (R109). -/
def wPopc (o : OpVU) : WordDef := vunDef o accW64 .int opPopc
/-- POPC issued. -/
def execPopc (o : OpVU) (s : State) : Outcome := issue (wPopc o) s

/-- CLZ (R109). -/
def wClz (o : OpVU) : WordDef := vunDef o accW64 .int opClz
/-- CLZ issued. -/
def execClz (o : OpVU) (s : State) : Outcome := issue (wClz o) s

/-- CTZ (R109). -/
def wCtz (o : OpVU) : WordDef := vunDef o accW64 .int opCtz
/-- CTZ issued. -/
def execCtz (o : OpVU) (s : State) : Outcome := issue (wCtz o) s

/-- BREV (R109). -/
def wBrev (o : OpVU) : WordDef := vunDef o accW64 .int opBrev
/-- BREV issued. -/
def execBrev (o : OpVU) (s : State) : Outcome := issue (wBrev o) s

/-- SEXT8 (R109). -/
def wSext8 (o : OpVU) : WordDef := vunDef o {} .int opSext8
/-- SEXT8 issued. -/
def execSext8 (o : OpVU) (s : State) : Outcome := issue (wSext8 o) s

/-- SEXT16 (R109). -/
def wSext16 (o : OpVU) : WordDef := vunDef o {} .int opSext16
/-- SEXT16 issued. -/
def execSext16 (o : OpVU) (s : State) : Outcome := issue (wSext16 o) s

/-- BSWAP (R109). -/
def wBswap (o : OpVU) : WordDef := vunDef o accW64 .int opBswap
/-- BSWAP issued. -/
def execBswap (o : OpVU) (s : State) : Outcome := issue (wBswap o) s

/-- FNEG (R111). -/
def wFneg (o : OpVU) : WordDef := vunDef o {} .f32 opFneg
/-- FNEG issued. -/
def execFneg (o : OpVU) (s : State) : Outcome := issue (wFneg o) s

/-- FABS (R111). -/
def wFabs (o : OpVU) : WordDef := vunDef o {} .f32 opFabs
/-- FABS issued. -/
def execFabs (o : OpVU) (s : State) : Outcome := issue (wFabs o) s

/-- FRCP (R43). -/
def wFrcp (o : OpVU) : WordDef := vunDef o accRndA .f32 (special .rcp)
/-- FRCP issued. -/
def execFrcp (o : OpVU) (s : State) : Outcome := issue (wFrcp o) s

/-- FRSQ (R43). -/
def wFrsq (o : OpVU) : WordDef := vunDef o accA .f32 (special .rsq)
/-- FRSQ issued. -/
def execFrsq (o : OpVU) (s : State) : Outcome := issue (wFrsq o) s

/-- FSQRT (R43). -/
def wFsqrt (o : OpVU) : WordDef := vunDef o accRndA .f32 (special .sqrt)
/-- FSQRT issued. -/
def execFsqrt (o : OpVU) (s : State) : Outcome := issue (wFsqrt o) s

/-- FEXP2 (R43). -/
def wFexp2 (o : OpVU) : WordDef := vunDef o accA .f32 (special .exp2)
/-- FEXP2 issued. -/
def execFexp2 (o : OpVU) (s : State) : Outcome := issue (wFexp2 o) s

/-- FLOG2 (R43). -/
def wFlog2 (o : OpVU) : WordDef := vunDef o accA .f32 (special .log2)
/-- FLOG2 issued. -/
def execFlog2 (o : OpVU) (s : State) : Outcome := issue (wFlog2 o) s

/-- FSIN (R43). -/
def wFsin (o : OpVU) : WordDef := vunDef o accA .f32 (special .sin)
/-- FSIN issued. -/
def execFsin (o : OpVU) (s : State) : Outcome := issue (wFsin o) s

/-- FCOS (R43). -/
def wFcos (o : OpVU) : WordDef := vunDef o accA .f32 (special .cos)
/-- FCOS issued. -/
def execFcos (o : OpVU) (s : State) : Outcome := issue (wFcos o) s

/-- FTANH (R43). -/
def wFtanh (o : OpVU) : WordDef := vunDef o accA .f32 (special .tanh)
/-- FTANH issued. -/
def execFtanh (o : OpVU) (s : State) : Outcome := issue (wFtanh o) s

/-- FFLOOR (R111). -/
def wFfloor (o : OpVU) : WordDef := vunDef o accA .f32 (integral .rdn)
/-- FFLOOR issued. -/
def execFfloor (o : OpVU) (s : State) : Outcome := issue (wFfloor o) s

/-- FCEIL (R111). -/
def wFceil (o : OpVU) : WordDef := vunDef o accA .f32 (integral .rup)
/-- FCEIL issued. -/
def execFceil (o : OpVU) (s : State) : Outcome := issue (wFceil o) s

/-- FTRUNC (R111). -/
def wFtrunc (o : OpVU) : WordDef := vunDef o accA .f32 (integral .rtz)
/-- FTRUNC issued. -/
def execFtrunc (o : OpVU) (s : State) : Outcome := issue (wFtrunc o) s

/-- FRINT (R111). -/
def wFrint (o : OpVU) : WordDef := vunDef o accRndA .f32 opFrint
/-- FRINT issued. -/
def execFrint (o : OpVU) (s : State) : Outcome := issue (wFrint o) s

/-- CVTIF (R112). -/
def wCvtif (o : OpVU) : WordDef := vunDef o accRnd .int opCvtif
/-- CVTIF issued. -/
def execCvtif (o : OpVU) (s : State) : Outcome := issue (wCvtif o) s

/-- CVTNF (R112). -/
def wCvtnf (o : OpVU) : WordDef := vunDef o accRnd .int opCvtnf
/-- CVTNF issued. -/
def execCvtnf (o : OpVU) (s : State) : Outcome := issue (wCvtnf o) s

/-- CVTFI (R112). -/
def wCvtfi (o : OpVU) : WordDef := vunDef o accRndA .f32 opCvtfi
/-- CVTFI issued. -/
def execCvtfi (o : OpVU) (s : State) : Outcome := issue (wCvtfi o) s

/-- CVTFN (R112). -/
def wCvtfn (o : OpVU) : WordDef := vunDef o accRndA .f32 opCvtfn
/-- CVTFN issued. -/
def execCvtfn (o : OpVU) (s : State) : Outcome := issue (wCvtfn o) s

/-- CVTHFL (R113). -/
def wCvthfl (o : OpVU) : WordDef := vunDef o {} (.packed fp16) (widenHalf fp16 0)
/-- CVTHFL issued. -/
def execCvthfl (o : OpVU) (s : State) : Outcome := issue (wCvthfl o) s

/-- CVTHFH (R113). -/
def wCvthfh (o : OpVU) : WordDef := vunDef o {} (.packed fp16) (widenHalf fp16 1)
/-- CVTHFH issued. -/
def execCvthfh (o : OpVU) (s : State) : Outcome := issue (wCvthfh o) s

/-- CVTBFL (R113). -/
def wCvtbfl (o : OpVU) : WordDef := vunDef o {} (.packed bf16) (widenHalf bf16 0)
/-- CVTBFL issued. -/
def execCvtbfl (o : OpVU) (s : State) : Outcome := issue (wCvtbfl o) s

/-- CVTBFH (R113). -/
def wCvtbfh (o : OpVU) : WordDef := vunDef o {} (.packed bf16) (widenHalf bf16 1)
/-- CVTBFH issued. -/
def execCvtbfh (o : OpVU) (s : State) : Outcome := issue (wCvtbfh o) s

/-- SETLNK (R110): the operand becomes the LNK of each active lane. -/
def wSetlnk (o : OpSetLnk) : WordDef where
  bd := o.bd
  legal e :=
    ({ imm := o.fm == 2, ext := true, xa := o.fm == 0, keep := true } : HintSet).ok e.b.hints && fmLegal e o.fm o.a e.xa false
  uses e := { vr := fmVecs o.fm o.a e.xa false, ur := fmUnis e o.fm o.a false }
  pops _ := fmPops o.fm o.a
  body e :=
    .ok { run := (popQueue e.r e.cid (fmPops o.fm o.a)).warp e.cid e.wi (fun w =>
      e.lanes.foldl (fun w l => w.setLnk l (BitVec.ofNat 32 (fmValue e o.fm o.a e.xa .int false l))) w) }
/-- SETLNK issued. -/
def execSetlnk (o : OpSetLnk) (s : State) : Outcome := issue (wSetlnk o) s

/-! ## Compares (R118, R119) -/

/-- FCMP (R118). -/
def wFcmp (o : OpP) : WordDef :=
  cmpDef o { signA := true, signB := true } anyMods 8 .f32 (fun m a b => fcmpLane o.cc m a b)
/-- FCMP issued. -/
def execFcmp (o : OpP) (s : State) : Outcome := issue (wFcmp o) s

/-- ICMP (R118): signed, or of the SZ and SGN type. -/
def wIcmp (o : OpP) : WordDef :=
  cmpDef o { w64 := true, sz := true } (fun m => (m.w64 == 0 || m.sz == 0) && (m.sgn == 0 || m.sz != 0)) 6 .int
    (fun m a b => (ccInt o.cc (readInt m a) (readInt m b), flNone))
/-- ICMP issued. -/
def execIcmp (o : OpP) (s : State) : Outcome := issue (wIcmp o) s

/-- ICMPN (R118): unsigned. -/
def wIcmpn (o : OpP) : WordDef :=
  cmpDef o accW64 anyMods 6 .int (fun m a b => (ccInt o.cc (zext (opWidth m) a : Nat) (zext (opWidth m) b : Nat), flNone))
/-- ICMPN issued. -/
def execIcmpn (o : OpP) (s : State) : Outcome := issue (wIcmpn o) s

/-- A word that writes one predicate in the active lanes by a test of each. -/
def predWrite (e : Env) (pd : Nat) (f : Nat → Bool) : Run :=
  e.r.warp e.cid e.wi (fun w => w.setPredMask pd e.active (maskOf (e.lanes.filter f)))

/-- FCLASS (R119). -/
def wFclass (o : OpFclass) : WordDef where
  bd := o.bd
  legal e := ({ xa := true, keep := true } : HintSet).ok e.b.hints
  uses e := { vr := [o.a + 128 * e.xa], pw := [o.pd] }
  body e :=
    .ok { run := predWrite e o.pd (fun l => fclassBits (e.w.v l (o.a + 128 * e.xa)).toNat &&& o.mask != 0) }
/-- FCLASS issued. -/
def execFclass (o : OpFclass) (s : State) : Outcome := issue (wFclass o) s

/-- PLOP (R120). -/
def wPlop (o : OpPL) : WordDef where
  bd := o.bd
  legal e :=
    ({ keep := true } : HintSet).ok e.b.hints && (o.lop != 6 || o.pb == 0) &&
    (o.lop != 7 || (o.pb == 0 && decide (o.pa ≤ 1)))
  uses _ := { pr := if o.lop = 7 then [] else if o.lop = 6 then [o.pa] else [o.pa, o.pb], pw := [o.pd] }
  body e :=
    .ok { run := predWrite e o.pd (fun l =>
      if o.lop = 7 then o.pa % 2 == 1 else plopBit o.lop (e.w.p l o.pa) (e.w.p l o.pb)) }
/-- PLOP issued. -/
def execPlop (o : OpPL) (s : State) : Outcome := issue (wPlop o) s

/-- CMOV (R121). -/
def wCmov (o : OpCM) : WordDef where
  bd := o.bd
  legal e :=
    ({ mod := true, keep := true } : HintSet).ok e.b.hints && accW64.allows e.mods &&
    (!e.wide || (o.d % 2 == 0 && o.a % 2 == 0))
  uses e := { vr := pair e.wide o.a, vw := pair e.wide o.d, pr := [o.ps] }
  body e :=
    .ok { run := e.r.warp e.cid e.wi (fun w =>
      (e.lanes.filter (fun l => e.w.p l o.ps != (o.n == 1))).foldl
        (fun w l => w.setVW e.wide l o.d (e.w.vW e.wide l o.a)) w) }
/-- CMOV issued. -/
def execCmov (o : OpCM) (s : State) : Outcome := issue (wCmov o) s

end Sys2Proof.Machine
end

