-- ==== Sys2Proof/Machine/Words.lean ====
section
/-! DEFINITION. Which word each instruction is, for the parties that judge a word before it issues (R228, R234). -/

namespace Sys2Proof.Machine

/-- The compute-slice word that an instruction is. -/
def wordDef : Instr → Option WordDef
  | .fadd o => some (wFadd o)
  | .fsub o => some (wFsub o)
  | .fmul o => some (wFmul o)
  | .ffma o => some (wFfma o)
  | .fmin o => some (wFmin o)
  | .fmax o => some (wFmax o)
  | .hadd2 o => some (wHadd2 o)
  | .hmul2 o => some (wHmul2 o)
  | .hfma2 o => some (wHfma2 o)
  | .badd2 o => some (wBadd2 o)
  | .bmul2 o => some (wBmul2 o)
  | .bfma2 o => some (wBfma2 o)
  | .iadd o => some (wIadd o)
  | .isub o => some (wIsub o)
  | .imul o => some (wImul o)
  | .imad o => some (wImad o)
  | .imulh o => some (wImulh o)
  | .imin o => some (wImin o)
  | .imax o => some (wImax o)
  | .iminn o => some (wIminn o)
  | .imaxn o => some (wImaxn o)
  | .and o => some (wAnd o)
  | .or o => some (wOr o)
  | .xor o => some (wXor o)
  | .andn o => some (wAndn o)
  | .shl o => some (wShl o)
  | .shr o => some (wShr o)
  | .sar o => some (wSar o)
  | .funl o => some (wFunl o)
  | .prmt o => some (wPrmt o)
  | .dp4a o => some (wDp4a o)
  | .bsubs o => some (wBsubs o)
  | .bminu o => some (wBminu o)
  | .nlutl o => some (wNlutl o)
  | .nluth o => some (wNluth o)
  | .prevb o => some (wPrevb o)
  | .mov o => some (wMov o)
  | .not o => some (wNot o)
  | .ineg o => some (wIneg o)
  | .iabs o => some (wIabs o)
  | .popc o => some (wPopc o)
  | .clz o => some (wClz o)
  | .ctz o => some (wCtz o)
  | .brev o => some (wBrev o)
  | .sext8 o => some (wSext8 o)
  | .sext16 o => some (wSext16 o)
  | .bswap o => some (wBswap o)
  | .setlnk o => some (wSetlnk o)
  | .fneg o => some (wFneg o)
  | .fabs o => some (wFabs o)
  | .frcp o => some (wFrcp o)
  | .frsq o => some (wFrsq o)
  | .fsqrt o => some (wFsqrt o)
  | .fexp2 o => some (wFexp2 o)
  | .flog2 o => some (wFlog2 o)
  | .fsin o => some (wFsin o)
  | .fcos o => some (wFcos o)
  | .ftanh o => some (wFtanh o)
  | .ffloor o => some (wFfloor o)
  | .fceil o => some (wFceil o)
  | .ftrunc o => some (wFtrunc o)
  | .frint o => some (wFrint o)
  | .cvtif o => some (wCvtif o)
  | .cvtnf o => some (wCvtnf o)
  | .cvtfi o => some (wCvtfi o)
  | .cvtfn o => some (wCvtfn o)
  | .cvthfl o => some (wCvthfl o)
  | .cvthfh o => some (wCvthfh o)
  | .cvtbfl o => some (wCvtbfl o)
  | .cvtbfh o => some (wCvtbfh o)
  | .pack4 o => some (wPack4 o)
  | .pack2 o => some (wPack2 o)
  | .unpack8 o => some (wUnpack8 o)
  | .unpack16 o => some (wUnpack16 o)
  | .scale o => some (wScale o)
  | .fcmp o => some (wFcmp o)
  | .icmp o => some (wIcmp o)
  | .icmpn o => some (wIcmpn o)
  | .fclass o => some (wFclass o)
  | .plop o => some (wPlop o)
  | .cmov o => some (wCmov o)
  | .shfl o => some (wShfl o)
  | .voteAll o => some (wVoteAll o)
  | .voteAny o => some (wVoteAny o)
  | .voteEq o => some (wVoteEq o)
  | .ballot o => some (wBallot o)
  | .redux o => some (wRedux o)
  | .sread o => some (wSread o)
  | .bcast o => some (wBcast o)
  | .lanex o => some (wLanex o)
  | .vgeti o => some (wVgeti o)
  | .vputi o => some (wVputi o)
  | .ld o => some (wLd o)
  | .st o => some (wSt o)
  | .atom o => some (wAtom o)
  | .qpop o => some (wQpop o)
  | .qpops o => some (wQpops o)
  | .qpush o => some (wQpush o)
  | .qpeek o => some (wQpeek o)
  | .qstat o => some (wQstat o)
  | .qdrop o => some (wQdrop o)
  | .rawait o => some (wRawait o)
  | .rrel o => some (wRrel o)
  | .rstat o => some (wRstat o)
  | .waitc o => some (wWaitc o)
  | .cntrd o => some (wCntrd o)
  | .gather o => some (wGather o)
  | .creduce o => some (wCreduce o)
  | .msign o => some (wMsign o)
  | .mclr o => some (wMclr o)
  | .mstat o => some (wMstat o)
  | .bar o => some (wBar o)
  | .barn o => some (wBarn o)
  | .fence o => some (wFence o)
  | .arrive o => some (wArrive o)
  | .await o => some (wAwait o)
  | .tjoin o => some (wTjoin o)
  | .tleave o => some (wTleave o)
  | .gridwait o => some (wGridwait o)
  | .trigger o => some (wTrigger o)
  | .mwait o => some (wMwait o)
  | .uipost o => some (wUipost o)
  | .uipostAslice _ => none
  | .uiwait o => some (wUiwait o)
  | .uiack o => some (wUiack o)
  | .uimask o => some (wUimask o)
  | .lookout o => some (wLookout o)
  | .svc o => some (wSvc o)
  | .svcAslice _ => none
  | .capld o => some (wCapld o)
  | .capst o => some (wCapst o)
  | .capnarrow o => some (wCapnarrow o)
  | .capchk o => some (wCapchk o)
  | .capldAslice _ => none
  | .capstAslice _ => none
  | .capnarrowAslice _ => none
  | .capchkAslice _ => none
  | .brc o => some (wBrc o)
  | .jmp o => some (wJmp o)
  | .call o => some (wCall o)
  | .jmpr o => some (wJmpr o)
  | .himm o => some (wHimm o)
  | .himmx o => some (wHimmx o)
  | .hmod o => some (wHmod o)
  | .hgrd o => some (wHgrd o)
  | .hxb o => some (wHxb o)
  | .hadr o => some (wHadr o)
  | .hkeep o => some (wHkeep o)
  | .hpri o => some (wHpri o)
  | .uadd o => some (wUadd o)
  | .usub o => some (wUsub o)
  | .umul o => some (wUmul o)
  | .umulh o => some (wUmulh o)
  | .uand o => some (wUand o)
  | .uor o => some (wUor o)
  | .uxor o => some (wUxor o)
  | .uandn o => some (wUandn o)
  | .ushl o => some (wUshl o)
  | .ushr o => some (wUshr o)
  | .usar o => some (wUsar o)
  | .umin o => some (wUmin o)
  | .umax o => some (wUmax o)
  | .uminn o => some (wUminn o)
  | .umaxn o => some (wUmaxn o)
  | .umov o => some (wUmov o)
  | .uaddi o => some (wUaddi o)
  | .uandi o => some (wUandi o)
  | .uori o => some (wUori o)
  | .uxori o => some (wUxori o)
  | .ushli o => some (wUshli o)
  | .ushri o => some (wUshri o)
  | .usari o => some (wUsari o)
  | .umovi o => some (wUmovi o)
  | .ucmp o => some (wUcmp o)
  | .nop o => some (wNop o)
  | .trapfence o => some (wTrapfence o)
  | .trap o => some (wTrap o)
  | .bkpt o => some (wBkpt o)
  | .xacq o => some (wXacq o)
  | .xrel o => some (wXrel o)
  | .fork o => some (wFork o)
  | .join o => some (wJoin o)
  | .uswin o => some (wUswin o)
  | .yield o => some (wYield o)
  | .aflclr o => some (wAflclr o)
  | .gadd _ => none
  | .gsub _ => none
  | .gmul _ => none
  | .gmulh _ => none
  | .gand _ => none
  | .gor _ => none
  | .gxor _ => none
  | .gshl _ => none
  | .gshr _ => none
  | .gsar _ => none
  | .gmin _ => none
  | .gmax _ => none
  | .gminn _ => none
  | .gmaxn _ => none
  | .gslt _ => none
  | .gsltn _ => none
  | .gaddi _ => none
  | .gandi _ => none
  | .gori _ => none
  | .gxori _ => none
  | .gshli _ => none
  | .gshri _ => none
  | .gsari _ => none
  | .gslti _ => none
  | .gmovi _ => none
  | .gmovk _ => none
  | .gld _ => none
  | .gst _ => none
  | .gldq _ => none
  | .gldqv _ => none
  | .gqpush _ => none
  | .gqpop _ => none
  | .gqtry _ => none
  | .gqclose _ => none
  | .gqstat _ => none
  | .gbeqz _ => none
  | .gbnez _ => none
  | .gbltz _ => none
  | .gbgez _ => none
  | .gbgtz _ => none
  | .gblez _ => none
  | .gjmp _ => none
  | .gcall _ => none
  | .gret _ => none
  | .gexit _ => none
  | .cstart _ => none
  | .cwait _ => none
  | .cquery _ => none
  | .rfree _ => none
  | .rarm _ => none
  | .rpeek _ => none
  | .gfence _ => none
  | .garrive _ => none
  | .gmwait _ => none
  | .gatom _ => none
  | .gtrap _ => none
  | .gsread _ => none
  | .gwaitc _ => none
  | .gyield _ => none
  | .uiret => some wUiret
  | .ret => some wRet
  | .exit => some wExit
  | .gnop => none
  | .arbitration => none
  | .lookoutDiversion => none
  | .xacqGrant => none
  | .crewAdmission => none
  | .blockPlacement => none
  | .taskSteal => none
  | .eviction => none
  | .crewRestore => none
  | .ldCompletion => none
  | .stAcknowledgement => none
  | .atomCompletion => none
  | .gldCompletion => none
  | .queueEntryFill => none
  | .copyElementReach => none
  | .copyArrival => none
  | .copyCompletion => none
  | .gatherCompletion => none
  | .creduceRetirement => none
  | .merge => none
  | .matrixCompletion => none
  | .matrixFault => none
  | .mclrCompletion => none
  | .readoutCompletion => none
  | .mwaitObserve => none
  | .thresholdWindow => none
  | .thresholdSumClear => none
  | .governorWindow => none
  | .notifyWrite => none
  | .launch => none
  | .waitEvent => none
  | .signal => none
  | .uipostPacket => none
  | .peerPost => none
  | .cheadWrite => none
  | .qctlWrite => none
  | .remapTimer => none
  | .ctxctlCreate => none
  | .ctxctlDestroy => none
  | .ctxctlReserved => none
  | .invctlPages => none
  | .invctlContext => none
  | .invctlFunction => none
  | .invalidationDone => none
  | .renew => none
  | .claim => none
  | .leaseExpiry => none
  | .pxdoneWrite => none
  | .dbgctlHalt => none
  | .dbgctlResume => none
  | .snaptrig => none
  | .snapclr => none
  | .snapshotLatch => none
  | .teldataRead => none
  | .registerWrite => none
  | .create => none
  | .destroy => none
  | .grow => none
  | .shrink => none
  | .compact => none
  | .setShare => none
  | .setCaps => none
  | .errlogRead => none
  | .droplogRead => none
  | .snapRead => none
  | .snapClear => none
  | .shapeRead => none
  | .fwLoad => none
  | .mailboxUnknown => none
  | .tileFailing => none
  | .coreReplaced => none
  | .channelDropped => none
  | .droopTrip => none
  | .clockStepUp => none
  | .characterisationComplete => none
  | .scrubComplete => none
  | .reset => none
  | .atsTranslationCompletion => none
  | .prgResponse => none
  | .atsInvalidateRequest => none
  | .vfReset => none
  | .lockInterfaceRequest => none
  | .getVersion => none
  | .getCapabilities => none
  | .negotiateAlgorithms => none
  | .getDigests => none
  | .getCertificate => none
  | .challenge => none
  | .getMeasurements => none
  | .keyExchange => none
  | .finish => none
  | .heartbeat => none
  | .keyUpdate => none
  | .endSession => none
  | .vendorDefined => none
  | .unsupportedRequest => none
  | .ideStreamViolation => none
  | .memAlloc => none
  | .memFree => none
  | .memMap => none
  | .memUnmap => none
  | .memProtect => none
  | .memQuery => none
  | .capMint => none
  | .capRevoke => none
  | .pinHost => none
  | .unpinHost => none
  | .gridLaunch => none
  | .gridQuery => none
  | .gridCancel => none
  | .eventCreate => none
  | .eventSignal => none
  | .eventWait => none
  | .queueInfo => none
  | .detRecordFetch => none
  | .uiVectorSet => none
  | .uiPermit => none
  | .uiRevoke => none
  | .uiRoute => none
  | .uiQuery => none
  | .uiPostRemote => none
  | .fileOpen => none
  | .fileRead => none
  | .fileWrite => none
  | .fileClose => none
  | .fileStat => none
  | .fileSeek => none
  | .dirList => none
  | .fileSync => none
  | .netConnect => none
  | .netAccept => none
  | .netSend => none
  | .netRecv => none
  | .netPoll => none
  | .netClose => none
  | .logWrite => none
  | .counterRead => none
  | .attestQuote => none
  | .reportFetch => none
  | .clockInfo => none
  | .random => none
  | .dbgHaltSelf => none
  | .dbgNotify => none
  | .ctxYield => none
  | .ctxExit => none
  | .powerLoss => none
  | .thermalMonitorTrip => none
  | .powerEnvelope => none
  | .coolantOutOfRange => none
  | .linkRetrain => none
  | .hostAccess => none
  | .peerAccess => none
  | .peerModuleUnreachable => none
  | .msixVectorUnmask => none
  | .priEnable => none
  | .hostResume => none

/-- The address-slice word that an instruction is. -/
def sliceDef : Instr → Option SliceDef
  | .fadd _ => none
  | .fsub _ => none
  | .fmul _ => none
  | .ffma _ => none
  | .fmin _ => none
  | .fmax _ => none
  | .hadd2 _ => none
  | .hmul2 _ => none
  | .hfma2 _ => none
  | .badd2 _ => none
  | .bmul2 _ => none
  | .bfma2 _ => none
  | .iadd _ => none
  | .isub _ => none
  | .imul _ => none
  | .imad _ => none
  | .imulh _ => none
  | .imin _ => none
  | .imax _ => none
  | .iminn _ => none
  | .imaxn _ => none
  | .and _ => none
  | .or _ => none
  | .xor _ => none
  | .andn _ => none
  | .shl _ => none
  | .shr _ => none
  | .sar _ => none
  | .funl _ => none
  | .prmt _ => none
  | .dp4a _ => none
  | .bsubs _ => none
  | .bminu _ => none
  | .nlutl _ => none
  | .nluth _ => none
  | .prevb _ => none
  | .mov _ => none
  | .not _ => none
  | .ineg _ => none
  | .iabs _ => none
  | .popc _ => none
  | .clz _ => none
  | .ctz _ => none
  | .brev _ => none
  | .sext8 _ => none
  | .sext16 _ => none
  | .bswap _ => none
  | .setlnk _ => none
  | .fneg _ => none
  | .fabs _ => none
  | .frcp _ => none
  | .frsq _ => none
  | .fsqrt _ => none
  | .fexp2 _ => none
  | .flog2 _ => none
  | .fsin _ => none
  | .fcos _ => none
  | .ftanh _ => none
  | .ffloor _ => none
  | .fceil _ => none
  | .ftrunc _ => none
  | .frint _ => none
  | .cvtif _ => none
  | .cvtnf _ => none
  | .cvtfi _ => none
  | .cvtfn _ => none
  | .cvthfl _ => none
  | .cvthfh _ => none
  | .cvtbfl _ => none
  | .cvtbfh _ => none
  | .pack4 _ => none
  | .pack2 _ => none
  | .unpack8 _ => none
  | .unpack16 _ => none
  | .scale _ => none
  | .fcmp _ => none
  | .icmp _ => none
  | .icmpn _ => none
  | .fclass _ => none
  | .plop _ => none
  | .cmov _ => none
  | .shfl _ => none
  | .voteAll _ => none
  | .voteAny _ => none
  | .voteEq _ => none
  | .ballot _ => none
  | .redux _ => none
  | .sread _ => none
  | .bcast _ => none
  | .lanex _ => none
  | .vgeti _ => none
  | .vputi _ => none
  | .ld _ => none
  | .st _ => none
  | .atom _ => none
  | .qpop _ => none
  | .qpops _ => none
  | .qpush _ => none
  | .qpeek _ => none
  | .qstat _ => none
  | .qdrop _ => none
  | .rawait _ => none
  | .rrel _ => none
  | .rstat _ => none
  | .waitc _ => none
  | .cntrd _ => none
  | .gather _ => none
  | .creduce _ => none
  | .msign _ => none
  | .mclr _ => none
  | .mstat _ => none
  | .bar _ => none
  | .barn _ => none
  | .fence _ => none
  | .arrive _ => none
  | .await _ => none
  | .tjoin _ => none
  | .tleave _ => none
  | .gridwait _ => none
  | .trigger _ => none
  | .mwait _ => none
  | .uipost _ => none
  | .uipostAslice o => some (sUipost o)
  | .uiwait _ => none
  | .uiack _ => none
  | .uimask _ => none
  | .lookout _ => none
  | .svc _ => none
  | .svcAslice o => some (sSvc o)
  | .capld _ => none
  | .capst _ => none
  | .capnarrow _ => none
  | .capchk _ => none
  | .capldAslice o => some (sCapld o)
  | .capstAslice o => some (sCapst o)
  | .capnarrowAslice o => some (sCapnarrow o)
  | .capchkAslice o => some (sCapchk o)
  | .brc _ => none
  | .jmp _ => none
  | .call _ => none
  | .jmpr _ => none
  | .himm o => some (sliceHint (himmOnto o))
  | .himmx o => some (sliceHint (himmxOnto o))
  | .hmod _ => none
  | .hgrd _ => none
  | .hxb _ => none
  | .hadr _ => none
  | .hkeep _ => none
  | .hpri _ => none
  | .uadd _ => none
  | .usub _ => none
  | .umul _ => none
  | .umulh _ => none
  | .uand _ => none
  | .uor _ => none
  | .uxor _ => none
  | .uandn _ => none
  | .ushl _ => none
  | .ushr _ => none
  | .usar _ => none
  | .umin _ => none
  | .umax _ => none
  | .uminn _ => none
  | .umaxn _ => none
  | .umov _ => none
  | .uaddi _ => none
  | .uandi _ => none
  | .uori _ => none
  | .uxori _ => none
  | .ushli _ => none
  | .ushri _ => none
  | .usari _ => none
  | .umovi _ => none
  | .ucmp _ => none
  | .nop _ => none
  | .trapfence _ => none
  | .trap _ => none
  | .bkpt _ => none
  | .xacq _ => none
  | .xrel _ => none
  | .fork _ => none
  | .join _ => none
  | .uswin _ => none
  | .yield _ => none
  | .aflclr _ => none
  | .gadd o => some (gopaDef o opIadd)
  | .gsub o => some (gopaDef o opIsub)
  | .gmul o => some (gopaDef o opImul)
  | .gmulh o => some (gopaDef o opImulh)
  | .gand o => some (gopaDef o opAnd)
  | .gor o => some (gopaDef o opOr)
  | .gxor o => some (gopaDef o opXor)
  | .gshl o => some (gopaDef o opShl)
  | .gshr o => some (gopaDef o opShr)
  | .gsar o => some (gopaDef o opSar)
  | .gmin o => some (gopaDef o opImin)
  | .gmax o => some (gopaDef o opImax)
  | .gminn o => some (gopaDef o opIminn)
  | .gmaxn o => some (gopaDef o opImaxn)
  | .gslt o => some (gopaDef o opSlt)
  | .gsltn o => some (gopaDef o opSltn)
  | .gaddi o => some (gopiDef o opIadd)
  | .gandi o => some (gopiDef o opAnd)
  | .gori o => some (gopiDef o opOr)
  | .gxori o => some (gopiDef o opXor)
  | .gshli o => some (gopiDef o opShl)
  | .gshri o => some (gopiDef o opShr)
  | .gsari o => some (gopiDef o opSar)
  | .gslti o => some (gopiDef o opSlt)
  | .gmovi o => some (sGmovi o)
  | .gmovk o => some (sGmovk o)
  | .gld o => some (sGld o)
  | .gst o => some (sGst o)
  | .gldq o => some (sGldq o)
  | .gldqv o => some (sGldqv o)
  | .gqpush o => some (sGqpush o)
  | .gqpop o => some (sGqpop o)
  | .gqtry o => some (sGqtry o)
  | .gqclose o => some (sGqclose o)
  | .gqstat o => some (sGqstat o)
  | .gbeqz o => some (gbrDef o (fun x => x == 0))
  | .gbnez o => some (gbrDef o (fun x => x != 0))
  | .gbltz o => some (gbrDef o (fun x => decide (x < 0)))
  | .gbgez o => some (gbrDef o (fun x => decide (0 ≤ x)))
  | .gbgtz o => some (gbrDef o (fun x => decide (0 < x)))
  | .gblez o => some (gbrDef o (fun x => decide (x ≤ 0)))
  | .gjmp o => some (sGjmp o)
  | .gcall o => some (sGcall o)
  | .gret o => some (sGret o)
  | .gexit o => some (sGexit o)
  | .cstart o => some (sCstart o)
  | .cwait o => some (sCwait o)
  | .cquery o => some (sCquery o)
  | .rfree o => some (sRfree o)
  | .rarm o => some (sRarm o)
  | .rpeek o => some (sRpeek o)
  | .gfence o => some (sGfence o)
  | .garrive o => some (sGarrive o)
  | .gmwait o => some (sGmwait o)
  | .gatom o => some (sGatom o)
  | .gtrap o => some (sGtrap o)
  | .gsread o => some (sGsread o)
  | .gwaitc o => some (sGwaitc o)
  | .gyield o => some (sGyield o)
  | .uiret => none
  | .ret => none
  | .exit => none
  | .gnop => some sGnop
  | .arbitration => none
  | .lookoutDiversion => none
  | .xacqGrant => none
  | .crewAdmission => none
  | .blockPlacement => none
  | .taskSteal => none
  | .eviction => none
  | .crewRestore => none
  | .ldCompletion => none
  | .stAcknowledgement => none
  | .atomCompletion => none
  | .gldCompletion => none
  | .queueEntryFill => none
  | .copyElementReach => none
  | .copyArrival => none
  | .copyCompletion => none
  | .gatherCompletion => none
  | .creduceRetirement => none
  | .merge => none
  | .matrixCompletion => none
  | .matrixFault => none
  | .mclrCompletion => none
  | .readoutCompletion => none
  | .mwaitObserve => none
  | .thresholdWindow => none
  | .thresholdSumClear => none
  | .governorWindow => none
  | .notifyWrite => none
  | .launch => none
  | .waitEvent => none
  | .signal => none
  | .uipostPacket => none
  | .peerPost => none
  | .cheadWrite => none
  | .qctlWrite => none
  | .remapTimer => none
  | .ctxctlCreate => none
  | .ctxctlDestroy => none
  | .ctxctlReserved => none
  | .invctlPages => none
  | .invctlContext => none
  | .invctlFunction => none
  | .invalidationDone => none
  | .renew => none
  | .claim => none
  | .leaseExpiry => none
  | .pxdoneWrite => none
  | .dbgctlHalt => none
  | .dbgctlResume => none
  | .snaptrig => none
  | .snapclr => none
  | .snapshotLatch => none
  | .teldataRead => none
  | .registerWrite => none
  | .create => none
  | .destroy => none
  | .grow => none
  | .shrink => none
  | .compact => none
  | .setShare => none
  | .setCaps => none
  | .errlogRead => none
  | .droplogRead => none
  | .snapRead => none
  | .snapClear => none
  | .shapeRead => none
  | .fwLoad => none
  | .mailboxUnknown => none
  | .tileFailing => none
  | .coreReplaced => none
  | .channelDropped => none
  | .droopTrip => none
  | .clockStepUp => none
  | .characterisationComplete => none
  | .scrubComplete => none
  | .reset => none
  | .atsTranslationCompletion => none
  | .prgResponse => none
  | .atsInvalidateRequest => none
  | .vfReset => none
  | .lockInterfaceRequest => none
  | .getVersion => none
  | .getCapabilities => none
  | .negotiateAlgorithms => none
  | .getDigests => none
  | .getCertificate => none
  | .challenge => none
  | .getMeasurements => none
  | .keyExchange => none
  | .finish => none
  | .heartbeat => none
  | .keyUpdate => none
  | .endSession => none
  | .vendorDefined => none
  | .unsupportedRequest => none
  | .ideStreamViolation => none
  | .memAlloc => none
  | .memFree => none
  | .memMap => none
  | .memUnmap => none
  | .memProtect => none
  | .memQuery => none
  | .capMint => none
  | .capRevoke => none
  | .pinHost => none
  | .unpinHost => none
  | .gridLaunch => none
  | .gridQuery => none
  | .gridCancel => none
  | .eventCreate => none
  | .eventSignal => none
  | .eventWait => none
  | .queueInfo => none
  | .detRecordFetch => none
  | .uiVectorSet => none
  | .uiPermit => none
  | .uiRevoke => none
  | .uiRoute => none
  | .uiQuery => none
  | .uiPostRemote => none
  | .fileOpen => none
  | .fileRead => none
  | .fileWrite => none
  | .fileClose => none
  | .fileStat => none
  | .fileSeek => none
  | .dirList => none
  | .fileSync => none
  | .netConnect => none
  | .netAccept => none
  | .netSend => none
  | .netRecv => none
  | .netPoll => none
  | .netClose => none
  | .logWrite => none
  | .counterRead => none
  | .attestQuote => none
  | .reportFetch => none
  | .clockInfo => none
  | .random => none
  | .dbgHaltSelf => none
  | .dbgNotify => none
  | .ctxYield => none
  | .ctxExit => none
  | .powerLoss => none
  | .thermalMonitorTrip => none
  | .powerEnvelope => none
  | .coolantOutOfRange => none
  | .linkRetrain => none
  | .hostAccess => none
  | .peerAccess => none
  | .peerModuleUnreachable => none
  | .msixVectorUnmask => none
  | .priEnable => none
  | .hostResume => none

end Sys2Proof.Machine
end

