-- ==== Sys2Proof/Machine/Fetch.lean ====
section
/-! DEFINITION. Fetching a word: images (R57), the check of a whole run (R61), decoding (R75), and whether a party's next word
could issue at once (R228, R234). -/

namespace Sys2Proof.Machine

/-- What stands at a PC. -/
inductive Fetched where
  | instr (i : Instr)
  /-- a word that decodes to no instruction, with its trap code (R75) -/
  | bad (code : Nat)
  /-- a hint with a reserved payload bit and its B bit: the word it applies to is illegal (R69) -/
  | badHint (b : Nat)
  /-- the PC is outside the image (R57) -/
  | outside
  /-- the run that begins here is malformed, with the offset of the offending word (R61) -/
  | malformed (off : Nat)
deriving DecidableEq, Repr, Inhabited

/-- The trap code of a word that is no instruction (R75). -/
def decodeCode : DecodeError → Nat
  | .reservedMajor => tcReservedMajor
  | .wrongSlice => tcWrongSlice
  | _ => tcIllegal

/-- The major opcode of a word. -/
def opMajor (w : Nat) : Nat := bits w 30 24

/-- The kind of a hint that applies to an instruction: HGRD sets the guard and applies to none (R69). -/
def hintKind (w : Nat) : Option Nat :=
  if opMajor w = 0x52 then (if bits w 23 20 = 3 then none else some (bits w 23 20)) else none

/-- Whether a word may not stand in a run with B = 0 (R61). -/
def needsB (w : Nat) : Bool :=
  opMajor w == 0x50 || opMajor w == 0x51 || (opMajor w == 0x48 && bits w 19 16 == 5)

/-- The first word of a run that offends against R61, looking at up to n more words from a PC: kinds are the hints that
apply to the next instruction. -/
def offender (img : List Word) : Nat → Nat → List Nat → Option Nat
  | 0, pc, _ => if pc / 4 < img.length then some pc else none
  | n + 1, pc, kinds =>
    match img[pc / 4]? with
    | none => none
    | some w =>
      let w := w.toNat
      let again := match hintKind w with
        | some k => kinds.contains k
        | none => false
      if again then some pc
      else if w / 2 ^ 31 = 1 then (if opMajor w = 0x52 then some pc else none)
      else if needsB w then some pc
      else
        let kinds := match hintKind w with
          | some k => k :: kinds
          | none => if opMajor w = 0x52 then kinds else []
        offender img n (pc + 4) kinds

/-- A word of an image decoded for a slice. -/
def fetchWord (sl : Slice) (img : List Word) (pc : Nat) : Fetched :=
  match img[pc / 4]? with
  | none => .outside
  | some w =>
    match decode sl w.toNat with
    | .ok i => .instr i
    | .error .badHint => .badHint (w.toNat / 2 ^ 31)
    | .error x => .bad (decodeCode x)

/-- What a batch meets at its PC. -/
def fetchBatch (e : Env) : Fetched :=
  let pc := e.b.pc.toNat
  if e.k.cimg.length ≤ pc / 4 then .outside
  else
    match (if e.b.fresh then offender e.k.cimg 24 pc [] else none) with
    | some off => .malformed off
    | none => fetchWord .compute e.k.cimg pc

/-- A word whose only effect is a trap. -/
def trapWord (code : Nat) : WordDef where
  bd := 0
  legal _ := true
  body e := .error (.trap { code := code, mask := e.active })

/-- A hint with a reserved payload bit (R69). -/
def badHintWord (b : Nat) : WordDef := plainHint b (fun h => { h with bad := true })

/-- The word that a batch judges, where what it meets is one. -/
def Fetched.word : Fetched → Option WordDef
  | .instr i => wordDef i
  | .bad code => some (trapWord code)
  | .badHint b => some (badHintWord b)
  | _ => none

/-- Whether a trap that no word raises waits for a word that the batch follows: an outstanding one completes first, and one that has
failed takes its trap first (R64). -/
def trapWaits (e : Env) : Bool :=
  outstanding e.w.windows e.w.ops e.b.lanes || behindFault e.w.windows e.w.ops e.b.lanes

/-- Permission after the last word of the image: the origin is the word before (R57). -/
def fallOff (e : Env) : Run :=
  if trapWaits e then stopRunning e.r e.crew.core e.w.quad
  else takeTrap e e.r { e.b with wait := .none } (e.b.pc - 4) { code := tcPermission, mask := e.b.lanes, addr := e.b.pc.toNat }

/-- Malformed Run at the first word of the run (R61). -/
def malformedRun (e : Env) (off : Nat) : Run :=
  if trapWaits e then stopRunning e.r e.crew.core e.w.quad
  else takeTrap e e.r e.b (BitVec.ofNat 32 off) { code := tcMalformed, mask := e.b.lanes }

/-- What a batch's step does when it does not run an instruction. -/
def Fetched.otherwise (f : Fetched) (e : Env) : Run := match f with
  | .outside => fallOff e
  | .malformed off => malformedRun e off
  | .instr _ => e.r
  | f => match f.word with
    | some d => d.run e
    | none => e.r

/-- What an address slice meets at its PC: a hint with no word after it applies to nothing (R74). -/
def fetchSlice (e : SEnv) : Fetched :=
  let pc := e.s.pc.toNat
  match e.k.aimg[pc / 4]? with
  | some w =>
    if opMajor w.toNat = 0x52 ∧ e.k.aimg.length ≤ pc / 4 + 1 ∧ bits w.toNat 23 20 < 2 then .bad tcIllegal
    else fetchWord .address e.k.aimg pc
  | none => .outside

/-- A word of the slice whose only effect is a trap. -/
def sliceTrapWord (code : Nat) : SliceDef where
  hint := true
  legal _ := true
  body _ := .error (sliceTrap code)

/-- The word that a slice judges, where what it meets is one. -/
def Fetched.sliceWord : Fetched → Option SliceDef
  | .instr i => sliceDef i
  | .bad code => some (sliceTrapWord code)
  | .badHint _ => some (sliceHint (fun h => { h with bad := true }))
  | _ => none

/-- The same of an address slice. -/
def sliceTrapWaits (e : SEnv) : Bool := outstanding e.s.windows e.s.ops 1#32 || behindFault e.s.windows e.s.ops 1#32

/-- What a slice's step does when it does not run an instruction. -/
def Fetched.sliceOtherwise (f : Fetched) (e : SEnv) : Run := match f with
  | .outside =>
    if sliceTrapWaits e then e.r
    else takeSliceTrap e e.r e.s.pc e.s.hints (e.s.pc - 4) { code := tcPermission, addr := e.s.pc.toNat }
  | .instr _ => e.r
  | f => match f.sliceWord with
    | some d => d.run e
    | none => e.r

/-! ## Readiness (R228, R234) -/

/-- Whether the parties of a context in a partition may issue: it is not halted, and the partition not stopped. -/
def mayIssue (m : Mgmt) (r : Run) (ctxKey : Nat) : Bool :=
  !ctxHalted r ctxKey && match Assoc.get? m.parts (partOf ctxKey) with
    | some p => !p.stopped
    | none => true

/-- Whether a stop leaves a word able to issue: a hold does not, nor a page whose request is on its way. -/
def stopReady (r : Run) (tile ctxKey : Nat) : Stop → Bool
  | .hold => false
  | .page page need => !(r.tileSt tile).reqs.any (fun q => q.ctx == ctxKey && q.page == page && q.need == need && !q.refused)
  | .trap _ => true

/-- Whether the next word of a batch could issue at once. -/
def wordReady (e : Env) : Bool :=
  let f := fetchBatch e
  match f with
  | .outside => !trapWaits e
  | .malformed _ => !trapWaits e
  | _ => match f.word with
    | none => false
    | some d => match d.judge e with
      | .ok _ => true
      | .error s => stopReady e.r e.tile e.ctx s

/-- Whether a batch is ready (R228). -/
def Env.ready (e : Env) : Bool :=
  e.crew.status == .resident && e.w.hostrec.isNone && mayIssue e.m e.r e.ctx && e.b.wait != .mark && wordReady e

/-- Whether an address slice is ready (R234). -/
def SEnv.ready (e : SEnv) : Bool :=
  e.crew.status == .resident && !e.s.ended && e.s.hostrec.isNone && mayIssue e.m e.r e.ctx &&
  (let f := fetchSlice e
   match f with
   | .outside => !sliceTrapWaits e
   | _ => match f.sliceWord with
     | none => false
     | some d => match d.judge e with
       | .ok x => match x.next with
         | .stops s => stopReady e.r e.tile e.ctx s || x.run != e.r
         | _ => true
       | .error s => stopReady e.r e.tile e.ctx s)

end Sys2Proof.Machine
end

