-- ==== Sys2Proof/Machine/Arbitrate.lean ====
section
/-! DEFINITION. Arbitration of a quadrant (R229 to R233), lookout diversion (R190, R237) and grants of granules (R13, R236). -/

namespace Sys2Proof.Machine

/-! ## The order of R229 -/

/-- Whether delivery makes a block's lookout batches rank first and be diverted: asynchronous, with a deliverable vector
(R190, R237). -/
def UserInt.diverts (u : UserInt) : Bool := u.async.isSome && u.deliverable

/-- Whether a batch is a lookout batch of R237. -/
def Env.lookoutRank (e : Env) : Bool := isLookout e && e.blk.ui.diverts

/-- The rank that an HPRI hint gives: 0 hastened, 1 none, 2 deferred (R231). -/
def nudgeRank (n : Nat) : Nat := match n with
  | 2 => 0
  | 1 => 2
  | _ => 1

/-- One list of keys before another: the first that differs decides. -/
def keysBefore : List Nat → List Nat → Bool
  | x :: xs, y :: ys => decide (x < y) || (x == y && keysBefore xs ys)
  | _, _ => false

/-- Rules 3 to 6 of R229 as keys, the lesser first. -/
def Env.lowerKeys (e : Env) : List Nat := [3 - e.crew.level, nudgeRank e.b.nudgeNow, e.crew.stamp, e.wi, e.lead]

/-- Every rule of R229 as keys, the lesser first. -/
def Env.rankKeys (e : Env) : List Nat :=
  match e.b.promoted with
  | some k => [0, k] ++ e.lowerKeys
  | none => [1, b2n (!e.lookoutRank)] ++ e.lowerKeys

/-- Whether a batch of a lookout may be diverted: asynchronous delivery with a deliverable vector, no trap handler, no
diversion under way, and the batch neither held in XACQ or UIWAIT, nor woken from UIWAIT; a trap that is due comes first (R64). -/
def mayDivert (e : Env) : Bool :=
  e.lookoutRank && e.w.hsave.isNone && e.w.divrec.isNone && e.w.hostrec.isNone && e.crew.status == .resident &&
  mayIssue e.m e.r e.ctx && !behindFault e.w.windows e.w.ops e.b.lanes &&
  e.b.wait != .xacq && e.b.wait != .uiwait && e.b.wait != .woken && e.b.wait != .mark

/-- The batches of a quadrant of a core, in no order. -/
def quadBatches (m : Mgmt) (r : Run) (core quad : Nat) : List Env :=
  (r.crews.filter (fun p => p.2.core == core && p.2.status == .resident)).flatMap (fun p =>
    ((p.2.warps.zipIdx).filter (fun w => w.1.quad == quad && !w.1.ended)).flatMap (fun w =>
      w.1.batches.filterMap (fun b => env? m r p.1 w.2 (lowLane b.lanes))))

/-- The batches that compete in an arbitration, the best first: the ready ones, and those of a lookout that are held and count as
ready for diversion alone (R228, R229, R237). -/
def contenders (m : Mgmt) (r : Run) (core quad : Nat) : List Env :=
  sortBy (fun a b => keysBefore a.rankKeys b.rankKeys) ((quadBatches m r core quad).filter (fun e => e.ready || mayDivert e))

/-- The batches of each warp of a quadrant that stand ready at one PC made one (R135). -/
def mergeQuad (m : Mgmt) (r : Run) (core quad : Nat) : Run :=
  let of (c w : Nat) (b : Batch) : Bool := (env? m r c w (lowLane b.lanes)).any (·.ready)
  { r with crews := r.crews.map (fun p =>
      if p.2.core = core ∧ p.2.status = .resident then
        (p.1, { p.2 with warps := (p.2.warps.zipIdx).map (fun w =>
          if w.1.quad = quad ∧ 1 < w.1.batches.length then { w.1 with batches := mergeReady (of p.1 w.2) w.1.batches } else w.1) })
      else p) }

/-! ## One arbitration (R229 to R231) -/

/-- One batch changed. -/
def setBatch (r : Run) (e : Env) (f : Batch → Batch) : Run :=
  r.warp e.cid e.wi (fun w => { w with batches := w.batches.map (fun b => if lowLane b.lanes = e.lead then f b else b) })

/-- The winner among ready batches in rank order, and those left out by YIELD before it (R231). -/
def chooseWinner : List Env → Option Env × List Env
  | [] => (none, [])
  | e :: es =>
    if e.b.yielded then
      let (w, out) := chooseWinner es
      (w, e :: out)
    else (some e, [])

/-- A loss counted, with the promotion that the 64th brings (R230). -/
def loseOnce (core : Nat) (r : Run) (e : Env) : Run :=
  let due := decide (63 ≤ e.b.losses) && e.b.promoted.isNone
  let k := (r.coreSt core).promotions
  let r := if due then r.core core (fun c => { c with promotions := c.promotions + 1 }) else r
  setBatch r e (fun b => { b with losses := b.losses + 1, promoted := if due then some k else b.promoted })

/-- The active set of a quadrant after a warp has won: the most recent four (R233). -/
def enterActive (r : Run) (core quad warp : Nat) : Run :=
  r.core core (fun c =>
    let s := (Assoc.get? c.active quad).getD []
    { c with active := Assoc.set c.active quad ((warp :: s.filter (fun w => w != warp)).take 4) })

/-- Whether two issuers are one batch. -/
def Env.same (a b : Env) : Bool := a.cid == b.cid && a.wi == b.wi && a.lead == b.lead

/-- Where the winner of an arbitration begins: at the handler entry of its block when it is diverted (R190), else where it stands. -/
def Env.entry (e : Env) : Option Word := if mayDivert e then e.blk.ui.async else none

/-- The winner of an arbitration made the batch that its quadrant issues, diverted first where it is due (R190, R229, R233, R237). -/
def winQuad (r : Run) (core quad : Nat) (e : Env) : Run :=
  let r := setBatch r e (fun b => { b with losses := 0, promoted := none })
  let r := match e.entry with
    | some entry => divert r e.cid e.wi (if e.ready then e.b.nudged else e.b) entry
    | none => r
  let r := enterActive r core quad (e.cid * 32 + e.wi)
  r.core core (fun c =>
    { c with running := Assoc.set c.running quad (e.cid, e.wi, e.lead), lastRun := wrReg c.lastRun quad (e.entry.getD e.b.pc) })

/-- What an arbitration leaves of the batches that did not win: losses counted, YIELD and HPRI used up (R230, R231). A batch held for
diversion alone loses nothing (log 28). -/
def loseQuad (r : Run) (core : Nat) (es out : List Env) (win : Option Env) : Run :=
  let losers := es.filter (fun e => e.ready && !win.any (·.same e))
  let r := (sortBy (fun a b => keysBefore a.lowerKeys b.lowerKeys) losers).foldl (loseOnce core) r
  let r := out.foldl (fun r e => setBatch r e (fun b => { b with yielded := false })) r
  (es.filter (·.ready)).foldl (fun r e => setBatch r e Batch.nudged) r

/-- An arbitration of a quadrant that has no run issuing (R135, R229) and no warp slots freed that waiting crews take first (R239). -/
def arbitrate (m : Mgmt) (r : Run) (core quad : Nat) : Run :=
  if Assoc.has (r.coreSt core).running quad || (r.coreSt core).freed.contains quad then r
  else
    let r := mergeQuad m r core quad
    let es := contenders m r core quad
    let (win, out) := chooseWinner es
    let r := loseQuad r core es out win
    match win with
    | none => r
    | some e => winQuad r core quad e

/-- ARBITRATION: quadrant n of a core. -/
def execArbitration (s : State) : Outcome := happen s (fun a => arbitrate s.mgmt s.run a.core a.n)

/-! ## Lookout diversion (R190, R237) -/

/-- The batch that an arbitration of a quadrant would pick. -/
def winner (m : Mgmt) (r : Run) (core quad : Nat) : Option Env :=
  (chooseWinner (contenders m (mergeQuad m r core quad) core quad)).1

/-- The arbitration that a lookout batch wins, and which diverts it to the handler entry of its block. -/
def divertBatch (m : Mgmt) (r : Run) (cid wi lead : Nat) : Run :=
  match env? m r cid wi lead with
  | none => r
  | some e => match winner m r e.crew.core e.w.quad with
    | some w => if w.same e && mayDivert w then arbitrate m r e.crew.core e.w.quad else r
    | none => r

/-- LOOKOUT_DIVERSION: the batch of a warp with this leading lane. -/
def execLookoutDiversion (s : State) : Outcome := happen s (fun a => divertBatch s.mgmt s.run a.crew a.warp a.lane)

/-! ## XACQ grants (R13, R236) -/

/-- The request at the head of a core's queue granted, when the pool has its granules free. -/
def grantXacq (m : Mgmt) (r : Run) (core : Nat) : Run :=
  match (r.coreSt core).xacq with
  | [] => r
  | (c, w, lead, n) :: rest =>
    if granUsed r core + n ≤ poolSize m core then
      let r := r.core core (fun k => { k with xacq := rest })
      r.warp c w (fun x =>
        let x := x.grant n
        { x with batches := x.batches.map (fun b =>
            if lowLane b.lanes = lead ∧ b.wait = .xacq then { b with wait := .pass } else b) })
    else r

/-- XACQ_GRANT: a core. -/
def execXacqGrant (s : State) : Outcome := happen s (fun a => grantXacq s.mgmt s.run a.core)

end Sys2Proof.Machine
end

