-- ==== Sys2Proof/Machine/Admit.lean ====
section
/-! DEFINITION. Admission of crews (R222 to R225), placement of blocks (R308 to R312), task deques (R314), the save and restore
of crews (R332 to R337) and re-execution of tasks (R321). -/

namespace Sys2Proof.Machine

/-! ## Resources in use (R224, R239, R243) -/

/-- The kernel that a crew runs. -/
def crewKernel (r : Run) (c : Crew) : Kernel :=
  match Assoc.get? r.blocks c.block with
  | some b => match Assoc.get? r.grids b.grid with
    | some g => kernelOf g b
    | none => {}
  | none => {}

/-- Bytes of a core that crew idx of a block exports to cluster memory (R22, R242). -/
def Kernel.exportBytes (k : Kernel) (idx : Nat) : Nat :=
  (k.cluster + 4096 * k.span - 1) / (4096 * k.span) * 4096 + (if idx = 0 then 1024 else 0)

/-- Granules that the warps of a crew hold. -/
def Crew.granules (c : Crew) : Nat := (c.warps.map (·.gran)).sum

/-- What a crew needs to be admitted now: all of R224, or on a restore the same without its export, which stayed, and with
its granules (R13, R243). -/
def crewNeeds (r : Run) (c : Crew) : Needs :=
  let k := crewKernel r c
  if c.status = .saved then { (k.needs c.idx c.granules) with pad := k.pad } else k.needs c.idx

/-- Whether a crew takes a core's resources now. -/
def Crew.onCore (c : Crew) (core : Nat) : Bool := c.core == core && (c.status == .resident || c.status == .saving)

/-- What one crew holds of a core: everything while it is there and not taken for gone, its export from its admission to its block's
end (R243), and its pad while copies of it go on after it was killed (R239, R331). -/
def heldBy (r : Run) (core : Nat) (gone : Bool) (c : Crew) : Needs :=
  let k := crewKernel r c
  let exported := match Assoc.get? r.blocks c.block with
    | some b => !b.ended && c.home == some core
    | none => false
  let part : Needs := if exported then { pad := k.exportBytes c.idx } else {}
  if c.onCore core && !gone then part.add { (k.needs c.idx c.granules) with pad := k.pad }
  else if c.status == .ended && c.core == core && c.aslice.copies != [] then part.add { pad := k.pad }
  else part

/-- What the crews of a core hold when those of a given set are gone. -/
def coreUsed (r : Run) (core : Nat) (without : List Nat) : Needs :=
  r.crews.foldl (fun n p => n.add (heldBy r core (without.contains p.1) p.2)) {}

/-- Warps in each quadrant of a core. -/
def quadLoad (r : Run) (core : Nat) (without : List Nat) (q : Nat) : Nat :=
  ((r.crews.filter (fun p => p.2.onCore core && !without.contains p.1)).map (fun (p : Nat × Crew) =>
    (p.2.warps.filter (fun w => w.quad == q)).length)).sum

/-- The quadrant of a crew's warp 0: the one with the fewest warps, the lowest on a tie (R223). -/
def firstQuad (r : Run) (core : Nat) (without : List Nat) : Nat := (minBy (quadLoad r core without) [0, 1, 2, 3]).getD 0

/-- Warps that a crew of n warps puts in quadrant j when its warp 0 goes to quadrant q. -/
def quadShare (n q j : Nat) : Nat := ((List.range n).filter (fun w => (q + w) % 4 == j)).length

/-- Whether the warp slots of every quadrant hold a crew's warps (R223, R224). -/
def quadsFit (r : Run) (core n : Nat) (without : List Nat) : Bool :=
  let q := firstQuad r core without
  [0, 1, 2, 3].all (fun j => decide (quadLoad r core without j + quadShare n q j ≤ 16))

/-- Whether needs fit a core beside what is held there and what is kept back, some crews left out. -/
def needsFit (m : Mgmt) (r : Run) (core : Nat) (n kept : Needs) (without : List Nat) : Bool :=
  let cap := coreCapacity ((Assoc.get? m.granRetired core).getD 0)
  (((coreUsed r core without).add kept).add n).fits cap && quadsFit r core n.warps without

/-! ## Hampers (R337) -/

/-- The size of a crew's hamper. -/
def Kernel.hamperSize (k : Kernel) : Nat :=
  roundUp 4096 (0x8400 + k.crew / 32 * 0x9000 + k.crew * k.lane + k.pad)

/-- The hampers of a context in use: offset and size. -/
def hampersOf (r : Run) (ctxKey : Nat) : List (Nat × Nat) :=
  r.crews.filterMap (fun (p : Nat × Crew) =>
    if p.2.status = .ended || crewCtx r p.1 != ctxKey then none
    else p.2.hamper.map (fun o => (o, (crewKernel r p.2).hamperSize)))

/-- The lowest offset of a pool of a length where a hamper of a size is free beside those in use: past the 4 KiB of the interrupt block
at its head (R337, R361). -/
def hamperAt (used : List (Nat × Nat)) (len size : Nat) : Option Nat :=
  ((4096 :: used.map (fun u => u.1 + u.2)).filter (fun o =>
    decide (o + size ≤ len) && used.all (fun u => decide (o + size ≤ u.1) || decide (u.1 + u.2 ≤ o)))).foldl
    (fun best o => match best with
      | some b => some (min b o)
      | none => some o) none

/-- The length of a context's hamper pool (R340). -/
def poolLength (r : Run) (ctxKey : Nat) : Nat := match Assoc.get? r.contexts ctxKey with
  | some c => c.hplen
  | none => 0

/-- Where a hamper of a size is free in a context's pool. -/
def freeHamper (r : Run) (ctxKey size : Nat) : Option Nat := hamperAt (hampersOf r ctxKey) (poolLength r ctxKey) size

/-- Whether hampers of several sizes are free together. -/
def hampersFree (len : Nat) : List (Nat × Nat) → List Nat → Bool
  | _, [] => true
  | used, size :: rest => match hamperAt used len size with
    | none => false
    | some o => hampersFree len ((o, size) :: used) rest

/-! ## Who waits for a core (R225, R334) -/

/-- Crews that wait together, each with the core it would go to, and their place in the wait order. -/
structure Waiter where
  crews : List (Nat × Nat)
  saved : Bool := false
  keys : List Nat
deriving DecidableEq, Repr, Inhabited

/-- The presented cores of a tile, by physical core key in logical order (R2). -/
def tileCores (m : Mgmt) (tile : Nat) : List Nat := ((Assoc.get? m.tiles tile).getD {}).cores.map (fun c => tile * 24 + c)

/-- Whether a block's context and grid go on (R335, R419). -/
def mayGo (m : Mgmt) (r : Run) (b : Block) : Bool := match Assoc.get? r.grids b.grid with
  | none => false
  | some g => mayIssue m r g.ctx && g.status.isNone

/-- Whether crews of a block may be admitted at all: while tasks of its grid are to run again, those of one of them alone (R321). -/
def mayAdmit (m : Mgmt) (r : Run) (b : Block) : Bool :=
  mayGo m r b && (b.replay || (Assoc.get? r.grids b.grid).all (fun g => g.redo == []))

/-- The core of a block's first crew, which names its group under static placement (R311). -/
def Block.first (r : Run) (b : Block) : Option Nat := (b.crews.head?.bind (fun c => Assoc.get? r.crews c)).map (·.core)

/-- Whether a lower block of the same grid, placed in the same group under static placement, is still to be admitted (R311). -/
def lowerWaits (r : Run) (b : Block) : Bool :=
  (Assoc.get? r.grids b.grid).any (fun g => g.det != 0) && !b.isTask && !b.replay &&
  r.blocks.any (fun p => p.2.grid == b.grid && !p.2.isTask && !p.2.replay && !p.2.admitted && !p.2.ended &&
    decide (p.2.lin < b.lin) && p.2.first r == b.first r)

/-- A block placed and not yet admitted, as a waiter: a task in a deque waits only at its head (R153, R225). -/
def blockWaiter (m : Mgmt) (r : Run) (bk : Nat) (b : Block) : Option Waiter :=
  if b.admitted || b.ended || !mayAdmit m r b || lowerWaits r b then none
  else
    let cs := b.crews.filterMap (fun c => (Assoc.get? r.crews c).map (fun x => (c, x)))
    match cs with
    | [] => none
    | (_, x) :: _ =>
      let inDeque := (r.coreSt x.core).deque.contains bk
      if inDeque && (r.coreSt x.core).deque.head? != some bk then none
      else some { crews := cs.map (fun y => (y.1, y.2.core)), keys := [3 - x.level, x.placed] }

/-- The level at which a saved crew waits: raised by a wake to its block (R334). -/
def readmitLevel (b : Block) (x : Crew) : Nat := min 3 (x.level + b2n b.ui.wakeRaised)

/-- A saved crew as waiters for the cores of its tile (R334), or for the spare that replaced its core (R401). -/
def savedWaiters (m : Mgmt) (r : Run) (c : Nat) (x : Crew) : List Waiter :=
  match Assoc.get? r.blocks x.block with
  | none => []
  | some b =>
    if x.status != .saved || x.halted || !mayGo m r b then []
    else
      let here := match Assoc.get? ((Assoc.get? m.tiles (x.core / 24)).getD {}).swaps (x.core % 24) with
        | some k => [x.core / 24 * 24 + k]
        | none => tileCores m (x.core / 24)
      here.map (fun k => { crews := [(c, k)], saved := true, keys := [3 - readmitLevel b x, x.placed] })

/-- Everyone that waits for a core. -/
def waiters (m : Mgmt) (r : Run) : List Waiter :=
  r.blocks.filterMap (fun p => blockWaiter m r p.1 p.2) ++ r.crews.flatMap (fun p => savedWaiters m r p.1 p.2)

/-! ## Resources held for blocks that wait for their group admission (R222, R225) -/

/-- Whether a block waits for the admission of several crews as a group. -/
def Block.groupWaits (b : Block) : Bool := decide (1 < b.span) && !b.admitted && !b.ended

/-- What is kept back on a core from crews that wait there: what has been freed and is held for other blocks, whatever the level. -/
def keptBack (r : Run) (crews : List Nat) (core : Nat) : Needs :=
  (r.blocks.filter (fun p => p.2.groupWaits && p.2.crews != crews)).foldl (fun n p =>
    n.add ((Assoc.get? p.2.holds core).getD {})) {}

/-- One amount less another, and the lesser of two, resource by resource. -/
def Needs.less (a b : Needs) : Needs :=
  ⟨a.slots - b.slots, a.warps - b.warps, a.regs - b.regs, a.lane - b.lane, a.pad - b.pad, a.gran - b.gran⟩
def Needs.min (a b : Needs) : Needs :=
  ⟨Nat.min a.slots b.slots, Nat.min a.warps b.warps, Nat.min a.regs b.regs, Nat.min a.lane b.lane, Nat.min a.pad b.pad,
    Nat.min a.gran b.gran⟩

/-- What a block needs on a core of its set. -/
def blockNeed (r : Run) (b : Block) (core : Nat) : Needs :=
  ((b.crews.filterMap (fun c => Assoc.get? r.crews c)).filter (fun x => x.core == core)).foldl (fun n x => n.add (crewNeeds r x)) {}

/-- What has been freed on a core given to the blocks that wait there as groups, the first placed first: to each up to its need. -/
def giveFreed (core : Nat) : List Nat → Needs → Run → Run
  | [], _, r => r
  | k :: ks, freed, r => match Assoc.get? r.blocks k with
    | none => giveFreed core ks freed r
    | some b =>
      let has := (Assoc.get? b.holds core).getD {}
      let part := freed.min ((blockNeed r b core).less has)
      let r := if part = {} then r else r.block k (fun x => { x with holds := Assoc.set x.holds core (has.add part) })
      giveFreed core ks (freed.less part) r

/-- The blocks that wait as groups and have a crew to come to a core, the first placed first. -/
def groupsAt (r : Run) (core : Nat) : List Nat :=
  (r.blocks.filter (fun p => p.2.groupWaits && p.2.crews.any (fun c => match Assoc.get? r.crews c with
    | some x => x.core == core
    | none => false))).map (·.1)

/-- What a core's crews have freed since the machine last looked, held for the blocks that wait there as groups. -/
def settleHolds (r : Run) (core : Nat) : Run :=
  match groupsAt r core with
  | [] => r
  | ks =>
    let used := coreUsed r core []
    let r := giveFreed core ks ((r.coreSt core).seen.less used) r
    if (r.coreSt core).seen = used then r else r.core core (fun k => { k with seen := used })

/-- Whether a waiter's crews fit their cores now and find their hampers (R222, R224, R337). -/
def waiterFits (m : Mgmt) (r : Run) (w : Waiter) (without : List Nat) : Bool :=
  let cs := w.crews.filterMap (fun c => (Assoc.get? r.crews c.1).map (fun x => (c.1, c.2, x)))
  let ctx := match cs with
    | c :: _ => crewCtx r c.1
    | [] => 0
  cs.length == w.crews.length &&
  cs.all (fun c => needsFit m r c.2.1 (crewNeeds r c.2.2) (keptBack r (w.crews.map (·.1)) c.2.1) without) &&
  hampersFree (poolLength r ctx) (hampersOf r ctx)
    ((cs.filter (fun c => c.2.2.hamper.isNone)).map (fun c => (crewKernel r c.2.2).hamperSize))

/-- Whether a waiter is the first in the order of R225 that fits on each of its cores. -/
def isNext (m : Mgmt) (r : Run) (w : Waiter) : Bool :=
  waiterFits m r w [] &&
  !(waiters m r).any (fun x => keysBefore x.keys w.keys && x.crews.any (fun c => w.crews.any (fun d => c.2 == d.2)) &&
    waiterFits m r x [])

/-- Whether a core has someone to admit now, which comes before the issue of a quadrant whose warp slots were freed (R239). -/
def admitsNext (m : Mgmt) (r : Run) (core : Nat) : Bool :=
  (waiters m r).any (fun w => w.crews.any (fun c => c.2 == core) && isNext m r w)

/-- The quadrants that an ended crew has freed let issue again once their core has nobody to admit (R239). -/
def settleFreed (m : Mgmt) (r : Run) (core : Nat) : Run :=
  if (r.coreSt core).freed = [] || admitsNext m r core then r else r.core core (fun k => { k with freed := [] })

/-! ## Taking a core -/

/-- The lowest crew slot of a core that is free (R224, R234). -/
def freeSlot (r : Run) (core : Nat) : Nat :=
  let used := (r.crews.filter (fun p => p.2.onCore core)).map (fun (p : Nat × Crew) => p.2.slot)
  ((List.range 16).find? (fun i => !used.contains i)).getD 0

/-- A crew of a context that has been stopped starts stopped (R321, R400). -/
def stopStarted (r : Run) (c : Nat) : Run :=
  match (Assoc.get? r.contexts (crewCtx r c)).bind (·.stop) with
  | none => r
  | some t => r.crew c (·.halt t)

/-- A crew put on a core: its slot, its stamp, its quadrants and its hamper (R223, R225, R234, R337). -/
def seatCrew (r : Run) (c core : Nat) : Run :=
  match Assoc.get? r.crews c with
  | none => r
  | some x =>
    let q := firstQuad r core [c]
    let stamp := (r.coreSt core).stamps
    let slot := freeSlot r core
    let hamper := match x.hamper with
      | some o => some o
      | none => freeHamper r (crewCtx r c) (crewKernel r x).hamperSize
    let r := r.core core (fun k => { k with stamps := k.stamps + 1, deque := k.deque.erase x.block })
    let r := r.crew c (fun x =>
      { x with status := .resident, core := core, slot := slot, lastCore := core, stamp := stamp, hamper := hamper, reason := 0,
               home := match x.home with
                 | some h => some h
                 | none => some core,
               warps := (x.warps.zipIdx).map (fun (w : Warp × Nat) => { w.1 with quad := (q + w.2) % 4 }) })
    stopStarted r c

/-- The bytes of scratchpad in which a block of a kernel can keep every shadow, and its hold buffer (R397, R398; log 32). -/
def shadowNeed (k : Kernel) : Nat :=
  65536 + k.cluster + k.span * (k.pad + k.crew * k.lane + k.crew / 32 * Config.shadowState)

/-- The bytes of a partition's scratchpad that no context's share and no block's reservation covers (R244, R397). -/
def spadFree (m : Mgmt) (r : Run) (tag : Nat) : Nat :=
  let shares := (r.contexts.filter (fun c => partOf c.1 == tag && c.2.live)).map (fun c => c.2.splen)
  let held := (r.blocks.filter (fun b => !b.2.ended && (Assoc.get? r.grids b.2.grid).any (fun g => partOf g.ctx == tag))).map
    (fun b => b.2.shadowSpace)
  ((Assoc.get? m.parts tag).getD {}).tiles.length * 2 ^ 25 - shares.sum - held.sum

/-- The first cairn of a block that starts, when its shadow space can be reserved; else its intervals stay open, and the error log says
so (R397). -/
def firstCairn (m : Mgmt) (r : Run) (bk : Nat) : Run :=
  match (Assoc.get? r.blocks bk).bind (fun b => (Assoc.get? r.grids b.grid).map (fun g => (b, g))) with
  | none => r
  | some (b, g) =>
    if !g.cairn then r
    else
      let n := shadowNeed (kernelOf g b)
      if n ≤ spadFree m r (partOf g.ctx) then setCairn (r.block bk (fun x => { x with shadowSpace := n })) bk
      else logError r (partOf g.ctx) 5 (g.ctx % 64) (blockTile r b) 0 g.ident 0

/-- A block admitted: its crews take their cores together, its first cairn is set, and posts held for it are merged
(R222, R365, R397). -/
def admitBlock (m : Mgmt) (r : Run) (bk : Nat) : Run :=
  match (Assoc.get? r.blocks bk).bind (blockWaiter m r bk) with
  | none => r
  | some w =>
    if isNext m r w then
      let r := w.crews.foldl (fun r c => seatCrew r c.1 c.2) r
      takeHeld (firstCairn m (r.block bk (fun b => { b with admitted := true, holds := [] })) bk) bk
    else r

/-- CREW_ADMISSION: block or task n. -/
def execCrewAdmission (s : State) : Outcome := happen s (fun a => admitBlock s.mgmt s.run a.n)

/-! ## Placement (R308 to R312) -/

/-- Warps resident on a core, and those of crews placed there and not yet admitted (R310). -/
def placeLoad (r : Run) (core : Nat) : Nat :=
  ((r.crews.filter (fun (p : Nat × Crew) => p.2.core == core &&
    (p.2.status == .resident || p.2.status == .saving || p.2.status == .waiting))).map (fun (p : Nat × Crew) => p.2.warps.length)).sum

/-- Whether crew idx of a kernel could be admitted to a core now, some crews left out. -/
def couldAdmit (m : Mgmt) (r : Run) (k : Kernel) (without : List Nat) (idx core : Nat) : Bool :=
  needsFit m r core (k.needs idx) (keptBack r [] core) without

/-- The candidate set of a tile: its load and its cores in logical order (R310). -/
def tileCandidate (r : Run) (cores : List Nat) (span : Nat) (ok1 ok0 : Nat → Bool) : Option (Nat × List Nat) :=
  let e := (cores.zipIdx).filter (fun c => ok1 c.1)
  let sets := (e.filter (fun c => ok0 c.1)).filterMap (fun c =>
    let above := e.filter (fun d => decide (c.2 < d.2))
    let rest := (sortBy (fun a b => keysBefore [placeLoad r a.1, a.2] [placeLoad r b.1, b.2]) above).take (span - 1)
    if rest.length < span - 1 then none
    else
      let cs := c.1 :: (sortBy (fun a b => decide (a.2 < b.2)) rest).map (·.1)
      some ((cs.map (placeLoad r)).sum, cs))
  minBy (·.1) sets

/-- The core set that R310 chooses for a block, some crews counted as gone. -/
def chooseSet (m : Mgmt) (r : Run) (part : Part) (k : Kernel) (without : List Nat) : Option (List Nat) :=
  let cands := part.tiles.filterMap (fun t =>
    tileCandidate r (tileCores m t) k.span (couldAdmit m r k without (if k.span = 1 then 0 else 1)) (couldAdmit m r k without 0))
  (minBy (·.1) cands).map (·.2)

/-- The groups of static placement, in order (R311). -/
def staticGroups (m : Mgmt) (part : Part) (span : Nat) : List (List Nat) :=
  part.tiles.flatMap (fun t =>
    let cs := tileCores m t
    (List.range (cs.length / span)).map (fun i => (cs.drop (i * span)).take span))

/-- The group of block b under static placement. -/
def groupOf (m : Mgmt) (part : Part) (span b : Nat) : Option (List Nat) :=
  let gs := staticGroups m part span
  gs[b % gs.length]?

/-- Whether every producer of a grid has had all of its blocks placed, or has ended (R312). -/
def producersPlaced (r : Run) (g : Grid) : Bool :=
  g.producers.all (fun p => match Assoc.get? r.grids p with
    | some x => x.status.isSome || decide (x.nb ≤ x.nextBlock)
    | none => true)

/-- Whether a grid has a next block to place. -/
def offersBlock (m : Mgmt) (r : Run) (g : Grid) : Bool :=
  g.status.isNone && !g.depFailed && decide (g.nextBlock < g.nb) && g.redo == [] && producersPlaced r g && mayIssue m r g.ctx

/-- The partition of a grid. -/
def gridPart (m : Mgmt) (g : Grid) : Part := (Assoc.get? m.parts (partOf g.ctx)).getD {}

/-- Where the next block of a grid would go now (R310, R311). -/
def nextCores (m : Mgmt) (r : Run) (g : Grid) : Option (List Nat) :=
  if !offersBlock m r g then none
  else
    let k := (Assoc.get? g.kernels 0).getD {}
    if g.det = 0 then chooseSet m r (gridPart m g) k [] else groupOf m (gridPart m g) k.span g.nextBlock

/-- A core looked at as a block begins to wait for it: what its crews free from now on is held (R225). -/
def watchCore (r : Run) (core : Nat) : Run := r.core core (fun k => { k with seen := coreUsed r core [] })

/-- A block and its crews made, waiting on the cores given. -/
def makeBlock (r : Run) (b : Block) (k : Kernel) (level : Nat) (us : List Word) (cores : List Nat) : Run :=
  let bk := Assoc.fresh r.blocks
  let ck := Assoc.fresh r.crews
  let r := { r with blocks := Assoc.set r.blocks bk { b with crews := (List.range cores.length).map (ck + ·) } }
  let r := if 1 < cores.length then cores.foldl watchCore r else r
  (cores.zipIdx).foldl (fun r c =>
    { r with
      crews := Assoc.set r.crews (ck + c.2) { startCrew k bk c.2 level b.args us with core := c.1, placed := r.order }
      order := r.order + 1 }) r

/-- Whether another grid of the partition comes first in the order of R309 and has a block to place now. -/
def betterGrid (m : Mgmt) (r : Run) (gk : Nat) (g : Grid) : Bool :=
  r.grids.any (fun p => p.1 != gk && partOf p.2.ctx == partOf g.ctx &&
    keysBefore [3 - p.2.level, p.2.accepted] [3 - g.level, g.accepted] && (nextCores m r p.2).isSome)

/-- The next block of a grid made on the cores given. -/
def placeOn (r : Run) (gk : Nat) (g : Grid) (cores : List Nat) : Run :=
  let k := (Assoc.get? g.kernels 0).getD {}
  let r := makeBlock r { grid := gk, lin := g.nextBlock, args := g.args, span := k.span } k g.level [] cores
  r.grid gk (fun x => { x with nextBlock := x.nextBlock + 1 })

/-- The next block of a grid placed (R308, R309). -/
def placeNext (m : Mgmt) (r : Run) (gk : Nat) : Run :=
  match Assoc.get? r.grids gk with
  | none => r
  | some g =>
    match nextCores m r g with
    | none => r
    | some cores => if betterGrid m r gk g then r else placeOn r gk g cores

/-- The blocks and tasks of a grid that have begun and not ended. -/
def goingBlocks (r : Run) (g : Nat) : List Nat :=
  (r.blocks.filter (fun p => p.2.grid == g && !p.2.ended && (p.2.admitted || p.2.replay))).map (·.1)

/-- The task to run again, when the grid's tasks that have begun have ended, started from its initial state on its own group (R321). -/
def startReplay (m : Mgmt) (r : Run) (gk : Nat) : Run :=
  match Assoc.get? r.grids gk with
  | none => r
  | some g =>
    match g.redo with
    | [] => r
    | (lin, kind, taskix, _) :: _ =>
      if goingBlocks r gk ≠ [] || g.status.isSome || !mayIssue m r g.ctx then r
      else
        match r.blocks.find? (fun p => p.2.grid == gk && p.2.lin == lin && b2n p.2.isTask == kind && p.2.taskix == taskix) with
        | none => r
        | some (_, b) =>
          let k := kernelOf g b
          let old := b.crews.filterMap (fun c => Assoc.get? r.crews c)
          let level := match old with
            | x :: _ => x.level
            | [] => g.level
          let cores := if b.isTask then old.map (·.core) else (groupOf m (gridPart m g) k.span lin).getD []
          let us := if b.isTask then b.user ++ [BitVec.ofNat 32 b.taskix] else []
          let fresh : Block :=
            { grid := gk, lin := lin, isTask := b.isTask, taskix := b.taskix, user := b.user, args := b.args,
              kernel := b.kernel, span := b.span, nosteal := true, replay := true }
          makeBlock r fresh k level us cores

/-- BLOCK_PLACEMENT: a grid. A grid with tasks to run again starts the first of them instead. -/
def execBlockPlacement (s : State) : Outcome := happen s (fun a =>
  match Assoc.get? s.run.grids a.grid with
  | some g => if g.redo = [] then placeNext s.mgmt s.run a.grid else startReplay s.mgmt s.run a.grid
  | none => s.run)

/-! ## Stealing (R314, R315) -/

/-- Whether the tail task of a deque may be stolen by a core. -/
def stealable (m : Mgmt) (r : Run) (thief bk : Nat) : Bool :=
  match Assoc.get? r.blocks bk with
  | none => false
  | some b => match Assoc.get? r.grids b.grid with
    | none => false
    | some g => g.det == 0 && !g.nosteal && !b.nosteal && mayAdmit m r b &&
        couldAdmit m r (kernelOf g b) [] 0 thief

/-- The core and the tail task that an idle core of a tile would take: the next core after it, in logical order, whose tail may be
stolen (R314). -/
def stealPick (m : Mgmt) (r : Run) (core : Nat) : Option (Nat × Nat) :=
  let cs := tileCores m (core / 24)
  let i := cs.findIdx (fun k => k == core)
  let others := (List.range (cs.length - 1)).filterMap (fun j => cs[(i + 1 + j) % cs.length]?)
  let tail (k : Nat) : Option Nat := (r.coreSt k).deque.getLast?
  others.findSome? (fun k => (tail k).bind (fun bk => if stealable m r core bk then some (k, bk) else none))

/-- A task taken from the tail of a core's deque by another core. -/
def moveTask (r : Run) (k core bk : Nat) : Run :=
  let r := r.core k (fun c => { c with deque := c.deque.dropLast })
  match Assoc.get? r.blocks bk with
  | none => r
  | some b => b.crews.foldl (fun r c => r.crew c (fun x => { x with core := core })) r

/-- Whether a core of its tile is idle: no crew waits to be admitted to it (R314). -/
def mayStealFor (m : Mgmt) (r : Run) (core : Nat) : Bool :=
  (tileCores m (core / 24)).contains core && !r.crews.any (fun p => p.2.core == core && p.2.status == .waiting)

/-- An idle core takes the tail task of another core's deque on its tile. -/
def stealTask (m : Mgmt) (r : Run) (core : Nat) : Run :=
  match stealPick m r core with
  | none => r
  | some (k, bk) => if mayStealFor m r core then moveTask r k core bk else r

/-- TASK_STEAL: an idle core. -/
def execTaskSteal (s : State) : Outcome := happen s (fun a => stealTask s.mgmt s.run a.core)

/-! ## The save (R335) -/

/-- A held word as a save leaves it: what had recorded nothing issues again (R196). -/
def savedWait : Wait → Wait
  | .monitor _ _ _ => .none
  | .page => .none
  | .woken => .uiwait
  | .merged => .none
  | w => w

/-- A crew whose intake has stopped (R335 step 1). -/
def beginSave (r : Run) (c reason : Nat) : Run :=
  r.crew c (fun x => if x.status = .resident then { x with status := .saving, reason := reason } else x)

/-- Whether a crew being saved has stopped and drained: what still counts is in MX, or a pop that waits for its entry, or a failed word
whose followers wait on (R26, R335 steps 2 and 3; log 6). -/
def drained (r : Run) (c : Nat) (x : Crew) : Bool :=
  (r.coreSt x.core).running.all (fun p => p.2.1 != c) &&
  x.aslice.ops.all (fun o => o.failed && !lateDue x.aslice.windows x.aslice.ops o.id allLanes) &&
  x.warps.all (fun w => w.ops.all (fun o => if o.failed then !w.lateReady o else o.cls == .mx || o.pops))

/-- A batch as a save leaves it (R196, R230). -/
def Batch.saved (b : Batch) : Batch := { b with wait := savedWait b.wait, losses := 0, promoted := none }

/-- A warp as a save leaves it: its batches, and the continuations that its handlers keep (R196, R237, R325). -/
def Warp.saved (w : Warp) : Warp :=
  { w with
    batches := w.batches.map Batch.saved
    divrec := w.divrec.map Batch.saved
    hsave := w.hsave.map (fun h => { h with restart := h.restart.saved }) }

/-- A crew saved: its core leaves the matrix work it does for it, its copies are parked, at a pack-up every one of them, its place in the
XACQ queue is lost, and its resources are free (R13, R283, R298, R335). -/
def saveCrew (m : Mgmt) (r : Run) (c : Nat) (x : Crew) : Run :=
  let carry := match Assoc.get? m.parts (partOf (crewCtx r c)) with
    | some p => p.carry
    | none => false
  let r := leaveMatrix m r x.core c
  let r := r.core x.core (fun k => { k with xacq := k.xacq.filter (fun q => q.1 != c) })
  r.crew c (fun x =>
    { x with
      status := .saved
      lastCore := x.core
      carry := carry
      warps := x.warps.map Warp.saved
      aslice := { x.aslice with wait := savedWait x.aslice.wait,
                                copies := x.aslice.copies.map (fun y => if x.reason = 2 || padCopy y then y.park else y) } })

/-- The end of the save of a crew whose intake has stopped and that has drained. -/
def finishSave (m : Mgmt) (r : Run) (c : Nat) : Run :=
  match Assoc.get? r.crews c with
  | none => r
  | some x => if x.status = .saving && drained r c x then saveCrew m r c x else r

/-! ## Eviction (R332, R333) -/

/-- Whether a dispatched operation reads the pad of a crew, or one that it signed would be left without a resident participant (R333). -/
def matrixNeeds (r : Run) (c : Nat) : Bool :=
  r.matrix.any (fun p =>
    let op := p.2
    let pads := !op.readout && [shapeOf op.shapeA, shapeOf op.shapeB].any (fun s =>
      s.spc == 1 && match (Assoc.get? r.blocks op.block).bind (fun b => crewOf r b s.crew) with
        | some k => k == c
        | none => false)
    let alone := op.signers.any (fun s => s.1 == c) && op.crews.all (fun k => k == c || !crewResident r k)
    pads || alone)

/-- The crews that the PDU may evict from a core for a waiter of a level, outside its block, in the order of R332. -/
def candidates (m : Mgmt) (r : Run) (core level block : Nat) : List Nat :=
  let cs := r.crews.filter (fun p => p.2.core == core && p.2.status == .resident && decide (p.2.level < level) &&
    p.2.block != block && !matrixNeeds r p.1 && match Assoc.get? m.parts (partOf (crewCtx r p.1)) with
      | some q => !q.stopped
      | none => true)
  (sortBy (fun a b => keysBefore [a.2.level, 2 ^ 64 - a.2.stamp] [b.2.level, 2 ^ 64 - b.2.stamp]) cs).map (·.1)

/-- The crews of a grid on a core all of whose warps wait in JOIN or GRIDWAIT (R154, R332). -/
def deadlocked (m : Mgmt) (r : Run) (core gk : Nat) : List Nat :=
  let held (c w : Nat) (b : Batch) : Bool := match env? m r c w (lowLane b.lanes) with
    | none => false
    | some e => match fetchBatch e with
      | .instr (.join _) => !wordReady e
      | .instr (.gridwait _) => !wordReady e
      | _ => false
  let cs := r.crews.filter (fun p => p.2.core == core && p.2.status == .resident && !matrixNeeds r p.1 &&
    (match Assoc.get? r.blocks p.2.block with
      | some b => b.grid == gk
      | none => false) &&
    (p.2.warps.zipIdx).all (fun w => w.1.ended || (w.1.batches != [] && w.1.batches.all (held p.1 w.2))))
  (sortBy (fun a b => keysBefore [a.2.level, 2 ^ 64 - a.2.stamp] [b.2.level, 2 ^ 64 - b.2.stamp]) cs).map (·.1)

/-- The sets of k members of a list, in lexicographic order. -/
def combos : Nat → List Nat → List (List Nat)
  | 0, _ => [[]]
  | _ + 1, [] => []
  | k + 1, x :: xs => (combos k xs).map (x :: ·) ++ combos (k + 1) xs

/-- The first set of candidates that makes a test succeed (R332). -/
def firstSet (cs : List Nat) (ok : List Nat → Bool) : Option (List Nat) :=
  ((List.range cs.length).flatMap (fun k => combos (k + 1) cs)).find? ok

/-- The crews of a core that are being saved already: their resources are as good as free. -/
def goingCrews (r : Run) (core : Nat) : List Nat :=
  (r.crews.filter (fun p => p.2.core == core && p.2.status == .saving)).map (·.1)

/-- The first set of crews of a core, of those given, that makes room for needs beside those being saved: none when these suffice. -/
def setFor (m : Mgmt) (r : Run) (crews cs : List Nat) (core : Nat) (n : Needs) : Option (List Nat) :=
  let fits (set : List Nat) : Bool := needsFit m r core n (keptBack r crews core) (goingCrews r core ++ set)
  if fits [] then some [] else firstSet cs fits

/-- The sets to evict on each of several cores for crews that wait, when each core has one. -/
def setsFor (cores : List (Nat × Needs)) (m : Mgmt) (r : Run) (crews : List Nat) (level block : Nat) : Option (List Nat) :=
  (allSome (cores.map (fun c => setFor m r crews (candidates m r c.1 level block) c.1 c.2))).map List.flatten

/-- What the PDU evicts for a block or task that waits where it has been placed. -/
def victimsPlaced (m : Mgmt) (r : Run) (bk : Nat) : List Nat :=
  match Assoc.get? r.blocks bk with
  | none => []
  | some b =>
    match blockWaiter m r bk b with
    | none => []
    | some w =>
      if waiterFits m r w [] then []
      else
        let level := 3 - w.keys.headD 3
        let crews := w.crews.map (·.1)
        let cores := w.crews.filterMap (fun c => (Assoc.get? r.crews c.1).map (fun x => (c.2, crewNeeds r x)))
        match setsFor cores m r crews level bk with
        | some set => set
        | none =>
          if b.isTask then
            match cores with
            | (core, n) :: _ => (setFor m r crews (deadlocked m r core b.grid) core n).getD []
            | [] => []
          else []

/-- The crews below a level in the tiles of a partition, which the placement rule counts as gone (R332). -/
def belowLevel (r : Run) (level : Nat) : List Nat :=
  (r.crews.filter (fun p => p.2.status == .saving || (p.2.status == .resident && decide (p.2.level < level)))).map (·.1)

/-- What the PDU evicts for the next block of a grid that no core set admits. -/
def victimsUnplaced (m : Mgmt) (r : Run) (gk : Nat) : List Nat :=
  match Assoc.get? r.grids gk with
  | none => []
  | some g =>
    if g.det != 0 || !offersBlock m r g || (nextCores m r g).isSome then []
    else
      let k := (Assoc.get? g.kernels 0).getD {}
      match chooseSet m r (gridPart m g) k (belowLevel r g.level) with
      | none => []
      | some cores => (setsFor ((cores.zipIdx).map (fun c => (c.1, k.needs c.2))) m r [] g.level (Assoc.fresh r.blocks)).getD []

/-- What the PDU evicts for a saved crew that waits for readmission. -/
def victimsSaved (m : Mgmt) (r : Run) (c : Nat) : List Nat :=
  match Assoc.get? r.crews c with
  | none => []
  | some x =>
    let ws := savedWaiters m r c x
    let level := match Assoc.get? r.blocks x.block with
      | some b => readmitLevel b x
      | none => x.level
    if ws.any (fun w => waiterFits m r w []) then []
    else
      let n := crewNeeds r x
      let cs := ((tileCores m (x.core / 24)).zipIdx).filter (fun k => needsFit m r k.1 n (keptBack r [c] k.1) (belowLevel r level))
      match (if ws = [] then none else minBy (fun (k : Nat × Nat) => placeLoad r k.1) cs) with
      | none => []
      | some k => (setsFor [(k.1, n)] m r [c] level x.block).getD []

/-- EVICTION: the crews that must go for block or task n, for the next block of a grid (flag), or for a saved crew (slice)
begin their save; with value 1, a crew whose intake has stopped and that has drained is saved. -/
def execEviction (s : State) : Outcome := happen s (fun a =>
  if a.value = 1 then finishSave s.mgmt s.run a.crew
  else
    let vs := if a.flag then victimsUnplaced s.mgmt s.run a.grid
      else if a.slice then victimsSaved s.mgmt s.run a.crew
      else victimsPlaced s.mgmt s.run a.n
    vs.foldl (fun r c => beginSave r c 1) s.run)

/-! ## The restore (R336) -/

/-- The requests for granules of a restored crew, at the tail of its core's queue (R13). -/
def requeueXacq (r : Run) (c core : Nat) : Run :=
  match Assoc.get? r.crews c with
  | none => r
  | some x =>
    let qs := (x.warps.zipIdx).flatMap (fun w => match w.1.xpend with
      | some n => (w.1.batches.filter (fun b => b.wait == .xacq)).map (fun b => (c, w.2, lowLane b.lanes, n))
      | none => [])
    r.core core (fun k => { k with xacq := k.xacq ++ qs })

/-- A saved crew restored to a core of its tile: its copies go on, its requests queue again, and operations that waited for
a participant are cut (R284, R288, R336). -/
def seatAgain (r : Run) (c core blk : Nat) : Run :=
  let moved := (Assoc.get? r.crews c).any (fun x => !x.carry && x.lastCore != core)
  let r := seatCrew r c core
  let r := if moved then settleSynonyms r c (fun _ => true) else r
  let r := r.crew c (fun y => { y with aslice := { y.aslice with copies := y.aslice.copies.map (fun z => { z with parked := false }) } })
  let r := requeueXacq r c core
  let r := { r with matrix := r.matrix.map (fun (p : Nat × MatrixOp) => (p.1, cutOp r p.2)) }
  wakeLookout (r.block blk (fun b => { b with ui := { b.ui with wakeRaised := false } })) blk

/-- A saved crew restored, when it is the next that its core takes (R334, R336). -/
def restoreCrew (m : Mgmt) (r : Run) (c core : Nat) : Run :=
  match Assoc.get? r.crews c with
  | none => r
  | some x =>
    match (savedWaiters m r c x).find? (fun w => w.crews == [(c, core)]) with
    | none => r
    | some w => if isNext m r w then seatAgain r c core x.block else r

/-- CREW_RESTORE: a crew and the core that takes it. -/
def execCrewRestore (s : State) : Outcome := happen s (fun a => restoreCrew s.mgmt s.run a.crew a.core)

end Sys2Proof.Machine
end

