-- ==== Sys2Proof/Machine/Trust.lean ====
section
/-! DEFINITION. Hash-extend registers and event logs (R406, R407), configuration records (R408), shape reports (R410), key
slots and scrubbing (R404, R412). -/

namespace Sys2Proof.Machine

/-! ## Partitions and tiles -/

/-- A partition changed. -/
def Mgmt.part (m : Mgmt) (tag : Nat) (f : Part → Part) : Mgmt := { m with parts := Assoc.modify m.parts tag f }
/-- What base camp holds of a tile. -/
def Mgmt.tileHw (m : Mgmt) (t : Nat) : TileHw := (Assoc.get? m.tiles t).getD {}
/-- What base camp holds of a tile, changed. -/
def Mgmt.tile (m : Mgmt) (t : Nat) (f : TileHw → TileHw) : Mgmt := { m with tiles := Assoc.set m.tiles t (f (m.tileHw t)) }
/-- What base camp holds of a pseudo-channel. -/
def Mgmt.channel (m : Mgmt) (c : Nat) : Channel := (Assoc.get? m.channels c).getD {}

/-- The partition that owns a tile (R2). -/
def Mgmt.owner (m : Mgmt) (tile : Nat) : Option (Nat × Part) := m.parts.find? (fun p => p.2.tiles.contains tile)

/-- Whether two tiles meet at an edge (R1). -/
def edge (a b : Nat) : Bool :=
  (a / 8 == b / 8 && (a % 8 + 1 == b % 8 || b % 8 + 1 == a % 8)) ||
  (a % 8 == b % 8 && (a / 8 + 1 == b / 8 || b / 8 + 1 == a / 8))

/-- The tiles of a set reached from some of them, one edge further for each unit of fuel. -/
def reached (ts : List Nat) : Nat → List Nat → List Nat
  | 0, seen => seen
  | n + 1, seen => reached ts n (ts.filter (fun t => seen.contains t || seen.any (edge t)))

/-- Whether a set of tiles is nonempty and connected through tile edges (R2, R384). -/
def connected (ts : List Nat) : Bool := match ts with
  | [] => false
  | t :: _ => ts.all (fun u => (reached ts ts.length [t]).contains u)

/-- The mask of tags of the partitions that a test picks. -/
def Mgmt.tagMask (m : Mgmt) (ok : Part → Bool) : BitVec 49 :=
  m.parts.foldl (fun x p => if ok p.2 then x ||| (1#49 <<< p.1) else x) 0

/-- The tags that a channel of a port allows (R382). The partition channel, 0: a partition that holds both ends of the link, or the tile of
the local port. The transit channel, 1: partitions outside the tile whose memory traffic crosses it. -/
def Mgmt.channelMask (m : Mgmt) (t port chan : Nat) : BitVec 49 :=
  m.tagMask (fun p =>
    if chan = 0 then p.tiles.contains t && (port == 4 || match neighbour t port with
      | some u => p.tiles.contains u
      | none => false)
    else !p.tiles.contains t && Config.crosses p.tiles p.pcset t port)

/-- The place in ROUTES of a channel of a port. -/
def routeKey (t port chan : Nat) : Nat := 10 * t + 2 * port + chan

/-- ROUTES set anew, as every command on a partition does (R381, R382). -/
def Mgmt.routed (m : Mgmt) : Mgmt :=
  { m with routes := (List.range 96).flatMap (fun t => (List.range 5).flatMap (fun p => (List.range 2).filterMap (fun c =>
      let x := m.channelMask t p c
      if x = 0 then none else some (routeKey t p c, x)))) }

/-- Whether a channel of a port allows a tag (R383). -/
def Mgmt.allowsTag (m : Mgmt) (t port chan tag : Nat) : Bool := (rdReg m.routes (routeKey t port chan)).getLsbD tag

/-- A packet dropped by a router, logged (R383). -/
def dropPacket (r : Run) (tile src tag port chan : Nat) : Run :=
  let r := (r.sampleRefc tile).tile tile (fun t => { t with drops := t.drops + 1 })
  let e := toBytes 8 (r.tileSt tile).refc.toNat ++ toBytes 1 src ++ toBytes 1 tag ++ toBytes 1 port ++ toBytes 1 chan ++
    toBytes 1 tile ++ toBytes 3 0
  if r.dropLog.length < 1024 then { r with dropLog := r.dropLog ++ [e] } else { r with dropLost := r.dropLost + 1 }

/-! ## Registers and logs (R406, R407) -/

/-- The 512-bit number of 64 bytes. -/
def hash512 (bs : List Byte) : BitVec 512 := BitVec.ofNat 512 (ofBytes bs)

/-- The measurement of some content: its SHAKE256 digest of 512 bits (R405). -/
def measure (content : List Byte) : List Byte := shake256 content 64

/-- A register extended (R406). -/
def extendReg (x : BitVec 512) (meas : List Byte) : BitVec 512 := hash512 (shake256 (toBytes 64 x.toNat ++ meas) 64)

/-- The device log has no room for another entry: base camp refuses what it would measure (R407). -/
def Mgmt.logFull (m : Mgmt) : Bool := decide (4096 ≤ m.log.length)

/-- HXn extended with a measurement of a record, with its entry in the event log (R406, R407). -/
def Mgmt.extendHx (m : Mgmt) (n : Nat) (meas content : List Byte) : Mgmt :=
  { m with
    hx := wrReg m.hx n (extendReg (rdReg m.hx n) meas)
    log := m.log ++ [{ index := m.logIndex, reg := n, tag := 0, meas := hash512 meas, content := content.take 192 }]
    logIndex := m.logIndex + 1 }

/-- PXn of a partition extended; its log of 256 drops the oldest entry when it is full (R406, R407). -/
def Mgmt.extendPx (m : Mgmt) (tag n : Nat) (meas content : List Byte) : Mgmt :=
  let i := m.logIndex
  let m := m.part tag (fun p =>
    let e : LogEntry := { index := i, reg := 0x80 + n, tag := tag, meas := hash512 meas, content := content.take 192 }
    let full := decide (256 ≤ p.log.length)
    { p with
      px := wrReg p.px n (extendReg (rdReg p.px n) meas)
      log := (if full then p.log.drop 1 else p.log) ++ [e]
      logLost := if full then p.logLost + 1 else p.logLost })
  { m with logIndex := i + 1 }

/-- A configuration record formed: HX4 extended with its digest, CFGD kept (R408; log 16). -/
def newConfig (m : Mgmt) (r : Run) : Mgmt × Run :=
  let (i, r) := r.draw
  let rec_ := Config.record i
  ({ (m.extendHx 4 (measure rec_) rec_) with cfgd := hash512 (measure rec_) }, r)

/-! ## The shape report (R410) -/

/-- Bytes of a pseudo-channel, in blocks of 2 MiB (R3). -/
def channelBlocks : Nat := 768

/-- Usable granules of the presented core with fewest, over a tile (R13, R410). -/
def tileGranules (m : Mgmt) (t : Nat) : Nat :=
  (tileCores m t).foldl (fun n k => min n (64 - (Assoc.get? m.granRetired k).getD 0)) 64

/-- Whether a partition holds a tile in reduced service (R416). -/
def Mgmt.reducedPart (m : Mgmt) (p : Part) : Bool := p.tiles.any (fun t => (m.tileHw t).reduced)

/-- The mask of replaced cores of a tile: the physical cores below 22 that are not presented (R2, R401). -/
def TileHw.replaced (t : TileHw) : Nat :=
  ((List.range 24).filter (fun c => !t.cores.contains c && !t.spares.contains c)).foldl (fun n c => n + 2 ^ c) 0

/-- The clock of a step in MHz (R415). -/
def stepMhz (n : Nat) : Nat := 1200 + 25 * n

/-- The lock flags as the report shows them: both are treated as set in CONFIG_UNLOCKED (R387). -/
def Part.repair (p : Part) : Bool := p.tdi == 0 || p.repairLock
def Part.reshape (p : Part) : Bool := p.tdi == 0 || p.reshapeLock

/-- The shape report of a partition (R410). -/
def shapeReport (m : Mgmt) (tag : Nat) (p : Part) : List Byte :=
  let flags := b2n p.carry + 2 * b2n (m.reducedPart p) + 4 * b2n p.repair + 8 * b2n p.reshape
  toBytes 8 p.gen ++ toBytes 1 tag ++ toBytes 1 p.tiles.length ++ toBytes 1 (p.tiles.headD 0) ++ toBytes 1 flags ++
  toBytes 4 p.pcset.length ++ toBytes 8 (p.s2.length * 2 ^ 21) ++ toBytes 2 p.capClock ++ toBytes 1 p.share ++ toBytes 37 0 ++
  p.tiles.flatMap (fun t => toBytes 1 t ++ toBytes 1 (m.tileHw t).cores.length ++ toBytes 4 (m.tileHw t).replaced ++
    toBytes 1 (tileGranules m t) ++ toBytes 9 0)

/-- A shape change that has been made: its generation, and the configuration measured (R389 step 8, R408). -/
def newShape (m : Mgmt) (r : Run) (tag : Nat) : Mgmt × Run := newConfig (m.part tag (fun p => { p with gen := p.gen + 1 })) r

/-! ## Destruction (R412) -/

/-- The device address blocks of 2 MiB that a partition's stage 2 maps. -/
def Part.blocks (p : Part) : List Nat :=
  p.s2.filterMap (fun e => if bits e.toNat 1 0 = 1 then some (bits e.toNat 56 21) else none)

/-- A partition's contexts killed, with their scratchpad, and its device memory zeroed (R331, R412 steps 2 and 3; log 17). -/
def wipePart (m : Mgmt) (r : Run) (tag : Nat) : Run :=
  let ks := (r.contexts.filter (fun c => partOf c.1 == tag)).map (·.1)
  let r := ks.foldl (fun r k => killContext r k) r
  let bs := match Assoc.get? m.parts tag with
    | some p => p.blocks
    | none => []
  { r with
    contexts := r.contexts.filter (fun c => partOf c.1 != tag)
    mem := r.mem.filter (fun c => !bs.contains (c.1 / 2 ^ 21))
    capTags := r.capTags.filter (fun g => !bs.contains (g / 2 ^ 17))
    poison := r.poison.filter (fun w => !bs.any (fun b => Place.key (.dev (b * 2 ^ 21)) / 8 ≤ w &&
      decide (w < Place.key (.dev ((b + 1) * 2 ^ 21)) / 8)))
    spad := r.spad.filter (fun c => c.1 / 2 ^ 40 != tag) }

/-- The key slot zeroised and every pseudo-channel of a partition put in SCRUBBING (R412). -/
def scrubPart (m : Mgmt) (tag : Nat) : Mgmt :=
  match Assoc.get? m.parts tag with
  | none => m
  | some p =>
    { m with
      keys := Assoc.erase m.keys tag
      channels := p.pcset.foldl (fun cs c => Assoc.set cs c { m.channel c with state := 2, cursor := 0 }) m.channels }

/-- A TDI that moves to ERROR when it stands in CONFIG_LOCKED or RUN (R377, R388, R409). -/
def Mgmt.tdiError (m : Mgmt) (tag : Nat) : Mgmt :=
  m.part tag (fun p => if p.tdi = 1 ∨ p.tdi = 2 then { p with tdi := 3, repairLock := false, reshapeLock := false } else p)

/-- A partition's contexts killed, its key destroyed and its memory scrubbed (R377 step 6, R388). -/
def ruinPart (m : Mgmt) (r : Run) (tag : Nat) : Mgmt × Run := (scrubPart m tag, wipePart m r tag)

end Sys2Proof.Machine
end

