-- ==== Sys2Proof/Machine/Launch.lean ====
section
/-! DEFINITION. Acceptance of a launch record: its fields (R305, R306), the checks and statuses of R307, the record area of
R319, and the grid that goes live (R309, R312). -/

namespace Sys2Proof.Machine

/-! ## Reading for the PDU -/

/-- How many pages n bytes from an address touch. -/
def pagesTouched (va n : Nat) : Nat := if n = 0 then 0 else (va + n - 1) / 4096 + 1 - va / 4096

/-- The first HOST page, with the right it lacks, that keeps n bytes from being reached (R347, R348). -/
def hostMissAt (m : Mgmt) (r : Run) (ctxKey va n need : Nat) : Option (Nat × Nat) :=
  (List.range (pagesTouched va n)).findSome? (fun i =>
    match globalPlace m r 0 ctxKey (max va ((va / 4096 + i) * 4096)) need with
    | .error (.hostMiss page nd) => some (page, nd)
    | _ => none)

/-- Whether every page of n bytes from an address can be reached with some rights. -/
def reachable (m : Mgmt) (r : Run) (ctxKey va n need : Nat) : Bool :=
  (List.range (pagesTouched va n)).all (fun i =>
    match pagePlace m r 0 ctxKey (max va ((va / 4096 + i) * 4096)) need with
    | .ok _ => true
    | .error _ => false)

/-! ## The record (R305) -/

/-- A 16-byte address field of a record in global memory: in a raw context an address below 2^57 with its upper half zero; in
a protected one a capability that passes R254 for n bytes under a permission. None where it fails. -/
def recordAddr (m : Mgmt) (r : Run) (ctxKey va : Nat) (bs : List Byte) (off n perm : Nat) : Option Nat :=
  let x := recField bs off 16
  if isProt r ctxKey then
    let tag := onProtPage m r ctxKey (va + off) && match pagePlace m r 0 ctxKey (va + off) needRd with
      | .ok (.dev a) => r.capTags.contains (a / 16)
      | _ => false
    if capPasses ctxKey tag x perm (capAddr x) n then some (capAddr x) else none
  else if x < 2 ^ 57 then some x else none

/-- A bound-table entry (R53). -/
def boundOf (bs : List Byte) : BoundEntry :=
  { lo := recField bs 0 4, hi := recField bs 4 4, action := recField bs 8 1, eclass := recField bs 9 1 }

/-- Entry i of a bound table. -/
def boundBytes (bs : List Byte) (i : Nat) : List Byte := (bs.drop (16 * i)).take 16

/-- Whether a bound table keeps R53; its bytes +10 to +15 are ignored (R5). -/
def boundsOk (bs : List Byte) : Bool :=
  (List.range 16).all (fun i => !(boundOf (boundBytes bs i)).bad)

/-- Whether a format slot keeps R45: no reserved bit set, no reserved scale format. -/
def slotOk (s : Nat) : Bool := bits s 15 11 == 0 && bits s 7 6 != 3

/-- A launch record as read: its bytes, its resolved addresses, its kernel and its bound table. -/
structure LaunchRec where
  bs : List Byte
  code : Nat
  args : Nat
  const : Nat
  scale : Nat
  detrec : Nat
  kernel : Kernel
  bounds : List BoundEntry
deriving DecidableEq, Repr, Inhabited

/-- DET, CAIRN, PRI and NOSTEAL of FLAGS (R306). -/
def recDet (bs : List Byte) : Nat := bits (recField bs 2 2) 1 0
def recPri (bs : List Byte) : Nat := bits (recField bs 2 2) 4 3

/-- The number of blocks that a record asks for (R308). -/
def recBlocks (bs : List Byte) : Nat := recField bs 24 4 * recField bs 28 2 * recField bs 30 2

/-- The fields of a record that need nothing else to be judged (R305, R306, R323). -/
def recordFieldsOk (bs : List Byte) : Bool :=
  let f := recField bs
  let nprod := f 212 4
  f 0 2 == 1 && f 2 2 / 64 == 0 && recDet bs != 3 && f 11 1 == 0 && f 248 8 == 0 &&
  decide (1 ≤ f 24 4) && decide (f 24 4 < 2 ^ 31) && f 28 2 != 0 && f 30 2 != 0 && f 192 4 != 0 &&
  (List.range 16).all (fun c => bits (f 200 4) (2 * c + 1) (2 * c) != 3) && decide (nprod ≤ 4) &&
  (List.range 4).all (fun i => decide (i < nprod) || f (216 + 4 * i) 4 == 0) &&
  (List.range 8).all (fun i => slotOk (f (128 + 8 * i) 8)) && (recDet bs != 0 || f 112 16 == 0)

/-- The bytes of a code object that a launch and its forks read: all of its length, and its descriptors (R82, R84). -/
def codeBytes (m : Mgmt) (r : Run) (ctxKey code kidx : Nat) : Nat :=
  max 64 (max (readVaNum m r ctxKey (code + 12) 4) (readVaNum m r ctxKey (code + 8) 4 + 256 * (kidx + 1)))

/-- The bytes of a record area with its table of forked tasks (R319). -/
def areaBytes (m : Mgmt) (r : Run) (ctxKey detrec nb : Nat) : Nat := 128 + 16 * nb + 32 * readVaNum m r ctxKey (detrec + 16) 8

/-- The code object of a record: in a protected context its capability covers every byte that is read (R254). -/
def recordCode (m : Mgmt) (r : Run) (ctxKey va : Nat) (bs : List Byte) : Option Nat := do
  let code ← recordAddr m r ctxKey va bs 32 64 0
  recordAddr m r ctxKey va bs 32 (codeBytes m r ctxKey code (recField bs 4 2)) 0

/-- The record area of a record: it is read and written, in RECORD and in CHECK (R254, R320, R321). -/
def recordArea (m : Mgmt) (r : Run) (ctxKey va : Nat) (bs : List Byte) : Option Nat :=
  if recDet bs = 0 then some 0
  else do
    let a ← recordAddr m r ctxKey va bs 112 128 0
    let n := areaBytes m r ctxKey a (recBlocks bs)
    let _ ← recordAddr m r ctxKey va bs 112 n 0
    recordAddr m r ctxKey va bs 112 n 1

/-- The record that a launch names, when it keeps the first row of R307. -/
def readRecord (m : Mgmt) (r : Run) (ctxKey va : Nat) : Option LaunchRec := do
  if va % 256 ≠ 0 then none
  let bs ← readVa m r ctxKey va 256
  if !recordFieldsOk bs then none
  let f := recField bs
  let addr := recordAddr m r ctxKey va bs
  let code ← recordCode m r ctxKey va bs
  let args ← addr 48 0 0
  let const ← addr 64 0 0
  let scale ← addr 80 (f 196 4) 0
  let bounds ← addr 96 256 0
  let detrec ← recordArea m r ctxKey va bs
  if code % 256 ≠ 0 then none
  let k ← readKernel m r ctxKey code (f 4 2) (some (f 16 4))
  let k := { k with crew := f 8 2, span := f 6 1, regs := f 7 1, lane := f 12 4, pad := f 16 4, cluster := f 20 4 }
  if !k.shapeOk then none
  let tb ← readVa m r ctxKey bounds 256
  if !boundsOk tb then none
  return { bs := bs, code := code, args := args, const := const, scale := scale, detrec := detrec, kernel := k,
           bounds := (List.range 16).map (fun i => boundOf (boundBytes tb i)) }

/-- Whether a record area may serve (R319): aligned, mapped in full, and in CHECK holding the digests of such a grid. -/
def recordAreaOk (m : Mgmt) (r : Run) (ctxKey : Nat) (x : LaunchRec) : Bool :=
  let nb := recBlocks x.bs
  let num (off n : Nat) : Nat := readVaNum m r ctxKey (x.detrec + off) n
  x.detrec % 64 == 0 && reachable m r ctxKey x.detrec (128 + 16 * nb) (needRd + needWr) &&
  reachable m r ctxKey x.detrec (128 + 16 * nb + 32 * num 16 8) (needRd + needWr) && num 96 16 == 0 && num 112 16 == 0 &&
  (recDet x.bs == 1 || (num 0 8 == nb && decide (num 8 8 ≤ num 16 8)))

/-- The status of a launch, 0 for one that is accepted: the first row of R307 that applies. -/
def launchStatus (m : Mgmt) (r : Run) (ctxKey va : Nat) : Nat × Option LaunchRec :=
  match readRecord m r ctxKey va with
  | none => (1, none)
  | some x =>
    let f := recField x.bs
    let part := (Assoc.get? m.parts (partOf ctxKey)).getD {}
    let prods := (List.range (f 212 4)).map (fun i => f (216 + 4 * i) 4)
    if !x.kernel.fitsEmpty || !part.tiles.any (fun t => decide (x.kernel.span ≤ (tileCores m t).length)) then (2, none)
    else if prods.any (fun p => p == 0 || p == f 192 4) then (3, none)
    else if (gridNamed r ctxKey (f 192 4)).isSome then (4, none)
    else if recDet x.bs ≠ 0 ∧ !recordAreaOk m r ctxKey x then (8, none)
    else (0, some x)

/-- The page that a launch must have translated before its record can be read whole (R347, R348). -/
def launchMiss (m : Mgmt) (r : Run) (ctxKey va : Nat) : Option (Nat × Nat) :=
  match hostMissAt m r ctxKey va 256 needRd with
  | some p => some p
  | none =>
    match readVa m r ctxKey va 256 with
    | none => none
    | some bs =>
      let f := recField bs
      let addr (off : Nat) : Nat := addrOf (isProt r ctxKey) (f off 16)
      let code := addr 32
      let first : Option (Nat × Nat) := hostMissAt m r ctxKey code 64 needRd
      let table := code + readVaNum m r ctxKey (code + 8) 4 + 256 * f 4 2
      let image (off : Nat) : Option (Nat × Nat) :=
        hostMissAt m r ctxKey (code + readVaNum m r ctxKey (table + off) 4) (readVaNum m r ctxKey (table + off + 4) 4) needRd
      let spans := [first, hostMissAt m r ctxKey table 256 needRd, image 0, image 8, hostMissAt m r ctxKey (addr 96) 256 needRd,
        if recDet bs = 0 then none else hostMissAt m r ctxKey (addr 112) 128 (needRd + needWr),
        if recDet bs = 0 then none
        else hostMissAt m r ctxKey (addr 112) (areaBytes m r ctxKey (addr 112) (recBlocks bs)) (needRd + needWr)]
      spans.findSome? id

/-! ## Acceptance -/

/-- How a launch came: the queue it reports to, the level that bounds it, and its packet. -/
structure LaunchFrom where
  queue : Nat
  level : Nat
  packet : Option (Nat × Nat × Nat) := none
  byCall : Bool := false
deriving DecidableEq, Repr, Inhabited

/-- The grid of an accepted record (R305, R309, R312). -/
def gridOf (r : Run) (ctxKey : Nat) (x : LaunchRec) (o : LaunchFrom) : Grid :=
  let f := recField x.bs
  { ctx := ctxKey, ident := f 192 4, kernels := [(0, x.kernel)], code := x.code, nbx := f 24 4, nby := f 28 2, nbz := f 30 2,
    kidx := f 4 2, temask := BitVec.ofNat 8 (f 10 1), args := x.args, const := x.const, scale := x.scale, scaleLen := f 196 4,
    bounds := x.bounds, fslots := (List.range 8).map (fun i => f (128 + 8 * i) 8), det := recDet x.bs, detrec := x.detrec,
    detkey0 := f 232 8, detkey1 := f 240 8, cairn := bitOf (f 2 2) 2, nosteal := bitOf (f 2 2) 5, disp := f 200 4,
    chand := f 204 4, ahand := f 208 4,
    producers := ((List.range (f 212 4)).filterMap (fun i => gridNamed r ctxKey (f (216 + 4 * i) 4))).eraseDups,
    level := min (recPri x.bs) o.level, accepted := r.order, queue := o.queue, packet := o.packet, byCall := o.byCall }

/-- A launch judged: its status, and the run with the grid live when it is accepted (R307). -/
def acceptLaunch (m : Mgmt) (r : Run) (ctxKey va : Nat) (o : LaunchFrom) : Nat × Run :=
  match launchStatus m r ctxKey va with
  | (0, some x) =>
    let gk := Assoc.fresh r.grids
    (0, { r with grids := Assoc.set r.grids gk (gridOf r ctxKey x o), order := r.order + 1 })
  | (n, _) => (n, r)

/-- GRID of a launch record, as a completion shows it (R355). -/
def recordGrid (m : Mgmt) (r : Run) (ctxKey va : Nat) : Nat := readVaNum m r ctxKey (va + 192) 4

end Sys2Proof.Machine
end

