-- ==== Sys2Proof/Machine/Intake.lean ====
section
/-! DEFINITION. The host's queues: notify writes and packets (R352 to R355), queue registers (R351), interrupt moderation
(R356, R357), and the lease (R359, R360). -/

namespace Sys2Proof.Machine

/-! ## Functions, partitions and contexts -/

/-- The partition whose VF a function is (R351); the PF is function 0. -/
def partOfFn (m : Mgmt) (fn : Nat) : Option (Nat × Part) := if fn = 0 then none else m.parts.find? (fun p => p.2.vf == fn)

/-- The live context of a function that holds a PASID; through the PF, of any function. -/
def ctxOfPasid (m : Mgmt) (r : Run) (fn pasid : Nat) : Option Nat :=
  (r.contexts.find? (fun c => c.2.live && c.2.pasid == pasid && (fn == 0 || fnOfCtx m c.1 == fn))).map (·.1)

/-- Whether the intake of a function's queues is stopped for a pack-up (R389). -/
def intakeStopped (m : Mgmt) (fn : Nat) : Bool := match partOfFn m fn with
  | some p => p.2.stopped
  | none => false

/-! ## Packets (R352 to R354) -/

/-- The host address of packet i of a queue's ring. -/
def QueueIf.packetAt (x : QueueIf) (i : Nat) : Nat := hostKey (bits x.qpasid.toNat 19 0) (x.qbase.toNat + 64 * i)

/-- Fields of a packet (R352). -/
def pktType (bs : List Byte) : Nat := recField bs 0 1
def pktFlags (bs : List Byte) : Nat := recField bs 1 1
def pktPasid (bs : List Byte) : Nat := recField bs 4 4
def pktSeq (bs : List Byte) : Nat := recField bs 8 8
def pktAddr (bs : List Byte) : Nat := recField bs 16 16
def pktValue (bs : List Byte) : Nat := recField bs 32 8

/-- The next packet of a queue that may be read now (R352, R354, R355, R360, R389). -/
def nextPacket (m : Mgmt) (r : Run) (fn q : Nat) : Option (List Byte) :=
  let x := r.queueIf fn q
  if x.en && !x.held && !x.full && x.waiting.isNone && !intakeStopped m fn && x.qhead.toNat != x.tail then
    some (Mem.bytes r.hostMem 64 (x.packetAt x.qhead.toNat))
  else none

/-- What intake makes of a packet. -/
inductive Intake where
  /-- refused with a status -/
  | refuse (status : Nat)
  /-- it waits for the translation of a HOST page -/
  | page (ctx page need : Nat)
  /-- accepted for a context -/
  | accept (ctx : Nat)
deriving DecidableEq, Repr, Inhabited

/-- The translation of a packet's ADDR (R353 step 4): a UIPOST packet has none. -/
def intakeAddr (m : Mgmt) (r : Run) (ctx : Nat) (bs : List Byte) : Intake :=
  let a := pktAddr bs
  let check (miss : Option (Nat × Nat)) (ok : Bool) : Intake := match miss with
    | some (page, need) => .page ctx page need
    | none => if ok then .accept ctx else .refuse 0x13
  match pktType bs with
  | 1 => check (hostMissAt m r ctx a 1 needRd) (reachable m r ctx a 1 needRd)
  | 2 => check (hostMissAt m r ctx a 8 needRd) (a % 8 == 0 && reachable m r ctx a 8 needRd)
  | 3 => check (hostMissAt m r ctx a 8 needWr) (a % 8 == 0 && reachable m r ctx a 8 needWr)
  | _ => .accept ctx

/-- The checks of R353, in their order. -/
def judgePacket (m : Mgmt) (r : Run) (fn q : Nat) (bs : List Byte) : Intake :=
  let x := r.queueIf fn q
  if pktType bs = 0 ∨ 4 < pktType bs ∨ pktFlags bs / 4 ≠ 0 ∨ recField bs 2 2 ≠ 0 ∨ pktPasid bs / 2 ^ 20 ≠ 0 ∨
      recField bs 40 24 ≠ 0 then .refuse 0x10
  else if pktPasid bs ≠ bits x.qpasid.toNat 19 0 then .refuse 0x11
  else
    match ctxOfPasid m r fn (pktPasid bs) with
    | none => .refuse 0x12
    | some ctx => intakeAddr m r ctx bs

/-- A packet taken from the ring: QHEAD moves on, and its serial number is the one given (R352). -/
def takeFromRing (r : Run) (fn q : Nat) : Nat × Run :=
  let x := r.queueIf fn q
  (x.reads, r.setQueueIf fn q (fun y =>
    { y with qhead := BitVec.ofNat 32 ((y.qhead.toNat + 1) % 2 ^ y.qlog), reads := y.reads + 1,
             outstanding := y.outstanding ++ [x.reads] }))

/-- PACKET_REFUSAL (R353): a completion with the status, REFUSED counted, cause 1. -/
def refusePacket (r : Run) (fn q status : Nat) (bs : List Byte) : Run :=
  let (k, r) := takeFromRing r fn q
  let r := r.setQueueIf fn q (fun y => { y with refused := (y.refused + 1) &&& 0xFFFFFF#32 })
  raiseCause (complete r fn q k (pktSeq bs) status (pktType bs) 0 0) fn q 1

/-- A packet held by FENCE: an earlier packet of the queue has not completed (R352). -/
def fenced (r : Run) (fn q : Nat) (bs : List Byte) : Bool := bitOf (pktFlags bs) 1 && (r.queueIf fn q).outstanding != []

/-- The PDU's request for the translation of a HOST page; its walks use the unit of tile 0. -/
def pduPage (m : Mgmt) (r : Run) (ctx page need : Nat) : Run := requestPage m r 0 ctx page need

/-- What a piece of the PDU's work at an address leaves behind once it is done (R348, R378). -/
def pduDone (r : Run) (ctx va : Nat) : Run := unitDone r ctx (va / 4096)

/-- An accepted LAUNCH packet (R354): its record judged; a refused record completes at once (R307). -/
def launchPacket (m : Mgmt) (r : Run) (fn q ctx : Nat) (bs : List Byte) : Run :=
  match launchMiss m r ctx (pktAddr bs) with
  | some (page, need) => pduPage m r ctx page need
  | none =>
    let (k, r) := takeFromRing r fn q
    let o : LaunchFrom :=
      { queue := fn * 64 + q, level := (r.queueIf fn q).pri, packet := some (k, pktSeq bs, pktFlags bs) }
    match acceptLaunch m r ctx (pktAddr bs) o with
    | (0, r) => r
    | (status, r) =>
      complete r fn q k (pktSeq bs) status 1 (pktFlags bs) (recordGrid m r ctx (pktAddr bs))

/-- An accepted packet of its type (R354). -/
def actPacket (m : Mgmt) (r : Run) (fn q ctx : Nat) (bs : List Byte) : Run :=
  match pktType bs with
  | 1 => launchPacket m r fn q ctx bs
  | 2 =>
    let (k, r) := takeFromRing r fn q
    r.setQueueIf fn q (fun y => { y with waiting := some (k, ctx, bs) })
  | 3 =>
    let (k, r) := takeFromRing r fn q
    r.setQueueIf fn q (fun y => { y with signals := y.signals ++ [(k, ctx, bs)] })
  | _ =>
    let (k, r) := takeFromRing r fn q
    let v := pktValue bs
    let (r, status) := post r (.host (if fn = 0 then 0 else 1) q) ctx (v % 256) (v / 2 ^ 32)
    complete r fn q k (pktSeq bs) (0x20 + status) 4 (pktFlags bs) 0

/-- The next packet of a queue met by intake, when it is of the type given; a packet of no type is met as a LAUNCH. A ring read
that the host denies sets RFAULT (R351, R353). -/
def intake (m : Mgmt) (r : Run) (fn q ty : Nat) (denied : Bool) : Run :=
  match nextPacket m r fn q with
  | none => r
  | some bs =>
    if denied then
      raiseCause (r.setQueueIf fn q (fun y => { y with en := false, rfault := true })) fn q 1
    else if pktType bs ≠ ty ∧ !(ty == 1 && (pktType bs == 0 || decide (4 < pktType bs))) then r
    else
      match judgePacket m r fn q bs with
      | .refuse status => refusePacket (pduDone r ((ctxOfPasid m r fn (pktPasid bs)).getD 0) (pktAddr bs)) fn q status bs
      | .page ctx page need => pduPage m r ctx page need
      | .accept ctx => if fenced r fn q bs then r else pduDone (actPacket m r fn q ctx bs) ctx (pktAddr bs)

/-- The wait of a WAIT_EVENT packet looked at again, in the context for which it was accepted: it ends when the word, unsigned, is at
least VALUE (R354). -/
def lookAgain (m : Mgmt) (r : Run) (fn q : Nat) : Run :=
  match (r.queueIf fn q).waiting with
  | none => r
  | some (k, ctx, bs) =>
    let done (status : Nat) : Run :=
      complete ((pduDone r ctx (pktAddr bs)).setQueueIf fn q (fun y => { y with waiting := none })) fn q k (pktSeq bs) status 2
        (pktFlags bs) 0
    match hostMissAt m r ctx (pktAddr bs) 8 needRd with
    | some (page, need) => pduPage m r ctx page need
    | none =>
      if homeHeld m r ctx (pktAddr bs) then r
      else match readVa m r ctx (pktAddr bs) 8 with
      | none => done 0x13
      | some w => if pktValue bs ≤ ofBytes w then done 0 else pduDone r ctx (pktAddr bs)

/-- The oldest waiting SIGNAL packet performed once every earlier packet has completed (R354). -/
def sendSignal (m : Mgmt) (r : Run) (fn q : Nat) : Run :=
  let x := r.queueIf fn q
  match x.signals with
  | [] => r
  | (k, ctx, bs) :: rest =>
    if x.outstanding.any (fun j => decide (j < k)) ∨ homeHeld m r ctx (pktAddr bs) then r
    else
      match hostMissAt m r ctx (pktAddr bs) 8 needWr with
      | some (page, need) => pduPage m r ctx page need
      | none =>
        let r := pduDone (writeVa m r ctx (pktAddr bs) (toBytes 8 (pktValue bs))) ctx (pktAddr bs)
        let r := r.setQueueIf fn q (fun y => { y with signals := rest })
        complete r fn q k (pktSeq bs) 0 3 (pktFlags bs) 0

/-- A completion that the host denies a place in the ring (R351): the ring is denied until the queue is enabled again. -/
def denyRing (r : Run) (fn q : Nat) : Run :=
  let r := r.setQueueIf fn q (fun y => { y with ringDenied := true })
  flushCompletions ((r.queueIf fn q).completions.length) r fn q

/-- LAUNCH: the next packet of queue of a function; flag when the host denies the read of the ring, and with value 3 when it denies the
writes of completions. -/
def execLaunch (s : State) : Outcome := happen s (fun a =>
  if a.value = 3 then denyRing s.run a.fn a.queue else intake s.mgmt s.run a.fn a.queue 1 a.flag)
/-- WAIT_EVENT: as LAUNCH; with value 1 the event word is looked at again. -/
def execWaitEvent (s : State) : Outcome := happen s (fun a =>
  if a.value = 1 then lookAgain s.mgmt s.run a.fn a.queue else intake s.mgmt s.run a.fn a.queue 2 a.flag)
/-- SIGNAL: as LAUNCH; with value 1 the oldest waiting one is performed. -/
def execSignal (s : State) : Outcome := happen s (fun a =>
  if a.value = 1 then sendSignal s.mgmt s.run a.fn a.queue else intake s.mgmt s.run a.fn a.queue 3 a.flag)
/-- UIPOST_PACKET: as LAUNCH. -/
def execUipostPacket (s : State) : Outcome := happen s (fun a => intake s.mgmt s.run a.fn a.queue 4 a.flag)

/-! ## Notify pages (R352) -/

/-- A write of n bytes at an offset of a queue's notify page, through a port: a tail equal to QHEAD changes nothing (R352). -/
def notifyWrite (r : Run) (port fn q off n value : Nat) : Run :=
  let x := r.queueIf fn q
  if port ≠ r.owner ∨ off ≠ 0 ∨ n ≠ 4 ∨ !x.en ∨ value = x.qhead.toNat then r
  else if 2 ^ x.qlog ≤ value then raiseCause (r.setQueueIf fn q (fun y => { y with en := false, tailbad := true })) fn q 1
  else r.setQueueIf fn q (fun y => { y with tail := value })

/-- NOTIFY_WRITE: port, function, queue, offset addr, width n, value. -/
def execNotifyWrite (s : State) : Outcome := happen s (fun a => notifyWrite s.run a.port a.fn a.queue a.addr a.n a.value)

/-! ## Queue registers (R351, R358, R360) -/

/-- The causes of a queue that is not held whose pending count has reached COUNT, sent (R357, R360). -/
def sendDue (r : Run) (fn q : Nat) : Run :=
  if (r.queueIf fn q).held then r
  else [0, 1, 2, 3].foldl (fun r c =>
    let x := r.queueIf fn q
    let e := (rdReg x.remap c).toNat
    let n := (rdReg x.pendings c).toNat
    if bits e 31 31 = 1 ∧ n ≠ 0 ∧ bits e 27 20 ≤ n then sendCause r fn q c else r) r

/-- The stops of contexts that found no queue, raised on a queue that has just been enabled with their PASID (R358). -/
def raisePending (m : Mgmt) (r : Run) (fn q : Nat) : Run :=
  match partOfFn m fn with
  | none => r
  | some (tag, _) =>
    (List.range 64).foldl (fun r c =>
      let held := (r.func fn).stoppend.getLsbD c
      let pasid := match Assoc.get? r.contexts (tag * 64 + c) with
        | some x => x.pasid
        | none => 2 ^ 20
      if held && (r.queueIf fn q).bound pasid then
        raiseCause (r.setFunc fn (fun f => { f with stoppend := f.stoppend &&& ~~~(1#64 <<< c) })) fn q 2
      else r) r

/-- A write of QCTL (R351): EN is refused for a bad size or an unbound queue; a queue enabled after a claim writes its held
completions first, and then raises the events it has kept, in their order (R360). -/
def writeQctl (m : Mgmt) (r : Run) (fn q v : Nat) : Run :=
  let qlog := bits v 20 16
  let clog := bits v 12 8
  let want := bits v 31 31 == 1
  let sizes := decide (6 ≤ qlog) && decide (qlog ≤ 16) && decide (6 ≤ clog) && decide (clog ≤ 16)
  let good := sizes && bits (r.queueIf fn q).qpasid.toNat 31 31 == 1
  let was := (r.queueIf fn q).en
  let r := r.setQueueIf fn q (fun x =>
    { x with en := want && good, cfgerr := x.cfgerr || (want && !good), qlog := qlog, clog := clog, pri := v % 4 })
  if want && good then
    let x := r.queueIf fn q
    let held := x.held
    let r := r.setQueueIf fn q (fun x => { x with held := false, ringDenied := false, heldCauses := [] })
    let r := flushCompletions x.completions.length r fn q
    let r := if held then sendDue r fn q else r
    let r := x.heldCauses.foldl (fun r c => raiseCause r fn q c) r
    if was && !held then r else raisePending m r fn q
  else r

/-- QCTL_WRITE: port, function, queue, value. -/
def execQctlWrite (s : State) : Outcome := happen s (fun a =>
  if a.port = s.run.owner then writeQctl s.mgmt s.run a.fn a.queue a.value else s.run)

/-- A write of CHEAD (R351, R355): the ring has room, and completions that waited are written. -/
def writeChead (r : Run) (fn q v : Nat) : Run :=
  let r := r.setQueueIf fn q (fun x => { x with chead := BitVec.ofNat 32 v })
  flushCompletions ((r.queueIf fn q).completions.length) r fn q

/-- CHEAD_WRITE: port, function, queue, value. -/
def execCheadWrite (s : State) : Outcome := happen s (fun a =>
  if a.port = s.run.owner then writeChead s.run a.fn a.queue a.value else s.run)

/-- REMAP_TIMER (R357): function, queue, cause n; the time since the first pending event has run out. -/
def execRemapTimer (s : State) : Outcome := happen s (fun a =>
  let x := s.run.queueIf a.fn a.queue
  let e := (rdReg x.remap a.n).toNat
  if bits e 31 31 = 1 ∧ bits e 19 12 ≠ 0 ∧ rdReg x.pendings a.n ≠ 0 ∧ !x.held then sendCause s.run a.fn a.queue a.n else s.run)

/-- A vector of a function unmasked in the table of a port: a message that its mask held is sent there (R351, R357). -/
def unmaskVector (r : Run) (port fn vec : Nat) : Run :=
  let f := r.func fn
  let k := msixKey port vec
  let e := (rdReg f.msix k) &&& ~~~(1#128 <<< 96)
  let r := r.setFunc fn (fun f => { f with msix := wrReg f.msix k e, msixPending := setErase f.msixPending k })
  if f.msixPending.contains k then { r with messages := r.messages ++ [(port, fn, vec)] } else r

/-- MSIX_VECTOR_UNMASK: port, function, vector n. -/
def execMsixVectorUnmask (s : State) : Outcome := happen s (fun a => unmaskVector s.run a.port a.fn a.n)

/-! ## The lease (R359, R360) -/

/-- LEASE_EXPIRY: the period has ended without a renewal. -/
def execLeaseExpiry (s : State) : Outcome := happen s (fun _ => { s.run with expired := true, renewed := false })

/-- RENEW through a port: before expiry the owner's renewal restarts the period, whose length is time; after it STATE stays 01, and a
claim that is seen later has no effect (R359). -/
def renewLease (r : Run) (port : Nat) : Run := if r.expired && port == r.owner then { r with renewed := true } else r

/-- RENEW: through a port. -/
def execRenew (s : State) : Outcome := happen s (fun a => renewLease s.run a.port)

/-- A claim: every enabled queue of every function holds its completions and stops intake; what was not read is not read
(R360). -/
def claimLease (r : Run) (port : Nat) : Run :=
  if r.expired && !r.renewed && port != r.owner then
    let hold (x : QueueIf) : QueueIf := if x.en then { x with held := true, tail := x.qhead.toNat } else x
    { r with
      owner := port % 2, expired := false, epoch := r.epoch + 1
      funcs := r.funcs.map (fun (p : Nat × Func) =>
        (p.1, { p.2 with queues := p.2.queues.map (fun (q : Nat × QueueIf) => (q.1, hold q.2)) })) }
  else r

/-- CLAIM: through a port. -/
def execClaim (s : State) : Outcome := happen s (fun a => claimLease s.run a.port)

end Sys2Proof.Machine
end

