-- ==== Sys2Proof/Machine/Contexts.lean ====
section
/-! DEFINITION. Contexts created and destroyed (R340, R341), invalidations (R342, R346), HOST pages (R347 to R349), thresholds
(R56, R400), stopped parties resumed (R329), and accesses of hosts and peers (R350, R364, R396). -/

namespace Sys2Proof.Machine

/-! ## CTXCTL (R341) -/

/-- The fields of a context descriptor (R340). -/
structure CtxDesc where
  s1root : Nat
  pasid : Nat
  cflags : Nat
  spbase : Nat
  splen : Nat
  hpool : Nat
  hplen : Nat
  reserved : Nat
deriving DecidableEq, Repr, Inhabited

/-- The descriptor in 64 bytes. -/
def ctxDescOf (bs : List Byte) : CtxDesc :=
  ⟨recField bs 0 8, recField bs 8 4, recField bs 12 4, recField bs 16 8, recField bs 24 8, recField bs 32 8, recField bs 40 8,
    recField bs 48 16⟩

/-- n bytes of partition physical memory within one block of 2 MiB, through stage 2 (R345). -/
def readPpa (m : Mgmt) (r : Run) (tag ppa n : Nat) : Option (List Byte) :=
  match stage2 m r tag ppa with
  | some p => some ((List.range n).map (fun i => rawByte r (p.add i)))
  | none => none

/-- Bytes written to partition physical memory, each through stage 2. -/
def writePpa (m : Mgmt) (r : Run) (tag ppa : Nat) : List Byte → Run
  | [] => r
  | b :: bs =>
    let r := match stage2 m r tag ppa with
      | some p => writePlaces r [p] [b]
      | none => r
    writePpa m r tag (ppa + 1) bs

/-- Whether a descriptor's fields lie in their ranges for a partition of t tiles (R244, R340). -/
def CtxDesc.ok (d : CtxDesc) (t : Nat) : Bool :=
  d.reserved == 0 && d.s1root % 4096 == 0 && decide (d.pasid < 2 ^ 20) && decide (d.cflags < 2) &&
  d.spbase % (65536 * t) == 0 && d.splen % 65536 == 0 && decide (d.spbase + d.splen ≤ 2 ^ 25 * t)

/-- ERR of a CREATE of a context (R341); 0 when it succeeds. -/
def createErr (m : Mgmt) (r : Run) (fn tag c : Nat) (p : Part) : Nat × Option CtxDesc :=
  let live := match Assoc.get? r.contexts (tag * 64 + c) with
    | some x => x.live
    | none => false
  if live then (3, none)
  else
    match readPpa m r tag ((r.func fn).ctxbase.toNat + 64 * c) 64 with
    | none => (4, none)
    | some bs =>
      let d := ctxDescOf bs
      if !d.ok p.tiles.length then (1, none)
      else if (ctxOfPasid m r fn d.pasid).isSome then (2, none)
      else if (stage2 m r tag d.s1root).isNone then (4, none)
      else if d.hplen < 65536 ∨ d.hplen % 4096 ≠ 0 then (5, none)
      else (0, some d)

/-- ERR and CTX as CTXCTL shows them after a command (R341). -/
def setErr (r : Run) (fn err c : Nat) : Run := r.setFunc fn (fun f => { f with ctxctl := BitVec.ofNat 32 (err * 2 ^ 24 + c) })

/-- A context made live, with its interrupt block and EXITCODE zero (R341, R358, R361). -/
def createContext (m : Mgmt) (r : Run) (fn c : Nat) : Run :=
  match partOfFn m fn with
  | none => r
  | some (tag, p) =>
    match createErr m r fn tag c p with
    | (0, some d) =>
      let x : Context :=
        { s1root := d.s1root, pasid := d.pasid, prot := d.cflags == 1, spbase := d.spbase, splen := d.splen, hpool := d.hpool,
          hplen := d.hplen, live := true,
          thr := ((Assoc.get? r.contexts (tag * 64 + c)).map (·.thr)).getD [],
          thrFire := ((Assoc.get? r.contexts (tag * 64 + c)).map (·.thrFire)).getD 0,
          watch := ((Assoc.get? r.contexts (tag * 64 + c)).map (·.watch)).getD [] }
      setErr { r with contexts := Assoc.set r.contexts (tag * 64 + c) x } fn 0 c
    | (err, _) => setErr r fn err c

/-- A context ended as a kill ends it (R341). -/
def destroyContext (m : Mgmt) (r : Run) (fn c : Nat) : Run :=
  match partOfFn m fn with
  | none => r
  | some (tag, _) =>
    match Assoc.get? r.contexts (tag * 64 + c) with
    | some x => if x.live then setErr (killContext r (tag * 64 + c)) fn 0 c else setErr r fn 3 c
    | none => setErr r fn 3 c

/-- CTXCTL_CREATE: port, function, context. -/
def execCtxctlCreate (s : State) : Outcome := happen s (fun a =>
  if a.port = s.run.owner then createContext s.mgmt s.run a.fn (a.ctx % 64) else s.run)
/-- CTXCTL_DESTROY: port, function, context. -/
def execCtxctlDestroy (s : State) : Outcome := happen s (fun a =>
  if a.port = s.run.owner then destroyContext s.mgmt s.run a.fn (a.ctx % 64) else s.run)
/-- CTXCTL_RESERVED: port, function, context. -/
def execCtxctlReserved (s : State) : Outcome := happen s (fun a =>
  if a.port = s.run.owner ∧ (partOfFn s.mgmt a.fn).isSome then setErr s.run a.fn 6 (a.ctx % 64) else s.run)

/-! ## Invalidations (R342, R346) -/

/-- Whether the leaf of a level that maps a page overlaps n pages from a page: it is dropped whole (R342). -/
def leafMeets (page lvl lo n : Nat) : Bool :=
  let size := 2 ^ (9 * lvl)
  let first := page / size * size
  decide (first < lo + n) && decide (lo < first + size)

/-- The HOST translations that a test picks dropped in every tile, and the requests outstanding for them marked so that their
completions are not cached (R346, R349, R378). -/
def dropWhere (r : Run) (entry : HostXlat → Bool) (request : PageReq → Bool) : Run :=
  { r with tiles := r.tiles.map (fun (p : Nat × TileSt) =>
      (p.1, { p.2 with
        hostXlats := p.2.hostXlats.filter (fun x => !entry x)
        reqs := p.2.reqs.map (fun q => if request q then { q with stale := true } else q) })) }

/-- The HOST translations of some contexts that overlap a range of pages dropped (R346). -/
def dropXlats (r : Run) (ctxs : Nat → Bool) (lo n : Nat) : Run :=
  dropWhere r (fun x => ctxs x.ctx && leafMeets x.page x.lvl lo n) (fun q => ctxs q.ctx && leafMeets q.page q.lvl lo n)

/-- Every page of the address space (R240). -/
def allPages : Nat := 2 ^ 45

/-- Whether some operation of the contexts that a test picks still holds a place that it has translated and that may lie in n pages from a
page: a GATHER not yet performed, an MCLR, or a matrix operation by the pages of its accumulator (R346 step 2). -/
def placesHeld (r : Run) (ctxs : Nat → Bool) (lo n : Nat) : Bool :=
  let meets (desc : List Byte) : Bool :=
    let d := accOf desc
    decide (d.base / 4096 < lo + n) && decide (lo * 4096 < d.base + d.bytes)
  r.crews.any (fun p => p.2.status != .ended && ctxs (crewCtx r p.1) && p.2.warps.any (fun w => w.ops.any (fun o =>
    !o.done && match o.data with
      | .gather _ _ _ => true
      | .mclr ds _ => meets ds
      | _ => false))) ||
  r.matrix.any (fun p => p.2.pages != [] && meets p.2.desc &&
    match (Assoc.get? r.blocks p.2.block).bind (fun b => Assoc.get? r.grids b.grid) with
    | some g => ctxs g.ctx
    | none => false)

/-- An entry of a stage-1 table. -/
def entryAt (m : Mgmt) (r : Run) (tag slot : Nat) : Nat := match readPpa m r tag slot 8 with
  | some bs => ofBytes bs
  | none => 0

/-- The ranges of partition physical addresses that a stage-1 tree maps from a table at the levels given: base and size (R343). -/
def mappedRanges (m : Mgmt) (r : Run) (tag : Nat) : List Nat → Nat → List (Nat × Nat)
  | [], _ => []
  | lvl :: rest, table =>
    (List.range 512).flatMap (fun i =>
      let e := entryAt m r tag (table + 8 * i)
      if e % 2 = 0 then []
      else if bits e 1 1 = 1 then [(bits e 56 12 * 4096, 2 ^ (12 + 9 * lvl))]
      else mappedRanges m r tag rest (bits e 56 12 * 4096))

/-- The partition physical address that stage 2 maps to a device address (R345). -/
def ppaOf (m : Mgmt) (tag d : Nat) : Option Nat := do
  let p ← Assoc.get? m.parts tag
  let i ← p.s2.findIdx? (fun e => bits e.toNat 1 0 == 1 && bits e.toNat 56 21 == d / 2 ^ 21)
  return i * 2 ^ 21 + d % 2 ^ 21

/-- The tags of a partition's pages that no live context maps any more lost with their data (R255). -/
def dropUnmapped (m : Mgmt) (r : Run) (tag : Nat) : Run :=
  let mine := r.capTags.filterMap (fun g => (ppaOf m tag (16 * g)).map (fun a => (g, a)))
  if mine = [] then r
  else
    let maps := (r.contexts.filter (fun c => partOf c.1 == tag && c.2.live)).flatMap (fun c =>
      mappedRanges m r tag [4, 3, 2, 1, 0] c.2.s1root)
    let lost := (mine.filter (fun x => !maps.any (fun y => decide (y.1 ≤ x.2) && decide (x.2 < y.1 + y.2)))).map (·.1)
    { r with capTags := r.capTags.filter (fun g => !lost.contains g) }

/-- The contexts that an invalidation as INVCTL shows it is of (R342). -/
def invalContexts (tag v : Nat) (k : Nat) : Bool := if bits v 27 26 = 2 then partOf k == tag else k == tag * 64 + v % 64

/-- Whether an invalidation cannot begin: CTX is not live, KIND is 11, or the range runs beyond the address space (R342). -/
def invalBad (r : Run) (tag v page n : Nat) : Bool :=
  let kind := bits v 27 26
  let live := (Assoc.get? r.contexts (tag * 64 + v % 64)).any (·.live)
  (kind != 2 && !live) || kind == 3 || (kind == 0 && decide (allPages < page + n))

/-- A write of INVCTL through either port: its fields are kept, ones clear DONE and ERR, and GO, unless BUSY, starts an invalidation
(R342, R346). -/
def writeInvctl (m : Mgmt) (r : Run) (fn v : Nat) : Run :=
  match partOfFn m fn with
  | none => r
  | some (tag, _) =>
    let old := (r.func fn).invctl.toNat
    let busy := bitOf old 28
    let shown (done err busy : Bool) : Run := r.setFunc fn (fun f =>
      { f with invctl := BitVec.ofNat 32 (b2n done * 2 ^ 30 + b2n err * 2 ^ 29 + b2n busy * 2 ^ 28 + bits v 27 10 * 2 ^ 10 + v % 64) })
    let done := bitOf old 30 && !bitOf v 30
    let err := bitOf old 29 && !bitOf v 29
    let n := if bits v 25 10 = 0 then 65536 else bits v 25 10
    let page := bits (r.func fn).invva.toNat 56 12
    if busy || !bitOf v 31 then shown done err busy
    else if invalBad r tag v page n then shown true true false
    else if bits v 27 26 = 0 then dropXlats (shown done err true) (invalContexts tag v) page n
    else dropXlats (shown done err true) (invalContexts tag v) 0 allPages

/-- A write of INVCTL with GO whose KIND is one that a row names. -/
def invalOfKind (s : State) (kinds : List Nat) : Outcome := happen s (fun a =>
  if kinds.contains (bits a.value 27 26) ∧ bitOf a.value 31 then writeInvctl s.mgmt s.run a.fn a.value else s.run)

/-- INVCTL_PAGES: function, value written; KIND 11 is met here. -/
def execInvctlPages (s : State) : Outcome := invalOfKind s [0, 3]
/-- INVCTL_CONTEXT: function, value written. -/
def execInvctlContext (s : State) : Outcome := invalOfKind s [1]
/-- INVCTL_FUNCTION: function, value written. -/
def execInvctlFunction (s : State) : Outcome := invalOfKind s [2]

/-- Whether a function's invalidation has nothing left to wait for (R346 step 2). -/
def invalReady (m : Mgmt) (r : Run) (fn : Nat) : Bool :=
  let v := (r.func fn).invctl.toNat
  bitOf v 28 && match partOfFn m fn with
    | none => true
    | some (tag, _) =>
      if bits v 27 26 = 0 then
        !placesHeld r (invalContexts tag v) (bits (r.func fn).invva.toNat 56 12) (if bits v 25 10 = 0 then 65536 else bits v 25 10)
      else !placesHeld r (invalContexts tag v) 0 allPages

/-- INVALIDATION_DONE: function. DONE is set and BUSY clears; pages that tables map no more lose their tags (R255, R342, R346
step 3). -/
def execInvalidationDone (s : State) : Outcome := happen s (fun a =>
  if invalReady s.mgmt s.run a.fn then
    let r := match partOfFn s.mgmt a.fn with
      | some (tag, _) => dropUnmapped s.mgmt s.run tag
      | none => s.run
    r.setFunc a.fn (fun f => { f with invctl := (f.invctl &&& ~~~(1#32 <<< 28)) ||| (1#32 <<< 30) })
  else s.run)

/-! ## HOST pages (R347 to R349) -/

/-- The service calls of a context that wait for a page, put back in their partition's service queue (R373). -/
def wakeFaulted (r : Run) (ctx page : Nat) : Run :=
  let tag := partOf ctx
  let mine (k : Nat) : Bool := match Assoc.get? r.calls k with
    | some c => c.part * 64 + c.ctx == ctx && c.page == some page
    | none => false
  let ks := (Assoc.get? r.faultQueues tag).getD []
  let back := ks.filter mine
  if back = [] then r
  else
    { r with faultQueues := Assoc.set r.faultQueues tag (ks.filter (fun k => !mine k)),
             svcQueues := Assoc.set r.svcQueues tag ((Assoc.get? r.svcQueues tag).getD [] ++ back) }

/-- The join words that wait for a page looked at again (R153). -/
def retryJoins (m : Mgmt) (r : Run) : Run := (r.blocks.filter (fun p => p.2.joinDue)).foldl (fun r p => settleJoin m r p.1) r

/-- What follows the outcome of a request for a page: calls and join words that wait for it go on (R153, R373, R378). -/
def pageSettled (m : Mgmt) (r : Run) (ctx page : Nat) : Run := retryJoins m (wakeFaulted r ctx page)

/-- Requests of a tile changed where they have a tag. -/
def withReq (t : TileSt) (tag : Nat) (f : PageReq → Option PageReq) : TileSt :=
  { t with reqs := t.reqs.filterMap (fun q => if q.tag = tag then f q else some q) }

/-- Page requests of a function that are outstanding (R348). -/
def pagesOut (m : Mgmt) (r : Run) (fn : Nat) : Nat :=
  ((r.tiles.flatMap (fun t => t.2.reqs)).filter (fun q => q.pri && !q.refused && fnOfCtx m q.ctx == fn)).length

/-- The page requests of a function that wait for a group: tile and tag, in order (R348). -/
def pagesDue (m : Mgmt) (r : Run) (fn : Nat) : List (Nat × Nat) :=
  r.tiles.flatMap (fun t => (t.2.reqs.filter (fun q => q.due && fnOfCtx m q.ctx == fn)).map (fun q => (t.1, q.tag)))

/-- The first page request of a function that waits for a group takes one that has become free (R348). -/
def sendDuePage (m : Mgmt) (r : Run) (fn : Nat) : Run :=
  match pagesDue m r fn with
  | [] => r
  | (tile, tag) :: _ =>
    if 256 ≤ pagesOut m r fn then r
    else r.tile tile (fun t => withReq t tag (fun q => some { q with due := false, pri := true }))

/-- A translation that the host grants: cached, or, when an invalidation has covered its request, kept for those that waited (R347, R378). -/
def grantPage (r : Run) (tile frame rights : Nat) (q : PageReq) : Run :=
  let x : HostXlat := { ctx := q.ctx, page := q.page, frame := frame, rights := rights, addr := q.addr, lvl := q.lvl,
                        only := if q.stale then some q.waiters else none }
  r.tile tile (fun t => withReq
    { t with hostXlats := t.hostXlats.filter (fun y => !(y.ctx == q.ctx && y.page == q.page && y.only == x.only)) ++ [x] }
    q.tag (fun _ => none))

/-- An ATS completion (R347, R348): it grants rights for a frame, or a page request follows, which may wait for one of the function's
groups; after a page request that succeeded, or with PRI stopped, a denial is Host Page. -/
def atsCompletion (m : Mgmt) (r : Run) (tile tag frame rights : Nat) : Run :=
  match (r.tileSt tile).reqs.find? (fun q => q.tag == tag && !q.pri && !q.refused && !q.due) with
  | none => r
  | some q =>
    let fn := fnOfCtx m q.ctx
    let change (f : PageReq → PageReq) : Run := r.tile tile (fun t => withReq t tag (fun q => some (f q)))
    if rights &&& q.need = q.need then pageSettled m (grantPage r tile frame rights q) q.ctx q.page
    else if q.again || (r.func fn).priStopped then
      pageSettled m (change (fun q => { q with refused := true })) q.ctx q.page
    else if 256 ≤ pagesOut m r fn then change (fun q => { q with due := true })
    else change (fun q => { q with pri := true })

/-- Every page request of a function that waits for a group refused, now that PRI has stopped (R348). -/
def refuseDue (m : Mgmt) (r : Run) (fn : Nat) : Run :=
  (pagesDue m r fn).foldl (fun r p =>
    match (r.tileSt p.1).reqs.find? (fun q => q.tag == p.2) with
    | none => r
    | some q =>
      pageSettled m (r.tile p.1 (fun t => withReq t p.2 (fun q => some { q with due := false, refused := true }))) q.ctx q.page) r

/-- A PRG Response (R348): 0 Success, 1 Invalid Request, otherwise Response Failure. A group is free. -/
def prgResponse (m : Mgmt) (r : Run) (tile tag code : Nat) : Run :=
  match (r.tileSt tile).reqs.find? (fun q => q.tag == tag && q.pri && !q.refused) with
  | none => r
  | some q =>
    let fn := fnOfCtx m q.ctx
    let change (f : PageReq → PageReq) : Run := r.tile tile (fun t => withReq t tag (fun q => some (f q)))
    if code = 0 then sendDuePage m (change (fun q => { q with pri := false, again := true, stale := false })) fn
    else
      let r := pageSettled m (change (fun q => { q with refused := true })) q.ctx q.page
      if code = 1 then sendDuePage m r fn
      else refuseDue m (r.setFunc fn (fun f => { f with priStopped := true })) fn

/-- ATS_TRANSLATION_COMPLETION: tile, request tag, frame value, rights n. -/
def execAtsTranslationCompletion (s : State) : Outcome :=
  happen s (fun a => atsCompletion s.mgmt s.run a.tile a.tag a.value (a.n % 8))
/-- PRG_RESPONSE: tile, request tag, response code value. -/
def execPrgResponse (s : State) : Outcome := happen s (fun a => prgResponse s.mgmt s.run a.tile a.tag a.value)

/-- Whether a GATHER of a function's contexts still holds a place at the host that it has translated (R349). -/
def hostHeld (m : Mgmt) (r : Run) (fn : Nat) : Bool :=
  r.crews.any (fun p => p.2.status != .ended && fnOfCtx m (crewCtx r p.1) == fn && p.2.warps.any (fun w => w.ops.any (fun o =>
    !o.done && match o.data with
      | .gather _ _ src => src.any (fun x => match x.2.1 with
        | .host _ => true
        | _ => false)
      | _ => false)))

/-- The Invalidate Completions of a function sent, once no access uses a translation that was dropped (R349). -/
def sendInvalidated (m : Mgmt) (r : Run) (fn : Nat) : Run :=
  let n := (r.func fn).atsWaits
  if n = 0 || hostHeld m r fn then r
  else { r.setFunc fn (fun f => { f with atsWaits := 0 }) with
         replies := r.replies ++ List.replicate n ({ kind := .atsInvalidateRequest, fn := fn } : Reply) }

/-- An ATS Invalidate Request of a function for a PASID: the HOST entries whose untranslated host address lies in n pages from a page, or
all of them where n is 0, are dropped, and its completion is sent when it may be (R349). -/
def atsInvalidate (m : Mgmt) (r : Run) (fn pasid page n : Nat) : Run :=
  let mine (k : Nat) : Bool := fnOfCtx m k == fn && match Assoc.get? r.contexts k with
    | some c => c.pasid == pasid
    | none => false
  let hit (addr : Nat) : Bool := n == 0 || (decide (page ≤ addr) && decide (addr < page + n))
  let r := dropWhere r (fun x => mine x.ctx && hit x.addr) (fun q => mine q.ctx && hit q.addr)
  sendInvalidated m (r.setFunc fn (fun f => { f with atsWaits := f.atsWaits + 1 })) fn

/-- ATS_INVALIDATE_REQUEST: function, PASID value, first host page addr, pages n, 0 for all; with flag, completions that wait are sent. -/
def execAtsInvalidateRequest (s : State) : Outcome := happen s (fun a =>
  if a.flag then sendInvalidated s.mgmt s.run a.fn else atsInvalidate s.mgmt s.run a.fn a.value a.addr a.n)

/-- PRI_ENABLE: function. -/
def execPriEnable (s : State) : Outcome := happen s (fun a => s.run.setFunc a.fn (fun f => { f with priStopped := false }))

/-! ## Thresholds (R56, R400) -/

/-- A firing of a class (R400). -/
def fireThreshold (m : Mgmt) (r : Run) (ctx cls action : Nat) : Run :=
  let r := r.context ctx (fun c => { c with thrFire := c.thrFire ||| (1#32 <<< cls), thrSum := wrReg c.thrSum cls 0 })
  if action = 1 then
    let kill := (liveGrids r ctx).any (fun g => match Assoc.get? r.grids g with
      | some x => x.disp / 4 ^ 13 % 4 == 2
      | none => false)
    if kill then raiseStop m ((liveGrids r ctx).foldl (fun r g => killGrid r g 6) r) ctx none
    else raiseStop m (stopContext r ctx tcThreshold cls) ctx none
  else if action = 2 then
    let fn := fnOfCtx m ctx
    match namedQueue r fn (((Assoc.get? r.contexts ctx).map (·.pasid)).getD 0) with
    | some q => raiseCause r fn q 3
    | none => r
  else r

/-- A tile's count of a class for a context sent to the PDU and added to the sum (R56). -/
def endWindow (m : Mgmt) (r : Run) (tile ctx cls : Nat) : Run :=
  match Assoc.get? r.contexts ctx with
  | none => r
  | some c =>
    let k := ctx * 8 + cls
    let n := (rdReg (r.tileSt tile).thrCount k).toNat
    let reg := (rdReg c.thr cls).toNat
    let sum := min ((rdReg c.thrSum cls).toNat + n) (2 ^ 32 - 1)
    let r := r.tile tile (fun t => { t with thrCount := wrReg t.thrCount k 0 })
    let count := bits reg 31 0
    let action := bits reg 39 38
    if count ≠ 0 ∧ count ≤ sum ∧ (action = 1 ∨ action = 2) then fireThreshold m r ctx cls action
    else if count ≠ 0 ∧ count ≤ sum then r.context ctx (fun c => { c with thrSum := wrReg c.thrSum cls 0 })
    else r.context ctx (fun c => { c with thrSum := wrReg c.thrSum cls (BitVec.ofNat 32 sum) })

/-- THRESHOLD_WINDOW: tile, context key, class n. -/
def execThresholdWindow (s : State) : Outcome := happen s (fun a => endWindow s.mgmt s.run a.tile a.ctx (a.n % 8))
/-- THRESHOLD_SUM_CLEAR: context key, class n. -/
def execThresholdSumClear (s : State) : Outcome :=
  happen s (fun a => s.run.context a.ctx (fun c => { c with thrSum := wrReg c.thrSum (a.n % 8) 0 }))

/-! ## A stopped party resumed (R329) -/

/-- A party resumed by the host: parties of its context that start later no longer start stopped (log 25). -/
def hostResume (r : Run) (crew warp : Nat) (slice : Bool) : Run :=
  let r := r.context (crewCtx r crew) (fun c => { c with stop := none })
  if slice then r.slice crew (fun x => { x with hostrec := none }) else r.warp crew warp (fun w => { w with hostrec := none })

/-- HOST_RESUME: a crew and its warp, or its address slice. -/
def execHostResume (s : State) : Outcome := happen s (fun a => hostResume s.run a.crew a.warp a.slice)

/-! ## Accesses of hosts and peers (R350, R396) -/

/-- The partition whose stage 2 maps a device address, and its partition physical address there (R345). -/
def mappedAt (m : Mgmt) (a : Nat) : Option (Nat × Nat) :=
  m.parts.findSome? (fun p =>
    (p.2.s2.findIdx? (fun e => bits e.toNat 1 0 == 1 && bits e.toNat 56 21 == a / 2 ^ 21)).map (fun i =>
      (p.1, i * 2 ^ 21 + a % 2 ^ 21)))

/-- The partition whose pack-up holds a host's access at a device address (R390; log 38). -/
def hostHolder (m : Mgmt) (a : Nat) : Option Nat :=
  (mappedAt m a).bind (fun x => if ppaHeld m x.1 false x.2 then some x.1 else none)

/-- What a host's access does: n bytes at device address addr read, or with flag the bytes data written (R255, R395, R396). -/
def hostPerform (r : Run) (a : EvArgs) : Run :=
  if a.flag then writePlaces r ((List.range a.data.length).map (fun i => .dev (a.addr + i))) a.data
  else
    let bs := (List.range a.n).map (fun i => rawByte r (.dev (a.addr + i)))
    { r with replies := r.replies ++ [{ kind := .hostAccess, bytes := bs, bad := poisonedSpan r (.dev a.addr) a.n }] }

/-- HOST_ACCESS: device address addr, n bytes read, or with flag the bytes data written; a pack-up holds it until its end (R390). -/
def execHostAccess (s : State) : Outcome := happen s (fun a => match hostHolder s.mgmt a.addr with
  | some tag => { s.run with arrivals := s.run.arrivals ++ [⟨tag, true, a⟩] }
  | none => hostPerform s.run a)

/-- The answer to a peer's access. -/
def peerAnswer (r : Run) (tag : Nat) (bs : List Byte) (bad : Bool) : Run :=
  { r with replies := r.replies ++ [{ kind := .peerAccess, fn := tag, bytes := bs, bad := bad }] }

/-- The corner tile whose peer port an access enters by (R1). -/
def peerTile (n : Nat) : Nat := corners.getD (n % 4) 0
/-- The channel that traffic of a partition takes in a tile (R382). -/
def tileChan (m : Mgmt) (tag t : Nat) : Nat := if ((Assoc.get? m.parts tag).any (·.tiles.contains t)) then 0 else 1

/-- What a peer's access does where stage 2 maps it: value 0 a read, 1 a write of data, 2 an atomic of AOP tag with operands in data. It is
refused where stage 2 fails, and performed whole (R350). -/
def peerPerform (m : Mgmt) (r : Run) (a : EvArgs) : Run :=
  match stage2 m r a.part a.addr with
  | some (.dev d) =>
    let old := (List.range a.n).map (fun i => rawByte r (.dev (d + i)))
    let places := (List.range a.n).map (fun i => Place.dev (d + i))
    let bad := poisonedSpan r (.dev d) a.n
    if a.value = 0 then peerAnswer r a.part old bad
    else if a.value = 1 then peerAnswer (writePlaces r places (a.data.take a.n)) a.part [] false
    else if bad then peerAnswer r a.part old true
    else
      let x := (atomNew a.tag (8 * a.n) (ofBytes old) (recField a.data 0 a.n) (recField a.data a.n a.n)).1
      peerAnswer (writePlaces r places (toBytes a.n x)) a.part old false
  | _ => peerAnswer r a.part [] true

/-- A peer's access of n bytes at a partition physical address: the router of the corner tile where it enters drops it when its channel
does not allow the tag that it carries, with an error response, and a pack-up holds it until its end (R350, R382, R383, R390). -/
def peerAccess (m : Mgmt) (r : Run) (a : EvArgs) : Run :=
  let t := peerTile a.tile
  let c := tileChan m a.part t
  if m.allowsTag t 4 c a.part then
    (if ppaHeld m a.part false a.addr then { r with arrivals := r.arrivals ++ [⟨a.part, false, a⟩] } else peerPerform m r a)
  else peerAnswer (dropPacket r t t a.part 4 c) a.part [] true

/-- The accesses from outside that a pack-up of a partition has held, performed in the order of arrival (R389 step 9, R390). -/
def performHeld (m : Mgmt) (r : Run) (tag : Nat) : Run :=
  let mine := r.arrivals.filter (fun x => x.part == tag)
  mine.foldl (fun r x => if x.host then hostPerform r x.args else peerPerform m r x.args)
    { r with arrivals := r.arrivals.filter (fun x => x.part != tag) }

/-- PEER_ACCESS: corner tile, partition tag part, address addr, n bytes, kind value, AOP tag, data. -/
def execPeerAccess (s : State) : Outcome := happen s (fun a => peerAccess s.mgmt s.run a)

/-- PEER_POST: peer-table index n, the sender's partition tag and context value, the receiving context ctx, vector lane, payload addr
(R364, R369). -/
def execPeerPost (s : State) : Outcome := happen s (fun a =>
  let (r, status) := post s.run (.peer a.n a.tag (a.value % 64)) a.ctx a.lane a.addr
  { r with replies := r.replies ++ [{ kind := .peerPost, fn := a.n, bytes := toBytes 1 status }] })

end Sys2Proof.Machine
end

