-- ==== Sys2Proof/Machine/Hamper.lean ====
section
/-! DEFINITION. Hampers as the debugger reads and writes them (R337 to R339): one 4-byte word at a time, each a view of the state that
it stands for. Where the spec names a field's contents and not its layout, the layout is the model's (log 47). -/

namespace Sys2Proof.Machine

/-- A 4-byte word of a structure: its value, and the structure with it changed. -/
structure View (α : Type) where
  value : Word
  put : Word → α

/-- A view of a number that a structure keeps. -/
def numView (x : Nat) (f : Nat → α) : View α := ⟨BitVec.ofNat 32 x, fun y => f y.toNat⟩

/-- A word that cannot be changed. -/
def fixedView (x : Nat) (a : α) : View α := ⟨BitVec.ofNat 32 x, fun _ => a⟩

/-- A view of a part of a structure as one of the whole. -/
def View.on (v : View α) (f : α → β) : View β := ⟨v.value, fun x => f (v.put x)⟩

/-- A word of a byte memory. -/
def memView (m : Mem) (a : Nat) (f : Mem → α) : View α := numView (Mem.read m 4 a) (fun x => f (Mem.write m 4 a x))

/-- Half h of a number of 64 bits as a word. -/
def halfView (x h : Nat) (f : Nat → α) : View α :=
  numView (x / 2 ^ (32 * h)) (fun y => f (if h = 0 then x / 2 ^ 32 * 2 ^ 32 + y else x % 2 ^ 32 + y * 2 ^ 32))

/-! ## Batches (R338 BATCHES) -/

/-- The hints of which a batch's entry keeps payloads, as flags in bits 8 to 11 of its last word: HIMM, HMOD, HADR, HXB (log 47). -/
def Hints.kept (h : Hints) : Nat :=
  2 ^ 8 * b2n h.imm? + 2 ^ 9 * b2n h.hmod.isSome + 2 ^ 10 * b2n h.hadr.isSome + 2 ^ 11 * b2n h.hxb.isSome

/-- Hints with an immediate of 32 bits, and those that some flags keep. -/
def Hints.setImm (h : Hints) (x : Nat) : Hints := { h with himm := some (x % 2 ^ 20), himmx := some (x / 2 ^ 20) }
def Hints.keep (h : Hints) (flags : Nat) : Hints :=
  let h := if !bitOf flags 8 then { h with himm := none, himmx := none } else if h.imm? then h else h.setImm 0
  { h with
    hmod := if bitOf flags 9 then some (h.hmod.getD (.ofWord 0)) else none
    hadr := if bitOf flags 10 then some (h.hadr.getD (.ofWord 0)) else none
    hxb := if bitOf flags 11 then some (h.hxb.getD (.ofWord 0)) else none }

/-- Word i of the entry of a batch: lane mask, guard mask, continuation word address, HIMM value, HMOD, HADR and HXB payloads, and skip
count with the flags of the hints that apply. A batch can lose lanes, and a word executed again can be made to pass over nothing. -/
def Batch.view (b : Batch) (i : Nat) : View Batch :=
  let hints (h : Hints) : Batch := { b with hints := h }
  match i with
  | 0 => ⟨b.lanes, fun x => b.only (x &&& b.lanes)⟩
  | 1 => ⟨b.guard, fun x => { b with guard := x }⟩
  | 2 => ⟨b.pc, fun x => { b with pc := x }⟩
  | 3 => numView (if b.hints.imm? then b.hints.immValue else 0) (fun x => hints (b.hints.setImm x))
  | 4 => numView ((b.hints.hmod.map (·.toBits)).getD 0 % 2 ^ 20) (fun x => hints { b.hints with hmod := some (.ofWord (x % 2 ^ 20)) })
  | 5 => numView ((b.hints.hadr.map (·.toBits)).getD 0 % 2 ^ 20) (fun x => hints { b.hints with hadr := some (.ofWord (x % 2 ^ 20)) })
  | 6 => numView ((b.hints.hxb.map (·.toBits)).getD 0 % 2 ^ 20) (fun x => hints { b.hints with hxb := some (.ofWord (x % 2 ^ 20)) })
  | _ => numView (skipCount b.replay + b.hints.kept) (fun x =>
      { b with hints := b.hints.keep x, replay := if x % 2 ^ 8 = 0 then [] else b.replay })

/-- The batches that stand within a run, each with its place among those of the warp: those of which a hamper keeps a continuation. -/
def Warp.suspended (w : Warp) : List (Batch × Nat) := (w.batches.zipIdx).filter (fun b => !b.1.fresh)

/-- The word at an offset of BATCHES. -/
def batchesView (w : Warp) (o : Nat) : View Warp :=
  match w.suspended[o / 32]? with
  | none => fixedView 0 w
  | some (b, i) => (b.view (o % 32 / 4)).on (fun b => { w with batches := (setAt w.batches i b).filter (fun b => b.lanes != 0#32) })

/-! ## Fields of a warp record (R338) -/

/-- The PC of a lane as PCS shows it: 0 for a lane in no batch. -/
def Warp.pcOf (w : Warp) (l : Nat) : Word := match w.batches.find? (fun b => b.lanes.getLsbD l) with
  | some b => b.pc
  | none => 0

/-- A lane put at a PC: it leaves its batch and begins a run there (R338). -/
def Warp.setPcOf (w : Warp) (l : Nat) (pc : Word) : Warp :=
  let lane : Mask := 1#32 <<< l
  match w.batches.find? (fun b => b.lanes.getLsbD l) with
  | none => w
  | some b =>
    let rest := (w.batches.map (fun x => x.only (x.lanes &&& ~~~lane))).filter (fun x => x.lanes != 0#32)
    { w with batches := rest ++ [{ (b.at lane pc) with wait := .none }] }

/-- The four AFLs from a lane as one word. -/
def aflWord (afls : Assoc Afl) (l : Nat) : Nat := gatherBytes 4 (fun i => (rdReg afls (l + i)).toNat)

/-- The four AFLs from a lane written. -/
def setAflWord (afls : Assoc Afl) (l x : Nat) : Assoc Afl :=
  (List.range 4).foldl (fun a i => wrReg a (l + i) (BitVec.ofNat 8 (byteOf x i))) afls

/-- WFLAGS (R338). -/
def Warp.flags (w : Warp) (lookout async : Bool) : Nat :=
  b2n lookout + 2 * b2n async + 4 * b2n w.divrec.isSome + 8 * b2n w.hsave.isSome + 16 * b2n (w.hostrec.any (·.nested)) +
    32 * b2n w.hostrec.isSome + 64 * b2n (w.batches.any (fun b => b.wait == .uiwait || b.wait == .woken))

/-- WFLAGS written: a record or a wait whose flag is cleared goes, and none comes of a flag that is set; the lookout is the block's. -/
def Warp.setFlags (w : Warp) (x : Nat) : Warp :=
  { w with
    divrec := if bitOf x 2 then w.divrec else none
    hsave := if bitOf x 3 then w.hsave else none
    hostrec := if bitOf x 5 then w.hostrec.map (fun t => { t with nested := bitOf x 4 }) else none
    batches := w.batches.map (fun b =>
      if !bitOf x 6 && (b.wait == .uiwait || b.wait == .woken) then { b with wait := .none } else b) }

/-- WB, GRAN and WFLAGS in one word. -/
def flagsView (w : Warp) (lookout async : Bool) : View Warp :=
  numView (w.wb + 2 ^ 8 * w.gran + 2 ^ 16 * w.flags lookout async) (fun x =>
    { w.setFlags (x / 2 ^ 16) with wb := byteOf x 0, gran := byteOf x 1 })

/-- The lanes of a warp that wait as a test says. -/
def Warp.waiting (w : Warp) (p : Wait → Bool) : Mask := (w.batches.filter (fun b => p b.wait)).foldl (fun m b => m ||| b.lanes) 0#32

/-- A warp whose lanes that wait as a test says are those of a mask at most: the others issue again. -/
def Warp.keepWaiting (w : Warp) (p : Wait → Bool) (m : Mask) : Warp :=
  let part (b : Batch) : List Batch :=
    if p b.wait then [b.only (b.lanes &&& m), { b.only (b.lanes &&& ~~~m) with wait := .none }] else [b]
  { w with batches := (w.batches.flatMap part).filter (fun b => b.lanes != 0#32) }

/-- Whether a batch waits at BAR, or at BARN; and the team of the lowest batch that does. -/
def Wait.atBar : Wait → Bool
  | .bar => true
  | _ => false
def Wait.team? : Wait → Option Nat
  | .barn t => some t
  | _ => Option.none

/-- BARREC: the episode and the waiting lanes of BAR; the team with the episode in its upper half, and the waiting lanes, of BARN. -/
def barView (bl : Block) (w : Warp) (i : Nat) : View Warp :=
  let team := (w.batches.findSome? (fun b => b.wait.team?)).getD 0
  match i with
  | 0 => fixedView (if w.waiting Wait.atBar = 0#32 then 0 else bl.bar.episode) w
  | 1 => ⟨w.waiting Wait.atBar, fun x => w.keepWaiting Wait.atBar x⟩
  | 2 => fixedView (team + 2 ^ 16 * (((Assoc.get? bl.barns team).map (·.episode)).getD 0 % 2 ^ 16)) w
  | _ => ⟨w.waiting (fun x => x.team?.isSome), fun x => w.keepWaiting (fun x => x.team?.isSome) x⟩

/-- A trap record with one of its words written (R325). -/
def TrapRec.setWord (t : TrapRec) (i x : Nat) : TrapRec := match i with
  | 0 => { t with code := byteOf x 0, skip := bits x 15 12, nested := bitOf x 16, redo := x / 2 ^ 17 }
  | 1 => { t with pc := BitVec.ofNat 32 x }
  | 2 => { t with origin := BitVec.ofNat 32 x }
  | 3 => { t with mask := BitVec.ofNat 32 x }
  | 4 => { t with addr := BitVec.ofNat 64 (t.addr.toNat / 2 ^ 32 * 2 ^ 32 + x) }
  | 5 => { t with addr := BitVec.ofNat 64 (t.addr.toNat % 2 ^ 32 + x * 2 ^ 32) }
  | 6 => { t with info0 := BitVec.ofNat 32 x }
  | 7 => { t with info1 := BitVec.ofNat 32 x }
  | _ => { t with afls := setAflWord t.afls (4 * (i - 8)) x }

/-- HOSTREC: the trap record of a HOST stop, zero for a warp that is not stopped. -/
def hostrecView (w : Warp) (i : Nat) : View Warp := match w.hostrec with
  | none => fixedView 0 w
  | some t => numView ((t.words (rdReg t.afls)).getD i 0).toNat (fun x => { w with hostrec := some (t.setWord i x) })

/-- DIVREC: the saved PCs of the lanes of the diverted batch, which stood at one, and the entry of its continuation. A PC written is
that of the batch. -/
def divrecView (w : Warp) (o : Nat) : View Warp := match w.divrec with
  | none => fixedView 0 w
  | some d =>
    let whole (b : Batch) : Warp := { w with divrec := some b }
    if o < 0x80 then
      if d.lanes.getLsbD (o / 4) then (d.view 2).on whole else fixedView 0 w
    else if o < 0xA0 then (d.view ((o - 0x80) / 4)).on whole
    else fixedView 0 w

/-- The word at an offset of the handler save area: s368 to s383, the LNKs, the restart state and the window base; the rest zero. -/
def saveView (h : HandlerSave) (o : Nat) : View HandlerSave :=
  if o < 0x40 then ⟨h.uregs.getD (o / 4) 0, fun x => { h with uregs := setAt h.uregs (o / 4) x }⟩
  else if o < 0xC0 then
    let l := o / 4 - 16
    ⟨(Assoc.get? h.lnks l).getD 0, fun x => { h with lnks := if Assoc.has h.lnks l then Assoc.set h.lnks l x else h.lnks }⟩
  else if o < 0xE0 then (h.restart.view ((o - 0xC0) / 4)).on (fun b => { h with restart := b })
  else if o = 0xE0 then numView h.wb (fun x => { h with wb := byteOf x 0 })
  else fixedView 0 h

/-- The word of HSAVE at an offset: zero for a warp in no handler. -/
def hsaveView (w : Warp) (o : Nat) : View Warp := match w.hsave with
  | none => fixedView 0 w
  | some h => (saveView h o).on (fun h => { w with hsave := some h })

/-- The operations of a warp with the oldest matrix operations left out, so that MX counts n at most (R26, R338 MXCNT). -/
def dropMx (ops : List PendOp) (n : Nat) : List PendOp :=
  let gone := ((ops.filter (fun o => o.cls == .mx)).take (counter ops .mx - n)).map (·.id)
  ops.filter (fun o => !gone.contains o.id)

/-- The word at an offset of a warp record. MWAIT records nothing across a save, so MONREC is zero (R196). -/
def warpView (bl : Block) (cid wi : Nat) (w : Warp) (o : Nat) : View Warp :=
  if o < 0x80 then ⟨w.pcOf (o / 4), w.setPcOf (o / 4)⟩
  else if o < 0x100 then ⟨w.lnk (o / 4 - 32), w.setLnk (o / 4 - 32)⟩
  else if o < 0x120 then numView (aflWord w.afls (o - 0x100)) (fun x => { w with afls := setAflWord w.afls (o - 0x100) x })
  else if o = 0x120 then ⟨w.arms, fun x => { w with arms := x }⟩
  else if o = 0x124 then ⟨w.exited, fun x => { w with exited := x }⟩
  else if o = 0x128 then
    let mine := bl.ui.lookout == some (cid, wi)
    flagsView w mine (mine && bl.ui.async.isSome)
  else if 0x170 ≤ o ∧ o < 0x180 then barView bl w ((o - 0x170) / 4)
  else if o = 0x1A0 then numView (counter w.ops .mx) (fun n => { w with ops := dropMx w.ops n })
  else if 0x1C0 ≤ o ∧ o < 0x200 then hostrecView w ((o - 0x1C0) / 4)
  else if 0x200 ≤ o ∧ o < 0x400 then ⟨w.predMask ((o - 0x200) / 4), w.setPredMask ((o - 0x200) / 4) allLanes⟩
  else if 0x400 ≤ o ∧ o < 0x800 then batchesView w (o - 0x400)
  else if 0x800 ≤ o ∧ o < 0xE00 then ⟨w.u ((o - 0x800) / 4), w.setU ((o - 0x800) / 4)⟩
  else if 0xE00 ≤ o ∧ o < 0xF00 then divrecView w (o - 0xE00)
  else if 0xF00 ≤ o ∧ o < 0x1000 then hsaveView w (o - 0xF00)
  else if 0x1000 ≤ o ∧ o < 0x9000 then
    let n := (o - 0x1000) / 128
    let l := (o - 0x1000) % 128 / 4
    if n < w.count then ⟨w.v l n, w.setV l n⟩ else fixedView 0 w
  else fixedView 0 w

/-! ## The address slice (R337 ASLICE) -/

/-- The two words of the restart state of a slice: the immediate, and the skip count with the flag of the hint. -/
def restartView (h : Hints) (replay : List Pass) (i : Nat) (f : Hints → List Pass → α) : View α :=
  if i = 0 then numView (if h.imm? then h.immValue else 0) (fun x => f (h.setImm x) replay)
  else numView (skipCount replay + h.kept) (fun x => f (h.keep x) (if x % 2 ^ 8 = 0 then [] else replay))

/-- The word at an offset of the slice's handler save area: g48 to g63, the PC, the tags and the restart state. -/
def sliceSaveView (h : SliceSave) (o : Nat) : View SliceSave :=
  if o < 128 then
    let x := (h.gregs.getD (o / 8) 0).toNat
    halfView x (o % 8 / 4) (fun y => { h with gregs := setAt h.gregs (o / 8) (BitVec.ofNat 64 y) })
  else if o = 128 then ⟨h.pc, fun x => { h with pc := x }⟩
  else if o = 132 then ⟨h.tags, fun x => { h with tags := x }⟩
  else if o < 144 then restartView h.hints h.replay ((o - 136) / 4) (fun hs ps => { h with hints := hs, replay := ps })
  else fixedView 0 h

/-- The word at an offset of ASLICE: g0 to g63, the PC, the CPY count, the copy sequence number, the tags, the store ordinal, the restart
state and the handler save area (log 47). -/
def sliceView (s : ASlice) (o : Nat) : View ASlice :=
  if o < 512 then halfView (s.gn (o / 8)) (o % 8 / 4) (fun y => s.setG (o / 8) y)
  else if o = 512 then ⟨s.pc, fun x => { s with pc := x }⟩
  else if o = 516 then fixedView s.copies.length s
  else if o = 520 then numView s.seqno.toNat (fun x => { s with seqno := BitVec.ofNat 16 x })
  else if o = 524 then ⟨s.gtags, fun x => { s with gtags := x }⟩
  else if o < 536 then halfView s.ord.toNat ((o - 528) / 4) (fun y => { s with ord := BitVec.ofNat 64 y })
  else if o < 544 then restartView s.hints s.replay ((o - 536) / 4) (fun h ps => { s with hints := h, replay := ps })
  else if 576 ≤ o ∧ o < 720 then match s.hsave with
    | none => fixedView 0 s
    | some h => (sliceSaveView h (o - 576)).on (fun h => { s with hsave := some h })
  else fixedView 0 s

/-! ## Queues (R337 QUEUES) -/

/-- An empty entry of queue q: a uniform one in q0 to q7 and q12 to q15, else a vector one (R17). -/
def zeroEntry (q : Nat) : QEntry := if 8 ≤ q ∧ q < 12 then .vec (List.replicate 32 0) else .uni 0

/-- A queue made to hold n entries, as far as its depth allows. -/
def Queue.setCount (x : Queue) (q n : Nat) : Queue :=
  { x with entries := (x.entries ++ List.replicate (x.depth - x.entries.length) (zeroEntry q)).take (min n x.depth) }

/-- The entries of a queue that are reserved. -/
def Queue.reservedCount (x : Queue) : Nat := (x.entries.filter (fun e => match e with
  | .reserved _ => true
  | _ => false)).length

/-- The word of a queue's state: COUNT, DEPTH, CLOSED and PROD, then RSV. -/
def queueStateView (r : Run) (ctx : Nat) (c : Crew) (q i : Nat) : View Crew :=
  let x := c.queue q
  let whole (y : Queue) : Crew := { c with queues := setAt c.queues q y }
  match i with
  | 0 => numView (x.entries.length + 2 ^ 8 * x.depth + 2 ^ 16 * b2n x.closed + 2 ^ 24 * producerState r ctx c q) (fun y =>
      whole { (x.setCount q (byteOf y 0)) with closed := bitOf y 16 })
  | 1 => fixedView x.reservedCount c
  | _ => fixedView 0 c

/-- The word at an offset of an entry: its data, or for a reserved one the address of the word that reserved it. -/
def entryView (c : Crew) (q k o : Nat) : View Crew :=
  let x := c.queue q
  let whole (e : QEntry) : Crew := { c with queues := setAt c.queues q { x with entries := setAt x.entries k e } }
  match x.entries[k]? with
  | none => fixedView 0 c
  | some (.uni d) => if o < 8 then halfView d.toNat (o / 4) (fun y => whole (.uni (BitVec.ofNat 64 y))) else fixedView 0 c
  | some (.vec ws) => ⟨ws.getD (o / 4) 0, fun y => whole (.vec (setAt ws (o / 4) y))⟩
  | some (.reserved op) => fixedView (if o = 0 then ((c.aslice.resv.find? (fun z => z.2.2 == op)).map (·.1)).getD 0 else 0) c
  | some .bad => fixedView 0 c

/-- The word at an offset of QUEUES: 16 states, then the entries of q0 to q7, of q8 to q11 and of q12 to q15. -/
def queuesView (r : Run) (ctx : Nat) (c : Crew) (o : Nat) : View Crew :=
  if o < 256 then queueStateView r ctx c (o / 16) (o % 16 / 4)
  else if o < 2304 then entryView c ((o - 256) / 256) ((o - 256) % 256 / 8) (o % 8)
  else if o < 6400 then entryView c (8 + (o - 2304) / 1024) ((o - 2304) % 1024 / 128) ((o - 2304) % 128)
  else if o < 6912 then entryView c (12 + (o - 6400) / 128) ((o - 6400) % 128 / 8) (o % 8)
  else fixedView 0 c

/-! ## Cursors (R283, R337 CURSORS) -/

/-- An offset that a copy may lack: all ones where it has none. -/
def offsetView (x : Option Nat) (f : Option Nat → α) : View α :=
  numView (x.getD 0xFFFFFFFF) (fun y => f (if y = 0xFFFFFFFF then none else some y))

/-- The word at an offset of a copy's cursor (log 47). -/
def cursorView (c : Copy) (o : Nat) : View Copy :=
  if 64 ≤ o then match c.snapshot with
    | none => fixedView 0 c
    | some bs => numView (ofBytes ((bs.drop (o - 64)).take 4)) (fun x =>
        { c with snapshot := some (bs.take (o - 64) ++ toBytes 4 x ++ bs.drop (o - 60)) })
  else match o / 4 with
  | 0 => numView c.tag (fun x => { c with tag := x % 2 ^ 16 })
  | 1 => numView (1 + 2 * b2n c.skip + 4 * b2n c.snapshot.isSome + 8 * b2n c.elemGlobal) (fun x =>
      { c with skip := bitOf x 1, snapshot := if bitOf x 2 then c.snapshot else none, elemGlobal := bitOf x 3 })
  | 2 => numView c.prefixLen (fun x => { c with prefixLen := x })
  | 3 => offsetView c.arrival (fun x => { c with arrival := x })
  | 4 => offsetView c.predWord (fun x => { c with predWord := x })
  | 5 => numView ((c.fault.map (·.1)).getD 0) (fun x =>
      { c with fault := if x = 0 then none else some (x % 2 ^ 8, (c.fault.map (·.2)).getD 0) })
  | 6 => halfView ((c.fault.map (·.2)).getD 0) 0 (fun x => { c with fault := c.fault.map (fun f => (f.1, x)) })
  | 7 => halfView ((c.fault.map (·.2)).getD 0) 1 (fun x => { c with fault := c.fault.map (fun f => (f.1, x)) })
  | 8 => halfView c.elem 0 (fun x => { c with elem := x })
  | 9 => halfView c.elem 1 (fun x => { c with elem := x })
  | _ => fixedView 0 c

/-- The word at an offset of CURSORS: the parked copies in their order. -/
def cursorsView (s : ASlice) (o : Nat) : View ASlice :=
  match ((s.copies.zipIdx).filter (fun c => c.1.parked))[o / 128]? with
  | none => fixedView 0 s
  | some (c, i) => (cursorView c (o % 128 / 4 * 4)).on (fun c => { s with copies := setAt s.copies i c })

/-! ## The header and the block record (R337, R339) -/

/-- STATE of a crew header (R337). -/
def Crew.headerState (c : Crew) : Nat :=
  if c.aslice.hostrec.isSome || c.warps.any (fun w => w.hostrec.isSome) then 3
  else if c.status = .saved then 2 else 1

/-- The crew header of 256 bytes (R337). In CARRY mode too it names no held store: the model's stores are performed as they issue
(log 1). -/
def crewHeader (r : Run) (c : Crew) : List Byte :=
  match Assoc.get? r.blocks c.block with
  | none => []
  | some b =>
    let g := (Assoc.get? r.grids b.grid).getD { ctx := 0 }
    let k := kernelOf g b
    let level := if c.status = .saved then readmitLevel b c else c.level
    let xp := match (c.warps.filterMap (·.xpend)) with
      | n :: _ => 0x80 + n
      | [] => 0
    toBytes 2 1 ++ toBytes 1 c.headerState ++ toBytes 1 c.reason ++ toBytes 4 g.ident ++ toBytes 8 b.lin ++ toBytes 2 c.idx ++
    toBytes 1 c.warps.length ++ toBytes 1 level ++ toBytes 4 b.taskix ++
    toBytes 2 (c.lastCore / 24 * 256 + c.lastCore % 24) ++ toBytes 1 (b2n c.carry) ++ toBytes 1 xp ++ toBytes 4 0 ++
    toBytes 16 b.digest.toNat ++ toBytes 4 k.lane ++ toBytes 4 k.pad ++ toBytes 200 0

/-- The word at an offset of the header: of what it shows, the task digest and the task index can be changed. -/
def headerView (r : Run) (cid : Nat) (c : Crew) (o : Nat) : View Run :=
  let x := ofBytes (((crewHeader r c).drop o).take 4)
  let _ := cid
  if o = 20 then numView x (fun y => r.block c.block (fun b => if b.isTask then { b with taskix := y } else b))
  else if 32 ≤ o ∧ o < 48 then numView x (fun y => r.block c.block (fun b =>
    let sh := 8 * (o - 32)
    { b with digest := BitVec.ofNat 128 (b.digest.toNat - x * 2 ^ sh + y * 2 ^ sh) }))
  else fixedView x r

/-- The bytes that name a block's lookout: its warp and its crew, all ones where there is none. -/
def lookoutBytes (r : Run) (b : Block) : Nat := match b.ui.lookout with
  | none => 0xFFFF
  | some (c, w) => w + 2 ^ 8 * ((Assoc.get? r.crews c).map (·.idx)).getD 0

/-- The word at an offset of the block record (R339): pending and mask bits, payloads, the lookout, and the flags. -/
def blockView (r : Run) (bk : Nat) (b : Block) (o : Nat) : View Run :=
  let ui (f : UserInt → UserInt) : Run := r.block bk (fun b => { b with ui := f b.ui })
  if o < 8 then halfView b.ui.pending.toNat (o / 4) (fun x => ui (fun u => { u with pending := BitVec.ofNat 64 x }))
  else if o < 16 then halfView b.ui.mask.toNat ((o - 8) / 4) (fun x => ui (fun u => { u with mask := BitVec.ofNat 64 x }))
  else if o < 272 then ⟨rdReg b.ui.payloads ((o - 16) / 4), fun x => ui (fun u => { u with payloads := wrReg u.payloads ((o - 16) / 4) x })⟩
  else if o = 272 then
    numView (lookoutBytes r b + 2 ^ 16 * (b2n b.triggered + 2 * b2n b.ui.wakeRaised)) (fun x =>
      let lookout := if x % 2 ^ 16 = 0xFFFF then none else (b.crews[byteOf x 1]?).map (fun c => (c, byteOf x 0))
      r.block bk (fun b => { b with triggered := bitOf x 16, ui := { b.ui with lookout := lookout, wakeRaised := bitOf x 17 } }))
  else fixedView 0 r

/-! ## The hamper -/

/-- The word at an offset of a crew's hamper, none beyond its end (R337). -/
def hamperView (r : Run) (cid off : Nat) : Option (View Run) := do
  let c ← Assoc.get? r.crews cid
  let b ← Assoc.get? r.blocks c.block
  let nw := c.warps.length
  let lanes := 0x8400 + nw * 0x9000
  let k := crewKernel r c
  let pad := lanes + c.threads * k.lane
  let crew (c : Crew) : Run := r.crew cid (fun _ => c)
  let slice (s : ASlice) : Run := crew { c with aslice := s }
  if off < 0x100 then return headerView r cid c off
  else if off < 0x400 then return (sliceView c.aslice (off - 0x100)).on slice
  else if off < 0x800 then return (if c.idx = 0 then blockView r c.block b (off - 0x400) else fixedView 0 r)
  else if off < 0x2400 then return (queuesView r (crewCtx r cid) c (off - 0x800)).on crew
  else if off < 0x4400 then return (cursorsView c.aslice (off - 0x2400)).on slice
  else if off < 0x8400 then return fixedView 0 r
  else if off < lanes then
    let wi := (off - 0x8400) / 0x9000
    let w ← c.warps[wi]?
    let o := (off - 0x8400) % 0x9000
    if 0x130 ≤ o ∧ o < 0x170 then
      let key := (o - 0x130) / 4 * 512 + c.idx * 32 + wi
      return ⟨rdReg b.teams key, fun x => r.block c.block (fun b => { b with teams := wrReg b.teams key x })⟩
    return (warpView b cid wi w o).on (fun w => crew { c with warps := setAt c.warps wi w })
  else if off < pad then return memView c.lanes (off - lanes) (fun m => crew { c with lanes := m })
  else if off < pad + k.pad then return memView c.pad (off - pad) (fun m => crew { c with pad := m })
  else none

end Sys2Proof.Machine
end

