-- ==== Sys2Proof/Machine/Debug.lean ====
section
/-! DEFINITION. The debugger (R419), snapshots (R421), telemetry (R413), and the plain registers of a function as they are written
and read (R351, R358, R374, R400, R420). -/

namespace Sys2Proof.Machine

/-! ## Halt and resume (R419) -/

/-- The crews of a context, in key order. -/
def crewsOf (r : Run) (ctx : Nat) : List Nat := (r.crews.filter (fun p => crewCtx r p.1 == ctx)).map (·.1)

/-- A context halted: every crew begins its save with REASON 3 and waits for a resume (R335, R419). -/
def haltContext (r : Run) (ctx : Nat) : Run :=
  match Assoc.get? r.contexts ctx with
  | none => r
  | some x =>
    if x.halted || !x.live then r
    else
      let r := (crewsOf r ctx).foldl (fun r c => beginSave (r.crew c (fun y => { y with halted := true })) c 3) r
      r.context ctx (fun x => { x with halted := true })

/-- A batch whose call has completed, and a warp one of whose batches made it: it waits in place, or as the continuation that a handler
keeps (R191, R196, R237). -/
def Batch.served (key : Nat) (b : Batch) : Batch := if b.wait = .svc key then { b with wait := .pass } else b
def Warp.served (w : Warp) (key : Nat) : Warp :=
  { w with
    batches := w.batches.map (·.served key)
    divrec := w.divrec.map (·.served key)
    hsave := w.hsave.map (fun h => { h with restart := h.restart.served key }) }

/-- A completed call: its results stand in the parameter block, and its caller passes (R191, R371). -/
def completeCall (r : Run) (key status detail res : Nat) : Run :=
  match Assoc.get? r.calls key with
  | none => r
  | some c =>
    match Assoc.get? r.crews c.crew with
    | none => { r with calls := Assoc.erase r.calls key }
    | some x =>
      let put (r : Run) (off n v : Nat) : Run := storeNum r x.block (.pad c.crew (c.off + off)) n v
      let r := put (put (put r 2 2 status) 4 4 detail) 56 8 res
      let queues := r.svcQueues.map (fun (p : Nat × List Nat) => (p.1, p.2.erase key))
      let faults := r.faultQueues.map (fun (p : Nat × List Nat) => (p.1, p.2.erase key))
      let r := { r with calls := Assoc.erase r.calls key, svcQueues := queues, faultQueues := faults, units := r.units.erase key }
      match c.warp with
      | some (w, _) => r.warp c.crew w (·.served key)
      | none => r.slice c.crew (fun y => if y.wait = .svc key then { y with wait := .pass } else y)

/-- A halted context resumed: its crews wait to be restored, and its DBG_HALT_SELF calls complete (R372, R419). -/
def resumeContext (r : Run) (ctx : Nat) : Run :=
  match Assoc.get? r.contexts ctx with
  | none => r
  | some x =>
    if !x.halted then r
    else
      let r := (crewsOf r ctx).foldl (fun r c => r.crew c (fun y => { y with halted := false })) r
      let r := r.context ctx (fun x => { x with halted := false })
      let ks := (r.calls.filter (fun p => p.2.num == 44 && p.2.away && p.2.part * 64 + p.2.ctx == ctx)).map (·.1)
      ks.foldl (fun r k => completeCall r k 0 0 0) r

/-- Whether every crew of a halted context has been saved: STATE then reads 10 (R419). -/
def allSaved (r : Run) (ctx : Nat) : Bool :=
  (crewsOf r ctx).all (fun c => match Assoc.get? r.crews c with
    | some x => x.status == .saved || x.status == .ended || x.status == .waiting
    | none => true)

/-- DBGCTL as it reads (R419). -/
def readDbgctl (m : Mgmt) (r : Run) (fn : Nat) : Nat :=
  let c := (r.func fn).dbgctl.toNat % 64
  let key := match partOfFn m fn with
    | some (tag, _) => tag * 64 + c
    | none => c
  let state := match Assoc.get? r.contexts key with
    | some x => if x.halted then (if allSaved r key then 2 else 1) else 0
    | none => 0
  state * 2 ^ 8 + c

/-- A write of DBGCTL by a function to one of its own contexts. -/
def debugWrite (m : Mgmt) (r : Run) (fn c : Nat) (f : Run → Nat → Run) : Run :=
  match partOfFn m fn with
  | none => r
  | some (tag, _) => f (r.setFunc fn (fun x => { x with dbgctl := BitVec.ofNat 32 (c % 64) })) (tag * 64 + c % 64)

/-- DBGCTL_HALT: function, context. -/
def execDbgctlHalt (s : State) : Outcome := happen s (fun a => debugWrite s.mgmt s.run a.fn a.ctx haltContext)
/-- DBGCTL_RESUME: function, context. -/
def execDbgctlResume (s : State) : Outcome := happen s (fun a => debugWrite s.mgmt s.run a.fn a.ctx resumeContext)

/-! ## The debugger's access to hampers (R419) -/

/-- The crew that DBGSEL names by its slot among the crews of the halted context, and the offset (R419). -/
def selected (m : Mgmt) (r : Run) (fn : Nat) : Option (Nat × Nat) := do
  let (tag, _) ← partOfFn m fn
  let f := r.func fn
  let ctx := tag * 64 + f.dbgctl.toNat % 64
  let x ← Assoc.get? r.contexts ctx
  if !x.halted || !allSaved r ctx then none
  let c ← ((crewsOf r ctx).filter (fun c => match Assoc.get? r.crews c with
    | some y => y.status == .saved
    | none => false))[f.dbgsel.toNat % 2 ^ 16]?
  return (c, bits f.dbgsel.toNat 47 16 / 4 * 4)

/-- DBGDATA as it reads: 8 bytes of the selected hamper, 0 where the spec gives no place (R419). -/
def readDbgdata (m : Mgmt) (r : Run) (fn : Nat) : Nat :=
  match selected m r fn with
  | none => 0
  | some (c, o) =>
    let w (o : Nat) : Nat := match hamperView r c o with
      | some v => v.value.toNat
      | none => 0
    w o + 2 ^ 32 * w (o + 4)

/-- DBGDATA written (R419). -/
def writeDbgdata (m : Mgmt) (r : Run) (fn x : Nat) : Run :=
  match selected m r fn with
  | none => r
  | some (c, o) =>
    let put (r : Run) (o y : Nat) : Run := match hamperView r c o with
      | some v => v.put (BitVec.ofNat 32 y)
      | none => r
    put (put r o x) (o + 4) (x / 2 ^ 32)

/-! ## Snapshots (R421) -/

/-- The record of a presented core in a snapshot image. -/
def coreRecord (r : Run) (core : Nat) : List Byte :=
  let k := r.coreSt core
  let n := (r.crews.filter (fun p => p.2.onCore core)).length
  toBytes 8 k.clock.toNat ++ (List.range 4).flatMap (fun q => toBytes 4 (rdReg k.lastRun q).toNat) ++ toBytes 4 n ++
  toBytes 4 k.lastSlice.toNat ++ toBytes 8 k.mxgov.toNat ++ toBytes 24 0

/-- The clocks of the presented cores of a tile moved on to the moment they are read (R6, R28). -/
def sampleClocks (m : Mgmt) (r : Run) (tile : Nat) : Run :=
  (tileCores m tile).foldl (fun r k =>
    let (i, r) := r.draw
    r.core k (fun c => { c with clock := c.clock + Config.elapsed i })) r

/-- The image of a tile: the flits that its router has forwarded are the only part with no place in State (log 15). -/
def snapImage (m : Mgmt) (r : Run) (tile origin : Nat) : List Byte :=
  let cores := (tileCores m tile).flatMap (coreRecord r)
  let router := (List.range 5).flatMap (fun p => toBytes 8 (Config.telemetry p r.free).toNat) ++ toBytes 8 (r.tileSt tile).drops.toNat
  toBytes 8 (r.tileSt tile).refc.toNat ++ toBytes 1 origin ++ toBytes 7 0 ++ toBytes 8 (r.tileSt tile).snapLost.toNat ++
  toBytes 8 0 ++ (cores ++ List.replicate 1408 0).take 1408 ++ router ++ toBytes 16 0 ++ toBytes 544 0

/-- The snapshot event n reaches a tile: its blocks latch, or SNAPLOST counts. -/
def latchSnapshot (m : Mgmt) (r : Run) (n tile : Nat) : Run :=
  match r.floods[n]? with
  | none => r
  | some (origin, left) =>
    if !left.contains tile then r
    else
      let left := setErase left tile
      let r := { r with floods := if left = [] then r.floods.eraseIdx n else setAt r.floods n (origin, left) }
      if (r.tileSt tile).snapped then r.tile tile (fun t => { t with snapLost := t.snapLost + 1 })
      else
        let r := sampleClocks m (r.sampleRefc tile) tile
        let image := snapImage m r tile origin
        let (_, r) := r.draw
        r.tile tile (fun t => { t with snapped := true, snapImage := image, snapOrigin := origin })

/-- The snapshot registers of every tile re-armed. -/
def rearmSnapshots (r : Run) : Run :=
  { r with tiles := r.tiles.map (fun (p : Nat × TileSt) => (p.1, { p.2 with snapped := false })) }

/-- SNAPTRIG: function, which must be the PF (R351); the event starts at tile 0 (log 15). -/
def execSnaptrig (s : State) : Outcome := happen s (fun a => if a.fn = 0 then raiseSnapshot s.run 0 else s.run)
/-- SNAPCLR: function, which must be the PF (R351). -/
def execSnapclr (s : State) : Outcome := happen s (fun a => if a.fn = 0 then rearmSnapshots s.run else s.run)
/-- SNAPSHOT_LATCH: event n, tile. -/
def execSnapshotLatch (s : State) : Outcome := happen s (fun a => latchSnapshot s.mgmt s.run a.n a.tile)

/-! ## Telemetry (R413) -/

/-- Whether the allow-list of a partition holds an item. -/
def allowsItem (m : Mgmt) (r : Run) (tag item : Nat) : Bool :=
  match Assoc.get? m.parts tag with
  | some p => (r.func p.vf).telallow.getLsbD (Config.itemGroup item % 64)
  | none => false

/-- An entry of a partition's access report; once it is full the oldest is overwritten. -/
def reportAccess (r : Run) (tag item fn port : Nat) : Run :=
  let r := r.sampleRefc 0
  let e := toBytes 8 (r.tileSt 0).refc.toNat ++ toBytes 2 item ++ toBytes 1 fn ++ toBytes 1 port ++ toBytes 4 0
  let es := (Assoc.get? r.reports tag).getD []
  if es.length < 256 then { r with reports := Assoc.set r.reports tag (es ++ [e]) }
  else
    { r with
      reports := Assoc.set r.reports tag (es.drop 1 ++ [e])
      reportLost := wrReg r.reportLost tag (rdReg r.reportLost tag + 1) }

/-- TELDATA read by a function: the value, or withheld and reported (R413; log 15). -/
def readTeldata (m : Mgmt) (r : Run) (fn port : Nat) : Run :=
  let sel := (r.func fn).telsel.toNat
  let item := bits sel 31 16
  let tag := match partOfFn m fn with
    | some (t, _) => t
    | none => sel % 256
  if fn ≠ 0 || allowsItem m r tag item then
    let (i, r) := r.draw
    r.setFunc fn (fun f => { f with teldata := Config.telemetry item i, telstat := f.telstat &&& ~~~1#32 })
  else
    let r := r.setFunc fn (fun f => { f with teldata := 0, telstat := f.telstat ||| 1#32 })
    reportAccess r tag item fn port

/-- TELDATA_READ: function, port. -/
def execTeldataRead (s : State) : Outcome := happen s (fun a => readTeldata s.mgmt s.run a.fn a.port)

/-! ## Plain registers (R351) -/

/-- A write of an owner-only register of queue interface q: QBASE, CBASE and QPASID, and the bits of QSTAT that a 1 clears. -/
def writeQueueReg (r : Run) (fn q off v : Nat) (owner : Bool) : Run :=
  let page (x : Nat) : DWord := BitVec.ofNat 64 (x / 4096 * 4096)
  if off = 4 then
    r.setQueueIf fn q (fun x =>
      { x with cfgerr := x.cfgerr && !bitOf v 2, rfault := x.rfault && !bitOf v 1, tailbad := x.tailbad && !bitOf v 0 })
  else if !owner then r
  else if off = 8 then r.setQueueIf fn q (fun x => { x with qbase := page v })
  else if off = 16 then r.setQueueIf fn q (fun x => { x with cbase := page v })
  else if off = 24 then r.setQueueIf fn q (fun x => { x with qpasid := BitVec.ofNat 32 (bits v 31 31 * 2 ^ 31 + v % 2 ^ 20) })
  else r

/-- A threshold register as it is kept: ACTION 11 reads back as 00 (R56). -/
def thrValue (v : Nat) : DWord :=
  BitVec.ofNat 64 (v % 2 ^ 38 + (if bits v 39 38 = 3 then 0 else bits v 39 38) * 2 ^ 38)

/-- A context of a function changed through its registers. -/
def fnContext (m : Mgmt) (r : Run) (fn c : Nat) (f : Context → Context) : Run :=
  match partOfFn m fn with
  | none => r
  | some (tag, _) =>
    let k := tag * 64 + c
    match Assoc.get? r.contexts k with
    | some _ => r.context k f
    | none => { r with contexts := Assoc.set r.contexts k (f {}) }

/-- Registers below 0x0800 of a function: the PF's LEASE period, STOPPEND, contexts, invalidation, proxy and telemetry. -/
def writeFnReg (m : Mgmt) (r : Run) (fn port off v : Nat) : Run :=
  let vf := (partOfFn m fn).isSome
  let owner := port == r.owner
  if off = 0 then (if fn = 0 ∧ owner then { r with period := bits v 31 16 } else r)
  else if off = 0x10 then r.setFunc fn (fun f => { f with stoppend := f.stoppend &&& ~~~(BitVec.ofNat 64 v) })
  else if off = 0x100 then
    (if vf && owner then r.setFunc fn (fun f => { f with ctxbase := BitVec.ofNat 64 (v / 4096 * 4096) }) else r)
  else if off = 0x108 then
    (if vf && owner && bits v 9 8 == 0 then
      r.setFunc fn (fun f => { f with ctxctl := (f.ctxctl &&& ~~~63#32) ||| BitVec.ofNat 32 (v % 64) }) else r)
  else if off = 0x110 then
    (if vf then r.setFunc fn (fun f => { f with invva := BitVec.ofNat 64 (bits v 56 12 * 4096) }) else r)
  else if off = 0x118 then writeInvctl m r fn v
  else if off = 0x200 then r.setFunc fn (fun f => { f with pxbase := BitVec.ofNat 64 (v / 4096 * 4096) })
  else if off = 0x208 then r.setFunc fn (fun f =>
    { f with pxctl := BitVec.ofNat 32 (bits v 31 31 * 2 ^ 31 + bits v 20 16 * 2 ^ 16) })
  else if off = 0x400 then r.setFunc fn (fun f => { f with telsel := BitVec.ofNat 32 (bits v 31 16 * 2 ^ 16 + v % 256) })
  else if off = 0x418 then r.setFunc fn (fun f => { f with telallow := BitVec.ofNat 64 v })
  else r

/-- A write of TELALLOW through the PF, which can only clear bits of the selected partition's list (R413). -/
def clearTelallow (m : Mgmt) (r : Run) (v : Nat) : Run :=
  match Assoc.get? m.parts ((r.func 0).telsel.toNat % 256) with
  | none => r
  | some p => r.setFunc p.vf (fun f => { f with telallow := f.telallow &&& BitVec.ofNat 64 v })

/-- The half of a watchpoint written: an address of 57 bits, or the length and direction bits (R420; log 20). -/
def watchValue (half v : Nat) : DWord := BitVec.ofNat 64 (if half = 0 then v % 2 ^ 57 else v % 64)

/-- A write of n bytes at an offset of a function's MSI-X table on a port: of an entry, the address at +0, the data at +8, and the mask
bit at +12 (R351, R357). A vector unmasked sends the message that its mask held. -/
def writeMsix (r : Run) (fn port off n v : Nat) : Run :=
  let vec := off / 16
  let k := msixKey port vec
  let at_ := off % 16
  let size := min (if n = 4 then 4 else 8) (16 - at_)
  let old := (rdReg (r.func fn).msix k).toNat
  let new := old - bits old (8 * (at_ + size) - 1) (8 * at_) * 2 ^ (8 * at_) + v % 2 ^ (8 * size) * 2 ^ (8 * at_)
  let r := r.setFunc fn (fun f => { f with msix := wrReg f.msix k (BitVec.ofNat 128 (new % 2 ^ 97)) })
  if bits new 96 96 = 0 then unmaskVector r port fn vec else r

/-- A write of n bytes to a device register with no behaviour of its own (R351): offset off of BAR0 of a function, through a port. Writes
to unassigned offsets and to read-only registers are ignored. -/
def writeRegister (m : Mgmt) (r : Run) (fn port off n v : Nat) : Run :=
  if off = 0x418 ∧ fn = 0 then clearTelallow m r v
  else if off < 0x800 then writeFnReg m r fn port off v
  else if 0x1000 ≤ off ∧ off < 0x2000 then writeQueueReg r fn ((off - 0x1000) / 64) ((off - 0x1000) % 64) v (port == r.owner)
  else if 0x2000 ≤ off ∧ off < 0x2800 then
    (if port = r.owner ∧ off % 4 = 0 then
      let x := bits v 31 31 * 2 ^ 31 + bits v 27 12 * 2 ^ 12 + bits v 10 0
      let q := (off - 0x2000) / 32
      let c := (off - 0x2000) % 32 / 4
      sendDue (r.setQueueIf fn q (fun y => { y with remap := wrReg y.remap c (BitVec.ofNat 32 x) })) fn q
    else r)
  else if 0x3000 ≤ off ∧ off < 0x4000 then
    fnContext m r fn ((off - 0x3000) / 64) (fun c => { c with thr := wrReg c.thr ((off - 0x3000) % 64 / 8) (thrValue v) })
  else if 0x4000 ≤ off ∧ off < 0x4100 then
    fnContext m r fn ((off - 0x4000) / 4) (fun c => { c with thrFire := c.thrFire &&& ~~~(BitVec.ofNat 32 (v % 256)) })
  else if 0x5100 ≤ off ∧ off < 0x5900 then
    (if fn = 0 then { r with mbdata := Mem.write r.mbdata (if n = 4 then 4 else 8) (off - 0x5100) v } else r)
  else if off = 0x6000 then r.setFunc fn (fun f => { f with dbgctl := BitVec.ofNat 32 (v % 64) })
  else if off = 0x6008 then r.setFunc fn (fun f => { f with dbgsel := BitVec.ofNat 64 (v % 2 ^ 48) })
  else if off = 0x6010 then writeDbgdata m r fn v
  else if 0x8000 ≤ off ∧ off < 0x10000 then writeMsix r fn port (off - 0x8000) n v
  else if 0x18000 ≤ off ∧ off < 0x19000 then
    let o := (off - 0x18000) % 64
    fnContext m r fn ((off - 0x18000) / 64) (fun c => { c with watch := wrReg c.watch (o / 8) (watchValue (o / 8 % 2) v) })
  else r

/-- Whether a function shows a register: in recovery the PF alone is presented, and only with its mailbox (R405). -/
def presents (m : Mgmt) (fn off : Nat) : Bool := !m.recovery || (fn == 0 && decide (0x5000 ≤ off) && decide (off < 0x5900))

/-- REGISTER_WRITE: function, port, offset addr, width n, value. -/
def execRegisterWrite (s : State) : Outcome := happen s (fun a =>
  if presents s.mgmt a.fn a.addr then writeRegister s.mgmt s.run a.fn a.port a.addr a.n a.value else s.run)

/-- FNID as it reads (R358). -/
def readFnid (m : Mgmt) (r : Run) (fn port : Nat) : Nat :=
  let live := (r.contexts.filter (fun c => c.2.live && (fn == 0 || fnOfCtx m c.1 == fn))).length
  let tag := match partOfFn m fn with
    | some (t, _) => t
    | none => 0
  fn + (if fn = 0 then 2 ^ 8 else 0) + tag * 2 ^ 9 + port * 2 ^ 16 + min live 63 * 2 ^ 24

/-- LEASE as the PF reads it (R359). -/
def readLease (r : Run) : Nat := r.epoch.toNat * 2 ^ 32 + r.period * 2 ^ 16 + b2n r.expired * 2 ^ 4 + r.owner * 2 ^ 3

/-- QSTAT as it reads (R351). -/
def QueueIf.stat (x : QueueIf) : Nat :=
  x.refused.toNat * 2 ^ 8 + 16 * b2n x.held + 8 * b2n x.full + 4 * b2n x.cfgerr + 2 * b2n x.rfault + b2n x.tailbad

/-! ## Reading BAR0 (R351) -/

/-- The registers of queue interface q as they read (R351). -/
def QueueIf.readReg (x : QueueIf) (off : Nat) : Nat := match off with
  | 0x00 => b2n x.en * 2 ^ 31 + x.qlog % 32 * 2 ^ 16 + x.clog % 32 * 2 ^ 8 + x.pri % 4
  | 0x04 => x.stat
  | 0x08 => x.qbase.toNat
  | 0x10 => x.cbase.toNat
  | 0x18 => x.qpasid.toNat
  | 0x1C => x.qhead.toNat
  | 0x20 => x.chead.toNat
  | 0x24 => x.ctail.toNat
  | _ => 0

/-- A context of a function, at its reset values when it has never been live. -/
def contextOf (m : Mgmt) (r : Run) (fn c : Nat) : Context := match partOfFn m fn with
  | none => {}
  | some (tag, _) => (Assoc.get? r.contexts (tag * 64 + c)).getD {}

/-- The function registers below 0x0800 as they read through a port: CTXBASE, CTXCTL, INVVA and INVCTL read as zero in the PF. -/
def readFnReg (m : Mgmt) (r : Run) (fn port off : Nat) : Nat :=
  let f := r.func fn
  let vf := (partOfFn m fn).isSome
  match off with
  | 0x000 => if fn = 0 then readLease r else 0
  | 0x008 => readFnid m r fn port
  | 0x010 => f.stoppend.toNat
  | 0x100 => if vf then f.ctxbase.toNat else 0
  | 0x108 => if vf then f.ctxctl.toNat else 0
  | 0x110 => if vf then f.invva.toNat else 0
  | 0x118 => if vf then f.invctl.toNat else 0
  | 0x200 => f.pxbase.toNat
  | 0x208 => f.pxctl.toNat
  | 0x400 => f.telsel.toNat
  | 0x408 => f.teldata.toNat
  | 0x410 => f.telstat.toNat
  | 0x418 => f.telallow.toNat
  | _ => 0

/-- The pending-bit array of a function on a port: bit n of its bytes is vector n (R351). -/
def readPending (f : Func) (port off : Nat) : Nat :=
  gatherBits 64 1 (fun i => b2n (f.msixPending.contains (msixKey port (8 * off + i))))

/-- What a read at an offset of BAR0 of a function finds, through a port (R351): unassigned offsets, the write-only bits and the mailbox
of a VF read as zero, and all that recovery does not offer. A read of TELDATA is an event of its own (R413). -/
def readRegister (m : Mgmt) (r : Run) (fn port off : Nat) : Nat :=
  let f := r.func fn
  if !presents m fn off then 0
  else if off < 0x800 then readFnReg m r fn port off
  else if off < 0x900 then (if (partOfFn m fn).isSome then (contextOf m r fn ((off - 0x800) / 4)).exitcode.toNat else 0)
  else if 0x1000 ≤ off ∧ off < 0x2000 then (r.queueIf fn ((off - 0x1000) / 64)).readReg ((off - 0x1000) % 64)
  else if 0x2000 ≤ off ∧ off < 0x2800 then
    (rdReg (r.queueIf fn ((off - 0x2000) / 32)).remap ((off - 0x2000) % 32 / 4)).toNat
  else if 0x3000 ≤ off ∧ off < 0x4000 then
    (rdReg (contextOf m r fn ((off - 0x3000) / 64)).thr ((off - 0x3000) % 64 / 8)).toNat
  else if 0x4000 ≤ off ∧ off < 0x4100 then (contextOf m r fn ((off - 0x4000) / 4)).thrFire.toNat
  else if 0x5000 ≤ off ∧ off < 0x6000 then
    (if fn ≠ 0 then 0
    else if off = 0x5000 then r.mbcmd.toNat
    else if off = 0x5008 then r.mbstat.toNat
    else if 0x5100 ≤ off ∧ off < 0x5900 then Mem.read r.mbdata 8 (off - 0x5100)
    else 0)
  else if off = 0x6000 then readDbgctl m r fn
  else if off = 0x6008 then f.dbgsel.toNat
  else if off = 0x6010 then readDbgdata m r fn
  else if 0x8000 ≤ off ∧ off < 0x10000 then
    bits (rdReg f.msix (msixKey port ((off - 0x8000) / 16))).toNat (8 * (off % 16) + 63) (8 * (off % 16))
  else if 0x10000 ≤ off ∧ off < 0x10100 then readPending f port (off - 0x10000)
  else if 0x18000 ≤ off ∧ off < 0x19000 then
    (rdReg (contextOf m r fn ((off - 0x18000) / 64)).watch ((off - 0x18000) % 64 / 8)).toNat
  else 0

end Sys2Proof.Machine
end

