-- ==== Sys2Proof/Machine/Calls.lean ====
section
/-! DEFINITION. Service calls: how a unit takes one (R370 to R373, R376), and the calls on grids, events, interrupts, logs,
counters and the context itself (R372). -/

namespace Sys2Proof.Machine

/-! ## Serving a call -/

/-- A call being performed. -/
structure CallEnv where
  m : Mgmt
  key : Nat
  c : Call
  crew : Crew
  blk : Block
  g : Grid

/-- The context of a call. -/
def CallEnv.ctx (e : CallEnv) : Nat := e.g.ctx
/-- Argument slot i of the parameter block (R370). -/
def CallEnv.arg (e : CallEnv) (i : Nat) : Nat := recField e.c.block (8 + 8 * i) 8

/-- The call, with its caller. -/
def callEnv (m : Mgmt) (r : Run) (key : Nat) : Option CallEnv := do
  let c ← Assoc.get? r.calls key
  let x ← Assoc.get? r.crews c.crew
  let b ← Assoc.get? r.blocks x.block
  let g ← Assoc.get? r.grids b.grid
  return ⟨m, key, c, x, b, g⟩

/-- What a unit makes of a call. -/
inductive Served where
  /-- completed: STATUS, DETAIL and RES (R371) -/
  | done (status detail res : Nat)
  /-- it waits for the translation of a HOST page (R373) -/
  | page (page need : Nat)
  /-- it waits, in the hands of its unit, for the end of a pack-up that holds its access (R390) -/
  | held
  /-- it waits without a unit (R372) -/
  | away
  /-- it stays at the head of the service queue -/
  | stay
deriving DecidableEq, Repr, Inhabited

/-- The statuses of R371. -/
def stOk : Nat := 0
def stInvalid : Nat := 1
def stFault : Nat := 2
def stNomem : Nat := 3
def stDenied : Nat := 4
def stNotfound : Nat := 5
def stStale : Nat := 6
def stHostError : Nat := 7
def stNoAgent : Nat := 8
def stReplayed : Nat := 11

/-- A call completed with a status alone. -/
def fails (r : Run) (status : Nat) : Run × Served := (r, .done status 0 0)
/-- A call completed with a result. -/
def okRes (r : Run) (res : Nat) (detail : Nat := 0) : Run × Served := (r, .done stOk detail res)

/-- The permission that a use of an address asks of a capability: LD to read its bytes, ST to write them, and none beyond GLOBAL where
the call reads and writes none of them (R253, R254; log 26). -/
def useRead : Nat := 0
def useWrite : Nat := 1
def useName : Nat := 6

/-- The address argument in slots i and i + 1 for n bytes under a use, or the status it gives: an address and zero, or, in a
protected context, a capability, checked by R254 without the tag test, since the block lies in the crew's private pad (R370, R371;
log 26). -/
def CallEnv.addr (e : CallEnv) (r : Run) (i n use : Nat) : Except Nat Nat :=
  if isProt r e.ctx then
    let x := recField e.c.block (8 + 8 * i) 16
    if capPasses e.ctx true x use (capAddr x) n then .ok (capAddr x) else .error stFault
  else if e.arg (i + 1) ≠ 0 then .error stInvalid
  else .ok (e.arg i)

/-- A buffer of the calling context read or written by a unit: it waits for a HOST page, or completes with FAULT (R371, R373,
R396). -/
def CallEnv.span (e : CallEnv) (r : Run) (va n need : Nat) (f : List Place → Run × Served) : Run × Served :=
  match hostMissAt e.m r e.ctx va n need with
  | some (page, nd) => (r, .page page nd)
  | none =>
    match globalSpan e.m r 0 e.ctx va n need with
    | .error .held => (r, .held)
    | .error _ => fails r stFault
    | .ok ps => if need = needRd ∧ ps.any (poisoned r) then fails r stFault else f ps

/-! ## Which call the units take (R376) -/

/-- Whether a call names a handle in A0 (R372, R375). -/
def namesHandle (n : Nat) : Bool := [25, 26, 27, 28, 29, 31, 34, 35, 36, 37].contains n
/-- The host-proxy calls (R372). -/
def isProxyCall (n : Nat) : Bool := n == 8 || n == 9 || decide (24 ≤ n) && decide (n ≤ 37)

/-- Records of a proxy ring (R374). -/
def Func.pxSize (f : Func) : Nat := 2 ^ bits f.pxctl.toNat 20 16

/-- The calls of a function that stand in its proxy ring, or that a unit has in hand to put there. -/
def proxyOut (m : Mgmt) (r : Run) (fn : Nat) : Nat :=
  (r.calls.filter (fun p => (p.2.proxy.isSome || r.units.contains p.1 && isProxyCall p.2.num) &&
    fnOfCtx m (p.2.part * 64 + p.2.ctx) == fn)).length

/-- Whether a crew stands on a tile that a pack-up of its partition affects (R389). -/
def packedUp (m : Mgmt) (r : Run) (tag crew : Nat) : Bool :=
  ((Assoc.get? m.parts tag).bind (·.pack)).any (fun k => k.affected.contains (crewTile r crew))

/-- Whether a call at the head of its queue must wait there: a GRID_LAUNCH, or a call of an affected tile, for the end of a pack-up
(R372, R389), a host-proxy call for a free record of an enabled ring (R374). -/
def callWaits (m : Mgmt) (r : Run) (c : Call) : Bool :=
  c.num == 10 && ((Assoc.get? m.parts c.part).map (·.stopped)).getD false || packedUp m r c.part c.crew ||
  isProxyCall c.num && (let fn := fnOfCtx m (c.part * 64 + c.ctx)
    bits (r.func fn).pxctl.toNat 31 31 == 1 && decide ((r.func fn).pxSize ≤ proxyOut m r fn))

/-- The call at the head of a partition's service queue, when a unit may take it. -/
def headCall (m : Mgmt) (r : Run) (tag : Nat) : Option (Nat × Call) := do
  let key ← (r.svcQueue tag).head?
  let c ← Assoc.get? r.calls key
  if callWaits m r c then none else some (key, c)

/-- The partition that follows a tag among some, around. -/
def nextAfter (tags : List Nat) (tag : Nat) : Option Nat := (tags.find? (fun t => decide (tag < t))).or tags.head?

/-- A call taken out of its partition's service queue by a unit: a partition whose queue is empty keeps no deficit (R376). -/
def takeCall (r : Run) (tag key : Nat) : Run :=
  let q := (r.svcQueue tag).erase key
  { r with
    svcQueues := Assoc.set r.svcQueues tag q
    units := r.units ++ [key]
    deficits := if q = [] then Assoc.erase r.deficits tag else r.deficits }

/-- The deficit round robin moved on by one act, when a unit is free and some call waits (R376). At the partition where it stands, the
head's next step of at most 4,096 unit cycles is given when it fits the deficit, and the call is taken with its last step; otherwise the
next partition is visited, and its deficit rises by SHARE * 64. The cost of a call is a free value (log 18). -/
def serviceVisit (m : Mgmt) (r : Run) : Run :=
  let tags := (r.svcQueues.filter (fun p => (headCall m r p.1).isSome)).map (·.1)
  if tags = [] ∨ 8 ≤ r.units.length then r
  else
    let have_ := (Assoc.get? r.deficits r.svcTurn).getD 0
    let move : Run := match nextAfter tags r.svcTurn with
      | none => r
      | some t =>
        let share := max 1 (((Assoc.get? m.parts t).map (·.share)).getD 1)
        { r with svcTurn := t, deficits := Assoc.set r.deficits t ((Assoc.get? r.deficits t).getD 0 + share * 64) }
    match headCall m r r.svcTurn with
    | none => move
    | some (key, c) =>
      match c.left with
      | none =>
        let (i, r) := r.draw
        { r with calls := Assoc.modify r.calls key (fun c => { c with left := some (Config.elapsed i).toNat }) }
      | some left =>
        let step := min left 4096
        if have_ < step then move
        else
          let r := { r with
            deficits := Assoc.set r.deficits r.svcTurn (have_ - step)
            calls := Assoc.modify r.calls key (fun c => { c with left := some (left - step) }) }
          if left = step then takeCall r r.svcTurn key else r

/-- A call whose unit has been left: it waits away. -/
def sendAway (r : Run) (key : Nat) : Run :=
  { r with units := r.units.erase key, calls := Assoc.modify r.calls key (fun c => { c with away := true }) }

/-- What a call leaves behind of the page it waited for, once no other call of its context waits for it (R348, R378). -/
def dropCallPage (r : Run) (key ctx : Nat) (page : Option Nat) : Run := match page with
  | none => r
  | some p =>
    if r.calls.any (fun x => x.1 != key && x.2.part * 64 + x.2.ctx == ctx && x.2.page == some p) then r else unitDone r ctx p

/-- A call that waits for a HOST page moved to its partition's fault queue, while that holds fewer than 64 (R373). -/
def faultCall (r : Run) (tag key page : Nat) : Run :=
  let fs := (Assoc.get? r.faultQueues tag).getD []
  if 64 ≤ fs.length then r
  else
    { r with
      units := r.units.erase key
      faultQueues := Assoc.set r.faultQueues tag (fs ++ [key])
      calls := Assoc.modify r.calls key (fun c => { c with page := some page, left := none }) }

/-- What a unit made of a call settled: it completes, waits in the fault queue for a HOST page, waits without a unit, or goes back to
the head of its queue (R371 to R373). -/
def settleServed (e : CallEnv) : Run × Served → Run
  | (r, .done status detail res) => completeCall (dropCallPage r e.key e.ctx e.c.page) e.key status detail res
  | (r, .page page need) =>
    let r := requestPage e.m (if e.c.page = some page then r else dropCallPage r e.key e.ctx e.c.page) 0 e.ctx page need
    if e.c.away then { r with calls := Assoc.modify r.calls e.key (fun c => { c with page := some page }) }
    else faultCall r e.c.part e.key page
  | (r, .held) => r
  | (r, .away) => if e.c.away then r else sendAway (dropCallPage r e.key e.ctx e.c.page) e.key
  | (r, .stay) =>
    { r with units := r.units.erase e.key, svcQueues := Assoc.set r.svcQueues e.c.part (e.key :: r.svcQueue e.c.part) }

/-- Whether a unit has in hand, taken before a call, another that names the same handle: those two reach the host in that order
(R373). -/
def handleBefore (r : Run) (e : CallEnv) : Bool :=
  namesHandle e.c.num && (r.units.takeWhile (· != e.key)).any (fun k => match Assoc.get? r.calls k with
    | some c => c.part == e.c.part && namesHandle c.num && recField c.block 8 8 == e.arg 0
    | none => false)

/-- Whether a call of a number may be performed now: a unit has it in hand, or it waits away from one, and not with the host (R373,
R376). -/
def servable (r : Run) (e : CallEnv) (num : Nat) : Bool :=
  e.c.num == num && e.c.proxy.isNone && (e.c.away || r.units.contains e.key && !handleBefore r e)

/-- The call of a number served; one whose parameter block was poisoned completes with FAULT (R396). -/
def serve (num : Nat) (f : Run → CallEnv → EvArgs → Run × Served) (s : State) : Outcome := happen s (fun a =>
  match callEnv s.mgmt s.run a.op with
  | none => s.run
  | some e =>
    if !servable s.run e num then s.run
    else settleServed e (if e.c.poisoned then fails s.run stFault else f s.run e a))

/-- A call whose address argument in slots i and i + 1, for n bytes under a use, must stand before it is performed. -/
def withAddr (e : CallEnv) (r : Run) (i n use : Nat) (f : Nat → Run × Served) : Run × Served :=
  match e.addr r i n use with
  | .error st => fails r st
  | .ok a => f a

/-! ## Grids (R372 calls 10 to 12 and 17) -/

/-- The grid of the calling context with an identifier, live or ended, the last accepted. -/
def gridById (r : Run) (ctx ident : Nat) : Option (Nat × Grid) :=
  (r.grids.filter (fun p => p.2.ctx == ctx && p.2.ident == ident)).getLast?

/-- GRID_LAUNCH: completes at acceptance, with the caller's reporting queue and level (R309, R358, R389). -/
def callGridLaunch (r : Run) (e : CallEnv) (_ : EvArgs) : Run × Served :=
  if ((Assoc.get? e.m.parts e.c.part).map (·.stopped)).getD false then (r, .stay)
  else
    withAddr e r 0 256 useRead (fun va =>
      match launchMiss e.m r e.ctx va with
      | some (page, need) => (r, .page page need)
      | none =>
        if !reachable e.m r e.ctx va 256 needRd then fails r stFault
        else
          let o : LaunchFrom := { queue := e.g.queue, level := e.crew.level, byCall := true }
          let (status, r') := acceptLaunch e.m r e.ctx va o
          okRes r' (recordGrid e.m r e.ctx va) status)
/-- GRID_LAUNCH served: call op. -/
def execGridLaunch (s : State) : Outcome := serve 10 callGridLaunch s

/-- GRID_QUERY. -/
def callGridQuery (r : Run) (e : CallEnv) (_ : EvArgs) : Run × Served :=
  match gridById r e.ctx (e.arg 0) with
  | none => fails r stNotfound
  | some (_, g) => match g.status with
    | none => okRes r 0
    | some st => okRes r 1 st
/-- GRID_QUERY served: call op. -/
def execGridQuery (s : State) : Outcome := serve 11 callGridQuery s

/-- GRID_CANCEL (R307, R313). -/
def callGridCancel (r : Run) (e : CallEnv) (_ : EvArgs) : Run × Served :=
  match gridNamed r e.ctx (e.arg 0) with
  | none => fails r stNotfound
  | some gk => okRes (killGrid r gk 7) 0
/-- GRID_CANCEL served: call op. -/
def execGridCancel (s : State) : Outcome := serve 12 callGridCancel s

/-- DET_RECORD_FETCH: GDIG and SOFT of a grid's record area. -/
def callDetRecordFetch (r : Run) (e : CallEnv) (_ : EvArgs) : Run × Served :=
  match gridById r e.ctx (e.arg 0) with
  | none => fails r stNotfound
  | some (_, g) =>
    if g.det = 0 then fails r stInvalid
    else
      withAddr e r 2 72 useWrite (fun dst =>
        e.span r (g.detrec + 24) 72 needRd (fun src =>
          let bs := src.map (rawByte r)
          e.span r dst 72 needWr (fun ps => okRes (writePlaces r ps (bs.drop 8 ++ bs.take 8)) 72)))
/-- DET_RECORD_FETCH served: call op. -/
def execDetRecordFetch (s : State) : Outcome := serve 17 callDetRecordFetch s

/-! ## Events (R372 calls 14 and 15) and queues (call 16) -/

/-- EVENT_SIGNAL. -/
def callEventSignal (r : Run) (e : CallEnv) (_ : EvArgs) : Run × Served :=
  withAddr e r 0 8 useWrite (fun va =>
    if va % 8 ≠ 0 then fails r stInvalid
    else e.span r va 8 needWr (fun ps => okRes (writePlaces r ps (toBytes 8 (e.arg 2))) 0))
/-- EVENT_SIGNAL served: call op. -/
def execEventSignal (s : State) : Outcome := serve 14 callEventSignal s

/-- EVENT_WAIT: it waits without a unit until the word, unsigned, is at least A2. -/
def callEventWait (r : Run) (e : CallEnv) (_ : EvArgs) : Run × Served :=
  withAddr e r 0 8 useRead (fun va =>
    if va % 8 ≠ 0 then fails r stInvalid
    else e.span r va 8 needRd (fun ps =>
      if e.arg 2 ≤ ofBytes (ps.map (rawByte r)) then okRes r 0 else (r, .away)))
/-- EVENT_WAIT served: call op. -/
def execEventWait (s : State) : Outcome := serve 15 callEventWait s

/-- QUEUE_INFO, of the context's own function. -/
def callQueueInfo (r : Run) (e : CallEnv) (_ : EvArgs) : Run × Served :=
  if 63 < e.arg 0 then fails r stInvalid
  else
    let x := r.queueIf (fnOfCtx e.m e.ctx) (e.arg 0)
    okRes r (x.qhead.toNat + 2 ^ 32 * x.ctail.toNat) x.pri
/-- QUEUE_INFO served: call op. -/
def execQueueInfo (s : State) : Outcome := serve 16 callQueueInfo s

/-! ## User interrupts (R372 calls 18 to 23) -/

/-- Bytes written in the interrupt block of the calling context (R361). -/
def setIntblk (r : Run) (e : CallEnv) (off : Nat) (bs : List Byte) : Run :=
  r.context e.ctx (fun c => { c with intblk := Mem.writeBytes c.intblk off bs })

/-- UI_VECTOR_SET (R362). -/
def callUiVectorSet (r : Run) (e : CallEnv) (_ : EvArgs) : Run × Served :=
  let b := e.arg 1
  if 63 < e.arg 0 then fails r stNotfound
  else if 2 < byteOf b 0 ∨ 3 < byteOf b 1 ∨ 1 < byteOf b 2 ∨ byteOf b 3 ≠ 0 then fails r stInvalid
  else okRes (setIntblk r e (16 * e.arg 0) (toBytes 8 b ++ toBytes 8 (e.arg 2))) 0
/-- UI_VECTOR_SET served: call op. -/
def execUiVectorSet (s : State) : Outcome := serve 18 callUiVectorSet s

/-- UI_PERMIT (R363). -/
def callUiPermit (r : Run) (e : CallEnv) (_ : EvArgs) : Run × Served :=
  let b := e.arg 1
  if 63 < e.arg 0 ∨ 4 < byteOf b 0 ∨ byteOf b 1 ≠ 0 then fails r stInvalid
  else okRes (setIntblk r e (0x400 + 16 * e.arg 0) (toBytes 8 b ++ toBytes 8 (e.arg 2))) 0
/-- UI_PERMIT served: call op. -/
def execUiPermit (s : State) : Outcome := serve 19 callUiPermit s

/-- UI_REVOKE. -/
def callUiRevoke (r : Run) (e : CallEnv) (_ : EvArgs) : Run × Served :=
  if 63 < e.arg 0 then fails r stInvalid else okRes (setIntblk r e (0x400 + 16 * e.arg 0) (toBytes 16 0)) 0
/-- UI_REVOKE served: call op. -/
def execUiRevoke (s : State) : Outcome := serve 20 callUiRevoke s

/-- UI_ROUTE: the route fields alone. -/
def callUiRoute (r : Run) (e : CallEnv) (_ : EvArgs) : Run × Served :=
  if 63 < e.arg 0 then fails r stNotfound
  else if 3 < e.arg 1 ∨ 2 ^ 32 ≤ e.arg 2 then fails r stInvalid
  else
    let o := 16 * e.arg 0
    let r := setIntblk r e (o + 1) (toBytes 1 (e.arg 1))
    okRes (setIntblk r e (o + 4) (toBytes 4 (e.arg 2) ++ toBytes 8 (e.arg 3))) 0
/-- UI_ROUTE served: call op. -/
def execUiRoute (s : State) : Outcome := serve 21 callUiRoute s

/-- UI_QUERY. -/
def callUiQuery (r : Run) (e : CallEnv) (_ : EvArgs) : Run × Served :=
  match Assoc.get? r.contexts e.ctx with
  | none => fails r stNotfound
  | some c =>
    let rd (n o : Nat) : Nat := Mem.read c.intblk n o
    let v := e.arg 0
    if v = 0xFF then okRes r (rd 4 0xE00 + 2 ^ 32 * rd 4 0xE04) (rd 4 0xE08)
    else if 63 < v then fails r stNotfound
    else
      let held := (List.range 64).filter (fun i => rd 1 (heldOff i + 1) % 2 == 1 && rd 1 (heldOff i) == v)
      okRes r (rd 8 (16 * v)) held.length
/-- UI_QUERY served: call op. -/
def execUiQuery (s : State) : Outcome := serve 22 callUiQuery s

/-- UI_POST_REMOTE (R369): the post leaves for the peer module; its answer comes as this row with flag set and the remote status
in value. A module that cannot be reached gives HOST_ERROR. -/
def callUiPostRemote (r : Run) (e : CallEnv) (a : EvArgs) : Run × Served :=
  if r.unreachable.contains (e.arg 0) then fails r stHostError
  else if e.c.remote then (if a.flag then okRes r (a.value % 5) else (r, .away))
  else
    let bs := (List.range 5).flatMap (fun i => toBytes 8 (e.arg i))
    let r := { r with calls := Assoc.modify r.calls e.key (fun c => { c with remote := true }) }
    ({ r with replies := r.replies ++ [{ kind := .uiPostRemote, fn := e.arg 0, bytes := bs }] }, .away)
/-- UI_POST_REMOTE served: call op; flag and value for the peer's answer. -/
def execUiPostRemote (s : State) : Outcome := serve 23 callUiPostRemote s

/-- A peer module becomes unreachable: pending calls complete with HOST_ERROR, and accesses fail in stage 2 (R350, R369). -/
def losePeer (m : Mgmt) (r : Run) (ix : Nat) : Run :=
  let r := { r with unreachable := setInsert r.unreachable ix }
  let ks := (r.calls.filter (fun p => p.2.remote && match callEnv m r p.1 with
    | some e => e.arg 0 == ix
    | none => false)).map (·.1)
  ks.foldl (fun r k => completeCall r k stHostError 0 0) r
/-- PEER_MODULE_UNREACHABLE: peer-table index n; with flag, the peer block addr is one that the peer refuses, or, with value 1, no longer
refuses (R350). -/
def execPeerModuleUnreachable (s : State) : Outcome := happen s (fun a =>
  if !a.flag then losePeer s.mgmt s.run a.n
  else { s.run with peerRefused := (if a.value = 1 then setErase else setInsert) s.run.peerRefused a.addr })

/-! ## Logs, counters, clocks and random bytes (R372 calls 38, 39, 42, 43) -/

/-- LOG_WRITE. -/
def callLogWrite (r : Run) (e : CallEnv) (_ : EvArgs) : Run × Served :=
  if 4096 < e.arg 2 then fails r stInvalid
  else
    withAddr e r 0 (e.arg 2) useRead (fun va => e.span r va (e.arg 2) needRd (fun ps =>
      let old := (Assoc.get? r.partLogs e.c.part).getD []
      okRes { r with partLogs := Assoc.set r.partLogs e.c.part (old ++ ps.map (rawByte r)) } (e.arg 2)))
/-- LOG_WRITE served: call op. -/
def execLogWrite (s : State) : Outcome := serve 38 callLogWrite s

/-- COUNTER_READ: a counter on the partition's allow-list (R413; log 15). -/
def callCounterRead (r : Run) (e : CallEnv) (_ : EvArgs) : Run × Served :=
  if allowsItem e.m r e.c.part (e.arg 0) then
    let (i, r) := r.draw
    okRes r (Config.telemetry (e.arg 0) i).toNat
  else fails r stNotfound
/-- COUNTER_READ served: call op. -/
def execCounterRead (s : State) : Outcome := serve 39 callCounterRead s

/-- CLOCK_INFO: the clock of a logical tile in MHz, and the nominal reference rate in kHz (R6, R415). -/
def callClockInfo (r : Run) (e : CallEnv) (_ : EvArgs) : Run × Served :=
  match ((Assoc.get? e.m.parts e.c.part).getD {}).tiles[e.arg 0]? with
  | none => fails r stInvalid
  | some t => okRes r (stepMhz (e.m.tileHw t).clockStep + 2 ^ 16 * 100000)
/-- CLOCK_INFO served: call op. -/
def execClockInfo (s : State) : Outcome := serve 42 callClockInfo s

/-- n fresh random bytes (log 12). -/
def randomBytes : Nat → Run → List Byte × Run
  | 0, r => ([], r)
  | n + 1, r =>
    let (i, r) := r.draw
    let (bs, r) := randomBytes n r
    (Config.randomByte i :: bs, r)

/-- RANDOM. -/
def callRandom (r : Run) (e : CallEnv) (_ : EvArgs) : Run × Served :=
  if 256 < e.arg 2 then fails r stInvalid
  else
    withAddr e r 0 (e.arg 2) useWrite (fun va => e.span r va (e.arg 2) needWr (fun ps =>
      let (bs, r) := randomBytes (e.arg 2) r
      okRes (writePlaces r ps bs) (e.arg 2)))
/-- RANDOM served: call op. -/
def execRandom (s : State) : Outcome := serve 43 callRandom s

/-! ## Attestation and reports (R411, R413; calls 40 and 41) -/

/-- The quote (R411): its signature's length and bytes come of a secret (log 12). -/
def quoteOf (m : Mgmt) (tag : Nat) (nonce : List Byte) (i : Nat) : List Byte :=
  let p := (Assoc.get? m.parts tag).getD {}
  let n := (Config.elapsed i).toNat % 1281
  let sig := (List.range n).map (fun j => Config.secretByte i j)
  toBytes 4 1 ++ toBytes 4 (1664 + n) ++ nonce ++ toBytes 1 tag ++ toBytes 7 0 ++ toBytes 8 p.gen ++
  (List.range 16).flatMap (fun k => toBytes 64 (rdReg m.hx k).toNat) ++
  (List.range 8).flatMap (fun k => toBytes 64 (rdReg p.px k).toNat) ++ toBytes 64 m.cfgd.toNat ++ toBytes 2 n ++ toBytes 6 0 ++ sig

/-- ATTEST_QUOTE. -/
def callAttestQuote (r : Run) (e : CallEnv) (_ : EvArgs) : Run × Served :=
  if e.arg 4 < 2944 then (r, .done stInvalid 2944 0)
  else
    withAddr e r 0 32 useRead (fun nonce => withAddr e r 2 (e.arg 4) useWrite (fun dst =>
      e.span r nonce 32 needRd (fun src =>
        let q := quoteOf e.m e.c.part (src.map (rawByte r)) r.draw.1
        let r := r.draw.2
        e.span r dst q.length needWr (fun ps => okRes (writePlaces r ps q) q.length))))
/-- ATTEST_QUOTE served: call op. -/
def execAttestQuote (s : State) : Outcome := serve 40 callAttestQuote s

/-- REPORT_FETCH: the loss count, then the entries, as far as the length goes. -/
def callReportFetch (r : Run) (e : CallEnv) (_ : EvArgs) : Run × Served :=
  let all := toBytes 8 (rdReg r.reportLost e.c.part).toNat ++ ((Assoc.get? r.reports e.c.part).getD []).flatten
  let bs := all.take (e.arg 2)
  withAddr e r 0 bs.length useWrite (fun va => e.span r va bs.length needWr (fun ps => okRes (writePlaces r ps bs) bs.length))
/-- REPORT_FETCH served: call op. -/
def execReportFetch (s : State) : Outcome := serve 41 callReportFetch s

/-! ## The context itself (R372 calls 44 to 47) -/

/-- DBG_HALT_SELF: completes at the resume (R419). -/
def callDbgHaltSelf (r : Run) (e : CallEnv) (_ : EvArgs) : Run × Served :=
  (if e.c.away then r else haltContext r e.ctx, .away)
/-- DBG_HALT_SELF served: call op. -/
def execDbgHaltSelf (s : State) : Outcome := serve 44 callDbgHaltSelf s

/-- DBG_NOTIFY. -/
def callDbgNotify (r : Run) (e : CallEnv) (_ : EvArgs) : Run × Served :=
  okRes { r with replies := r.replies ++ [{ kind := .dbgNotify, fn := fnOfCtx e.m e.ctx, bytes := toBytes 8 (e.arg 0) }] } 0
/-- DBG_NOTIFY served: call op. -/
def execDbgNotify (s : State) : Outcome := serve 45 callDbgNotify s

/-- CTX_YIELD: the calling crew is evicted when some crew waits for its core, and the call completes after its restore; a
crew whose pad a matrix operation reads goes when those reads have finished (R289, R333). -/
def callCtxYield (r : Run) (e : CallEnv) (_ : EvArgs) : Run × Served :=
  if e.c.owed.isSome then (if e.crew.status = .resident then okRes r 0 else (r, .away))
  else if (waiters e.m r).any (fun w => w.crews.any (fun c => c.2 == e.crew.core)) then
    if matrixNeeds r e.c.crew then (r, .away)
    else (beginSave { r with calls := Assoc.modify r.calls e.key (fun c => { c with owed := some 0 }) } e.c.crew 1, .away)
  else okRes r 0
/-- CTX_YIELD served: call op. -/
def execCtxYield (s : State) : Outcome := serve 46 callCtxYield s

/-- CTX_EXIT: EXITCODE is written, the context ends, and cause 2 is raised on the caller's reporting queue (R331, R358). -/
def callCtxExit (r : Run) (e : CallEnv) (_ : EvArgs) : Run × Served :=
  let r := r.context e.ctx (fun c => { c with exitcode := BitVec.ofNat 32 (e.arg 0) })
  okRes (raiseStop e.m (killContext r e.ctx) e.ctx (some e.g.queue)) 0
/-- CTX_EXIT served: call op. -/
def execCtxExit (s : State) : Outcome := serve 47 callCtxExit s

end Sys2Proof.Machine
end

