-- ==== Sys2Proof/Machine/MemCalls.lean ====
section
/-! DEFINITION. The service calls on memory: stage-1 tables written by the device (R343, R372 calls 0 to 5 and 13), and
capabilities minted and revoked (calls 6 and 7; R253). -/

namespace Sys2Proof.Machine

/-! ## The stage-1 tree -/

/-- Where a walk of the tree ends: at a leaf, with the address of its entry and its level, or at an entry that maps nothing. -/
inductive Walked where
  | leaf (slot lvl entry : Nat)
  | hole
deriving DecidableEq, Repr, Inhabited

/-- The address of the entry of a level's table that a virtual address uses (R343). -/
def slotOf (table lvl va : Nat) : Nat := table + 8 * bits va (12 + 9 * lvl + 8) (12 + 9 * lvl)

/-- The walk of a tree from a table at the levels given. -/
def findLeaf (m : Mgmt) (r : Run) (tag va : Nat) : List Nat → Nat → Walked
  | [], _ => .hole
  | lvl :: rest, table =>
    let slot := slotOf table lvl va
    let e := entryAt m r tag slot
    if e % 2 = 0 then .hole
    else if bits e 1 1 = 1 then .leaf slot lvl e
    else findLeaf m r tag va rest (bits e 56 12 * 4096)

/-- The stage-1 root of a context. -/
def rootOf (r : Run) (ctx : Nat) : Nat := ((Assoc.get? r.contexts ctx).map (·.s1root)).getD 0

/-- The leaf of a context that maps an address. -/
def leafAt (m : Mgmt) (r : Run) (ctx va : Nat) : Walked := findLeaf m r (partOf ctx) va [4, 3, 2, 1, 0] (rootOf r ctx)

/-- A 4 KiB page of partition physical memory set to zero: its tags and poison go with its data. -/
def zeroPage (m : Mgmt) (r : Run) (tag ppa : Nat) : Run :=
  match stage2 m r tag ppa with
  | some (.dev d) =>
    { r with
      mem := Mem.zero r.mem d 4096
      capTags := r.capTags.filter (fun g => g / 256 != d / 4096)
      poison := r.poison.filter (fun w => w / 512 != Place.key (.dev d) / 4096) }
  | _ => r

/-- A leaf entered for a page: tables that the path lacks are taken from a list of free pages and zeroed. None when a greater page
already maps the address, or no table page is left. -/
def enterLeaf (m : Mgmt) (tag va e : Nat) : List Nat → Nat → List Nat → Run → Option (Run × List Nat)
  | [], _, _, _ => none
  | [lvl], table, pool, r => some (writePpa m r tag (slotOf table lvl va) (toBytes 8 e), pool)
  | lvl :: rest, table, pool, r =>
    let slot := slotOf table lvl va
    let x := entryAt m r tag slot
    if x % 2 = 0 then
      match pool with
      | [] => none
      | p :: ps => enterLeaf m tag va e rest p ps (writePpa m (zeroPage m r tag p) tag slot (toBytes 8 (p + 1)))
    else if bits x 1 1 = 1 then none
    else enterLeaf m tag va e rest (bits x 56 12 * 4096) pool r

/-- n pages entered from a virtual address, over consecutive partition physical pages (R343). -/
def enterPages (m : Mgmt) (ctx attr : Nat) : Nat → Nat → Nat → List Nat → Run → Option Run
  | 0, _, _, _, r => some r
  | n + 1, va, ppa, pool, r =>
    match enterLeaf m (partOf ctx) va (ppa + attr) [4, 3, 2, 1, 0] (rootOf r ctx) pool r with
    | none => none
    | some (r, pool) => enterPages m ctx attr n (va + 4096) (ppa + 4096) pool r

/-! ## Attributes (R246, R372) -/

/-- The leaf bits of an attr word: V, LEAF, RD, WR, AT, DP, ACC and BYP (R343). -/
def attrBits (a : Nat) : Nat :=
  3 + 4 * bits a 12 12 + 8 * bits a 13 13 + 32 * bits a 14 14 + 64 * bits a 9 8 + 256 * bits a 10 10 + 1024 * bits a 11 11

/-- Whether an attr word is one that R372, R246 and R343 allow. -/
def attrOk (a : Nat) : Bool :=
  decide (a < 2 ^ 16) && decide (12 ≤ a % 256) && decide (a % 256 ≤ 30) && (leafOf (attrBits a) 0 0).isSome

/-! ## Taking pages -/

/-- Whether a range of partition physical pages is free for the service units: mapped to device memory, in no hamper pool, no
context's root table, and taken for nothing else (log 13). -/
def pagesFree (m : Mgmt) (r : Run) (tag base n : Nat) : Bool :=
  let apart (lo k : Nat) : Bool := decide (base + 4096 * n ≤ lo) || decide (lo + 4096 * k ≤ base)
  (List.range n).all (fun i => match stage2 m r tag (base + 4096 * i) with
    | some (.dev _) => true
    | _ => false) &&
  r.taken.all (fun t => t.1 != tag || apart t.2.1 t.2.2) &&
  r.contexts.all (fun c => partOf c.1 != tag || (apart c.2.hpool (c.2.hplen / 4096) && apart c.2.s1root 1))

/-- Whether a virtual range of a context maps nothing. -/
def rangeEmpty (m : Mgmt) (r : Run) (ctx va n : Nat) : Bool :=
  (List.range n).all (fun i => leafAt m r ctx (va + 4096 * i) == .hole)

/-- The most table pages that n pages can need: one path, and one table for each 512 pages at each level. -/
def tablePages (n : Nat) : Nat := n / 256 + 8

/-- The first number that passes, of n numbers looked at in turn from a start, with k of them still to be looked at. -/
def firstFrom (n start : Nat) (ok : Nat → Bool) : Nat → Option Nat
  | 0 => none
  | k + 1 => if ok ((start + k) % n) then some ((start + k) % n) else firstFrom n start ok k

/-- Where a partition has k free pages in a row, looked for from a start (log 13): their first address. -/
def freeBase (m : Mgmt) (r : Run) (tag k start : Nat) : Option Nat :=
  let n := ((Assoc.get? m.parts tag).map (·.s2limit)).getD 0 / 4096
  if n < k then none else (firstFrom n start (fun p => pagesFree m r tag (4096 * p) k) n).map (4096 * ·)

/-- Where a context has n unmapped pages in a row, aligned, looked for from a start (log 13). -/
def freeRange (m : Mgmt) (r : Run) (ctx n align start : Nat) : Option Nat :=
  (firstFrom (2 ^ 57 / align) start (fun p => decide (p * align + 4096 * n ≤ 2 ^ 57) && rangeEmpty m r ctx (p * align) n)
    (2 ^ 57 / align)).map (· * align)

/-- A handle that no allocation of a partition has, looked for from a start (log 13). -/
def freeHandle (r : Run) (tag start : Nat) : Option Nat :=
  firstFrom (2 ^ 32) start (fun h => !r.contexts.any (fun c => partOf c.1 == tag && Assoc.has c.2.allocs h)) (2 ^ 32)

/-- Fresh zeroed pages mapped where free values have the search for room begin (log 13): the allocation's handle and address, or none
when there is no room. -/
def allocate (m : Mgmt) (r : Run) (ctx n attr : Nat) : Option (Nat × Nat × Run) := do
  let tag := partOf ctx
  let (i, r) := r.draw
  let (j, r) := r.draw
  let (k, r) := r.draw
  let base ← freeBase m r tag (n + tablePages n) (Config.allocPage j)
  let va ← freeRange m r ctx n (2 ^ (attr % 256)) (Config.allocPage i)
  let handle ← freeHandle r tag (Config.allocPage k)
  let pool := (List.range (tablePages n)).map (fun i => base + 4096 * (n + i))
  let r ← enterPages m ctx (attrBits attr) n va base pool ((List.range n).foldl (fun r i => zeroPage m r tag (base + 4096 * i)) r)
  let r := r.context ctx (fun c => { c with allocs := Assoc.set c.allocs handle { va := va, base := base, pages := n, attr := attr } })
  return (handle, va, { r with taken := r.taken ++ [(tag, base, n), (tag, base + 4096 * n, tablePages n)] })

/-- MEM_ALLOC. -/
def callMemAlloc (r : Run) (e : CallEnv) (_ : EvArgs) : Run × Served :=
  let n := pagesTouched 0 (e.arg 0)
  if n = 0 ∨ !attrOk (e.arg 1) then fails r stInvalid
  else
    match allocate e.m r e.ctx n (e.arg 1) with
    | none => fails r.draw.2 stNomem
    | some (handle, va, r) => okRes r va handle
/-- MEM_ALLOC served: call op. -/
def execMemAlloc (s : State) : Outcome := serve 0 callMemAlloc s

/-- EVENT_CREATE: an event word at the start of a page of its own. -/
def callEventCreate (r : Run) (e : CallEnv) (_ : EvArgs) : Run × Served :=
  match allocate e.m r e.ctx 1 (12 + 2 ^ 12 + 2 ^ 13 + 2 ^ 14) with
  | none => fails r.draw.2 stNomem
  | some (_, va, r) => okRes (writeVa e.m r e.ctx va (toBytes 8 (e.arg 0))) va
/-- EVENT_CREATE served: call op. -/
def execEventCreate (s : State) : Outcome := serve 13 callEventCreate s

/-! ## Unmapping and rights -/

/-- The leaves that map a range, when each lies wholly inside it: none when one reaches beyond. -/
def leavesIn (m : Mgmt) (r : Run) (ctx va n : Nat) : Option (List (Nat × Nat)) :=
  (allSome ((List.range n).map (fun i =>
    match leafAt m r ctx (va + 4096 * i) with
    | .hole => some []
    | .leaf slot lvl e =>
      let size := 2 ^ (12 + 9 * lvl)
      let lo := (va + 4096 * i) / size * size
      if va ≤ lo ∧ lo + size ≤ va + 4096 * n then some [(slot, e)] else none))).map (fun l => l.flatten.eraseDups)

/-- A call that has changed mappings of n pages from a page: their translations are dropped, and it completes with its result once no
access under the old ones is left (R346, R372). -/
def invalidated (r : Run) (e : CallEnv) (lo n res : Nat) : Run × Served :=
  let r := dropXlats r (· == e.ctx) lo n
  if placesHeld r (· == e.ctx) lo n then
    ({ r with calls := Assoc.modify r.calls e.key (fun c => { c with owed := some res, range := (lo, n) }) }, .away)
  else okRes r res

/-- A call whose change has been made, looked at again, or performed (R346). -/
def onceChanged (r : Run) (e : CallEnv) (f : Run × Served) : Run × Served := match e.c.owed with
  | none => f
  | some res => if placesHeld r (· == e.ctx) e.c.range.1 e.c.range.2 then (r, .away) else okRes r res

/-- A range unmapped: its entries are cleared, and pages that nothing maps any more lose their tags (R255). -/
def unmapRange (m : Mgmt) (r : Run) (ctx : Nat) (ls : List (Nat × Nat)) : Run :=
  dropUnmapped m (ls.foldl (fun r l => writePpa m r (partOf ctx) l.1 (toBytes 8 0)) r) (partOf ctx)

/-- MEM_FREE. -/
def callMemFree (r : Run) (e : CallEnv) (_ : EvArgs) : Run × Served :=
  onceChanged r e (withAddr e r 0 0 useName (fun va =>
    let mine := ((Assoc.get? r.contexts e.ctx).map (·.allocs)).getD []
    match mine.find? (fun p => p.2.va == va) with
    | none => fails r stNotfound
    | some (h, a) =>
      let r := unmapRange e.m r e.ctx ((leavesIn e.m r e.ctx va a.pages).getD [])
      let r := r.context e.ctx (fun c => { c with allocs := Assoc.erase c.allocs h })
      invalidated { r with taken := r.taken.erase (e.c.part, a.base, a.pages) } e (va / 4096) a.pages 0))
/-- MEM_FREE served: call op. -/
def execMemFree (s : State) : Outcome := serve 1 callMemFree s

/-- Whether a range is of whole pages within the address space. -/
def rangeOk (va len : Nat) : Bool := va % 4096 == 0 && len % 4096 == 0 && len != 0 && decide (va + len ≤ 2 ^ 57)

/-- MEM_MAP: an allocation of some context of the partition, made with SHARE. -/
def callMemMap (r : Run) (e : CallEnv) (_ : EvArgs) : Run × Served :=
  onceChanged r e (withAddr e r 0 0 useName (fun va =>
    let all := (r.contexts.filter (fun c => partOf c.1 == e.c.part)).flatMap (fun c => c.2.allocs)
    match all.find? (fun p => p.1 == e.arg 2) with
    | none => fails r stNotfound
    | some (_, a) =>
      let n := a.pages
      if bits a.attr 15 15 = 0 then fails r stDenied
      else if !attrOk (e.arg 3) || !rangeOk va (4096 * n) || !rangeEmpty e.m r e.ctx va n then fails r stInvalid
      else
        let (j, r) := r.draw
        match freeBase e.m r e.c.part (tablePages n) (Config.allocPage j) with
        | none => fails r stNomem
        | some base =>
          let pool := (List.range (tablePages n)).map (fun i => base + 4096 * i)
          match enterPages e.m e.ctx (attrBits (e.arg 3)) n va a.base pool r with
          | none => fails r stNomem
          | some r' =>
            invalidated { r' with taken := r'.taken ++ [(e.c.part, base, tablePages n)] } e (va / 4096) n (4096 * n)))
/-- MEM_MAP served: call op. -/
def execMemMap (s : State) : Outcome := serve 2 callMemMap s

/-- MEM_UNMAP. -/
def callMemUnmap (r : Run) (e : CallEnv) (_ : EvArgs) : Run × Served :=
  onceChanged r e (withAddr e r 0 (e.arg 2) useName (fun va =>
    if !rangeOk va (e.arg 2) then fails r stInvalid
    else
      match leavesIn e.m r e.ctx va (e.arg 2 / 4096) with
      | none => fails r stInvalid
      | some ls => invalidated (unmapRange e.m r e.ctx ls) e (va / 4096) (e.arg 2 / 4096) 0))
/-- MEM_UNMAP served: call op. -/
def execMemUnmap (s : State) : Outcome := serve 3 callMemUnmap s

/-- The rights of an entry replaced by those of an attr word. -/
def withRights (x attr : Nat) : Nat :=
  x - (4 * bits x 3 2 + 32 * bits x 5 5) + (4 * bits attr 13 12 + 32 * bits attr 14 14)

/-- MEM_PROTECT: RD, WR and AT alone; a page that nothing maps is a translation that fails. -/
def callMemProtect (r : Run) (e : CallEnv) (_ : EvArgs) : Run × Served :=
  onceChanged r e (withAddr e r 0 (e.arg 2) useName (fun va =>
    let n := e.arg 2 / 4096
    let attr := e.arg 3
    if !rangeOk va (e.arg 2) || (bits attr 14 14 == 1 && bits attr 13 12 != 3) then
      fails r stInvalid
    else if (List.range n).any (fun i => leafAt e.m r e.ctx (va + 4096 * i) == .hole) then fails r stFault
    else
      match leavesIn e.m r e.ctx va n with
      | none => fails r stInvalid
      | some ls =>
        let r := ls.foldl (fun r l => writePpa e.m r e.c.part l.1 (toBytes 8 (withRights l.2 attr))) r
        invalidated r e (va / 4096) n 0))
/-- MEM_PROTECT served: call op. -/
def execMemProtect (s : State) : Outcome := serve 4 callMemProtect s

/-- MEM_QUERY: the leaf entry, or 0. -/
def callMemQuery (r : Run) (e : CallEnv) (_ : EvArgs) : Run × Served :=
  withAddr e r 0 0 useName (fun va => match leafAt e.m r e.ctx va with
    | .leaf _ _ x => okRes r x
    | .hole => okRes r 0)
/-- MEM_QUERY served: call op. -/
def execMemQuery (s : State) : Outcome := serve 5 callMemQuery s

/-! ## Capabilities (R253, R372 calls 6 and 7) -/

/-- The rights that capability permissions need of a mapping: RD for LD, COPYSRC and MATRIX; WR for ST and COPYDST; AT for ATOM. -/
def permNeeds (perm : Nat) : Nat :=
  b2n (bitOf perm 0 || bitOf perm 3 || bitOf perm 5) * needRd ||| b2n (bitOf perm 1 || bitOf perm 4) * needWr |||
  b2n (bitOf perm 2) * needAt

/-- Whether the range of a new capability lies within the context's own mapping and rights, or its scratchpad share. -/
def mintable (m : Mgmt) (r : Run) (ctx va len perm : Nat) : Bool :=
  if bitOf perm 6 then decide (va + len ≤ 2 ^ 57) && reachable m r ctx va len (permNeeds perm)
  else decide (va + len ≤ ((Assoc.get? r.contexts ctx).map (·.splen)).getD 0)

/-- CAP_MINT: its two addresses are plain, since no capability exists before one is minted. -/
def callCapMint (r : Run) (e : CallEnv) (_ : EvArgs) : Run × Served :=
  let va := e.arg 0
  let len := e.arg 2
  let perm := bits (e.arg 3) 63 57
  let dst := e.arg 4
  if !isProt r e.ctx then fails r stDenied
  else if e.arg 1 ≠ 0 ∨ e.arg 5 ≠ 0 ∨ 2 ^ 40 ≤ len ∨ e.arg 3 % 2 ^ 57 ≠ 0 ∨ dst % 16 ≠ 0 then fails r stInvalid
  else if !mintable e.m r e.ctx va len perm then fails r stDenied
  else if !onProtPage e.m r e.ctx dst then fails r stFault
  else
    e.span r dst 16 needWr (fun ps =>
      let x := va % 2 ^ 57 + perm * 2 ^ 57 + len * 2 ^ 64 + ctxId e.ctx * 2 ^ 104
      let r := writePlaces r ps (toBytes 16 x)
      match ps with
      | .dev a :: _ => okRes { r with capTags := setInsert r.capTags (a / 16) } 0
      | _ => fails r stFault)
/-- CAP_MINT served: call op. -/
def execCapMint (s : State) : Outcome := serve 6 callCapMint s

/-- CAP_REVOKE: every tag of a granule that the range touches. -/
def callCapRevoke (r : Run) (e : CallEnv) (_ : EvArgs) : Run × Served :=
  withAddr e r 0 (e.arg 2) useName (fun va => e.span r va (e.arg 2) 0 (fun ps =>
    let gs := (ps.filterMap (fun p => match p with
      | .dev a => some (a / 16)
      | _ => none)).eraseDups.filter (fun g => r.capTags.contains g)
    okRes { r with capTags := gs.foldl setErase r.capTags } gs.length))
/-- CAP_REVOKE served: call op. -/
def execCapRevoke (s : State) : Outcome := serve 7 callCapRevoke s

end Sys2Proof.Machine
end

