-- ==== Sys2Proof/Machine/HostCalls.lean ====
section
/-! DEFINITION. Host-proxy service calls (R372 calls 8, 9 and 24 to 37; R374, R375), PXDONE, and the reset of a VF (R377). -/

namespace Sys2Proof.Machine

/-! ## Forwarding a call (R374, R375) -/

/-- Whether a handle is one that the calling context may use (R375). -/
def handleOk (r : Run) (fn ctx h : Nat) : Bool :=
  let f := r.func fn
  decide (h < 2 ^ 32) && h / 2 ^ 16 == f.handleGen.toNat % 2 ^ 16 && Assoc.get? f.handles (h % 2 ^ 16) == some ctx

/-- The slots of a call's address arguments, each with its length and whether the host writes there (R372). -/
def proxySpans (e : CallEnv) : List (Nat × Nat × Bool) :=
  match e.c.num with
  | 24 => [(0, e.arg 2, false)]
  | 25 => [(2, e.arg 4, true)]
  | 26 => [(2, e.arg 4, false)]
  | 28 => [(2, 64, true)]
  | 30 => [(0, e.arg 2, false), (4, e.arg 3, true)]
  | 32 => [(0, e.arg 2, false)]
  | 33 => [(0, e.arg 2, false)]
  | 34 => [(2, e.arg 4, false)]
  | 35 => [(2, e.arg 4, true)]
  | 8 => [(0, e.arg 2, false)]
  | 9 => [(0, e.arg 2, false)]
  | _ => []

/-- Whether the limits that R372 gives the arguments of a host-proxy call hold. -/
def proxyLimits (e : CallEnv) : Bool := match e.c.num with
  | 24 => decide (e.arg 2 ≤ 4096)
  | 29 => decide (e.arg 2 ≤ 2)
  | _ => true

/-- What an address argument meets before the call is forwarded: a status, a HOST page to be translated, or nothing. -/
inductive SpanCheck where
  | ok
  | status (n : Nat)
  | page (page need : Nat)
deriving DecidableEq, Repr, Inhabited

/-- One address argument checked (R370, R371, R373). -/
def checkSpan (e : CallEnv) (r : Run) (x : Nat × Nat × Bool) : SpanCheck :=
  let need := if x.2.2 then needWr else needRd
  match e.addr r x.1 x.2.1 (if x.2.2 then useWrite else useRead) with
  | .error st => .status st
  | .ok va =>
    match hostMissAt e.m r e.ctx va x.2.1 need with
    | some (page, nd) => .page page nd
    | none => if reachable e.m r e.ctx va x.2.1 need then .ok else .status stFault

/-- The first address argument of a list that is not in order. -/
def checkSpans (e : CallEnv) (r : Run) : List (Nat × Nat × Bool) → SpanCheck
  | [] => .ok
  | x :: xs => match checkSpan e r x with
    | .ok => checkSpans e r xs
    | y => y

/-- The parameter block as the host sees it: addresses on HOST pages translated (R374). -/
def translatedBlock (e : CallEnv) (r : Run) : List Byte :=
  (proxySpans e).foldl (fun bs x =>
    match (e.addr r x.1 0 useName).bind (fun va => (pagePlace e.m r 0 e.ctx va 0).mapError (fun _ => 0)) with
    | .ok (.host a) => bs.take (8 + 8 * x.1) ++ toBytes 8 a ++ bs.drop (16 + 8 * x.1)
    | _ => bs) e.c.block

/-- The record of a call in the proxy ring (R374). -/
def proxyRecord (e : CallEnv) (r : Run) (f : Func) : List Byte :=
  let pasid := ((Assoc.get? r.contexts e.ctx).map (·.pasid)).getD 0
  translatedBlock e r ++ toBytes 4 (e.ctx % 64) ++ toBytes 4 pasid ++ toBytes 4 f.handleGen.toNat ++ toBytes 4 f.pxCount ++
  toBytes 48 0

/-- A host-proxy call served: checked, then put into the proxy ring (R322, R373 to R375). -/
def callProxy (r : Run) (e : CallEnv) (_ : EvArgs) : Run × Served :=
  let fn := fnOfCtx e.m e.ctx
  let f := r.func fn
  if e.blk.replay then fails r stReplayed
  else if bits f.pxctl.toNat 31 31 = 0 then fails r stNoAgent
  else if !proxyLimits e then fails r stInvalid
  else if namesHandle e.c.num && !handleOk r fn e.ctx (e.arg 0) then fails r stStale
  else
    match checkSpans e r (proxySpans e) with
    | .status st => fails r st
    | .page page need => (r, .page page need)
    | .ok =>
      let i := f.pxCount % f.pxSize
      if r.calls.any (fun p => p.2.proxy == some i && fnOfCtx e.m (p.2.part * 64 + p.2.ctx) == fn) then (r, .stay)
      else
        let a := f.pxbase.toNat + 128 * i
        let r := { r with hostMem := Mem.writeBytes r.hostMem a (proxyRecord e r f) }
        let r := r.setFunc fn (fun f => { f with pxCount := f.pxCount + 1 })
        ({ r with calls := Assoc.modify r.calls e.key (fun c => { c with proxy := some i }) }, .away)

/-- PIN_HOST served: call op. -/
def execPinHost (s : State) : Outcome := serve 8 callProxy s
/-- UNPIN_HOST served: call op. -/
def execUnpinHost (s : State) : Outcome := serve 9 callProxy s
/-- FILE_OPEN served: call op. -/
def execFileOpen (s : State) : Outcome := serve 24 callProxy s
/-- FILE_READ served: call op. -/
def execFileRead (s : State) : Outcome := serve 25 callProxy s
/-- FILE_WRITE served: call op. -/
def execFileWrite (s : State) : Outcome := serve 26 callProxy s
/-- FILE_CLOSE served: call op. -/
def execFileClose (s : State) : Outcome := serve 27 callProxy s
/-- FILE_STAT served: call op. -/
def execFileStat (s : State) : Outcome := serve 28 callProxy s
/-- FILE_SEEK served: call op. -/
def execFileSeek (s : State) : Outcome := serve 29 callProxy s
/-- DIR_LIST served: call op. -/
def execDirList (s : State) : Outcome := serve 30 callProxy s
/-- FILE_SYNC served: call op. -/
def execFileSync (s : State) : Outcome := serve 31 callProxy s
/-- NET_CONNECT served: call op. -/
def execNetConnect (s : State) : Outcome := serve 32 callProxy s
/-- NET_ACCEPT served: call op. -/
def execNetAccept (s : State) : Outcome := serve 33 callProxy s
/-- NET_SEND served: call op. -/
def execNetSend (s : State) : Outcome := serve 34 callProxy s
/-- NET_RECV served: call op. -/
def execNetRecv (s : State) : Outcome := serve 35 callProxy s
/-- NET_POLL served: call op. -/
def execNetPoll (s : State) : Outcome := serve 36 callProxy s
/-- NET_CLOSE served: call op. -/
def execNetClose (s : State) : Outcome := serve 37 callProxy s

/-! ## Completion by the host (R374, R375) -/

/-- The handle table after a completed call: an open marks its slot, a close frees it. -/
def settleHandle (f : Func) (num ctx status res arg0 : Nat) : Func :=
  if status ≠ 0 then f
  else if num = 24 ∨ num = 32 ∨ num = 33 then { f with handles := Assoc.set f.handles (res % 2 ^ 16) ctx }
  else if num = 27 ∨ num = 37 then { f with handles := Assoc.erase f.handles (arg0 % 2 ^ 16) }
  else f

/-- The host has completed record i of a function's proxy ring: its results go to the parameter block (R374). A record of no call
is discarded (R377). -/
def proxyDone (m : Mgmt) (r : Run) (fn i : Nat) : Run :=
  match r.calls.find? (fun p => p.2.proxy == some i && fnOfCtx m (p.2.part * 64 + p.2.ctx) == fn) with
  | none => r
  | some (key, c) =>
    let a := (r.func fn).pxbase.toNat + 128 * i
    let status := Mem.read r.hostMem 2 (a + 2)
    let detail := Mem.read r.hostMem 4 (a + 4)
    let res := Mem.read r.hostMem 8 (a + 56)
    let r := r.setFunc fn (fun f => settleHandle f c.num (c.part * 64 + c.ctx) status res (recField c.block 8 8))
    completeCall r key status detail res

/-- PXDONE_WRITE: function, record value. -/
def execPxdoneWrite (s : State) : Outcome := happen s (fun a => proxyDone s.mgmt s.run a.fn a.value)

/-! ## Reset of a VF (R377) -/

/-- A partition's VF reset, in the order of R377; during a pack-up it is kept for its end (R391). -/
def resetVf (m : Mgmt) (r : Run) (fn : Nat) : Mgmt × Run :=
  match partOfFn m fn with
  | none => (m, r)
  | some (tag, p) =>
    if p.pack.isSome then (m.part tag (fun p => { p with resetDue := true }), r)
    else
      let ks := (r.contexts.filter (fun c => partOf c.1 == tag && c.2.live)).map (·.1)
      let r := ks.foldl killContext r
      let r := r.setFunc fn (fun f => { f with handleGen := f.handleGen + 1, handles := [] })
      let r := { r with
        contexts := r.contexts.map (fun (c : Nat × Context) => if partOf c.1 = tag then (c.1, { c.2 with intblk := [] }) else c)
        calls := r.calls.filter (fun c => c.2.part != tag)
        units := r.units.filter (fun k => (Assoc.get? r.calls k).all (fun c => c.part != tag))
        svcQueues := Assoc.erase r.svcQueues tag
        faultQueues := Assoc.erase r.faultQueues tag }
      if p.tdi = 1 ∨ p.tdi = 2 then ruinPart (m.tdiError tag) r tag else (m, r)

/-- VF_RESET: function; it waits for the end of a pack-up (R391). -/
def execVfReset (s : State) : Outcome := happenAll s (fun a => resetVf s.mgmt s.run a.fn)

end Sys2Proof.Machine
end

