-- ==== Sys2Proof/Machine/PackUp.lean ====
section
/-! DEFINITION. Pack-up and the partition commands that pass through it (R384 to R386, R389 to R392), failing tiles and replaced
cores (R388, R401), and dropped pseudo-channels (R402). -/

namespace Sys2Proof.Machine

/-! ## Whether a tile set may be taken (R384) -/

/-- A tile that is healthy and that no other partition owns. -/
def tileFree (m : Mgmt) (tag t : Nat) : Bool :=
  !(m.tileHw t).failing && match m.owner t with
    | some (o, _) => o == tag
    | none => true

/-- The span of each live grid of a partition. -/
def liveSpans (r : Run) (tag : Nat) : List Nat :=
  (r.grids.filter (fun p => partOf p.2.ctx == tag && p.2.status.isNone)).map (fun p => ((Assoc.get? p.2.kernels 0).getD {}).span)

/-- Whether the scratchpad shares and the spans of a partition fit a set of tiles (NO_ROOM of R384). -/
def roomFor (m : Mgmt) (r : Run) (tag : Nat) (ts : List Nat) : Bool :=
  r.contexts.all (fun c => partOf c.1 != tag || !c.2.live ||
    (decide (c.2.spbase + c.2.splen ≤ 2 ^ 25 * ts.length) && c.2.spbase % (65536 * ts.length) == 0)) &&
  (liveSpans r tag).all (fun s => ts.any (fun t => decide (s ≤ (tileCores m t).length)))

/-- Whether the lock flags forbid a reshape (R384, R387). -/
def Part.denied (p : Part) : Bool := (p.tdi == 1 || p.tdi == 2) && !p.reshapeLock

/-! ## Steps 1 to 5: freeze, stop, park, record and save -/

/-- Crews that have a core in a set of tiles. -/
def crewsIn (r : Run) (ts : List Nat) : List Nat :=
  (r.crews.filter (fun p => ts.contains (p.2.core / 24) && p.2.status != .ended)).map (·.1)

/-- The copies of a crew parked for a pack-up: every one of a crew that is already saved on an affected tile, and, of any crew of the
partition, those whose objects lie in a bank that moves (R283, R389 step 3). -/
def parkFor (m : Mgmt) (tag : Nat) (k : Pack) (r : Run) (c : Nat) : Run :=
  if partOf (crewCtx r c) ≠ tag then r
  else
    r.crew c (fun x =>
      let all_ := k.affected.contains (x.core / 24) && x.status == .saved
      { x with aslice := { x.aslice with copies := x.aslice.copies.map (fun y =>
          if all_ || bankMoves m r (crewCtx r c) y then y.park else y) } })

/-- A pack-up begun: intake stops, copies are parked, and every crew of an affected tile begins its save with REASON 2 (R389 steps 1
to 5). -/
def beginPack (m : Mgmt) (r : Run) (tag : Nat) (k : Pack) : Mgmt × Run :=
  let m := m.part tag (fun p => { p with stopped := true, pack := some k })
  let r := (r.crews.map (·.1)).foldl (parkFor m tag k) r
  (m, (crewsIn r k.affected).foldl (fun r c => beginSave r c 2) r)

/-- The copies that a pack-up parked of crews that stayed resident go on (R284, R389 step 7). -/
def resumeCopies (r : Run) (tag : Nat) : Run :=
  { r with crews := r.crews.map (fun (p : Nat × Crew) =>
      if partOf (crewCtx r p.1) = tag ∧ p.2.status = .resident then
        (p.1, { p.2 with aslice := { p.2.aslice with copies := p.2.aslice.copies.map (fun c => { c with parked := false }) } })
      else p) }

/-- Whether every crew of an affected tile has been saved, and every matrix operation has stopped at a chunk boundary. -/
def packReady (r : Run) (k : Pack) : Bool :=
  (crewsIn r k.affected).all (fun c => match Assoc.get? r.crews c with
    | some x => x.status == .saved || x.status == .waiting
    | none => true)

/-! ## Step 6: rewrite -/

/-- Where a tile's work goes: to the tile with its logical number, or for a removed tile to the remaining tile with least work. -/
def newTile (r : Run) (m : Mgmt) (old : List Nat) (k : Pack) (t : Nat) : Nat :=
  if k.tiles.length = old.length then k.tiles.getD (old.findIdx (· == t)) t
  else if k.tiles.contains t then t
  else (minBy (fun u => ((tileCores m u).map (placeLoad r)).sum) k.tiles).getD t

/-- A core's place on the tile that its work goes to: the same logical core where there is one (R2). -/
def newCore (r : Run) (m : Mgmt) (old : List Nat) (k : Pack) (core : Nat) : Nat :=
  let t := newTile r m old k (core / 24)
  if t = core / 24 then core
  else
    let i := (tileCores m (core / 24)).findIdx (· == core)
    let cs := tileCores m t
    cs.getD (i % max 1 cs.length) (t * 24)

/-- The crews, exports and task deques of a partition moved with their tiles (R385, R386, R389 step 6). -/
def moveWork (m : Mgmt) (r : Run) (tag : Nat) (old : List Nat) (k : Pack) : Run :=
  let mv := newCore r m old k
  let moved := (r.crews.filter (fun p => partOf (crewCtx r p.1) == tag)).map (·.1)
  let decks := (r.cores.filter (fun p => old.contains (p.1 / 24) && mv p.1 != p.1 && p.2.deque != [])).map
    (fun (p : Nat × CoreSt) => (p.1, p.2.deque))
  let r := moved.foldl (fun r c => r.crew c (fun x => { x with core := mv x.core, home := x.home.map mv })) r
  decks.foldl (fun r d =>
    (r.core d.1 (fun c => { c with deque := [] })).core (mv d.1) (fun c => { c with deque := c.deque ++ d.2 })) r

/-- A placed block sent to other cores: what was held for it where it waited is free (R225, R311). -/
def sendBlock (r : Run) (bk : Nat) (b : Block) (cores : List Nat) : Run :=
  let r := r.block bk (fun x => { x with holds := [] })
  let r := if 1 < cores.length then cores.foldl watchCore r else r
  (b.crews.zip cores).foldl (fun r c => r.crew c.1 (fun x => { x with core := c.2 })) r

/-- The blocks of a static grid that are not yet admitted, placed again (R311, R386). -/
def replaceStatic (m : Mgmt) (r : Run) (tag : Nat) : Run :=
  let bs := r.blocks.filter (fun p => !p.2.admitted && !p.2.ended && !p.2.isTask && match Assoc.get? r.grids p.2.grid with
    | some g => g.det != 0 && partOf g.ctx == tag
    | none => false)
  bs.foldl (fun r p =>
    match (Assoc.get? m.parts tag).bind (fun q => groupOf m q p.2.span p.2.lin) with
    | some cs => sendBlock r p.1 p.2 cs
    | none => r) r

/-- The stage-2 entry of device block b (R345). -/
def s2Entry (b : Nat) : DWord := BitVec.ofNat 64 (1 + b * 2 ^ 21)

/-- The device blocks of a pseudo-channel (log 17). -/
def chanBlocks (c : Nat) : List Nat := (List.range channelBlocks).map (fun i => c * channelBlocks + i)

/-- The stage-2 entries of a set of pseudo-channels (log 17). -/
def s2Of (pcs : List Nat) : List DWord := (pcs.flatMap chanBlocks).map s2Entry

/-- A place of a device block as it is when the block has been moved to another. -/
def Place.moved (src dst : Nat) : Place → Place
  | .dev a => .dev (if a / 2 ^ 21 = src then dst * 2 ^ 21 + a % 2 ^ 21 else a)
  | p => p

/-- The places that an operation holds, moved with their block. -/
def OpData.moved (src dst : Nat) : OpData → OpData
  | .mclr ds ps => .mclr ds (ps.map (Place.moved src dst))
  | .gather d n xs => .gather d n (xs.map (fun x => (x.1, Place.moved src dst x.2.1, x.2.2)))
  | d => d

/-- The places that matrix operations and waiting operations have translated, moved with their block: accesses after the move are
performed under the new mapping (R298, R402). -/
def movePlaces (r : Run) (src dst : Nat) : Run :=
  { r with
    matrix := r.matrix.map (fun (p : Nat × MatrixOp) => (p.1, { p.2 with pages := p.2.pages.map (Place.moved src dst) }))
    crews := r.crews.map (fun (p : Nat × Crew) => (p.1, { p.2 with warps := p.2.warps.map (fun w =>
      { w with ops := w.ops.map (fun o => { o with data := o.data.moved src dst }) }) })) }

/-- A block of device memory moved to another, with its tags and poison and what names its places. -/
def moveBlock (r : Run) (src dst : Nat) : Run :=
  let r := movePlaces r src dst
  let at_ (a : Nat) : Nat := dst * 2 ^ 21 + a % 2 ^ 21
  let r := (r.mem.filter (fun c => c.1 / 2 ^ 21 == src)).foldl (fun (r : Run) c =>
    { r with mem := Mem.setByte (Mem.setByte r.mem (at_ c.1) c.2) c.1 0 }) r
  let key (b : Nat) : Nat := Place.key (.dev (b * 2 ^ 21)) / 8
  { r with
    capTags := (r.capTags.map (fun g => if g / 2 ^ 17 = src then dst * 2 ^ 17 + g % 2 ^ 17 else g)).foldl setInsert []
    poison := (r.poison.map (fun w => if key src ≤ w ∧ w < key (src + 1) then key dst + (w - key src) else w)).foldl setInsert [] }

/-- The stage 2 of a partition without a pseudo-channel, and its data moved: its last blocks give up their place, so that its
capacity shrinks by the channel's size (R402). -/
def dropFromS2 (p : Part) (r : Run) (chan : Nat) : List DWord × Run :=
  let mine (e : DWord) : Bool := bits e.toNat 56 21 / channelBlocks == chan
  let keep := p.s2.length - channelBlocks
  let head := p.s2.take keep
  let spare := (p.s2.drop keep).filter (fun e => !mine e)
  let (out, _, r) := head.foldl (fun (acc : List DWord × List DWord × Run) e =>
    match acc with
    | (out, sp, r) =>
      if mine e then match sp with
        | s :: rest => (out ++ [s], rest, moveBlock r (bits e.toNat 56 21) (bits s.toNat 56 21))
        | [] => (out ++ [0], [], r)
      else (out ++ [e], sp, r)) ([], spare, r)
  (out, r)

/-- The pseudo-channels and stage 2 of a partition after a pack-up (R385, R402). -/
def rewriteMem (m : Mgmt) (r : Run) (tag : Nat) (p : Part) (k : Pack) : Mgmt × Run :=
  let added := k.pcset.filter (fun c => !p.pcset.contains c)
  let gone := p.pcset.filter (fun c => !k.pcset.contains c)
  let m := { m with channels := added.foldl (fun cs c => Assoc.set cs c { m.channel c with state := 1 }) m.channels }
  let (s2, r) := gone.foldl (fun (acc : List DWord × Run) c => dropFromS2 { p with s2 := acc.1 } acc.2 c) (p.s2, r)
  let s2 := s2 ++ s2Of added
  let m := { m with channels := gone.foldl (fun cs c => Assoc.set cs c { m.channel c with dropped := true }) m.channels }
  (m.part tag (fun p => { p with s2 := s2, s2limit := s2.length * 2 ^ 21, pcset := k.pcset, tiles := k.tiles }), r)

/-! ## Clocks and budgets of a partition's tiles (R295, R381, R415) -/

/-- The clock step of a ceiling in MHz (R415). A ceiling below 1,200 MHz is step 0, and one between two steps is the lower (log 45). -/
def capStep (mhz : Nat) : Nat := (mhz - 1200) / 25

/-- The highest step a tile may take now: its own ceiling, its partition's, and none above 1.2 GHz in reduced service
(R415, R416). -/
def maxStep (m : Mgmt) (t : Nat) : Nat :=
  let x := m.tileHw t
  if x.reduced then 0 else match m.owner t with
    | some (_, p) => min x.ceiling (capStep p.capClock)
    | none => x.ceiling

/-- The clocks of some tiles brought under their ceilings. -/
def settleClocks (m : Mgmt) (ts : List Nat) : Mgmt :=
  ts.foldl (fun m t => m.tile t (fun x => { x with clockStep := min x.clockStep (maxStep m t) })) m

/-- The matrix budgets of some tiles set from a current limit (R295; log 22). -/
def setBudgets (m : Mgmt) (r : Run) (ts : List Nat) (ilim : Nat) : Run :=
  (ts.flatMap (tileCores m)).foldl (fun r k => r.core k (fun c => { c with budget := Config.budget ilim % 257 })) r

/-! ## Step 8 (R389, R392) -/

/-- The reshape record (R392). -/
def reshapeRecord (tag : Nat) (p : Part) (k : Pack) : List Byte :=
  toBytes 1 k.kind ++ toBytes 1 tag ++ toBytes 2 p.tiles.length ++ toBytes 4 0 ++ toBytes 8 p.gen ++
  shake256 (p.tiles.map (BitVec.ofNat 8)) 32 ++ toBytes 1 (k.failed.getD 0xFF) ++ toBytes 1 (k.spare.getD 0xFF) ++
  toBytes 1 (p.tiles.headD 0) ++ toBytes 13 0

/-! ## Failing tiles (R388, R391, R401) -/

/-- The spare for a failing tile: a healthy tile that nobody owns and that is not being scrubbed (R412), next to it if one serves, else
next to a tile that remains (R388 step 2). -/
def spareFor (m : Mgmt) (p : Part) (t : Nat) : Option Nat :=
  let swap (u : Nat) : List Nat := p.tiles.map (fun x => if x = t then u else x)
  let fit := (List.range 96).filter (fun u =>
    !(m.tileHw u).failing && (m.owner u).isNone && !Assoc.has m.tileScrubs u && connected (swap u))
  let near := fit.filter (edge t)
  let far := fit.filter (fun u => p.tiles.any (fun x => x != t && edge x u))
  match near with
  | u :: _ => some u
  | [] => far.head?

/-- The contexts of a partition that lose state with a tile whose arrays cannot be read: those with a crew, a pad, cluster memory or a
scratchpad bank there (R244, R388). -/
def contextsOn (r : Run) (tag t : Nat) (tiles : List Nat) : List Nat :=
  let bank (c : Context) : Bool :=
    c.splen != 0 && banksMeet tiles.length c.spbase 0 c.splen (fun i => tiles.getD i 96 == t)
  (r.contexts.filter (fun c => partOf c.1 == tag && c.2.live && (bank c.2 ||
    r.crews.any (fun x => crewCtx r x.1 == c.1 && (match Assoc.get? r.blocks x.2.block with
      | some b => !b.ended
      | none => false) && (x.2.core / 24 == t || x.2.home.map (· / 24) == some t))))).map (·.1)

/-- REPAIR (R388): a spare, a shrink, or the end of the partition's contexts. -/
def repairTile (m : Mgmt) (r : Run) (tag : Nat) (p : Part) (t : Nat) : Mgmt × Run :=
  let rest := p.tiles.filter (· != t)
  if (p.tdi = 1 ∨ p.tdi = 2) ∧ !p.repairLock then ruinPart (m.tdiError tag) r tag
  else
    match spareFor m p t with
    | some u => beginPack m r tag
        { kind := 4, tiles := p.tiles.map (fun x => if x = t then u else x), pcset := p.pcset, affected := [t],
          failed := some t, spare := some u }
    | none =>
      if connected rest then
        beginPack m r tag { kind := 4, tiles := rest, pcset := p.pcset, affected := p.tiles, failed := some t }
      else ruinPart (m.tdiError tag) r tag

/-- A tile found failing, with its entry in the error log; the contexts that lose state with arrays that cannot be read are killed. Its
repair begins at once, or when the pack-up in progress has completed step 8 (R388, R391). -/
def failTile (m : Mgmt) (r : Run) (t : Nat) (unreadable : Bool) : Mgmt × Run :=
  let m := m.tile t (fun x => { x with failing := true })
  match m.owner t with
  | none => (m, r)
  | some (tag, p) =>
    let r := logError r tag 10 0xFF t 0 0 0
    let r := if unreadable then (contextsOn r tag t p.tiles).foldl killContext r else r
    if p.pack.isSome then (m, r) else repairTile m r tag p t

/-- A core of a tile replaced by a spare under its logical number, or its tile failing when no spare is left (R401). -/
def replaceCore (m : Mgmt) (r : Run) (t c : Nat) : Mgmt × Run :=
  let x := m.tileHw t
  match x.spares with
  | [] => failTile m r t false
  | sp :: rest =>
    if !x.cores.contains c then (m, r)
    else
      let m := m.tile t (fun x =>
        { x with cores := x.cores.map (fun k => if k = c then sp else k), spares := rest, swaps := Assoc.set x.swaps c sp })
      let old := t * 24 + c
      let deck := (r.coreSt old).deque
      let mine := (r.crews.filter (fun p => p.2.core == old && p.2.status != .ended)).map (·.1)
      let r := mine.foldl (fun r k => beginSave r k 2) r
      let r := mine.foldl (fun r k => r.crew k (fun y => if y.status = .waiting then { y with core := t * 24 + sp } else y)) r
      let r := (r.core old (fun k => { k with deque := [] })).core (t * 24 + sp) (fun k => { k with deque := k.deque ++ deck })
      let r := match m.owner t with
        | some (tag, _) => logError r tag 9 0xFF t 0 0 c
        | none => r
      newConfig m r

/-- CORE_REPLACED: tile, physical core n. -/
def execCoreReplaced (s : State) : Outcome := happenAll s (fun a => replaceCore s.mgmt s.run a.tile a.n)

/-! ## Dropped pseudo-channels (R402) -/

/-- A pseudo-channel of a partition dropped by a pack-up, or marked degraded when the others lack the space, once (R402). -/
def dropFrom (m : Mgmt) (r : Run) (tag : Nat) (p : Part) (c : Nat) (space : Bool) : Mgmt × Run :=
  if space ∧ 1 < p.pcset.length then
    beginPack m (logError r tag 7 0xFF (controllerTile c) 0 0 c) tag
      { kind := 0, tiles := p.tiles, pcset := p.pcset.filter (· != c), affected := p.tiles }
  else if (m.channel c).degraded then (m, r)
  else
    ({ m with channels := Assoc.set m.channels c { m.channel c with degraded := true } },
      logError r tag 8 0xFF (controllerTile c) 0 0 c)

/-- A pseudo-channel to be dropped: at once, or when the pack-up in progress has ended (R391, R402). -/
def dropChannel (m : Mgmt) (r : Run) (c : Nat) (space : Bool) : Mgmt × Run :=
  match m.parts.find? (fun p => p.2.pcset.contains c) with
  | none => newConfig { m with channels := Assoc.set m.channels c { m.channel c with dropped := true } } r
  | some (tag, p) =>
    if p.pack.isSome then (m.part tag (fun p => { p with dropsDue := p.dropsDue ++ [(c, space)] }), r)
    else dropFrom m r tag p c space

/-- Whether a pseudo-channel is to be dropped for what it has shown (R402). -/
def Channel.bad (c : Channel) : Bool := !c.dropped && (decide (1024 < c.corrected) || decide (2 ≤ c.chipkills))

/-- The window in which a pseudo-channel's corrected errors count begins anew (R402). -/
def newWindow (m : Mgmt) (c : Nat) : Mgmt := { m with channels := Assoc.set m.channels c { m.channel c with corrected := 0 } }

/-! ## The end of a pack-up (R389 steps 6 to 9, R391) -/

/-- What waits for the end of a pack-up: the repair of another failing tile, or the drop of a pseudo-channel, by a pack-up of its own that
begins with intake frozen; else a reset of the VF (R391). -/
def packNext (m : Mgmt) (r : Run) (tag : Nat) : Mgmt × Run :=
  match Assoc.get? m.parts tag with
  | none => (m, r)
  | some p =>
    match p.tiles.find? (fun t => (m.tileHw t).failing), p.dropsDue with
    | some t, _ => repairTile m r tag p t
    | none, (c, space) :: rest => dropFrom (m.part tag (fun p => { p with dropsDue := rest })) r tag p c space
    | none, [] => if p.resetDue then resetVf (m.part tag (fun p => { p with resetDue := false })) r p.vf else (m, r)

/-- A pack-up whose crews have been saved, ended: the rewrite, the new report with its measurements, what it has held, and intake
resumed, unless another pack-up follows. The crews wait to be restored by R336. -/
def finishPack (m : Mgmt) (r : Run) (tag : Nat) : Mgmt × Run :=
  match Assoc.get? m.parts tag with
  | none => (m, r)
  | some p =>
    match p.pack with
    | none => (m, r)
    | some k =>
      if !packReady r k then (m, r)
      else
        let r := moveWork m r tag p.tiles k
        let (m, r) := rewriteMem m r tag p k
        let r := dropXlats r (fun c => partOf c == tag) 0 allPages
        let r := resumeCopies (replaceStatic m r tag) tag
        let m := (settleClocks m k.tiles).routed
        let r := setBudgets m r (k.tiles.filter (fun t => !p.tiles.contains t)) p.capCurrent
        let (m, r) := newShape m r tag
        let q := (Assoc.get? m.parts tag).getD {}
        let m := if k.kind = 0 then m else m.extendPx tag 1 (reshapeRecord tag q k) (reshapeRecord tag q k)
        let m := m.part tag (fun p => { p with stopped := false, pack := none })
        let r := if k.command then { r with mbstat := 0 } else r
        packNext m (retryJoins m (performHeld m r tag)) tag

/-! ## The events -/

/-- TILE_FAILING: tile; flag when its arrays cannot be read; value 1 when the saves of its repair are complete. -/
def execTileFailing (s : State) : Outcome := happenAll s (fun a =>
  if a.value = 1 then match s.mgmt.owner a.tile with
    | some (tag, _) => finishPack s.mgmt s.run tag
    | none => (s.mgmt, s.run)
  else failTile s.mgmt s.run a.tile a.flag)

/-- CHANNEL_DROPPED: pseudo-channel n; flag when the other channels have the free space its data needs; value 1 when the saves are
complete, for partition part; value 2 at the end of the window in which its corrected errors count. -/
def execChannelDropped (s : State) : Outcome := happenAll s (fun a =>
  if a.value = 1 then finishPack s.mgmt s.run a.part
  else if a.value = 2 then (newWindow s.mgmt a.n, s.run)
  else dropChannel s.mgmt s.run a.n a.flag)

end Sys2Proof.Machine
end

