-- ==== Sys2Proof/Machine/BaseCamp.lean ====
section
/-! DEFINITION. The mailbox and its commands (R384, R417, R418), measured boot (R405), scrubbing (R412), and the clocks, power and
links of the module (R401, R414 to R416). -/

namespace Sys2Proof.Machine

/-! ## The mailbox (R417, R418) -/

/-- What a mailbox command comes to: its status, or none while it is not done. -/
abbrev Done := Option Nat × Mgmt × Run

/-- A command that changes nothing but its status. -/
def Done.status (m : Mgmt) (r : Run) (n : Nat) : Done := (some n, m, r)

/-- The first status of a list of failing conditions. -/
def firstStatus (cs : List (Bool × Nat)) : Option Nat := (cs.find? (·.1)).map (·.2)

/-- Whether the mailbox is busy. -/
def Run.mailboxBusy (r : Run) : Bool := r.mbstat.toNat / 2 ^ 31 == 1

/-- The status of a command written, or BUSY kept while it is not done. -/
def mailboxAnswer (d : Done) : Mgmt × Run :=
  (d.2.1, { d.2.2 with mbstat := BitVec.ofNat 32 (match d.1 with
    | some n => n
    | none => 2 ^ 31) })

/-- A command met by the mailbox: written through a port, where the write must come from the owner port and find the mailbox idle;
or, with the flag, looked at again while it waits. In recovery only FW_LOAD is offered (R405). -/
def mailboxStep (m : Mgmt) (r : Run) (a : EvArgs) (mine : Nat → Bool) (f : Mgmt → Run → Nat → Nat → Done)
    (again : Mgmt → Run → Nat → Nat → Done) : Mgmt × Run :=
  let run (w : Nat) (r : Run) (g : Mgmt → Run → Nat → Nat → Done) : Mgmt × Run :=
    mailboxAnswer (if m.recovery ∧ w % 256 ≠ 13 then .status m r 6 else g m r (bits w 15 8) w)
  if a.flag then
    if r.mailboxBusy && mine (r.mbcmd.toNat % 256) then run r.mbcmd.toNat r again else (m, r)
  else if m.booted && a.port == r.owner && !r.mailboxBusy && mine (a.value % 256) then
    run a.value { r with mbcmd := BitVec.ofNat 64 a.value } f
  else (m, r)

/-- A command that is done at once, or waits and is met the same way again. -/
def mailbox (s : State) (code : Nat) (f : Mgmt → Run → Nat → Nat → Done) : Outcome :=
  happenAll s (fun a => mailboxStep s.mgmt s.run a (· == code) f f)

/-- A command of a partition that is in use. -/
def withPart (f : Mgmt → Run → Nat → Part → Nat → Done) (m : Mgmt) (r : Run) (tag w : Nat) : Done :=
  match Assoc.get? m.parts tag with
  | none => .status m r 6
  | some p => f m r tag p w

/-- n bytes of MBDATA from an offset, as a number. -/
def Run.mb (r : Run) (off n : Nat) : Nat := Mem.read r.mbdata n off

/-- Bytes written to MBDATA from an offset. -/
def putMb (r : Run) (off : Nat) (bs : List Byte) : Run := { r with mbdata := Mem.writeBytes r.mbdata off bs }

/-- Whether the numbers of a list are all different. -/
def distinct : List Nat → Bool
  | [] => true
  | x :: xs => !xs.contains x && distinct xs

/-! ## CREATE and DESTROY -/

/-- The sum of the shares of all partitions but one (R376). -/
def sharesBut (m : Mgmt) (tag : Nat) : Nat := ((m.parts.filter (fun p => p.1 != tag)).map (fun p => p.2.share)).sum

/-- Whether some of a set of pseudo-channels or tiles are still being scrubbed (R412). -/
def scrubbing (m : Mgmt) (tiles chans : List Nat) : Bool :=
  chans.any (fun c => (m.channel c).state == 2) || tiles.any (Assoc.has m.tileScrubs)

/-- A pseudo-channel that no partition holds and that is in service. -/
def channelFree (m : Mgmt) (c : Nat) : Bool :=
  !(m.channel c).dropped && (m.channel c).state != 1 && !m.parts.any (fun p => p.2.pcset.contains c)

/-- A creation record (R418). -/
structure Creation where
  tiles : List Nat
  mode : Nat
  share : Nat
  vf : Nat
  clkmax : Nat
  ilim : Nat
  pcs : List Nat
  /-- every field is in its range and the unused bytes are zero -/
  ok : Bool

/-- The creation record of MBDATA. -/
def readCreation (r : Run) : Creation :=
  let t := r.mb 0 1
  let npc := r.mb 104 2
  { tiles := (List.range (min t 96)).map (fun i => r.mb (1 + i) 1)
    mode := r.mb 97 1
    share := r.mb 98 1
    vf := r.mb 99 1
    clkmax := r.mb 100 2
    ilim := r.mb 102 2
    pcs := (List.range (min npc 960)).map (fun i => r.mb (128 + 2 * i) 2)
    ok := decide (1 ≤ t) && decide (t ≤ 96) && r.mb (1 + t) (96 - t) == 0 && decide (r.mb 97 1 ≤ 1) && decide (1 ≤ r.mb 98 1) &&
      decide (1 ≤ r.mb 99 1) && decide (r.mb 99 1 ≤ 48) && decide (1 ≤ npc) && decide (npc ≤ 960) && r.mb 106 22 == 0 }

/-- The status with which a creation is refused (R418; log 23). -/
def createRefusal (m : Mgmt) (tag : Nat) (c : Creation) : Option Nat :=
  firstStatus [(tag == 0 || decide (48 < tag) || Assoc.has m.parts tag || !c.ok || !distinct c.tiles || !distinct c.pcs ||
      m.parts.any (fun p => p.2.vf == c.vf), 6),
    (c.tiles.any (fun t => decide (96 ≤ t)) || c.pcs.any (fun p => decide (1024 ≤ p)), 8),
    (c.pcs.any (fun p => !channelFree m p), 6),
    (c.tiles.any (fun t => !tileFree m tag t), 2),
    (!connected c.tiles, 3),
    (decide (256 < sharesBut m tag + c.share), 4),
    (m.logFull, 7)]

/-- The registers of a function and all that base camp and the PDU kept for a partition, forgotten. -/
def forgetPart (r : Run) (tag vf : Nat) : Run :=
  { r with
    funcs := Assoc.erase r.funcs vf
    svcQueues := Assoc.erase r.svcQueues tag
    faultQueues := Assoc.erase r.faultQueues tag
    deficits := Assoc.erase r.deficits tag
    units := r.units.filter (fun k => Assoc.has r.calls k)
    taken := r.taken.filter (fun x => x.1 != tag)
    partLogs := Assoc.erase r.partLogs tag
    reports := Assoc.erase r.reports tag
    reportLost := Assoc.erase r.reportLost tag
    errLogs := Assoc.erase r.errLogs tag
    errLost := Assoc.erase r.errLost tag }

/-- A partition made from a creation record: key, stage 2, routes, VF and PX0 (R406, R418). -/
def createPart (m : Mgmt) (r : Run) (tag : Nat) (c : Creation) : Mgmt × Run :=
  let (key, r) := r.draw
  let s2 := s2Of c.pcs
  let p : Part := { tag := tag, tiles := c.tiles, s2limit := s2.length * 2 ^ 21, s2 := s2, pcset := c.pcs, share := c.share,
                    capClock := c.clkmax, capCurrent := c.ilim, carry := c.mode == 1, vf := c.vf }
  let m := { m with
    parts := Assoc.set m.parts tag p
    keys := Assoc.set m.keys tag key
    channels := c.pcs.foldl (fun cs n => Assoc.set cs n { m.channel n with state := 1, cursor := 0 }) m.channels }
  let record := toBytes 1 tag ++ Mem.bytes r.mbdata (128 + 2 * c.pcs.length) 0
  let m := settleClocks (m.extendPx tag 0 (measure record) record) c.tiles
  newConfig m.routed (setBudgets m (forgetPart r tag c.vf) c.tiles c.ilim)

/-- CREATE. -/
def commandCreate (m : Mgmt) (r : Run) (tag _w : Nat) : Done :=
  let c := readCreation r
  match createRefusal m tag c with
  | some n => .status m r n
  | none => if scrubbing m c.tiles c.pcs then (none, m, r) else (some 0, createPart m r tag c)

/-- A mailbox command: port, value; flag while it waits for a scrub. -/
def execCreate (s : State) : Outcome := mailbox s 1 commandCreate

/-- DESTROY: the contexts are killed and the scrub begins; its tiles wait for its channels (R412). -/
def commandDestroy (m : Mgmt) (r : Run) (tag : Nat) (p : Part) (_w : Nat) : Done :=
  match firstStatus [(p.pack.isSome, 1), (m.logFull, 7)] with
  | some n => .status m r n
  | none =>
    let r := forgetPart (wipePart m r tag) tag p.vf
    let m := scrubPart m tag
    (some 0, newConfig (Mgmt.routed { m with
      parts := Assoc.erase m.parts tag
      tileScrubs := p.tiles.foldl (fun w t => Assoc.set w t p.pcset) m.tileScrubs }) r)

/-- DESTROY: a mailbox command. -/
def execDestroy (s : State) : Outcome := mailbox s 2 (withPart commandDestroy)

/-- A pseudo-channel finishes being zeroed: it is CLEAN, and the tiles that waited for it alone are free (R412). -/
def scrubDone (m : Mgmt) (c : Nat) : Mgmt :=
  if (m.channel c).state ≠ 2 then m
  else
    let left := (m.tileScrubs.map (fun (p : Nat × List Nat) => (p.1, p.2.filter (· != c)))).filter (fun p => p.2 != [])
    { m with channels := Assoc.set m.channels c { m.channel c with state := 0, cursor := 0 }, tileScrubs := left }

/-- SCRUB_COMPLETE: pseudo-channel n. -/
def execScrubComplete (s : State) : Outcome := happenAll s (fun a => (scrubDone s.mgmt a.n, s.run))

/-! ## GROW, SHRINK and COMPACT (R384) -/

/-- A command that passes through a pack-up: refused, waiting for a scrub, or begun. -/
def beginCommand (m : Mgmt) (r : Run) (tag : Nat) (refusal : Option Nat) (wait : Bool) (k : Pack) : Done :=
  match refusal with
  | some n => .status m r n
  | none => if wait then (none, m, r) else (none, beginPack m r tag k)

/-- A command of a partition looked at again: its pack-up ends once the saves are complete, or it begins. -/
def packAgain (f : Mgmt → Run → Nat → Part → Nat → Done) (m : Mgmt) (r : Run) (tag w : Nat) : Done :=
  match (Assoc.get? m.parts tag).bind (·.pack) with
  | some k =>
    if k.command then
      if packReady r k then (some 0, finishPack m r tag) else (none, m, r)
    else withPart f m r tag w
  | none => withPart f m r tag w

/-- A mailbox command that passes through a pack-up. -/
def packCommand (s : State) (code : Nat) (f : Mgmt → Run → Nat → Part → Nat → Done) : Outcome :=
  happenAll s (fun a => mailboxStep s.mgmt s.run a (· == code) (withPart f) (packAgain f))

/-- n numbers of one byte of MBDATA from offset 1. -/
def mbTiles (r : Run) (n : Nat) : List Nat := (List.range (min n 96)).map (fun i => r.mb (1 + i) 1)

/-- The pseudo-channels that GROW adds. -/
def growChans (r : Run) : List Nat := (List.range (min (r.mb 128 2) 959)).map (fun i => r.mb (130 + 2 * i) 2)

/-- The pack-up of a GROW: tiles, and pseudo-channels added. -/
def growPack (r : Run) (p : Part) : Pack :=
  { kind := 1, tiles := p.tiles ++ mbTiles r (r.mb 0 1), pcset := p.pcset ++ growChans r, affected := p.tiles, command := true }

/-- The status with which a GROW is refused. -/
def growRefusal (m : Mgmt) (r : Run) (tag : Nat) (p : Part) : Option Nat :=
  let ts := mbTiles r (r.mb 0 1)
  let pcs := growChans r
  firstStatus [
    (decide (96 < r.mb 0 1) || decide (959 < r.mb 128 2) || !distinct ts || !distinct pcs, 6),
    (ts.any (fun t => decide (96 ≤ t)) || pcs.any (fun c => decide (1024 ≤ c)), 8),
    (pcs.any (fun c => !channelFree m c), 6),
    (p.pack.isSome, 1),
    (ts.any (fun t => !tileFree m tag t || p.tiles.contains t), 2),
    (!connected (growPack r p).tiles, 3), (p.denied, 5), (m.logFull, 7)]

/-- GROW. -/
def commandGrow (m : Mgmt) (r : Run) (tag : Nat) (p : Part) (_w : Nat) : Done :=
  beginCommand m r tag (growRefusal m r tag p) (scrubbing m (mbTiles r (r.mb 0 1)) (growChans r)) (growPack r p)

/-- GROW: a mailbox command; flag while its pack-up or a scrub goes on. -/
def execGrow (s : State) : Outcome := packCommand s 3 commandGrow

/-- The pack-up of a SHRINK: logical tiles removed. -/
def shrinkPack (r : Run) (p : Part) : Pack :=
  let ls := mbTiles r (r.mb 0 1)
  let tiles := ((p.tiles.zip (List.range p.tiles.length)).filter (fun x => !ls.contains x.2)).map (·.1)
  { kind := 2, tiles := tiles, pcset := p.pcset, affected := p.tiles, command := true }

/-- The status with which a SHRINK is refused. -/
def shrinkRefusal (m : Mgmt) (r : Run) (tag : Nat) (p : Part) : Option Nat :=
  let ls := mbTiles r (r.mb 0 1)
  let tiles := (shrinkPack r p).tiles
  firstStatus [
    (decide (96 < r.mb 0 1) || !distinct ls, 6),
    (ls.any (fun l => decide (p.tiles.length ≤ l)), 8),
    (p.pack.isSome, 1), (!connected tiles, 3), (!roomFor m r tag tiles, 4), (p.denied, 5), (m.logFull, 7)]

/-- SHRINK. -/
def commandShrink (m : Mgmt) (r : Run) (tag : Nat) (p : Part) (_w : Nat) : Done :=
  beginCommand m r tag (shrinkRefusal m r tag p) false (shrinkPack r p)

/-- SHRINK: a mailbox command. -/
def execShrink (s : State) : Outcome := packCommand s 4 commandShrink

/-- The pack-up of a COMPACT: a new physical tile for each logical tile; only the moved tiles are affected (R385). -/
def compactPack (r : Run) (p : Part) : Pack :=
  let ts := mbTiles r (r.mb 0 1)
  let moved := ((p.tiles.zip ts).filter (fun x => x.1 != x.2)).map (·.1)
  { kind := 3, tiles := ts, pcset := p.pcset, affected := moved, command := true }

/-- The status with which a COMPACT is refused. -/
def compactRefusal (m : Mgmt) (r : Run) (tag : Nat) (p : Part) : Option Nat :=
  let ts := mbTiles r (r.mb 0 1)
  firstStatus [
    (r.mb 0 1 != p.tiles.length || !distinct ts, 6),
    (ts.any (fun t => decide (96 ≤ t)), 8),
    (p.pack.isSome, 1), (ts.any (fun t => !tileFree m tag t), 2), (!connected ts, 3), (p.denied, 5), (m.logFull, 7)]

/-- COMPACT. -/
def commandCompact (m : Mgmt) (r : Run) (tag : Nat) (p : Part) (_w : Nat) : Done :=
  beginCommand m r tag (compactRefusal m r tag p) (scrubbing m (mbTiles r (r.mb 0 1)) []) (compactPack r p)

/-- COMPACT: a mailbox command. -/
def execCompact (s : State) : Outcome := packCommand s 5 commandCompact

/-! ## SET_SHARE and SET_CAPS -/

/-- SET_SHARE (R376). -/
def commandSetShare (m : Mgmt) (r : Run) (tag : Nat) (_p : Part) (w : Nat) : Done :=
  let x := bits w 23 16
  match firstStatus [(x == 0, 6), (decide (256 < sharesBut m tag + x), 4)] with
  | some n => .status m r n
  | none => (some 0, m.part tag (fun p => { p with share := x }), r)

/-- SET_SHARE: a mailbox command. -/
def execSetShare (s : State) : Outcome := mailbox s 6 (withPart commandSetShare)

/-- SET_CAPS (R381, R295). -/
def commandSetCaps (m : Mgmt) (r : Run) (tag : Nat) (p : Part) (w : Nat) : Done :=
  if m.logFull then .status m r 7
  else
    let m := settleClocks (m.part tag (fun p => { p with capClock := bits w 31 16, capCurrent := bits w 47 32 })) p.tiles
    (some 0, newConfig m (setBudgets m r p.tiles (bits w 47 32)))

/-- SET_CAPS: a mailbox command. -/
def execSetCaps (s : State) : Outcome := mailbox s 7 (withPart commandSetCaps)

/-! ## Reads -/

/-- Whether an entry that a read begins with is there; an empty log reads from 0 (log 23). -/
def entryThere (first n : Nat) : Bool := decide (first < n) || first == 0

/-- ERRLOG_READ (R403). -/
def commandErrlogRead (m : Mgmt) (r : Run) (tag : Nat) (_p : Part) (w : Nat) : Done :=
  let es := (Assoc.get? r.errLogs tag).getD []
  let first := bits w 21 16
  if !entryThere first es.length then .status m r 8
  else
    let out := (es.drop first).take 63
    let r := putMb r 0 (toBytes 8 (rdReg r.errLost tag).toNat ++ toBytes 8 out.length)
    (some 0, m, putMb r 32 out.flatten)

/-- ERRLOG_READ: a mailbox command. -/
def execErrlogRead (s : State) : Outcome := mailbox s 8 (withPart commandErrlogRead)

/-- DROPLOG_READ (R383). -/
def commandDroplogRead (m : Mgmt) (r : Run) (_tag w : Nat) : Done :=
  let first := bits w 25 16
  if !entryThere first r.dropLog.length then .status m r 8
  else
    let out := (r.dropLog.drop first).take 127
    (some 0, m, putMb r 0 (toBytes 8 r.dropLost.toNat ++ toBytes 8 out.length ++ out.flatten))

/-- DROPLOG_READ: a mailbox command. -/
def execDroplogRead (s : State) : Outcome := mailbox s 9 commandDroplogRead

/-- SNAP_READ: the image as latched, with SNAPLOST as it stands (R421). -/
def commandSnapRead (m : Mgmt) (r : Run) (_tag w : Nat) : Done :=
  let t := bits w 22 16
  if 96 ≤ t then .status m r 8
  else
    let x := r.tileSt t
    let image := if x.snapImage = [] then List.replicate 2048 0#8 else x.snapImage
    let r := putMb r 0 (image.take 2048)
    (some 0, m, putMb r 16 (toBytes 8 x.snapLost.toNat))

/-- SNAP_READ: a mailbox command. -/
def execSnapRead (s : State) : Outcome := mailbox s 10 commandSnapRead

/-- SNAP_CLEAR: a mailbox command. -/
def execSnapClear (s : State) : Outcome := mailbox s 11 (fun m r _ _ => (some 0, m, rearmSnapshots r))

/-- SHAPE_READ (R410). -/
def commandShapeRead (m : Mgmt) (r : Run) (tag : Nat) (p : Part) (_w : Nat) : Done :=
  (some 0, m, putMb r 0 (shapeReport m tag p))

/-- SHAPE_READ: a mailbox command. -/
def execShapeRead (s : State) : Outcome := mailbox s 12 (withPart commandShapeRead)

/-- FW_LOAD: a chunk of 2,048 bytes written to the standby area; an index past the flash is malformed (R414). -/
def commandFwLoad (m : Mgmt) (r : Run) (_tag w : Nat) : Done :=
  let i := bits w 31 16
  if 2 ^ 26 < 2048 * (i + 1) then .status m r 6
  else
    let m := { m with
      standby := Mem.writeBytes m.standby (2048 * i) (Mem.bytes r.mbdata 2048 0)
      standbyLen := max m.standbyLen (2048 * (i + 1))
      standbyReady := bitOf w 32 }
    (some 0, m, r)

/-- FW_LOAD: a mailbox command. -/
def execFwLoad (s : State) : Outcome := mailbox s 13 commandFwLoad

/-- A command of none of the codes above (R418). -/
def execMailboxUnknown (s : State) : Outcome := happenAll s (fun a =>
  let f (m : Mgmt) (r : Run) (_tag _w : Nat) : Done := .status m r 6
  mailboxStep s.mgmt s.run a (fun c => c == 0 || decide (13 < c)) f f)

/-! ## Reset and power (R404 to R406, R412, R415, R416) -/

/-- What is left of the running chip: the memories of others, what has left the device, and the count of free values. -/
def coldRun (r : Run) : Run :=
  { hostMem := r.hostMem, peerMem := r.peerMem, unreachable := r.unreachable, messages := r.messages, replies := r.replies,
    free := r.free }

/-- A channel at reset: one that held a partition's data is to be scrubbed from its start (R412). -/
def Channel.atReset (c : Channel) : Channel := if c.state = 0 then c else { c with state := 2, cursor := 0 }

/-- A tile as it is after power-up: its presented cores numbered in ascending physical number, as they stand now, its clock at the bottom
and in reduced service until characterised (R2, R416). -/
def TileHw.atReset (t : TileHw) : TileHw := { t with cores := sortBy (fun a b => decide (a < b)) t.cores, swaps := [], clockStep := 0, ceiling := 36, reduced := true, retrains := 0 }

/-- Base camp without its partitions, keys and measurements; flash and what has been retired stay. -/
def coldMgmt (m : Mgmt) : Mgmt :=
  { tiles := m.tiles.map (fun (p : Nat × TileHw) => (p.1, p.2.atReset)), granRetired := m.granRetired, channels := m.channels,
    image := m.image, standby := m.standby, standbyLen := m.standbyLen, standbyReady := m.standbyReady }

/-- POWER_LOSS: key slots and on-chip state vanish, channel states and cursors stay in flash. -/
def execPowerLoss (s : State) : Outcome := happenAll s (fun _ => (coldMgmt s.mgmt, coldRun s.run))

/-- An image measured before it runs: a register extended with the digest of bytes that the spec does not give (log 16). -/
def bootImage (m : Mgmt) (r : Run) (n : Nat) : Mgmt × Run :=
  let (i, r) := r.draw
  (m.extendHx n (measure (Config.record i)) (Config.record i), r)

/-- Measured boot: the later images, one for each tile in tile order, and the first configuration record (R405, R406, R408). -/
def measuredBoot (m : Mgmt) (r : Run) : Mgmt × Run :=
  let (i, r) := r.draw
  let m := m.extendHx 0 (measure (m.image.getD (Config.record i))) (m.image.getD (Config.record i))
  let (m, r) := bootImage m r 1
  let (m, r) := bootImage m r 2
  let (m, r) := (List.range 96).foldl (fun (x : Mgmt × Run) _ => bootImage x.1 x.2 3) (m, r)
  newConfig m r

/-- RESET: flag when the running image passes the check of R405, standby when the image of the standby area does. -/
def resetChip (m : Mgmt) (r : Run) (good standby : Bool) : Mgmt × Run :=
  let m := coldMgmt m
  let m := { m with channels := m.channels.map (fun (p : Nat × Channel) => (p.1, p.2.atReset)), booted := true }
  let r := coldRun r
  let taken := m.standbyReady && standby
  let m := { m with
    image := if taken then some (Mem.bytes m.standby m.standbyLen 0) else m.image
    standby := if m.standbyReady then [] else m.standby
    standbyLen := if m.standbyReady then 0 else m.standbyLen
    standbyReady := false }
  if taken || good then measuredBoot m r else ({ m with recovery := true }, r)

/-- RESET: flag when the signature of the running image is good; value 1 when that of the standby image is. -/
def execReset (s : State) : Outcome := happenAll s (fun a => resetChip s.mgmt s.run a.flag (a.value == 1))

/-! ## Clocks, power and links -/

/-- DROOP_TRIP: tile; four steps down (R415). -/
def execDroopTrip (s : State) : Outcome := happenAll s (fun a =>
  (s.mgmt.tile a.tile (fun t => { t with clockStep := t.clockStep - 4 }), s.run))

/-- CLOCK_STEP_UP: tile; one step up, never above its ceiling (R415). -/
def execClockStepUp (s : State) : Outcome := happenAll s (fun a =>
  (s.mgmt.tile a.tile (fun t => { t with clockStep := min (t.clockStep + 1) (maxStep s.mgmt a.tile) }), s.run))

/-- A tile leaves reduced service; with the last one of a partition the report changes (R416). -/
def characterised (m : Mgmt) (r : Run) (t : Nat) : Mgmt × Run :=
  let m := m.tile t (fun x => { x with reduced := false })
  match m.owner t with
  | none => (m, r)
  | some (tag, p) => if m.reducedPart p then (m, r) else newShape m r tag

/-- CHARACTERISATION_COMPLETE: tile. -/
def execCharacterisationComplete (s : State) : Outcome := happenAll s (fun a => characterised s.mgmt s.run a.tile)

/-- The ceilings of some tiles lowered by n steps; the clock limits are measured (R408, R415). -/
def lowerCeilings (m : Mgmt) (r : Run) (ts : List Nat) (n : Nat) : Mgmt × Run :=
  let m := ts.foldl (fun m t => m.tile t (fun x => { x with ceiling := x.ceiling - n })) m
  newConfig (settleClocks m ts) r

/-- THERMAL_MONITOR_TRIP: tile, steps n. -/
def execThermalMonitorTrip (s : State) : Outcome := happenAll s (fun a => lowerCeilings s.mgmt s.run [a.tile] a.n)

/-- COOLANT_OUT_OF_RANGE: steps n, for every tile (R414). -/
def execCoolantOutOfRange (s : State) : Outcome := happenAll s (fun a => lowerCeilings s.mgmt s.run (List.range 96) a.n)

/-- The power envelope held: a cut of n MHz of ceiling and of k issues of budget is shared among the partitions in proportion to
their current limits (R415; log 22). -/
def holdEnvelope (m : Mgmt) (r : Run) (n k : Nat) : Mgmt × Run :=
  let total := max 1 ((m.parts.map (fun p => p.2.capCurrent)).sum)
  let r := m.parts.foldl (fun r p => (p.2.tiles.flatMap (tileCores m)).foldl (fun r c =>
    r.core c (fun x => { x with budget := x.budget - k * p.2.capCurrent / total })) r) r
  let ps := m.parts.map (fun (p : Nat × Part) =>
    (p.1, { p.2 with capClock := max 1200 (p.2.capClock - n * p.2.capCurrent / total) }))
  let m := { m with parts := ps }
  newConfig (settleClocks m (m.parts.flatMap (fun p => p.2.tiles))) r

/-- POWER_ENVELOPE: MHz n, issues value. -/
def execPowerEnvelope (s : State) : Outcome := happenAll s (fun a => holdEnvelope s.mgmt s.run a.n a.value)

/-- A link of a tile retrains; the ninth time in a window makes the tile failing (R401). -/
def retrain (m : Mgmt) (r : Run) (t : Nat) : Mgmt × Run :=
  let m := m.tile t (fun x => { x with retrains := x.retrains + 1 })
  if 8 < (m.tileHw t).retrains ∧ !(m.tileHw t).failing then failTile m r t false else (m, r)

/-- LINK_RETRAIN: tile; value 1 when the 2^30 ticks that are counted over have passed. -/
def execLinkRetrain (s : State) : Outcome := happenAll s (fun a =>
  if a.value = 1 then (s.mgmt.tile a.tile (fun x => { x with retrains := 0 }), s.run) else retrain s.mgmt s.run a.tile)

end Sys2Proof.Machine
end

