-- ==== Sys2Proof/Machine/Spdm.lean ====
section
/-! DEFINITION. SPDM, IDE and TDISP as each function answers them (R387, R409). The messages' own layouts are not in the spec: the
model answers with the values that the spec names and free bytes for the rest (log 12, 24). -/

namespace Sys2Proof.Machine

/-- Whether a function answers at all: the PF always, a VF when a partition has it and base camp is not in recovery (R405). -/
def answers (m : Mgmt) (fn : Nat) : Bool := fn == 0 || (!m.recovery && (partOfFn m fn).isSome)

/-- An answer over DOE. -/
def answer (r : Run) (kind : Instr) (fn : Nat) (bs : List Byte) (bad : Bool) : Run :=
  { r with replies := r.replies ++ [{ kind := kind, fn := fn, bytes := bs, bad := bad }] }

/-- n bytes that the spec does not give (log 12). -/
def secretBytes (r : Run) (n : Nat) : List Byte × Run :=
  let (i, r) := r.draw
  ((List.range n).map (Config.secretByte i), r)

/-- A request that is answered with bytes that the spec does not give, and leaves its mark on the function. -/
def spdm (s : State) (kind : Instr) (n : Nat) (f : Func → Func) : Outcome := happen s (fun a =>
  if !answers s.mgmt a.fn then s.run
  else
    let (bs, r) := secretBytes s.run n
    answer (r.setFunc a.fn f) kind a.fn bs false)

/-- GET_VERSION: function. A new connection begins. -/
def execGetVersion (s : State) : Outcome := spdm s .getVersion 2 (fun f => { f with spdm := 1 })
/-- GET_CAPABILITIES: function. -/
def execGetCapabilities (s : State) : Outcome := spdm s .getCapabilities 16 (fun f => { f with spdm := max f.spdm 2 })
/-- NEGOTIATE_ALGORITHMS: function. -/
def execNegotiateAlgorithms (s : State) : Outcome := spdm s .negotiateAlgorithms 32 (fun f => { f with spdm := max f.spdm 3 })
/-- GET_DIGESTS: function; the digest of the chain in slot 0. -/
def execGetDigests (s : State) : Outcome := spdm s .getDigests 48 id
/-- GET_CERTIFICATE: function; the chain in slot 0. -/
def execGetCertificate (s : State) : Outcome := spdm s .getCertificate 1024 id
/-- CHALLENGE: function; signed with the identity key. -/
def execChallenge (s : State) : Outcome := spdm s .challenge 1280 id
/-- KEY_EXCHANGE: function; a session begins. -/
def execKeyExchange (s : State) : Outcome := spdm s .keyExchange 1424 (fun f => { f with session := 1, keyPhase := 0 })
/-- FINISH: function; the session is established. -/
def execFinish (s : State) : Outcome := spdm s .finish 48 (fun f => { f with session := if f.session = 0 then 0 else 2 })
/-- HEARTBEAT: function. -/
def execHeartbeat (s : State) : Outcome := spdm s .heartbeat 0 id
/-- KEY_UPDATE: function. -/
def execKeyUpdate (s : State) : Outcome := spdm s .keyUpdate 0 (fun f => { f with keyPhase := if f.session = 2 then f.keyPhase + 1 else f.keyPhase })
/-- END_SESSION: function. -/
def execEndSession (s : State) : Outcome := spdm s .endSession 0 (fun f => { f with session := 0, keyPhase := 0 })

/-- UNSUPPORTED_REQUEST: function; answered with ERROR UnsupportedRequest. -/
def execUnsupportedRequest (s : State) : Outcome := happen s (fun a =>
  if answers s.mgmt a.fn then answer s.run .unsupportedRequest a.fn [] true else s.run)

/-- A measurement block as a function reports it (R409): none for an index that it does not report. The PF has no partition: its
shape report is free (log 24). -/
def measurementBlock (m : Mgmt) (fn i free : Nat) : Option (List Byte) :=
  let reg (x : BitVec 512) : List Byte := toBytes 64 x.toNat
  if 1 ≤ i ∧ i ≤ 16 then some (reg (rdReg m.hx (i - 1)))
  else if i = 0xF0 then some (reg m.cfgd)
  else match partOfFn m fn with
    | some (tag, p) =>
      if 17 ≤ i ∧ i ≤ 24 then some (reg (rdReg p.px (i - 17)))
      else if i = 0xF1 then some (shapeReport m tag p)
      else none
    | none => if i = 0xF1 then some (Config.record free) else none

/-- GET_MEASUREMENTS: function, block index n. -/
def execGetMeasurements (s : State) : Outcome := happen s (fun a =>
  if !answers s.mgmt a.fn then s.run
  else match measurementBlock s.mgmt a.fn a.n s.run.free with
    | some bs => answer s.run.draw.2 .getMeasurements a.fn bs false
    | none => answer s.run .getMeasurements a.fn [] true)

/-! ## TDISP and IDE -/

/-- A TDISP lock request (R387): a bit other than REPAIR and RESHAPE, or a TDI that is not unlocked, makes it fail. -/
def lockInterface (m : Mgmt) (r : Run) (fn flags : Nat) (nonce : List Byte) : Mgmt × Run :=
  match partOfFn m fn with
  | none => (m, r)
  | some (tag, p) =>
    if 4 ≤ flags ∨ p.tdi ≠ 0 then (m, answer r .lockInterfaceRequest fn [] true)
    else
      let record := toBytes 8 flags ++ (nonce ++ List.replicate 32 0).take 32
      let m := m.part tag (fun p => { p with tdi := 1, repairLock := bitOf flags 0, reshapeLock := bitOf flags 1 })
      let (bs, r) := secretBytes r 32
      (m.extendPx tag 2 (measure record) record, answer r .lockInterfaceRequest fn bs false)

/-- LOCK_INTERFACE_REQUEST: function, flags value, nonce data. -/
def execLockInterfaceRequest (s : State) : Outcome := happenAll s (fun a => lockInterface s.mgmt s.run a.fn a.value a.data)

/-- A TDI moved to another state; leaving CONFIG_LOCKED or RUN drops the lock flags (R387). -/
def Mgmt.setTdi (m : Mgmt) (tag t : Nat) : Mgmt :=
  m.part tag (fun p => if t = 1 ∨ t = 2 then { p with tdi := t } else { p with tdi := t, repairLock := false, reshapeLock := false })

/-- A vendor-defined request (R409; log 24), by n: 0 and 1 IDE_KM establishes and stops the function's stream on the port; 2 and 3 TDISP starts
and stops the interface; 4 asks for the interface report, which is the shape report; any other asks for the TDI's state. -/
def vendorDefined (m : Mgmt) (r : Run) (fn port n : Nat) : Mgmt × Run :=
  if !answers m fn then (m, r)
  else if n = 0 then (m, answer (r.setFunc fn (fun f => { f with ideStreams := setInsert f.ideStreams port })) .vendorDefined fn [] false)
  else if n = 1 then (m, answer (r.setFunc fn (fun f => { f with ideStreams := setErase f.ideStreams port })) .vendorDefined fn [] false)
  else match partOfFn m fn with
    | none => (m, answer r .vendorDefined fn [] true)
    | some (tag, p) =>
      if n = 2 then
        if p.tdi = 1 then (m.setTdi tag 2, answer r .vendorDefined fn [] false) else (m, answer r .vendorDefined fn [] true)
      else if n = 3 then (m.setTdi tag 0, answer r .vendorDefined fn [] false)
      else if n = 4 then (m, answer r .vendorDefined fn (shapeReport m tag p) false)
      else (m, answer r .vendorDefined fn (toBytes 1 p.tdi) false)

/-- VENDOR_DEFINED: function, port, message n. -/
def execVendorDefined (s : State) : Outcome := happenAll s (fun a => vendorDefined s.mgmt s.run a.fn a.port a.n)

/-- A TLP of a TDI in RUN that arrives on no stream established on its port: it is dropped, and the TDI moves to ERROR (R409, R412). -/
def ideViolation (m : Mgmt) (r : Run) (fn port : Nat) : Mgmt × Run :=
  match partOfFn m fn with
  | none => (m, r)
  | some (tag, p) =>
    if p.tdi = 2 ∧ !(r.func fn).ideStreams.contains port then ruinPart (m.tdiError tag) r tag else (m, r)

/-- IDE_STREAM_VIOLATION: function, port. -/
def execIdeStreamViolation (s : State) : Outcome := happenAll s (fun a => ideViolation s.mgmt s.run a.fn a.port)

end Sys2Proof.Machine
end

