-- ==== Sys2Proof/Machine/Strike.lean ====
section
/-! DEFINITION. Errors that strike the arrays (R394, R395): what each array makes of a corrected and of an uncorrectable one, the
threshold class that counts the first (R55), and the log of both (R403). -/

namespace Sys2Proof.Machine

/-! ## What is struck -/

/-- The context of a block. -/
def blockCtx (r : Run) (b : Nat) : Option Nat := ((Assoc.get? r.blocks b).bind (fun x => Assoc.get? r.grids x.grid)).map (·.ctx)

/-- The tile whose array holds a place: the core of a pad or a lane slice, the home of a cluster offset (R242) or of a scratchpad
byte (R244), the controller of a pseudo-channel; another array has the tile that the error names. -/
def placeTile (m : Mgmt) (r : Run) (p : Place) (other : Nat) : Nat := match p with
  | .pad c _ => crewTile r c
  | .lane c _ => crewTile r c
  | .clu b o => match Assoc.get? r.blocks b with
    | none => other
    | some x => match x.crews[(clusterHome x.crews.length o).1]?.bind (fun c => Assoc.get? r.crews c) with
      | some y => y.home.getD y.core / 24
      | none => other
  | .spad k => match Assoc.get? m.parts (k / 2 ^ 40) with
    | some q => q.tiles.getD (scratchHome q.tiles.length 0 (k % 2 ^ 40)).1 other
    | none => other
  | _ => other

/-- The context whose identifier tags what an error strikes, as its key, or none. -/
def Upset.owner (r : Run) (u : Upset) : Option Nat := match u.hit with
  | .warp c _ _ => some (crewCtx r c)
  | .slice c _ => some (crewCtx r c)
  | .entry c _ _ => some (crewCtx r c)
  | .sram (.pad c _) _ => some (crewCtx r c)
  | .sram (.lane c _) _ => some (crewCtx r c)
  | .sram (.clu b _) _ => blockCtx r b
  | .staging k _ => ((r.coreSt k).stage.bind (fun s => Assoc.get? r.matrix s.op)).bind (fun op => blockCtx r op.block)
  | .xlat t i => ((r.tileSt t).hostXlats[i]?).map (·.ctx)
  | _ => u.ctx

/-- The tile that reports an error. -/
def Upset.reporter (m : Mgmt) (r : Run) (u : Upset) : Nat := match u.hit with
  | .warp c _ _ => crewTile r c
  | .slice c _ => crewTile r c
  | .entry c _ _ => crewTile r c
  | .sram p _ => placeTile m r p u.tile
  | .staging k _ => k / 24
  | .line k => k / 24
  | .granule k => k / 24
  | .xlat t _ => t
  | .hbm a => controllerTile (a / 2 ^ 21 / channelBlocks)
  | .prot a => controllerTile (a / 2 ^ 21 / channelBlocks)
  | .writeBack _ => u.tile
  | .payload p => placeTile m r p u.tile

/-- The address or offset that an error's log entry names, 0 for an array that has none (R403). -/
def Hit.addr : Hit → Nat
  | .sram p _ => p.key % 2 ^ 80
  | .payload p => p.key % 2 ^ 80
  | .hbm a => a
  | .prot a => a
  | _ => 0

/-! ## What comes of it (R394) -/

/-- The word at a place poisoned. -/
def poisonWord (r : Run) (p : Place) : Run := { r with poison := setInsert r.poison (p.key / 8) }

/-- The 64-byte block of HBM at a device address poisoned (R395). -/
def poisonBlock (r : Run) (a : Nat) : Run := (List.range 8).foldl (fun r i => poisonWord r (.dev (a / 64 * 64 + 8 * i))) r

/-- A 64-byte block of device memory after its write-back and its refill: one poisoned word poisons them all (R395). -/
def refillBlock (r : Run) (a : Nat) : Run := if poisonedSpan r (.dev (a / 64 * 64)) 64 then poisonBlock r a else r

/-- The kind of the log entry of an uncorrectable error, for an array in which one leaves something poisoned (R403). -/
def Hit.kind : Hit → Option Nat
  | .sram _ _ => some 2
  | .staging _ _ => some 2
  | .entry _ _ _ => some 2
  | .hbm _ => some 2
  | .payload _ => some 2
  | .prot _ => some 6
  | _ => none

/-- An uncorrectable error in an array. -/
def Hit.ruin (r : Run) : Hit → Run
  | .warp c w x => r.warp c w (fun y => { y with bad := if y.bad.contains x then y.bad else x :: y.bad })
  | .slice c n => r.slice c (fun y => { y with bad := setInsert y.bad n })
  | .sram p clean =>
    let r := poisonWord r p
    if clean then { r with cleanBelow := setInsert r.cleanBelow (p.key / 8) } else r
  | .staging k x => r.core k (fun c => { c with stage := c.stage.map (fun s => { s with bad := setInsert s.bad x }) })
  | .line _ => r
  | .granule _ => r
  | .xlat t i => r.tile t (fun x => { x with hostXlats := x.hostXlats.eraseIdx i })
  | .entry c q i => r.crew c (fun x =>
      x.setQueue q (fun y => { y with entries := if i < y.entries.length then setAt y.entries i .bad else y.entries }))
  | .hbm a => poisonBlock r a
  | .prot a => poisonBlock r a
  | .writeBack a => refillBlock r a
  | .payload p =>
    let r := poisonWord r p
    { r with passing := setInsert r.passing (p.key / 8) }

/-- The array struck, or none for what is no error. -/
def Hit.isError : Hit → Bool
  | .writeBack _ => false
  | _ => true

/-- An error that strikes: a corrected one counts in class 7 of the context whose data it is, and either is logged as its kind says
(R55, R394, R403; log 9). -/
def strike (m : Mgmt) (r : Run) (u : Upset) : Run :=
  let who := u.owner r
  let tile := u.reporter m r
  let part := match who with
    | some c => partOf c
    | none => u.part
  let ctx := match who with
    | some c => c % 64
    | none => 0xFF
  if u.corrected && u.hit.isError then
    let r := match who with
      | some c => countEvents r tile c 7 1
      | none => r
    logError r part 1 ctx tile 0 0 u.hit.addr
  else
    let r := u.hit.ruin r
    match u.hit.kind with
    | some k => logError r part k ctx tile 0 0 u.hit.addr
    | none => r

/-- The corrected errors and the chipkill events of the pseudo-channel of a device address counted (R402). -/
def countChannel (m : Mgmt) (u : Upset) (a : Nat) : Mgmt :=
  let c := a / 2 ^ 21 / channelBlocks
  let x := m.channel c
  let y : Channel := { x with corrected := x.corrected + 1, chipkills := if u.chipkill then x.chipkills + 1 else x.chipkills }
  if u.corrected then { m with channels := Assoc.set m.channels c y } else m

/-- What base camp does of itself about an error: a granule that keeps failing is retired, and the configuration says so, and the errors
of a pseudo-channel are counted (R13, R402, R408). -/
def noteHit (m : Mgmt) (r : Run) (u : Upset) : Mgmt × Run := match u.hit with
  | .hbm a => (countChannel m u a, r)
  | .granule k => if u.corrected then (m, r)
    else newConfig { m with granRetired := Assoc.set m.granRetired k (min 64 ((Assoc.get? m.granRetired k).getD 0 + 1)) } r
  | _ => (m, r)

end Sys2Proof.Machine
end

