-- ==== Sys2Proof/Machine/Choose.lean ====
section
/-! DEFINITION. Who may move next. The spec orders independent parties only by its own rules (R6, R256, R273), so the model lists
what may happen and a free value picks (log 2). A happening listed in vain changes nothing. -/

namespace Sys2Proof.Machine

/-- A happening as a turn. -/
def hap (kind : Instr) (args : EvArgs) : Turn := .event { kind := kind, args := args }

/-- The cores that hold crews or anything else, in rising order. -/
def coresIn (r : Run) : List Nat :=
  (r.crews.map (fun (p : Nat × Crew) => p.2.core)).foldl setInsert ((r.cores.map (fun (p : Nat × CoreSt) => p.1)).foldl setInsert [])

/-! ## Parties -/

/-- The batches that quadrants issue: each goes on to the end of its run, unless crews are to be admitted to the quadrant's freed warp
slots first (R227, R239, R335). -/
def runningTurns (m : Mgmt) (r : Run) : List Turn :=
  r.cores.flatMap (fun p => p.2.running.filterMap (fun q =>
    if !p.2.freed.contains q.1 && (env? m r q.2.1 q.2.2.1 q.2.2.2).isSome then some (.batch q.2.1 q.2.2.1 q.2.2.2) else none))

/-- The ready address slices of a core, in the order of their turns by context slot: from the pointer on, and around (R234). -/
def readySlices (m : Mgmt) (r : Run) (core : Nat) : List Nat :=
  let cs := r.crews.filter (fun p => p.2.core == core && ((senv? m r p.1).map SEnv.ready).getD false)
  let turn (x : Crew) : Nat := (x.slot + 16 - (r.coreSt core).pointer % 16) % 16
  (sortBy (fun a b => decide (turn a.2 < turn b.2)) cs).map (·.1)

/-- The address slices whose turn it is, one on each core. -/
def sliceTurns (m : Mgmt) (r : Run) : List Turn :=
  (coresIn r).filterMap (fun k => ((readySlices m r k).head?).map Turn.slice)

/-! ## Happenings of the cores -/

/-- The completion of an operation of a warp (R25), or the trap of a word that has failed (R64). -/
def warpOpEvent (c w : Nat) (o : PendOp) : Option Turn :=
  let a : EvArgs := { crew := c, warp := w, op := o.id }
  if o.done then none
  else if o.failed then some (hap .ldCompletion a)
  else match o.cls, o.data with
    | .ldg, _ => some (hap .ldCompletion a)
    | .stg, _ => some (hap .stAcknowledgement a)
    | .at, _ => some (hap .atomCompletion a)
    | .gt, _ => some (hap .gatherCompletion a)
    | .cl, _ => some (hap .creduceRetirement a)
    | .mx, .mclr _ _ => some (hap .mclrCompletion a)
    | _, _ => none

/-- The completion of an operation of an address slice (R25), or the trap of a word that has failed (R64). -/
def sliceOpEvent (c : Nat) (o : PendOp) : Option Turn :=
  let a : EvArgs := { crew := c, op := o.id, slice := true }
  if o.done then none
  else if o.failed then some (hap .gldCompletion a)
  else match o.cls, o.data with
    | .gld, .fillUni _ _ => some (hap .queueEntryFill a)
    | .gld, .fillVec _ _ => some (hap .queueEntryFill a)
    | .gld, _ => some (hap .gldCompletion a)
    | .none, .greg _ _ => some (hap .atomCompletion a)
    | _, _ => none

/-- What may happen to a batch: its watched word is looked at, or it is diverted. -/
def batchEvents (c w : Nat) (b : Batch) : List Turn :=
  let a : EvArgs := { crew := c, warp := w, lane := lowLane b.lanes }
  (match b.wait with
    | .monitor _ _ _ => [hap .mwaitObserve a]
    | _ => []) ++ [hap .lookoutDiversion a]

/-- What may happen to the copies of a crew, up to a number of bytes at a time. -/
def copyEvents (c : Nat) (s : ASlice) (n : Nat) : List Turn :=
  (List.range s.copies.length).flatMap (fun i =>
    let a : EvArgs := { crew := c, n := i, value := n }
    [hap .copyElementReach a, hap .copyArrival a, hap .copyCompletion a])

/-- What may happen to a crew. -/
def crewEvents (m : Mgmt) (c : Nat) (x : Crew) (n : Nat) : List Turn :=
  (x.warps.zipIdx).flatMap (fun w =>
    w.1.ops.filterMap (warpOpEvent c w.2) ++ w.1.batches.flatMap (batchEvents c w.2)) ++
  x.aslice.ops.filterMap (sliceOpEvent c) ++ copyEvents c x.aslice n ++
  (match x.aslice.wait with
    | .monitor _ _ _ => [hap .mwaitObserve { crew := c, slice := true }]
    | _ => []) ++
  (match x.status with
    | .saving => [hap .eviction { crew := c, value := 1 }]
    | .saved => hap .eviction { crew := c, slice := true } ::
        (tileCores m (x.core / 24)).map (fun k => hap .crewRestore { crew := c, core := k })
    | _ => [])

/-- What may happen to a core; n is where in a window its matrix work begins. -/
def coreEvents (n k : Nat) : List Turn :=
  (List.range 4).map (fun q => hap .arbitration { core := k, n := q }) ++
  [hap .xacqGrant { core := k }, hap .taskSteal { core := k }, hap .governorWindow { core := k, value := n },
    hap .merge { core := k }, hap .matrixFault { core := k }]

/-- What may happen to blocks and grids that wait for cores. -/
def placeEvents (r : Run) : List Turn :=
  (r.blocks.filter (fun p => !p.2.admitted && !p.2.ended)).flatMap (fun p =>
    [hap .crewAdmission { n := p.1 }, hap .eviction { n := p.1 }]) ++
  (r.grids.filter (fun p => p.2.status.isNone)).flatMap (fun p =>
    [hap .blockPlacement { grid := p.1 }, hap .eviction { grid := p.1, flag := true }])

/-- What may happen to matrix operations. -/
def matrixEvents (r : Run) : List Turn :=
  r.matrix.flatMap (fun p =>
    if p.2.readout then [hap .readoutCompletion { op := p.1 }, hap .matrixFault { op := p.1 }]
    else [hap .matrixCompletion { op := p.1 }])

/-! ## Happenings of functions, services and base camp -/

/-- The row that serves a call number (R372). -/
def serviceRow (n : Nat) : Option Instr :=
  ([.memAlloc, .memFree, .memMap, .memUnmap, .memProtect, .memQuery, .capMint, .capRevoke, .pinHost, .unpinHost, .gridLaunch,
    .gridQuery, .gridCancel, .eventCreate, .eventSignal, .eventWait, .queueInfo, .detRecordFetch, .uiVectorSet, .uiPermit,
    .uiRevoke, .uiRoute, .uiQuery, .uiPostRemote, .fileOpen, .fileRead, .fileWrite, .fileClose, .fileStat, .fileSeek, .dirList,
    .fileSync, .netConnect, .netAccept, .netSend, .netRecv, .netPoll, .netClose, .logWrite, .counterRead, .attestQuote,
    .reportFetch, .clockInfo, .random, .dbgHaltSelf, .dbgNotify, .ctxYield, .ctxExit] : List Instr)[n]?

/-- The calls that a service unit may perform: those that units have in hand, and those that wait away for what a unit can see. -/
def serviceEvents (r : Run) : List Turn :=
  let away := (r.calls.filter (fun p => p.2.away && p.2.proxy.isNone && !p.2.remote)).map (·.1)
  (r.units ++ away).filterMap (fun k => do
    let c ← Assoc.get? r.calls k
    let row ← serviceRow c.num
    return hap row { op := k })

/-- The row of a packet of a type (R352): an unknown type is met by the first. -/
def packetRow (t : Nat) : Instr := match t with
  | 2 => .waitEvent
  | 3 => .signal
  | 4 => .uipostPacket
  | _ => .launch

/-- What may happen on the queues of a function. -/
def queueEvents (m : Mgmt) (r : Run) (fn q : Nat) : List Turn :=
  let x := r.queueIf fn q
  let a : EvArgs := { fn := fn, queue := q }
  (match nextPacket m r fn q with
    | some bs => [hap (packetRow (pktType bs)) a]
    | none => []) ++
  (if x.waiting.isSome then [hap .waitEvent { a with value := 1 }] else []) ++
  (if x.signals != [] then [hap .signal { a with value := 1 }] else []) ++
  x.pendings.map (fun c => hap .remapTimer { a with n := c.1 })

/-- What may happen to a function. -/
def funcEvents (m : Mgmt) (r : Run) (fn : Nat) (f : Func) : List Turn :=
  (if invalReady m r fn then [hap .invalidationDone { fn := fn }] else []) ++
  (if f.atsWaits != 0 && !hostHeld m r fn then [hap .atsInvalidateRequest { fn := fn, flag := true }] else []) ++ f.queues.flatMap (fun q => queueEvents m r fn q.1)

/-- Windows of counters that end, and snapshots that arrive (R56, R359, R421). -/
def timedEvents (r : Run) : List Turn :=
  r.tiles.flatMap (fun t => t.2.thrCount.map (fun k => hap .thresholdWindow { tile := t.1, ctx := k.1 / 8, n := k.1 % 8 })) ++
  r.contexts.flatMap (fun c => c.2.thrSum.map (fun k => hap .thresholdSumClear { ctx := c.1, n := k.1 })) ++
  (r.floods.zipIdx).flatMap (fun f => f.1.2.map (fun t => hap .snapshotLatch { n := f.2, tile := t })) ++
  (if r.expired && !r.renewed then [] else [hap .leaseExpiry {}])

/-- A pack-up that may end (R389). -/
def packEvents (tag : Nat) (p : Part) : List Turn :=
  match p.pack with
  | some k =>
    if k.command then []
    else if k.kind = 0 then [hap .channelDropped { part := tag, value := 1 }]
    else [hap .tileFailing { tile := p.tiles.headD 0, value := 1 }]
  | none => []

/-- A mailbox command that waits, looked at again. -/
def mailboxEvents (r : Run) : List Turn :=
  if !r.mailboxBusy then []
  else match r.mbcmd.toNat % 256 with
    | 1 => [hap .create { flag := true }]
    | 3 => [hap .grow { flag := true }]
    | 4 => [hap .shrink { flag := true }]
    | 5 => [hap .compact { flag := true }]
    | _ => []

/-- What base camp and the tiles do of themselves: the boot with checks that come out as they may, scrubs, characterisation and
clocks. -/
def campEvents (m : Mgmt) (r : Run) (n : Nat) : List Turn :=
  if !m.booted then [hap .reset { flag := n % 2 == 0, value := n / 2 % 2 }]
  else
    m.parts.flatMap (fun p => packEvents p.1 p.2) ++ mailboxEvents r ++
    (m.channels.filter (fun c => c.2.state == 2)).map (fun c => hap .scrubComplete { n := c.1 }) ++
    m.channels.flatMap (fun c => if c.2.corrected = 0 then [] else [hap .channelDropped { n := c.1, value := 2 }]) ++
    (m.channels.filter (fun c => c.2.bad)).map (fun c => hap .channelDropped { n := c.1, flag := n % 2 == 0 }) ++
    (if m.recovery then [] else ((List.range 96).filter (fun t => (m.tileHw t).reduced)).map
      (fun t => hap .characterisationComplete { tile := t })) ++
    ((List.range 96).filter (fun t => decide ((m.tileHw t).clockStep < maxStep m t))).map (fun t => hap .clockStepUp { tile := t })

/-! ## The choice -/

/-- Everything that may move next of itself, amounts of work up to n at a time. -/
def mayMove (m : Mgmt) (r : Run) (n : Nat) : List Turn :=
  runningTurns m r ++ sliceTurns m r ++ r.crews.flatMap (fun p => crewEvents m p.1 p.2 n) ++ (coresIn r).flatMap (coreEvents n) ++
  placeEvents r ++ matrixEvents r ++ serviceEvents r ++ r.funcs.flatMap (fun p => funcEvents m r p.1 p.2) ++ timedEvents r ++
  campEvents m r n

/-- A turn taken. An address slice that a GYIELD left out passes it (R220, R234). -/
def takeTurn (r : Run) (t : Turn) : Run × Turn :=
  match t with
  | .slice c =>
    match Assoc.get? r.crews c with
    | none => (r, .choose)
    | some x =>
      let r := r.core x.core (fun k => { k with pointer := (x.slot + 1) % 16 })
      let r := spendKept r (sliceAsker (x.core / 24) c)
      if x.aslice.yielded then (r.slice c (fun s => { s with yielded := false }), .choose)
      else (r.core x.core (fun k => { k with lastSlice := x.aslice.pc }), .slice c)
  | .batch c w l => (spendKept r (batchAsker (crewTile r c) c w l), t)
  | t => (r, t)

/-- What has come about on the cores since the last choice: resources freed are held for the blocks that wait for them as groups, and
freed quadrants issue again once nobody is to be admitted there (R225, R239). -/
def settleCores (m : Mgmt) (r : Run) : Run := r.cores.foldl (fun r p => settleFreed m (settleHolds r p.1) p.1) r

/-- The choice of who moves next: a party or happening of the machine's own, the first happening that waits at the boundary, or the first
error that is to strike an array (R394). -/
def chooseNext (s : State) : State :=
  let now := serviceVisit s.mgmt (settleCores s.mgmt s.run)
  let (i, r) := now.draw
  let (j, r) := r.draw
  let own := mayMove s.mgmt now (1 + Config.pick j % 4096)
  let all_ := own ++ (s.inputs.take 1).map Turn.event
  let k := Config.pick i % (all_.length + (s.upsets.take 1).length)
  match all_[k]? with
  | none => match s.upsets with
    | [] => { s with run := r }
    | u :: us =>
      let (m, r) := noteHit s.mgmt (strike s.mgmt r u) u
      { s with run := r, mgmt := m, upsets := us }
  | some t =>
    let (r, t) := takeTurn r t
    { s with run := r, turn := t, inputs := if own.length ≤ k then s.inputs.drop 1 else s.inputs }

end Sys2Proof.Machine
end

