-- ==== Sys2Proof/Machine/Place.lean ====
section
/-! DEFINITION. What a step does with a turn, and a program of one word placed from outside (log 25). -/

namespace Sys2Proof.Machine

/-! ## Turns -/

/-- What a batch's turn runs: the instruction fetched at its PC, if there is one. -/
def batchInstr (s : State) (c w l : Nat) : Option Instr :=
  match env? s.mgmt s.run c w l with
  | none => none
  | some e => match fetchBatch e with
    | .instr i => some i
    | _ => none

/-- A batch's turn that runs no instruction: a trap of the fetch (R57, R61, R69, R75), or nothing when the batch is gone. -/
def batchOtherwise (s : State) (c w l : Nat) : State :=
  match env? s.mgmt s.run c w l with
  | none => { s with turn := .choose }
  | some e => { s with run := (fetchBatch e).otherwise e, turn := .choose }

/-- What an address slice's turn runs. -/
def sliceInstr (s : State) (c : Nat) : Option Instr :=
  match senv? s.mgmt s.run c with
  | none => none
  | some e => match fetchSlice e with
    | .instr i => some i
    | _ => none

/-- An address slice's turn that runs no instruction. -/
def sliceOtherwise (s : State) (c : Nat) : State :=
  match senv? s.mgmt s.run c with
  | none => { s with turn := .choose }
  | some e => { s with run := (fetchSlice e).sliceOtherwise e, turn := .choose }

/-! ## A word placed (log 25) -/

/-- NOP with B = 1, and GNOP: what stands after the word. -/
def nopWord : Nat := 0xD7000000
def gnopWord : Nat := 0x6F000000

/-- A kernel of one compute word or one address-slice word, each image ending in a NOP. -/
def oneWordKernel (w : Nat) : Kernel :=
  let x := BitVec.ofNat 32 w
  let nop := BitVec.ofNat 32 nopWord
  let gnop := BitVec.ofNat 32 gnopWord
  if addressMajor w then { cimg := [nop], aimg := [x, gnop] } else { cimg := [x, nop], aimg := [gnop] }

/-- A partition of one tile made when there is none. -/
def withPartition (m : Mgmt) : Mgmt :=
  match m.parts with
  | [] => { m with parts := [(1, { tag := 1, tiles := [0], share := 1, vf := 1 })] }
  | _ => m

/-- A block of one crew of one warp, resident on core 0, that runs a kernel: its keys are fresh. -/
def withProgram (m : Mgmt) (r : Run) (w : Nat) : Run :=
  let ctx := match m.parts with
    | p :: _ => p.1 * 64
    | [] => 0
  let k := oneWordKernel w
  let gk := Assoc.fresh r.grids
  let bk := Assoc.fresh r.blocks
  let ck := Assoc.fresh r.crews
  let r := match Assoc.get? r.contexts ctx with
    | some _ => r
    | none => { r with contexts := Assoc.set r.contexts ctx { live := true } }
  { r with
    grids := Assoc.set r.grids gk { ctx := ctx, kernels := [(0, k)], nextBlock := 1 }
    blocks := Assoc.set r.blocks bk { grid := gk, crews := [ck], admitted := true }
    crews := Assoc.set r.crews ck { startCrew k bk 0 0 0 [] with status := .resident, home := some 0, hamper := some 0 } }

/-- The turn that runs the word of a program placed last. -/
def programTurn (r : Run) (w : Nat) : Turn :=
  if addressMajor w then .slice (Assoc.fresh r.crews) else .batch (Assoc.fresh r.crews) 0 0

end Sys2Proof.Machine
end

