-- ==== Sys2Proof/Machine/Dispatch.lean ====
section
/-! DEFINITION. One arm for each row of the opcode table: a direct call of its meaning. -/

namespace Sys2Proof.Machine

/-- What each instruction does to a state. -/
def exec (i : Instr) (s : State) : Host.Outcome State Fault Refusal :=
  match i with
  | .fadd o => Sys2Proof.Machine.execFadd o s
  | .fsub o => Sys2Proof.Machine.execFsub o s
  | .fmul o => Sys2Proof.Machine.execFmul o s
  | .ffma o => Sys2Proof.Machine.execFfma o s
  | .fmin o => Sys2Proof.Machine.execFmin o s
  | .fmax o => Sys2Proof.Machine.execFmax o s
  | .hadd2 o => Sys2Proof.Machine.execHadd2 o s
  | .hmul2 o => Sys2Proof.Machine.execHmul2 o s
  | .hfma2 o => Sys2Proof.Machine.execHfma2 o s
  | .badd2 o => Sys2Proof.Machine.execBadd2 o s
  | .bmul2 o => Sys2Proof.Machine.execBmul2 o s
  | .bfma2 o => Sys2Proof.Machine.execBfma2 o s
  | .iadd o => Sys2Proof.Machine.execIadd o s
  | .isub o => Sys2Proof.Machine.execIsub o s
  | .imul o => Sys2Proof.Machine.execImul o s
  | .imad o => Sys2Proof.Machine.execImad o s
  | .imulh o => Sys2Proof.Machine.execImulh o s
  | .imin o => Sys2Proof.Machine.execImin o s
  | .imax o => Sys2Proof.Machine.execImax o s
  | .iminn o => Sys2Proof.Machine.execIminn o s
  | .imaxn o => Sys2Proof.Machine.execImaxn o s
  | .and o => Sys2Proof.Machine.execAnd o s
  | .or o => Sys2Proof.Machine.execOr o s
  | .xor o => Sys2Proof.Machine.execXor o s
  | .andn o => Sys2Proof.Machine.execAndn o s
  | .shl o => Sys2Proof.Machine.execShl o s
  | .shr o => Sys2Proof.Machine.execShr o s
  | .sar o => Sys2Proof.Machine.execSar o s
  | .funl o => Sys2Proof.Machine.execFunl o s
  | .prmt o => Sys2Proof.Machine.execPrmt o s
  | .dp4a o => Sys2Proof.Machine.execDp4a o s
  | .bsubs o => Sys2Proof.Machine.execBsubs o s
  | .bminu o => Sys2Proof.Machine.execBminu o s
  | .nlutl o => Sys2Proof.Machine.execNlutl o s
  | .nluth o => Sys2Proof.Machine.execNluth o s
  | .prevb o => Sys2Proof.Machine.execPrevb o s
  | .mov o => Sys2Proof.Machine.execMov o s
  | .not o => Sys2Proof.Machine.execNot o s
  | .ineg o => Sys2Proof.Machine.execIneg o s
  | .iabs o => Sys2Proof.Machine.execIabs o s
  | .popc o => Sys2Proof.Machine.execPopc o s
  | .clz o => Sys2Proof.Machine.execClz o s
  | .ctz o => Sys2Proof.Machine.execCtz o s
  | .brev o => Sys2Proof.Machine.execBrev o s
  | .sext8 o => Sys2Proof.Machine.execSext8 o s
  | .sext16 o => Sys2Proof.Machine.execSext16 o s
  | .bswap o => Sys2Proof.Machine.execBswap o s
  | .setlnk o => Sys2Proof.Machine.execSetlnk o s
  | .fneg o => Sys2Proof.Machine.execFneg o s
  | .fabs o => Sys2Proof.Machine.execFabs o s
  | .frcp o => Sys2Proof.Machine.execFrcp o s
  | .frsq o => Sys2Proof.Machine.execFrsq o s
  | .fsqrt o => Sys2Proof.Machine.execFsqrt o s
  | .fexp2 o => Sys2Proof.Machine.execFexp2 o s
  | .flog2 o => Sys2Proof.Machine.execFlog2 o s
  | .fsin o => Sys2Proof.Machine.execFsin o s
  | .fcos o => Sys2Proof.Machine.execFcos o s
  | .ftanh o => Sys2Proof.Machine.execFtanh o s
  | .ffloor o => Sys2Proof.Machine.execFfloor o s
  | .fceil o => Sys2Proof.Machine.execFceil o s
  | .ftrunc o => Sys2Proof.Machine.execFtrunc o s
  | .frint o => Sys2Proof.Machine.execFrint o s
  | .cvtif o => Sys2Proof.Machine.execCvtif o s
  | .cvtnf o => Sys2Proof.Machine.execCvtnf o s
  | .cvtfi o => Sys2Proof.Machine.execCvtfi o s
  | .cvtfn o => Sys2Proof.Machine.execCvtfn o s
  | .cvthfl o => Sys2Proof.Machine.execCvthfl o s
  | .cvthfh o => Sys2Proof.Machine.execCvthfh o s
  | .cvtbfl o => Sys2Proof.Machine.execCvtbfl o s
  | .cvtbfh o => Sys2Proof.Machine.execCvtbfh o s
  | .pack4 o => Sys2Proof.Machine.execPack4 o s
  | .pack2 o => Sys2Proof.Machine.execPack2 o s
  | .unpack8 o => Sys2Proof.Machine.execUnpack8 o s
  | .unpack16 o => Sys2Proof.Machine.execUnpack16 o s
  | .scale o => Sys2Proof.Machine.execScale o s
  | .fcmp o => Sys2Proof.Machine.execFcmp o s
  | .icmp o => Sys2Proof.Machine.execIcmp o s
  | .icmpn o => Sys2Proof.Machine.execIcmpn o s
  | .fclass o => Sys2Proof.Machine.execFclass o s
  | .plop o => Sys2Proof.Machine.execPlop o s
  | .cmov o => Sys2Proof.Machine.execCmov o s
  | .shfl o => Sys2Proof.Machine.execShfl o s
  | .voteAll o => Sys2Proof.Machine.execVoteAll o s
  | .voteAny o => Sys2Proof.Machine.execVoteAny o s
  | .voteEq o => Sys2Proof.Machine.execVoteEq o s
  | .ballot o => Sys2Proof.Machine.execBallot o s
  | .redux o => Sys2Proof.Machine.execRedux o s
  | .sread o => Sys2Proof.Machine.execSread o s
  | .bcast o => Sys2Proof.Machine.execBcast o s
  | .lanex o => Sys2Proof.Machine.execLanex o s
  | .vgeti o => Sys2Proof.Machine.execVgeti o s
  | .vputi o => Sys2Proof.Machine.execVputi o s
  | .ld o => Sys2Proof.Machine.execLd o s
  | .st o => Sys2Proof.Machine.execSt o s
  | .atom o => Sys2Proof.Machine.execAtom o s
  | .qpop o => Sys2Proof.Machine.execQpop o s
  | .qpops o => Sys2Proof.Machine.execQpops o s
  | .qpush o => Sys2Proof.Machine.execQpush o s
  | .qpeek o => Sys2Proof.Machine.execQpeek o s
  | .qstat o => Sys2Proof.Machine.execQstat o s
  | .qdrop o => Sys2Proof.Machine.execQdrop o s
  | .rawait o => Sys2Proof.Machine.execRawait o s
  | .rrel o => Sys2Proof.Machine.execRrel o s
  | .rstat o => Sys2Proof.Machine.execRstat o s
  | .waitc o => Sys2Proof.Machine.execWaitc o s
  | .cntrd o => Sys2Proof.Machine.execCntrd o s
  | .gather o => Sys2Proof.Machine.execGather o s
  | .creduce o => Sys2Proof.Machine.execCreduce o s
  | .msign o => Sys2Proof.Machine.execMsign o s
  | .mclr o => Sys2Proof.Machine.execMclr o s
  | .mstat o => Sys2Proof.Machine.execMstat o s
  | .bar o => Sys2Proof.Machine.execBar o s
  | .barn o => Sys2Proof.Machine.execBarn o s
  | .fence o => Sys2Proof.Machine.execFence o s
  | .arrive o => Sys2Proof.Machine.execArrive o s
  | .await o => Sys2Proof.Machine.execAwait o s
  | .tjoin o => Sys2Proof.Machine.execTjoin o s
  | .tleave o => Sys2Proof.Machine.execTleave o s
  | .gridwait o => Sys2Proof.Machine.execGridwait o s
  | .trigger o => Sys2Proof.Machine.execTrigger o s
  | .mwait o => Sys2Proof.Machine.execMwait o s
  | .uipost o => Sys2Proof.Machine.execUipost o s
  | .uipostAslice o => Sys2Proof.Machine.execUipostAslice o s
  | .uiwait o => Sys2Proof.Machine.execUiwait o s
  | .uiack o => Sys2Proof.Machine.execUiack o s
  | .uimask o => Sys2Proof.Machine.execUimask o s
  | .lookout o => Sys2Proof.Machine.execLookout o s
  | .svc o => Sys2Proof.Machine.execSvc o s
  | .svcAslice o => Sys2Proof.Machine.execSvcAslice o s
  | .capld o => Sys2Proof.Machine.execCapld o s
  | .capst o => Sys2Proof.Machine.execCapst o s
  | .capnarrow o => Sys2Proof.Machine.execCapnarrow o s
  | .capchk o => Sys2Proof.Machine.execCapchk o s
  | .capldAslice o => Sys2Proof.Machine.execCapldAslice o s
  | .capstAslice o => Sys2Proof.Machine.execCapstAslice o s
  | .capnarrowAslice o => Sys2Proof.Machine.execCapnarrowAslice o s
  | .capchkAslice o => Sys2Proof.Machine.execCapchkAslice o s
  | .brc o => Sys2Proof.Machine.execBrc o s
  | .jmp o => Sys2Proof.Machine.execJmp o s
  | .call o => Sys2Proof.Machine.execCall o s
  | .jmpr o => Sys2Proof.Machine.execJmpr o s
  | .himm o => Sys2Proof.Machine.execHimm o s
  | .himmx o => Sys2Proof.Machine.execHimmx o s
  | .hmod o => Sys2Proof.Machine.execHmod o s
  | .hgrd o => Sys2Proof.Machine.execHgrd o s
  | .hxb o => Sys2Proof.Machine.execHxb o s
  | .hadr o => Sys2Proof.Machine.execHadr o s
  | .hkeep o => Sys2Proof.Machine.execHkeep o s
  | .hpri o => Sys2Proof.Machine.execHpri o s
  | .uadd o => Sys2Proof.Machine.execUadd o s
  | .usub o => Sys2Proof.Machine.execUsub o s
  | .umul o => Sys2Proof.Machine.execUmul o s
  | .umulh o => Sys2Proof.Machine.execUmulh o s
  | .uand o => Sys2Proof.Machine.execUand o s
  | .uor o => Sys2Proof.Machine.execUor o s
  | .uxor o => Sys2Proof.Machine.execUxor o s
  | .uandn o => Sys2Proof.Machine.execUandn o s
  | .ushl o => Sys2Proof.Machine.execUshl o s
  | .ushr o => Sys2Proof.Machine.execUshr o s
  | .usar o => Sys2Proof.Machine.execUsar o s
  | .umin o => Sys2Proof.Machine.execUmin o s
  | .umax o => Sys2Proof.Machine.execUmax o s
  | .uminn o => Sys2Proof.Machine.execUminn o s
  | .umaxn o => Sys2Proof.Machine.execUmaxn o s
  | .umov o => Sys2Proof.Machine.execUmov o s
  | .uaddi o => Sys2Proof.Machine.execUaddi o s
  | .uandi o => Sys2Proof.Machine.execUandi o s
  | .uori o => Sys2Proof.Machine.execUori o s
  | .uxori o => Sys2Proof.Machine.execUxori o s
  | .ushli o => Sys2Proof.Machine.execUshli o s
  | .ushri o => Sys2Proof.Machine.execUshri o s
  | .usari o => Sys2Proof.Machine.execUsari o s
  | .umovi o => Sys2Proof.Machine.execUmovi o s
  | .ucmp o => Sys2Proof.Machine.execUcmp o s
  | .nop o => Sys2Proof.Machine.execNop o s
  | .trapfence o => Sys2Proof.Machine.execTrapfence o s
  | .trap o => Sys2Proof.Machine.execTrap o s
  | .bkpt o => Sys2Proof.Machine.execBkpt o s
  | .xacq o => Sys2Proof.Machine.execXacq o s
  | .xrel o => Sys2Proof.Machine.execXrel o s
  | .fork o => Sys2Proof.Machine.execFork o s
  | .join o => Sys2Proof.Machine.execJoin o s
  | .uswin o => Sys2Proof.Machine.execUswin o s
  | .yield o => Sys2Proof.Machine.execYield o s
  | .aflclr o => Sys2Proof.Machine.execAflclr o s
  | .gadd o => Sys2Proof.Machine.execGadd o s
  | .gsub o => Sys2Proof.Machine.execGsub o s
  | .gmul o => Sys2Proof.Machine.execGmul o s
  | .gmulh o => Sys2Proof.Machine.execGmulh o s
  | .gand o => Sys2Proof.Machine.execGand o s
  | .gor o => Sys2Proof.Machine.execGor o s
  | .gxor o => Sys2Proof.Machine.execGxor o s
  | .gshl o => Sys2Proof.Machine.execGshl o s
  | .gshr o => Sys2Proof.Machine.execGshr o s
  | .gsar o => Sys2Proof.Machine.execGsar o s
  | .gmin o => Sys2Proof.Machine.execGmin o s
  | .gmax o => Sys2Proof.Machine.execGmax o s
  | .gminn o => Sys2Proof.Machine.execGminn o s
  | .gmaxn o => Sys2Proof.Machine.execGmaxn o s
  | .gslt o => Sys2Proof.Machine.execGslt o s
  | .gsltn o => Sys2Proof.Machine.execGsltn o s
  | .gaddi o => Sys2Proof.Machine.execGaddi o s
  | .gandi o => Sys2Proof.Machine.execGandi o s
  | .gori o => Sys2Proof.Machine.execGori o s
  | .gxori o => Sys2Proof.Machine.execGxori o s
  | .gshli o => Sys2Proof.Machine.execGshli o s
  | .gshri o => Sys2Proof.Machine.execGshri o s
  | .gsari o => Sys2Proof.Machine.execGsari o s
  | .gslti o => Sys2Proof.Machine.execGslti o s
  | .gmovi o => Sys2Proof.Machine.execGmovi o s
  | .gmovk o => Sys2Proof.Machine.execGmovk o s
  | .gld o => Sys2Proof.Machine.execGld o s
  | .gst o => Sys2Proof.Machine.execGst o s
  | .gldq o => Sys2Proof.Machine.execGldq o s
  | .gldqv o => Sys2Proof.Machine.execGldqv o s
  | .gqpush o => Sys2Proof.Machine.execGqpush o s
  | .gqpop o => Sys2Proof.Machine.execGqpop o s
  | .gqtry o => Sys2Proof.Machine.execGqtry o s
  | .gqclose o => Sys2Proof.Machine.execGqclose o s
  | .gqstat o => Sys2Proof.Machine.execGqstat o s
  | .gbeqz o => Sys2Proof.Machine.execGbeqz o s
  | .gbnez o => Sys2Proof.Machine.execGbnez o s
  | .gbltz o => Sys2Proof.Machine.execGbltz o s
  | .gbgez o => Sys2Proof.Machine.execGbgez o s
  | .gbgtz o => Sys2Proof.Machine.execGbgtz o s
  | .gblez o => Sys2Proof.Machine.execGblez o s
  | .gjmp o => Sys2Proof.Machine.execGjmp o s
  | .gcall o => Sys2Proof.Machine.execGcall o s
  | .gret o => Sys2Proof.Machine.execGret o s
  | .gexit o => Sys2Proof.Machine.execGexit o s
  | .cstart o => Sys2Proof.Machine.execCstart o s
  | .cwait o => Sys2Proof.Machine.execCwait o s
  | .cquery o => Sys2Proof.Machine.execCquery o s
  | .rfree o => Sys2Proof.Machine.execRfree o s
  | .rarm o => Sys2Proof.Machine.execRarm o s
  | .rpeek o => Sys2Proof.Machine.execRpeek o s
  | .gfence o => Sys2Proof.Machine.execGfence o s
  | .garrive o => Sys2Proof.Machine.execGarrive o s
  | .gmwait o => Sys2Proof.Machine.execGmwait o s
  | .gatom o => Sys2Proof.Machine.execGatom o s
  | .gtrap o => Sys2Proof.Machine.execGtrap o s
  | .gsread o => Sys2Proof.Machine.execGsread o s
  | .gwaitc o => Sys2Proof.Machine.execGwaitc o s
  | .gyield o => Sys2Proof.Machine.execGyield o s
  | .uiret => Sys2Proof.Machine.execUiret s
  | .ret => Sys2Proof.Machine.execRet s
  | .exit => Sys2Proof.Machine.execExit s
  | .gnop => Sys2Proof.Machine.execGnop s
  | .arbitration => Sys2Proof.Machine.execArbitration s
  | .lookoutDiversion => Sys2Proof.Machine.execLookoutDiversion s
  | .xacqGrant => Sys2Proof.Machine.execXacqGrant s
  | .crewAdmission => Sys2Proof.Machine.execCrewAdmission s
  | .blockPlacement => Sys2Proof.Machine.execBlockPlacement s
  | .taskSteal => Sys2Proof.Machine.execTaskSteal s
  | .eviction => Sys2Proof.Machine.execEviction s
  | .crewRestore => Sys2Proof.Machine.execCrewRestore s
  | .ldCompletion => Sys2Proof.Machine.execLdCompletion s
  | .stAcknowledgement => Sys2Proof.Machine.execStAcknowledgement s
  | .atomCompletion => Sys2Proof.Machine.execAtomCompletion s
  | .gldCompletion => Sys2Proof.Machine.execGldCompletion s
  | .queueEntryFill => Sys2Proof.Machine.execQueueEntryFill s
  | .copyElementReach => Sys2Proof.Machine.execCopyElementReach s
  | .copyArrival => Sys2Proof.Machine.execCopyArrival s
  | .copyCompletion => Sys2Proof.Machine.execCopyCompletion s
  | .gatherCompletion => Sys2Proof.Machine.execGatherCompletion s
  | .creduceRetirement => Sys2Proof.Machine.execCreduceRetirement s
  | .merge => Sys2Proof.Machine.execMerge s
  | .matrixCompletion => Sys2Proof.Machine.execMatrixCompletion s
  | .matrixFault => Sys2Proof.Machine.execMatrixFault s
  | .mclrCompletion => Sys2Proof.Machine.execMclrCompletion s
  | .readoutCompletion => Sys2Proof.Machine.execReadoutCompletion s
  | .mwaitObserve => Sys2Proof.Machine.execMwaitObserve s
  | .thresholdWindow => Sys2Proof.Machine.execThresholdWindow s
  | .thresholdSumClear => Sys2Proof.Machine.execThresholdSumClear s
  | .governorWindow => Sys2Proof.Machine.execGovernorWindow s
  | .notifyWrite => Sys2Proof.Machine.execNotifyWrite s
  | .launch => Sys2Proof.Machine.execLaunch s
  | .waitEvent => Sys2Proof.Machine.execWaitEvent s
  | .signal => Sys2Proof.Machine.execSignal s
  | .uipostPacket => Sys2Proof.Machine.execUipostPacket s
  | .peerPost => Sys2Proof.Machine.execPeerPost s
  | .cheadWrite => Sys2Proof.Machine.execCheadWrite s
  | .qctlWrite => Sys2Proof.Machine.execQctlWrite s
  | .remapTimer => Sys2Proof.Machine.execRemapTimer s
  | .ctxctlCreate => Sys2Proof.Machine.execCtxctlCreate s
  | .ctxctlDestroy => Sys2Proof.Machine.execCtxctlDestroy s
  | .ctxctlReserved => Sys2Proof.Machine.execCtxctlReserved s
  | .invctlPages => Sys2Proof.Machine.execInvctlPages s
  | .invctlContext => Sys2Proof.Machine.execInvctlContext s
  | .invctlFunction => Sys2Proof.Machine.execInvctlFunction s
  | .invalidationDone => Sys2Proof.Machine.execInvalidationDone s
  | .renew => Sys2Proof.Machine.execRenew s
  | .claim => Sys2Proof.Machine.execClaim s
  | .leaseExpiry => Sys2Proof.Machine.execLeaseExpiry s
  | .pxdoneWrite => Sys2Proof.Machine.execPxdoneWrite s
  | .dbgctlHalt => Sys2Proof.Machine.execDbgctlHalt s
  | .dbgctlResume => Sys2Proof.Machine.execDbgctlResume s
  | .snaptrig => Sys2Proof.Machine.execSnaptrig s
  | .snapclr => Sys2Proof.Machine.execSnapclr s
  | .snapshotLatch => Sys2Proof.Machine.execSnapshotLatch s
  | .teldataRead => Sys2Proof.Machine.execTeldataRead s
  | .registerWrite => Sys2Proof.Machine.execRegisterWrite s
  | .create => Sys2Proof.Machine.execCreate s
  | .destroy => Sys2Proof.Machine.execDestroy s
  | .grow => Sys2Proof.Machine.execGrow s
  | .shrink => Sys2Proof.Machine.execShrink s
  | .compact => Sys2Proof.Machine.execCompact s
  | .setShare => Sys2Proof.Machine.execSetShare s
  | .setCaps => Sys2Proof.Machine.execSetCaps s
  | .errlogRead => Sys2Proof.Machine.execErrlogRead s
  | .droplogRead => Sys2Proof.Machine.execDroplogRead s
  | .snapRead => Sys2Proof.Machine.execSnapRead s
  | .snapClear => Sys2Proof.Machine.execSnapClear s
  | .shapeRead => Sys2Proof.Machine.execShapeRead s
  | .fwLoad => Sys2Proof.Machine.execFwLoad s
  | .mailboxUnknown => Sys2Proof.Machine.execMailboxUnknown s
  | .tileFailing => Sys2Proof.Machine.execTileFailing s
  | .coreReplaced => Sys2Proof.Machine.execCoreReplaced s
  | .channelDropped => Sys2Proof.Machine.execChannelDropped s
  | .droopTrip => Sys2Proof.Machine.execDroopTrip s
  | .clockStepUp => Sys2Proof.Machine.execClockStepUp s
  | .characterisationComplete => Sys2Proof.Machine.execCharacterisationComplete s
  | .scrubComplete => Sys2Proof.Machine.execScrubComplete s
  | .reset => Sys2Proof.Machine.execReset s
  | .atsTranslationCompletion => Sys2Proof.Machine.execAtsTranslationCompletion s
  | .prgResponse => Sys2Proof.Machine.execPrgResponse s
  | .atsInvalidateRequest => Sys2Proof.Machine.execAtsInvalidateRequest s
  | .vfReset => Sys2Proof.Machine.execVfReset s
  | .lockInterfaceRequest => Sys2Proof.Machine.execLockInterfaceRequest s
  | .getVersion => Sys2Proof.Machine.execGetVersion s
  | .getCapabilities => Sys2Proof.Machine.execGetCapabilities s
  | .negotiateAlgorithms => Sys2Proof.Machine.execNegotiateAlgorithms s
  | .getDigests => Sys2Proof.Machine.execGetDigests s
  | .getCertificate => Sys2Proof.Machine.execGetCertificate s
  | .challenge => Sys2Proof.Machine.execChallenge s
  | .getMeasurements => Sys2Proof.Machine.execGetMeasurements s
  | .keyExchange => Sys2Proof.Machine.execKeyExchange s
  | .finish => Sys2Proof.Machine.execFinish s
  | .heartbeat => Sys2Proof.Machine.execHeartbeat s
  | .keyUpdate => Sys2Proof.Machine.execKeyUpdate s
  | .endSession => Sys2Proof.Machine.execEndSession s
  | .vendorDefined => Sys2Proof.Machine.execVendorDefined s
  | .unsupportedRequest => Sys2Proof.Machine.execUnsupportedRequest s
  | .ideStreamViolation => Sys2Proof.Machine.execIdeStreamViolation s
  | .memAlloc => Sys2Proof.Machine.execMemAlloc s
  | .memFree => Sys2Proof.Machine.execMemFree s
  | .memMap => Sys2Proof.Machine.execMemMap s
  | .memUnmap => Sys2Proof.Machine.execMemUnmap s
  | .memProtect => Sys2Proof.Machine.execMemProtect s
  | .memQuery => Sys2Proof.Machine.execMemQuery s
  | .capMint => Sys2Proof.Machine.execCapMint s
  | .capRevoke => Sys2Proof.Machine.execCapRevoke s
  | .pinHost => Sys2Proof.Machine.execPinHost s
  | .unpinHost => Sys2Proof.Machine.execUnpinHost s
  | .gridLaunch => Sys2Proof.Machine.execGridLaunch s
  | .gridQuery => Sys2Proof.Machine.execGridQuery s
  | .gridCancel => Sys2Proof.Machine.execGridCancel s
  | .eventCreate => Sys2Proof.Machine.execEventCreate s
  | .eventSignal => Sys2Proof.Machine.execEventSignal s
  | .eventWait => Sys2Proof.Machine.execEventWait s
  | .queueInfo => Sys2Proof.Machine.execQueueInfo s
  | .detRecordFetch => Sys2Proof.Machine.execDetRecordFetch s
  | .uiVectorSet => Sys2Proof.Machine.execUiVectorSet s
  | .uiPermit => Sys2Proof.Machine.execUiPermit s
  | .uiRevoke => Sys2Proof.Machine.execUiRevoke s
  | .uiRoute => Sys2Proof.Machine.execUiRoute s
  | .uiQuery => Sys2Proof.Machine.execUiQuery s
  | .uiPostRemote => Sys2Proof.Machine.execUiPostRemote s
  | .fileOpen => Sys2Proof.Machine.execFileOpen s
  | .fileRead => Sys2Proof.Machine.execFileRead s
  | .fileWrite => Sys2Proof.Machine.execFileWrite s
  | .fileClose => Sys2Proof.Machine.execFileClose s
  | .fileStat => Sys2Proof.Machine.execFileStat s
  | .fileSeek => Sys2Proof.Machine.execFileSeek s
  | .dirList => Sys2Proof.Machine.execDirList s
  | .fileSync => Sys2Proof.Machine.execFileSync s
  | .netConnect => Sys2Proof.Machine.execNetConnect s
  | .netAccept => Sys2Proof.Machine.execNetAccept s
  | .netSend => Sys2Proof.Machine.execNetSend s
  | .netRecv => Sys2Proof.Machine.execNetRecv s
  | .netPoll => Sys2Proof.Machine.execNetPoll s
  | .netClose => Sys2Proof.Machine.execNetClose s
  | .logWrite => Sys2Proof.Machine.execLogWrite s
  | .counterRead => Sys2Proof.Machine.execCounterRead s
  | .attestQuote => Sys2Proof.Machine.execAttestQuote s
  | .reportFetch => Sys2Proof.Machine.execReportFetch s
  | .clockInfo => Sys2Proof.Machine.execClockInfo s
  | .random => Sys2Proof.Machine.execRandom s
  | .dbgHaltSelf => Sys2Proof.Machine.execDbgHaltSelf s
  | .dbgNotify => Sys2Proof.Machine.execDbgNotify s
  | .ctxYield => Sys2Proof.Machine.execCtxYield s
  | .ctxExit => Sys2Proof.Machine.execCtxExit s
  | .powerLoss => Sys2Proof.Machine.execPowerLoss s
  | .thermalMonitorTrip => Sys2Proof.Machine.execThermalMonitorTrip s
  | .powerEnvelope => Sys2Proof.Machine.execPowerEnvelope s
  | .coolantOutOfRange => Sys2Proof.Machine.execCoolantOutOfRange s
  | .linkRetrain => Sys2Proof.Machine.execLinkRetrain s
  | .hostAccess => Sys2Proof.Machine.execHostAccess s
  | .peerAccess => Sys2Proof.Machine.execPeerAccess s
  | .peerModuleUnreachable => Sys2Proof.Machine.execPeerModuleUnreachable s
  | .msixVectorUnmask => Sys2Proof.Machine.execMsixVectorUnmask s
  | .priEnable => Sys2Proof.Machine.execPriEnable s
  | .hostResume => Sys2Proof.Machine.execHostResume s

end Sys2Proof.Machine
end

