-- ==== Sys2Proof/Machine/Step.lean ====
section
/-! DEFINITION. One step: the choice of who moves next, or the turn that was chosen. -/

namespace Sys2Proof.Machine

/-- A batch's turn: the instruction it fetches, or what the fetch itself does. -/
def stepBatch (c w l : Nat) (s : State) : Outcome :=
  match batchInstr s c w l with
  | some i => exec i s
  | none => .next (batchOtherwise s c w l)

/-- An address slice's turn. -/
def stepSlice (c : Nat) (s : State) : Outcome :=
  match sliceInstr s c with
  | some i => exec i s
  | none => .next (sliceOtherwise s c)

/-- One step of the machine. -/
def step (s : State) : Host.Outcome State Fault Refusal :=
  match s.turn with
  | .choose => .next (chooseNext s)
  | .batch c w l => stepBatch c w l s
  | .slice c => stepSlice c s
  | .event h => exec h.kind s

/-- The state with a word of the opcode table placed as the program of a new block, and the turn that runs it (log 25). -/
def State.withFetchWord (s : State) (_nbits w : Nat) : State :=
  let m := withPartition s.mgmt
  { s with mgmt := m, run := withProgram m s.run (w % 2 ^ 32), turn := programTurn s.run (w % 2 ^ 32) }

end Sys2Proof.Machine
end

