-- ==== Sys2Proof/Laws/PerInstr.lean ====
section
/-! SUPPORT. Per-instruction lemmas: decoding the word of a well-formed instruction in its slice gives it back. -/

-- One declaration after another: declarations that wait for one another would each hold a thread.
set_option Elab.async false

namespace Sys2Proof.Laws.RoundTrip

open Sys2Proof Sys2Proof.Machine

/-- Decoding the word of the instruction, when it has one and is well formed, gives it back. -/
def Statement (i : Instr) : Prop := ∀ w, i.wf = true → encode i = some w → decode i.slice w = .ok i

theorem ifZero_true {z : Bool} {i : Instr} (h : z = true) : ifZero z i = .ok i := by rw [h]; rfl
theorem ifHint_true {z : Bool} {i : Instr} (h : z = true) : ifHint z i = .ok i := by rw [h]; rfl

/-- A major that is neither ill nor reserved is read by the slice's own table. -/
theorem decode_compute {w m : Nat} (h : bits w 30 24 = m) (h0 : (m == 0 || m == 127 || reservedMajor m) = false) :
    decode .compute w = decodeCompute w := by
  simp only [Bool.or_eq_false_iff, beq_eq_false_iff_ne] at h0
  unfold decode; rw [h, if_neg (by omega), h0.2]; rfl
theorem decode_address {w m : Nat} (h : bits w 30 24 = m) (h0 : (m == 0 || m == 127 || reservedMajor m) = false) :
    decode .address w = decodeAddress w := by
  simp only [Bool.or_eq_false_iff, beq_eq_false_iff_ne] at h0
  unfold decode; rw [h, if_neg (by omega), h0.2]; rfl

theorem decodeCompute_1 {w : Nat} (h : bits w 30 24 = 1) : decodeCompute w = .ok (.fadd (.ofWord w)) := by unfold decodeCompute; rw [h]; rfl
theorem fadd (o : OpV) : Statement (.fadd o) := by
  obtain ⟨f_bd, f_fm, f_d, f_a, f_b⟩ := o
  intro w hw he
  have he := Option.some.inj he
  have hw : OpV.wf _ = true := hw
  dsimp only [OpV.toBits] at he
  simp only [OpV.wf, Bool.and_eq_true, decide_eq_true_eq] at hw
  have hM : bits w 30 24 = 1 := by simp only [bits]; omega
  have hf : OpV.ofWord w = ⟨f_bd, f_fm, f_d, f_a, f_b⟩ := by
    simp only [OpV.ofWord, bits, OpV.mk.injEq]; omega
  refine (decode_compute hM (by decide)).trans ((decodeCompute_1 hM).trans ?_)
  exact congrArg (fun x => Except.ok (Instr.fadd x)) hf
theorem decodeCompute_2 {w : Nat} (h : bits w 30 24 = 2) : decodeCompute w = .ok (.fsub (.ofWord w)) := by unfold decodeCompute; rw [h]; rfl
theorem fsub (o : OpV) : Statement (.fsub o) := by
  obtain ⟨f_bd, f_fm, f_d, f_a, f_b⟩ := o
  intro w hw he
  have he := Option.some.inj he
  have hw : OpV.wf _ = true := hw
  dsimp only [OpV.toBits] at he
  simp only [OpV.wf, Bool.and_eq_true, decide_eq_true_eq] at hw
  have hM : bits w 30 24 = 2 := by simp only [bits]; omega
  have hf : OpV.ofWord w = ⟨f_bd, f_fm, f_d, f_a, f_b⟩ := by
    simp only [OpV.ofWord, bits, OpV.mk.injEq]; omega
  refine (decode_compute hM (by decide)).trans ((decodeCompute_2 hM).trans ?_)
  exact congrArg (fun x => Except.ok (Instr.fsub x)) hf
theorem decodeCompute_3 {w : Nat} (h : bits w 30 24 = 3) : decodeCompute w = .ok (.fmul (.ofWord w)) := by unfold decodeCompute; rw [h]; rfl
theorem fmul (o : OpV) : Statement (.fmul o) := by
  obtain ⟨f_bd, f_fm, f_d, f_a, f_b⟩ := o
  intro w hw he
  have he := Option.some.inj he
  have hw : OpV.wf _ = true := hw
  dsimp only [OpV.toBits] at he
  simp only [OpV.wf, Bool.and_eq_true, decide_eq_true_eq] at hw
  have hM : bits w 30 24 = 3 := by simp only [bits]; omega
  have hf : OpV.ofWord w = ⟨f_bd, f_fm, f_d, f_a, f_b⟩ := by
    simp only [OpV.ofWord, bits, OpV.mk.injEq]; omega
  refine (decode_compute hM (by decide)).trans ((decodeCompute_3 hM).trans ?_)
  exact congrArg (fun x => Except.ok (Instr.fmul x)) hf
theorem decodeCompute_4 {w : Nat} (h : bits w 30 24 = 4) : decodeCompute w = .ok (.ffma (.ofWord w)) := by unfold decodeCompute; rw [h]; rfl
theorem ffma (o : OpV) : Statement (.ffma o) := by
  obtain ⟨f_bd, f_fm, f_d, f_a, f_b⟩ := o
  intro w hw he
  have he := Option.some.inj he
  have hw : OpV.wf _ = true := hw
  dsimp only [OpV.toBits] at he
  simp only [OpV.wf, Bool.and_eq_true, decide_eq_true_eq] at hw
  have hM : bits w 30 24 = 4 := by simp only [bits]; omega
  have hf : OpV.ofWord w = ⟨f_bd, f_fm, f_d, f_a, f_b⟩ := by
    simp only [OpV.ofWord, bits, OpV.mk.injEq]; omega
  refine (decode_compute hM (by decide)).trans ((decodeCompute_4 hM).trans ?_)
  exact congrArg (fun x => Except.ok (Instr.ffma x)) hf
theorem decodeCompute_5 {w : Nat} (h : bits w 30 24 = 5) : decodeCompute w = .ok (.fmin (.ofWord w)) := by unfold decodeCompute; rw [h]; rfl
theorem fmin (o : OpV) : Statement (.fmin o) := by
  obtain ⟨f_bd, f_fm, f_d, f_a, f_b⟩ := o
  intro w hw he
  have he := Option.some.inj he
  have hw : OpV.wf _ = true := hw
  dsimp only [OpV.toBits] at he
  simp only [OpV.wf, Bool.and_eq_true, decide_eq_true_eq] at hw
  have hM : bits w 30 24 = 5 := by simp only [bits]; omega
  have hf : OpV.ofWord w = ⟨f_bd, f_fm, f_d, f_a, f_b⟩ := by
    simp only [OpV.ofWord, bits, OpV.mk.injEq]; omega
  refine (decode_compute hM (by decide)).trans ((decodeCompute_5 hM).trans ?_)
  exact congrArg (fun x => Except.ok (Instr.fmin x)) hf
theorem decodeCompute_6 {w : Nat} (h : bits w 30 24 = 6) : decodeCompute w = .ok (.fmax (.ofWord w)) := by unfold decodeCompute; rw [h]; rfl
theorem fmax (o : OpV) : Statement (.fmax o) := by
  obtain ⟨f_bd, f_fm, f_d, f_a, f_b⟩ := o
  intro w hw he
  have he := Option.some.inj he
  have hw : OpV.wf _ = true := hw
  dsimp only [OpV.toBits] at he
  simp only [OpV.wf, Bool.and_eq_true, decide_eq_true_eq] at hw
  have hM : bits w 30 24 = 6 := by simp only [bits]; omega
  have hf : OpV.ofWord w = ⟨f_bd, f_fm, f_d, f_a, f_b⟩ := by
    simp only [OpV.ofWord, bits, OpV.mk.injEq]; omega
  refine (decode_compute hM (by decide)).trans ((decodeCompute_6 hM).trans ?_)
  exact congrArg (fun x => Except.ok (Instr.fmax x)) hf
theorem decodeCompute_7 {w : Nat} (h : bits w 30 24 = 7) : decodeCompute w = .ok (.hadd2 (.ofWord w)) := by unfold decodeCompute; rw [h]; rfl
theorem hadd2 (o : OpV) : Statement (.hadd2 o) := by
  obtain ⟨f_bd, f_fm, f_d, f_a, f_b⟩ := o
  intro w hw he
  have he := Option.some.inj he
  have hw : OpV.wf _ = true := hw
  dsimp only [OpV.toBits] at he
  simp only [OpV.wf, Bool.and_eq_true, decide_eq_true_eq] at hw
  have hM : bits w 30 24 = 7 := by simp only [bits]; omega
  have hf : OpV.ofWord w = ⟨f_bd, f_fm, f_d, f_a, f_b⟩ := by
    simp only [OpV.ofWord, bits, OpV.mk.injEq]; omega
  refine (decode_compute hM (by decide)).trans ((decodeCompute_7 hM).trans ?_)
  exact congrArg (fun x => Except.ok (Instr.hadd2 x)) hf
theorem decodeCompute_8 {w : Nat} (h : bits w 30 24 = 8) : decodeCompute w = .ok (.hmul2 (.ofWord w)) := by unfold decodeCompute; rw [h]; rfl
theorem hmul2 (o : OpV) : Statement (.hmul2 o) := by
  obtain ⟨f_bd, f_fm, f_d, f_a, f_b⟩ := o
  intro w hw he
  have he := Option.some.inj he
  have hw : OpV.wf _ = true := hw
  dsimp only [OpV.toBits] at he
  simp only [OpV.wf, Bool.and_eq_true, decide_eq_true_eq] at hw
  have hM : bits w 30 24 = 8 := by simp only [bits]; omega
  have hf : OpV.ofWord w = ⟨f_bd, f_fm, f_d, f_a, f_b⟩ := by
    simp only [OpV.ofWord, bits, OpV.mk.injEq]; omega
  refine (decode_compute hM (by decide)).trans ((decodeCompute_8 hM).trans ?_)
  exact congrArg (fun x => Except.ok (Instr.hmul2 x)) hf
theorem decodeCompute_9 {w : Nat} (h : bits w 30 24 = 9) : decodeCompute w = .ok (.hfma2 (.ofWord w)) := by unfold decodeCompute; rw [h]; rfl
theorem hfma2 (o : OpV) : Statement (.hfma2 o) := by
  obtain ⟨f_bd, f_fm, f_d, f_a, f_b⟩ := o
  intro w hw he
  have he := Option.some.inj he
  have hw : OpV.wf _ = true := hw
  dsimp only [OpV.toBits] at he
  simp only [OpV.wf, Bool.and_eq_true, decide_eq_true_eq] at hw
  have hM : bits w 30 24 = 9 := by simp only [bits]; omega
  have hf : OpV.ofWord w = ⟨f_bd, f_fm, f_d, f_a, f_b⟩ := by
    simp only [OpV.ofWord, bits, OpV.mk.injEq]; omega
  refine (decode_compute hM (by decide)).trans ((decodeCompute_9 hM).trans ?_)
  exact congrArg (fun x => Except.ok (Instr.hfma2 x)) hf
theorem decodeCompute_10 {w : Nat} (h : bits w 30 24 = 10) : decodeCompute w = .ok (.badd2 (.ofWord w)) := by unfold decodeCompute; rw [h]; rfl
theorem badd2 (o : OpV) : Statement (.badd2 o) := by
  obtain ⟨f_bd, f_fm, f_d, f_a, f_b⟩ := o
  intro w hw he
  have he := Option.some.inj he
  have hw : OpV.wf _ = true := hw
  dsimp only [OpV.toBits] at he
  simp only [OpV.wf, Bool.and_eq_true, decide_eq_true_eq] at hw
  have hM : bits w 30 24 = 10 := by simp only [bits]; omega
  have hf : OpV.ofWord w = ⟨f_bd, f_fm, f_d, f_a, f_b⟩ := by
    simp only [OpV.ofWord, bits, OpV.mk.injEq]; omega
  refine (decode_compute hM (by decide)).trans ((decodeCompute_10 hM).trans ?_)
  exact congrArg (fun x => Except.ok (Instr.badd2 x)) hf
theorem decodeCompute_11 {w : Nat} (h : bits w 30 24 = 11) : decodeCompute w = .ok (.bmul2 (.ofWord w)) := by unfold decodeCompute; rw [h]; rfl
theorem bmul2 (o : OpV) : Statement (.bmul2 o) := by
  obtain ⟨f_bd, f_fm, f_d, f_a, f_b⟩ := o
  intro w hw he
  have he := Option.some.inj he
  have hw : OpV.wf _ = true := hw
  dsimp only [OpV.toBits] at he
  simp only [OpV.wf, Bool.and_eq_true, decide_eq_true_eq] at hw
  have hM : bits w 30 24 = 11 := by simp only [bits]; omega
  have hf : OpV.ofWord w = ⟨f_bd, f_fm, f_d, f_a, f_b⟩ := by
    simp only [OpV.ofWord, bits, OpV.mk.injEq]; omega
  refine (decode_compute hM (by decide)).trans ((decodeCompute_11 hM).trans ?_)
  exact congrArg (fun x => Except.ok (Instr.bmul2 x)) hf
theorem decodeCompute_12 {w : Nat} (h : bits w 30 24 = 12) : decodeCompute w = .ok (.bfma2 (.ofWord w)) := by unfold decodeCompute; rw [h]; rfl
theorem bfma2 (o : OpV) : Statement (.bfma2 o) := by
  obtain ⟨f_bd, f_fm, f_d, f_a, f_b⟩ := o
  intro w hw he
  have he := Option.some.inj he
  have hw : OpV.wf _ = true := hw
  dsimp only [OpV.toBits] at he
  simp only [OpV.wf, Bool.and_eq_true, decide_eq_true_eq] at hw
  have hM : bits w 30 24 = 12 := by simp only [bits]; omega
  have hf : OpV.ofWord w = ⟨f_bd, f_fm, f_d, f_a, f_b⟩ := by
    simp only [OpV.ofWord, bits, OpV.mk.injEq]; omega
  refine (decode_compute hM (by decide)).trans ((decodeCompute_12 hM).trans ?_)
  exact congrArg (fun x => Except.ok (Instr.bfma2 x)) hf
theorem decodeCompute_13 {w : Nat} (h : bits w 30 24 = 13) : decodeCompute w = .ok (.iadd (.ofWord w)) := by unfold decodeCompute; rw [h]; rfl
theorem iadd (o : OpV) : Statement (.iadd o) := by
  obtain ⟨f_bd, f_fm, f_d, f_a, f_b⟩ := o
  intro w hw he
  have he := Option.some.inj he
  have hw : OpV.wf _ = true := hw
  dsimp only [OpV.toBits] at he
  simp only [OpV.wf, Bool.and_eq_true, decide_eq_true_eq] at hw
  have hM : bits w 30 24 = 13 := by simp only [bits]; omega
  have hf : OpV.ofWord w = ⟨f_bd, f_fm, f_d, f_a, f_b⟩ := by
    simp only [OpV.ofWord, bits, OpV.mk.injEq]; omega
  refine (decode_compute hM (by decide)).trans ((decodeCompute_13 hM).trans ?_)
  exact congrArg (fun x => Except.ok (Instr.iadd x)) hf
theorem decodeCompute_14 {w : Nat} (h : bits w 30 24 = 14) : decodeCompute w = .ok (.isub (.ofWord w)) := by unfold decodeCompute; rw [h]; rfl
theorem isub (o : OpV) : Statement (.isub o) := by
  obtain ⟨f_bd, f_fm, f_d, f_a, f_b⟩ := o
  intro w hw he
  have he := Option.some.inj he
  have hw : OpV.wf _ = true := hw
  dsimp only [OpV.toBits] at he
  simp only [OpV.wf, Bool.and_eq_true, decide_eq_true_eq] at hw
  have hM : bits w 30 24 = 14 := by simp only [bits]; omega
  have hf : OpV.ofWord w = ⟨f_bd, f_fm, f_d, f_a, f_b⟩ := by
    simp only [OpV.ofWord, bits, OpV.mk.injEq]; omega
  refine (decode_compute hM (by decide)).trans ((decodeCompute_14 hM).trans ?_)
  exact congrArg (fun x => Except.ok (Instr.isub x)) hf
theorem decodeCompute_15 {w : Nat} (h : bits w 30 24 = 15) : decodeCompute w = .ok (.imul (.ofWord w)) := by unfold decodeCompute; rw [h]; rfl
theorem imul (o : OpV) : Statement (.imul o) := by
  obtain ⟨f_bd, f_fm, f_d, f_a, f_b⟩ := o
  intro w hw he
  have he := Option.some.inj he
  have hw : OpV.wf _ = true := hw
  dsimp only [OpV.toBits] at he
  simp only [OpV.wf, Bool.and_eq_true, decide_eq_true_eq] at hw
  have hM : bits w 30 24 = 15 := by simp only [bits]; omega
  have hf : OpV.ofWord w = ⟨f_bd, f_fm, f_d, f_a, f_b⟩ := by
    simp only [OpV.ofWord, bits, OpV.mk.injEq]; omega
  refine (decode_compute hM (by decide)).trans ((decodeCompute_15 hM).trans ?_)
  exact congrArg (fun x => Except.ok (Instr.imul x)) hf
theorem decodeCompute_16 {w : Nat} (h : bits w 30 24 = 16) : decodeCompute w = .ok (.imad (.ofWord w)) := by unfold decodeCompute; rw [h]; rfl
theorem imad (o : OpV) : Statement (.imad o) := by
  obtain ⟨f_bd, f_fm, f_d, f_a, f_b⟩ := o
  intro w hw he
  have he := Option.some.inj he
  have hw : OpV.wf _ = true := hw
  dsimp only [OpV.toBits] at he
  simp only [OpV.wf, Bool.and_eq_true, decide_eq_true_eq] at hw
  have hM : bits w 30 24 = 16 := by simp only [bits]; omega
  have hf : OpV.ofWord w = ⟨f_bd, f_fm, f_d, f_a, f_b⟩ := by
    simp only [OpV.ofWord, bits, OpV.mk.injEq]; omega
  refine (decode_compute hM (by decide)).trans ((decodeCompute_16 hM).trans ?_)
  exact congrArg (fun x => Except.ok (Instr.imad x)) hf
theorem decodeCompute_17 {w : Nat} (h : bits w 30 24 = 17) : decodeCompute w = .ok (.imulh (.ofWord w)) := by unfold decodeCompute; rw [h]; rfl
theorem imulh (o : OpV) : Statement (.imulh o) := by
  obtain ⟨f_bd, f_fm, f_d, f_a, f_b⟩ := o
  intro w hw he
  have he := Option.some.inj he
  have hw : OpV.wf _ = true := hw
  dsimp only [OpV.toBits] at he
  simp only [OpV.wf, Bool.and_eq_true, decide_eq_true_eq] at hw
  have hM : bits w 30 24 = 17 := by simp only [bits]; omega
  have hf : OpV.ofWord w = ⟨f_bd, f_fm, f_d, f_a, f_b⟩ := by
    simp only [OpV.ofWord, bits, OpV.mk.injEq]; omega
  refine (decode_compute hM (by decide)).trans ((decodeCompute_17 hM).trans ?_)
  exact congrArg (fun x => Except.ok (Instr.imulh x)) hf
theorem decodeCompute_18 {w : Nat} (h : bits w 30 24 = 18) : decodeCompute w = .ok (.imin (.ofWord w)) := by unfold decodeCompute; rw [h]; rfl
theorem imin (o : OpV) : Statement (.imin o) := by
  obtain ⟨f_bd, f_fm, f_d, f_a, f_b⟩ := o
  intro w hw he
  have he := Option.some.inj he
  have hw : OpV.wf _ = true := hw
  dsimp only [OpV.toBits] at he
  simp only [OpV.wf, Bool.and_eq_true, decide_eq_true_eq] at hw
  have hM : bits w 30 24 = 18 := by simp only [bits]; omega
  have hf : OpV.ofWord w = ⟨f_bd, f_fm, f_d, f_a, f_b⟩ := by
    simp only [OpV.ofWord, bits, OpV.mk.injEq]; omega
  refine (decode_compute hM (by decide)).trans ((decodeCompute_18 hM).trans ?_)
  exact congrArg (fun x => Except.ok (Instr.imin x)) hf
theorem decodeCompute_19 {w : Nat} (h : bits w 30 24 = 19) : decodeCompute w = .ok (.imax (.ofWord w)) := by unfold decodeCompute; rw [h]; rfl
theorem imax (o : OpV) : Statement (.imax o) := by
  obtain ⟨f_bd, f_fm, f_d, f_a, f_b⟩ := o
  intro w hw he
  have he := Option.some.inj he
  have hw : OpV.wf _ = true := hw
  dsimp only [OpV.toBits] at he
  simp only [OpV.wf, Bool.and_eq_true, decide_eq_true_eq] at hw
  have hM : bits w 30 24 = 19 := by simp only [bits]; omega
  have hf : OpV.ofWord w = ⟨f_bd, f_fm, f_d, f_a, f_b⟩ := by
    simp only [OpV.ofWord, bits, OpV.mk.injEq]; omega
  refine (decode_compute hM (by decide)).trans ((decodeCompute_19 hM).trans ?_)
  exact congrArg (fun x => Except.ok (Instr.imax x)) hf
theorem decodeCompute_20 {w : Nat} (h : bits w 30 24 = 20) : decodeCompute w = .ok (.iminn (.ofWord w)) := by unfold decodeCompute; rw [h]; rfl
theorem iminn (o : OpV) : Statement (.iminn o) := by
  obtain ⟨f_bd, f_fm, f_d, f_a, f_b⟩ := o
  intro w hw he
  have he := Option.some.inj he
  have hw : OpV.wf _ = true := hw
  dsimp only [OpV.toBits] at he
  simp only [OpV.wf, Bool.and_eq_true, decide_eq_true_eq] at hw
  have hM : bits w 30 24 = 20 := by simp only [bits]; omega
  have hf : OpV.ofWord w = ⟨f_bd, f_fm, f_d, f_a, f_b⟩ := by
    simp only [OpV.ofWord, bits, OpV.mk.injEq]; omega
  refine (decode_compute hM (by decide)).trans ((decodeCompute_20 hM).trans ?_)
  exact congrArg (fun x => Except.ok (Instr.iminn x)) hf
theorem decodeCompute_21 {w : Nat} (h : bits w 30 24 = 21) : decodeCompute w = .ok (.imaxn (.ofWord w)) := by unfold decodeCompute; rw [h]; rfl
theorem imaxn (o : OpV) : Statement (.imaxn o) := by
  obtain ⟨f_bd, f_fm, f_d, f_a, f_b⟩ := o
  intro w hw he
  have he := Option.some.inj he
  have hw : OpV.wf _ = true := hw
  dsimp only [OpV.toBits] at he
  simp only [OpV.wf, Bool.and_eq_true, decide_eq_true_eq] at hw
  have hM : bits w 30 24 = 21 := by simp only [bits]; omega
  have hf : OpV.ofWord w = ⟨f_bd, f_fm, f_d, f_a, f_b⟩ := by
    simp only [OpV.ofWord, bits, OpV.mk.injEq]; omega
  refine (decode_compute hM (by decide)).trans ((decodeCompute_21 hM).trans ?_)
  exact congrArg (fun x => Except.ok (Instr.imaxn x)) hf
theorem decodeCompute_22 {w : Nat} (h : bits w 30 24 = 22) : decodeCompute w = .ok (.and (.ofWord w)) := by unfold decodeCompute; rw [h]; rfl
theorem and (o : OpV) : Statement (.and o) := by
  obtain ⟨f_bd, f_fm, f_d, f_a, f_b⟩ := o
  intro w hw he
  have he := Option.some.inj he
  have hw : OpV.wf _ = true := hw
  dsimp only [OpV.toBits] at he
  simp only [OpV.wf, Bool.and_eq_true, decide_eq_true_eq] at hw
  have hM : bits w 30 24 = 22 := by simp only [bits]; omega
  have hf : OpV.ofWord w = ⟨f_bd, f_fm, f_d, f_a, f_b⟩ := by
    simp only [OpV.ofWord, bits, OpV.mk.injEq]; omega
  refine (decode_compute hM (by decide)).trans ((decodeCompute_22 hM).trans ?_)
  exact congrArg (fun x => Except.ok (Instr.and x)) hf
theorem decodeCompute_23 {w : Nat} (h : bits w 30 24 = 23) : decodeCompute w = .ok (.or (.ofWord w)) := by unfold decodeCompute; rw [h]; rfl
theorem or (o : OpV) : Statement (.or o) := by
  obtain ⟨f_bd, f_fm, f_d, f_a, f_b⟩ := o
  intro w hw he
  have he := Option.some.inj he
  have hw : OpV.wf _ = true := hw
  dsimp only [OpV.toBits] at he
  simp only [OpV.wf, Bool.and_eq_true, decide_eq_true_eq] at hw
  have hM : bits w 30 24 = 23 := by simp only [bits]; omega
  have hf : OpV.ofWord w = ⟨f_bd, f_fm, f_d, f_a, f_b⟩ := by
    simp only [OpV.ofWord, bits, OpV.mk.injEq]; omega
  refine (decode_compute hM (by decide)).trans ((decodeCompute_23 hM).trans ?_)
  exact congrArg (fun x => Except.ok (Instr.or x)) hf
theorem decodeCompute_24 {w : Nat} (h : bits w 30 24 = 24) : decodeCompute w = .ok (.xor (.ofWord w)) := by unfold decodeCompute; rw [h]; rfl
theorem xor (o : OpV) : Statement (.xor o) := by
  obtain ⟨f_bd, f_fm, f_d, f_a, f_b⟩ := o
  intro w hw he
  have he := Option.some.inj he
  have hw : OpV.wf _ = true := hw
  dsimp only [OpV.toBits] at he
  simp only [OpV.wf, Bool.and_eq_true, decide_eq_true_eq] at hw
  have hM : bits w 30 24 = 24 := by simp only [bits]; omega
  have hf : OpV.ofWord w = ⟨f_bd, f_fm, f_d, f_a, f_b⟩ := by
    simp only [OpV.ofWord, bits, OpV.mk.injEq]; omega
  refine (decode_compute hM (by decide)).trans ((decodeCompute_24 hM).trans ?_)
  exact congrArg (fun x => Except.ok (Instr.xor x)) hf
theorem decodeCompute_25 {w : Nat} (h : bits w 30 24 = 25) : decodeCompute w = .ok (.andn (.ofWord w)) := by unfold decodeCompute; rw [h]; rfl
theorem andn (o : OpV) : Statement (.andn o) := by
  obtain ⟨f_bd, f_fm, f_d, f_a, f_b⟩ := o
  intro w hw he
  have he := Option.some.inj he
  have hw : OpV.wf _ = true := hw
  dsimp only [OpV.toBits] at he
  simp only [OpV.wf, Bool.and_eq_true, decide_eq_true_eq] at hw
  have hM : bits w 30 24 = 25 := by simp only [bits]; omega
  have hf : OpV.ofWord w = ⟨f_bd, f_fm, f_d, f_a, f_b⟩ := by
    simp only [OpV.ofWord, bits, OpV.mk.injEq]; omega
  refine (decode_compute hM (by decide)).trans ((decodeCompute_25 hM).trans ?_)
  exact congrArg (fun x => Except.ok (Instr.andn x)) hf
theorem decodeCompute_26 {w : Nat} (h : bits w 30 24 = 26) : decodeCompute w = .ok (.shl (.ofWord w)) := by unfold decodeCompute; rw [h]; rfl
theorem shl (o : OpV) : Statement (.shl o) := by
  obtain ⟨f_bd, f_fm, f_d, f_a, f_b⟩ := o
  intro w hw he
  have he := Option.some.inj he
  have hw : OpV.wf _ = true := hw
  dsimp only [OpV.toBits] at he
  simp only [OpV.wf, Bool.and_eq_true, decide_eq_true_eq] at hw
  have hM : bits w 30 24 = 26 := by simp only [bits]; omega
  have hf : OpV.ofWord w = ⟨f_bd, f_fm, f_d, f_a, f_b⟩ := by
    simp only [OpV.ofWord, bits, OpV.mk.injEq]; omega
  refine (decode_compute hM (by decide)).trans ((decodeCompute_26 hM).trans ?_)
  exact congrArg (fun x => Except.ok (Instr.shl x)) hf
theorem decodeCompute_27 {w : Nat} (h : bits w 30 24 = 27) : decodeCompute w = .ok (.shr (.ofWord w)) := by unfold decodeCompute; rw [h]; rfl
theorem shr (o : OpV) : Statement (.shr o) := by
  obtain ⟨f_bd, f_fm, f_d, f_a, f_b⟩ := o
  intro w hw he
  have he := Option.some.inj he
  have hw : OpV.wf _ = true := hw
  dsimp only [OpV.toBits] at he
  simp only [OpV.wf, Bool.and_eq_true, decide_eq_true_eq] at hw
  have hM : bits w 30 24 = 27 := by simp only [bits]; omega
  have hf : OpV.ofWord w = ⟨f_bd, f_fm, f_d, f_a, f_b⟩ := by
    simp only [OpV.ofWord, bits, OpV.mk.injEq]; omega
  refine (decode_compute hM (by decide)).trans ((decodeCompute_27 hM).trans ?_)
  exact congrArg (fun x => Except.ok (Instr.shr x)) hf
theorem decodeCompute_28 {w : Nat} (h : bits w 30 24 = 28) : decodeCompute w = .ok (.sar (.ofWord w)) := by unfold decodeCompute; rw [h]; rfl
theorem sar (o : OpV) : Statement (.sar o) := by
  obtain ⟨f_bd, f_fm, f_d, f_a, f_b⟩ := o
  intro w hw he
  have he := Option.some.inj he
  have hw : OpV.wf _ = true := hw
  dsimp only [OpV.toBits] at he
  simp only [OpV.wf, Bool.and_eq_true, decide_eq_true_eq] at hw
  have hM : bits w 30 24 = 28 := by simp only [bits]; omega
  have hf : OpV.ofWord w = ⟨f_bd, f_fm, f_d, f_a, f_b⟩ := by
    simp only [OpV.ofWord, bits, OpV.mk.injEq]; omega
  refine (decode_compute hM (by decide)).trans ((decodeCompute_28 hM).trans ?_)
  exact congrArg (fun x => Except.ok (Instr.sar x)) hf
theorem decodeCompute_29 {w : Nat} (h : bits w 30 24 = 29) : decodeCompute w = .ok (.funl (.ofWord w)) := by unfold decodeCompute; rw [h]; rfl
theorem funl (o : OpV) : Statement (.funl o) := by
  obtain ⟨f_bd, f_fm, f_d, f_a, f_b⟩ := o
  intro w hw he
  have he := Option.some.inj he
  have hw : OpV.wf _ = true := hw
  dsimp only [OpV.toBits] at he
  simp only [OpV.wf, Bool.and_eq_true, decide_eq_true_eq] at hw
  have hM : bits w 30 24 = 29 := by simp only [bits]; omega
  have hf : OpV.ofWord w = ⟨f_bd, f_fm, f_d, f_a, f_b⟩ := by
    simp only [OpV.ofWord, bits, OpV.mk.injEq]; omega
  refine (decode_compute hM (by decide)).trans ((decodeCompute_29 hM).trans ?_)
  exact congrArg (fun x => Except.ok (Instr.funl x)) hf
theorem decodeCompute_30 {w : Nat} (h : bits w 30 24 = 30) : decodeCompute w = .ok (.prmt (.ofWord w)) := by unfold decodeCompute; rw [h]; rfl
theorem prmt (o : OpV) : Statement (.prmt o) := by
  obtain ⟨f_bd, f_fm, f_d, f_a, f_b⟩ := o
  intro w hw he
  have he := Option.some.inj he
  have hw : OpV.wf _ = true := hw
  dsimp only [OpV.toBits] at he
  simp only [OpV.wf, Bool.and_eq_true, decide_eq_true_eq] at hw
  have hM : bits w 30 24 = 30 := by simp only [bits]; omega
  have hf : OpV.ofWord w = ⟨f_bd, f_fm, f_d, f_a, f_b⟩ := by
    simp only [OpV.ofWord, bits, OpV.mk.injEq]; omega
  refine (decode_compute hM (by decide)).trans ((decodeCompute_30 hM).trans ?_)
  exact congrArg (fun x => Except.ok (Instr.prmt x)) hf
theorem decodeCompute_31 {w : Nat} (h : bits w 30 24 = 31) : decodeCompute w = .ok (.dp4a (.ofWord w)) := by unfold decodeCompute; rw [h]; rfl
theorem dp4a (o : OpV) : Statement (.dp4a o) := by
  obtain ⟨f_bd, f_fm, f_d, f_a, f_b⟩ := o
  intro w hw he
  have he := Option.some.inj he
  have hw : OpV.wf _ = true := hw
  dsimp only [OpV.toBits] at he
  simp only [OpV.wf, Bool.and_eq_true, decide_eq_true_eq] at hw
  have hM : bits w 30 24 = 31 := by simp only [bits]; omega
  have hf : OpV.ofWord w = ⟨f_bd, f_fm, f_d, f_a, f_b⟩ := by
    simp only [OpV.ofWord, bits, OpV.mk.injEq]; omega
  refine (decode_compute hM (by decide)).trans ((decodeCompute_31 hM).trans ?_)
  exact congrArg (fun x => Except.ok (Instr.dp4a x)) hf
theorem decodeCompute_32 {w : Nat} (h : bits w 30 24 = 32) : decodeCompute w = .ok (.bsubs (.ofWord w)) := by unfold decodeCompute; rw [h]; rfl
theorem bsubs (o : OpV) : Statement (.bsubs o) := by
  obtain ⟨f_bd, f_fm, f_d, f_a, f_b⟩ := o
  intro w hw he
  have he := Option.some.inj he
  have hw : OpV.wf _ = true := hw
  dsimp only [OpV.toBits] at he
  simp only [OpV.wf, Bool.and_eq_true, decide_eq_true_eq] at hw
  have hM : bits w 30 24 = 32 := by simp only [bits]; omega
  have hf : OpV.ofWord w = ⟨f_bd, f_fm, f_d, f_a, f_b⟩ := by
    simp only [OpV.ofWord, bits, OpV.mk.injEq]; omega
  refine (decode_compute hM (by decide)).trans ((decodeCompute_32 hM).trans ?_)
  exact congrArg (fun x => Except.ok (Instr.bsubs x)) hf
theorem decodeCompute_33 {w : Nat} (h : bits w 30 24 = 33) : decodeCompute w = .ok (.bminu (.ofWord w)) := by unfold decodeCompute; rw [h]; rfl
theorem bminu (o : OpV) : Statement (.bminu o) := by
  obtain ⟨f_bd, f_fm, f_d, f_a, f_b⟩ := o
  intro w hw he
  have he := Option.some.inj he
  have hw : OpV.wf _ = true := hw
  dsimp only [OpV.toBits] at he
  simp only [OpV.wf, Bool.and_eq_true, decide_eq_true_eq] at hw
  have hM : bits w 30 24 = 33 := by simp only [bits]; omega
  have hf : OpV.ofWord w = ⟨f_bd, f_fm, f_d, f_a, f_b⟩ := by
    simp only [OpV.ofWord, bits, OpV.mk.injEq]; omega
  refine (decode_compute hM (by decide)).trans ((decodeCompute_33 hM).trans ?_)
  exact congrArg (fun x => Except.ok (Instr.bminu x)) hf
theorem decodeCompute_34 {w : Nat} (h : bits w 30 24 = 34) : decodeCompute w = .ok (.nlutl (.ofWord w)) := by unfold decodeCompute; rw [h]; rfl
theorem nlutl (o : OpV) : Statement (.nlutl o) := by
  obtain ⟨f_bd, f_fm, f_d, f_a, f_b⟩ := o
  intro w hw he
  have he := Option.some.inj he
  have hw : OpV.wf _ = true := hw
  dsimp only [OpV.toBits] at he
  simp only [OpV.wf, Bool.and_eq_true, decide_eq_true_eq] at hw
  have hM : bits w 30 24 = 34 := by simp only [bits]; omega
  have hf : OpV.ofWord w = ⟨f_bd, f_fm, f_d, f_a, f_b⟩ := by
    simp only [OpV.ofWord, bits, OpV.mk.injEq]; omega
  refine (decode_compute hM (by decide)).trans ((decodeCompute_34 hM).trans ?_)
  exact congrArg (fun x => Except.ok (Instr.nlutl x)) hf
theorem decodeCompute_35 {w : Nat} (h : bits w 30 24 = 35) : decodeCompute w = .ok (.nluth (.ofWord w)) := by unfold decodeCompute; rw [h]; rfl
theorem nluth (o : OpV) : Statement (.nluth o) := by
  obtain ⟨f_bd, f_fm, f_d, f_a, f_b⟩ := o
  intro w hw he
  have he := Option.some.inj he
  have hw : OpV.wf _ = true := hw
  dsimp only [OpV.toBits] at he
  simp only [OpV.wf, Bool.and_eq_true, decide_eq_true_eq] at hw
  have hM : bits w 30 24 = 35 := by simp only [bits]; omega
  have hf : OpV.ofWord w = ⟨f_bd, f_fm, f_d, f_a, f_b⟩ := by
    simp only [OpV.ofWord, bits, OpV.mk.injEq]; omega
  refine (decode_compute hM (by decide)).trans ((decodeCompute_35 hM).trans ?_)
  exact congrArg (fun x => Except.ok (Instr.nluth x)) hf
theorem decodeCompute_36 {w : Nat} (h : bits w 30 24 = 36) : decodeCompute w = .ok (.prevb (.ofWord w)) := by unfold decodeCompute; rw [h]; rfl
theorem prevb (o : OpV) : Statement (.prevb o) := by
  obtain ⟨f_bd, f_fm, f_d, f_a, f_b⟩ := o
  intro w hw he
  have he := Option.some.inj he
  have hw : OpV.wf _ = true := hw
  dsimp only [OpV.toBits] at he
  simp only [OpV.wf, Bool.and_eq_true, decide_eq_true_eq] at hw
  have hM : bits w 30 24 = 36 := by simp only [bits]; omega
  have hf : OpV.ofWord w = ⟨f_bd, f_fm, f_d, f_a, f_b⟩ := by
    simp only [OpV.ofWord, bits, OpV.mk.injEq]; omega
  refine (decode_compute hM (by decide)).trans ((decodeCompute_36 hM).trans ?_)
  exact congrArg (fun x => Except.ok (Instr.prevb x)) hf
theorem decodeCompute_37 {w : Nat} (h : bits w 30 24 = 37) : decodeCompute w = decodeMinor25 w := by unfold decodeCompute; rw [h]; rfl
theorem mov (o : OpVU) : Statement (.mov o) := by
  obtain ⟨f_bd, f_fm, f_d, f_a⟩ := o
  intro w hw he
  have he := Option.some.inj he
  have hw : OpVU.wf _ = true := hw
  dsimp only [OpVU.toBits] at he
  simp only [OpVU.wf, Bool.and_eq_true, decide_eq_true_eq] at hw
  have hM : bits w 30 24 = 37 := by simp only [bits]; omega
  have hf : OpVU.ofWord w = ⟨f_bd, f_fm, f_d, f_a⟩ := by
    simp only [OpVU.ofWord, bits, OpVU.mk.injEq]; omega
  refine (decode_compute hM (by decide)).trans ((decodeCompute_37 hM).trans ?_)
  have hm : bits w 6 0 = 0 := by simp only [bits]; omega
  unfold decodeMinor25
  rw [hm]
  exact congrArg (fun x => Except.ok (Instr.mov x)) hf
theorem not (o : OpVU) : Statement (.not o) := by
  obtain ⟨f_bd, f_fm, f_d, f_a⟩ := o
  intro w hw he
  have he := Option.some.inj he
  have hw : OpVU.wf _ = true := hw
  dsimp only [OpVU.toBits] at he
  simp only [OpVU.wf, Bool.and_eq_true, decide_eq_true_eq] at hw
  have hM : bits w 30 24 = 37 := by simp only [bits]; omega
  have hf : OpVU.ofWord w = ⟨f_bd, f_fm, f_d, f_a⟩ := by
    simp only [OpVU.ofWord, bits, OpVU.mk.injEq]; omega
  refine (decode_compute hM (by decide)).trans ((decodeCompute_37 hM).trans ?_)
  have hm : bits w 6 0 = 1 := by simp only [bits]; omega
  unfold decodeMinor25
  rw [hm]
  exact congrArg (fun x => Except.ok (Instr.not x)) hf
theorem ineg (o : OpVU) : Statement (.ineg o) := by
  obtain ⟨f_bd, f_fm, f_d, f_a⟩ := o
  intro w hw he
  have he := Option.some.inj he
  have hw : OpVU.wf _ = true := hw
  dsimp only [OpVU.toBits] at he
  simp only [OpVU.wf, Bool.and_eq_true, decide_eq_true_eq] at hw
  have hM : bits w 30 24 = 37 := by simp only [bits]; omega
  have hf : OpVU.ofWord w = ⟨f_bd, f_fm, f_d, f_a⟩ := by
    simp only [OpVU.ofWord, bits, OpVU.mk.injEq]; omega
  refine (decode_compute hM (by decide)).trans ((decodeCompute_37 hM).trans ?_)
  have hm : bits w 6 0 = 2 := by simp only [bits]; omega
  unfold decodeMinor25
  rw [hm]
  exact congrArg (fun x => Except.ok (Instr.ineg x)) hf
theorem iabs (o : OpVU) : Statement (.iabs o) := by
  obtain ⟨f_bd, f_fm, f_d, f_a⟩ := o
  intro w hw he
  have he := Option.some.inj he
  have hw : OpVU.wf _ = true := hw
  dsimp only [OpVU.toBits] at he
  simp only [OpVU.wf, Bool.and_eq_true, decide_eq_true_eq] at hw
  have hM : bits w 30 24 = 37 := by simp only [bits]; omega
  have hf : OpVU.ofWord w = ⟨f_bd, f_fm, f_d, f_a⟩ := by
    simp only [OpVU.ofWord, bits, OpVU.mk.injEq]; omega
  refine (decode_compute hM (by decide)).trans ((decodeCompute_37 hM).trans ?_)
  have hm : bits w 6 0 = 3 := by simp only [bits]; omega
  unfold decodeMinor25
  rw [hm]
  exact congrArg (fun x => Except.ok (Instr.iabs x)) hf
theorem popc (o : OpVU) : Statement (.popc o) := by
  obtain ⟨f_bd, f_fm, f_d, f_a⟩ := o
  intro w hw he
  have he := Option.some.inj he
  have hw : OpVU.wf _ = true := hw
  dsimp only [OpVU.toBits] at he
  simp only [OpVU.wf, Bool.and_eq_true, decide_eq_true_eq] at hw
  have hM : bits w 30 24 = 37 := by simp only [bits]; omega
  have hf : OpVU.ofWord w = ⟨f_bd, f_fm, f_d, f_a⟩ := by
    simp only [OpVU.ofWord, bits, OpVU.mk.injEq]; omega
  refine (decode_compute hM (by decide)).trans ((decodeCompute_37 hM).trans ?_)
  have hm : bits w 6 0 = 4 := by simp only [bits]; omega
  unfold decodeMinor25
  rw [hm]
  exact congrArg (fun x => Except.ok (Instr.popc x)) hf
theorem clz (o : OpVU) : Statement (.clz o) := by
  obtain ⟨f_bd, f_fm, f_d, f_a⟩ := o
  intro w hw he
  have he := Option.some.inj he
  have hw : OpVU.wf _ = true := hw
  dsimp only [OpVU.toBits] at he
  simp only [OpVU.wf, Bool.and_eq_true, decide_eq_true_eq] at hw
  have hM : bits w 30 24 = 37 := by simp only [bits]; omega
  have hf : OpVU.ofWord w = ⟨f_bd, f_fm, f_d, f_a⟩ := by
    simp only [OpVU.ofWord, bits, OpVU.mk.injEq]; omega
  refine (decode_compute hM (by decide)).trans ((decodeCompute_37 hM).trans ?_)
  have hm : bits w 6 0 = 5 := by simp only [bits]; omega
  unfold decodeMinor25
  rw [hm]
  exact congrArg (fun x => Except.ok (Instr.clz x)) hf
theorem ctz (o : OpVU) : Statement (.ctz o) := by
  obtain ⟨f_bd, f_fm, f_d, f_a⟩ := o
  intro w hw he
  have he := Option.some.inj he
  have hw : OpVU.wf _ = true := hw
  dsimp only [OpVU.toBits] at he
  simp only [OpVU.wf, Bool.and_eq_true, decide_eq_true_eq] at hw
  have hM : bits w 30 24 = 37 := by simp only [bits]; omega
  have hf : OpVU.ofWord w = ⟨f_bd, f_fm, f_d, f_a⟩ := by
    simp only [OpVU.ofWord, bits, OpVU.mk.injEq]; omega
  refine (decode_compute hM (by decide)).trans ((decodeCompute_37 hM).trans ?_)
  have hm : bits w 6 0 = 6 := by simp only [bits]; omega
  unfold decodeMinor25
  rw [hm]
  exact congrArg (fun x => Except.ok (Instr.ctz x)) hf
theorem brev (o : OpVU) : Statement (.brev o) := by
  obtain ⟨f_bd, f_fm, f_d, f_a⟩ := o
  intro w hw he
  have he := Option.some.inj he
  have hw : OpVU.wf _ = true := hw
  dsimp only [OpVU.toBits] at he
  simp only [OpVU.wf, Bool.and_eq_true, decide_eq_true_eq] at hw
  have hM : bits w 30 24 = 37 := by simp only [bits]; omega
  have hf : OpVU.ofWord w = ⟨f_bd, f_fm, f_d, f_a⟩ := by
    simp only [OpVU.ofWord, bits, OpVU.mk.injEq]; omega
  refine (decode_compute hM (by decide)).trans ((decodeCompute_37 hM).trans ?_)
  have hm : bits w 6 0 = 7 := by simp only [bits]; omega
  unfold decodeMinor25
  rw [hm]
  exact congrArg (fun x => Except.ok (Instr.brev x)) hf
theorem sext8 (o : OpVU) : Statement (.sext8 o) := by
  obtain ⟨f_bd, f_fm, f_d, f_a⟩ := o
  intro w hw he
  have he := Option.some.inj he
  have hw : OpVU.wf _ = true := hw
  dsimp only [OpVU.toBits] at he
  simp only [OpVU.wf, Bool.and_eq_true, decide_eq_true_eq] at hw
  have hM : bits w 30 24 = 37 := by simp only [bits]; omega
  have hf : OpVU.ofWord w = ⟨f_bd, f_fm, f_d, f_a⟩ := by
    simp only [OpVU.ofWord, bits, OpVU.mk.injEq]; omega
  refine (decode_compute hM (by decide)).trans ((decodeCompute_37 hM).trans ?_)
  have hm : bits w 6 0 = 8 := by simp only [bits]; omega
  unfold decodeMinor25
  rw [hm]
  exact congrArg (fun x => Except.ok (Instr.sext8 x)) hf
theorem sext16 (o : OpVU) : Statement (.sext16 o) := by
  obtain ⟨f_bd, f_fm, f_d, f_a⟩ := o
  intro w hw he
  have he := Option.some.inj he
  have hw : OpVU.wf _ = true := hw
  dsimp only [OpVU.toBits] at he
  simp only [OpVU.wf, Bool.and_eq_true, decide_eq_true_eq] at hw
  have hM : bits w 30 24 = 37 := by simp only [bits]; omega
  have hf : OpVU.ofWord w = ⟨f_bd, f_fm, f_d, f_a⟩ := by
    simp only [OpVU.ofWord, bits, OpVU.mk.injEq]; omega
  refine (decode_compute hM (by decide)).trans ((decodeCompute_37 hM).trans ?_)
  have hm : bits w 6 0 = 9 := by simp only [bits]; omega
  unfold decodeMinor25
  rw [hm]
  exact congrArg (fun x => Except.ok (Instr.sext16 x)) hf
theorem bswap (o : OpVU) : Statement (.bswap o) := by
  obtain ⟨f_bd, f_fm, f_d, f_a⟩ := o
  intro w hw he
  have he := Option.some.inj he
  have hw : OpVU.wf _ = true := hw
  dsimp only [OpVU.toBits] at he
  simp only [OpVU.wf, Bool.and_eq_true, decide_eq_true_eq] at hw
  have hM : bits w 30 24 = 37 := by simp only [bits]; omega
  have hf : OpVU.ofWord w = ⟨f_bd, f_fm, f_d, f_a⟩ := by
    simp only [OpVU.ofWord, bits, OpVU.mk.injEq]; omega
  refine (decode_compute hM (by decide)).trans ((decodeCompute_37 hM).trans ?_)
  have hm : bits w 6 0 = 10 := by simp only [bits]; omega
  unfold decodeMinor25
  rw [hm]
  exact congrArg (fun x => Except.ok (Instr.bswap x)) hf
theorem setlnk (o : OpSetLnk) : Statement (.setlnk o) := by
  obtain ⟨f_bd, f_fm, f_a⟩ := o
  intro w hw he
  have he := Option.some.inj he
  have hw : OpSetLnk.wf _ = true := hw
  dsimp only [OpSetLnk.toBits] at he
  simp only [OpSetLnk.wf, Bool.and_eq_true, decide_eq_true_eq] at hw
  have hM : bits w 30 24 = 37 := by simp only [bits]; omega
  have hf : OpSetLnk.ofWord w = ⟨f_bd, f_fm, f_a⟩ := by
    simp only [OpSetLnk.ofWord, bits, OpSetLnk.mk.injEq]; omega
  refine (decode_compute hM (by decide)).trans ((decodeCompute_37 hM).trans ?_)
  have hm : bits w 6 0 = 11 := by simp only [bits]; omega
  unfold decodeMinor25
  rw [hm]
  refine (ifZero_true (by simp only [bits, beq_iff_eq]; omega)).trans ?_
  rw [hf]
theorem fneg (o : OpVU) : Statement (.fneg o) := by
  obtain ⟨f_bd, f_fm, f_d, f_a⟩ := o
  intro w hw he
  have he := Option.some.inj he
  have hw : OpVU.wf _ = true := hw
  dsimp only [OpVU.toBits] at he
  simp only [OpVU.wf, Bool.and_eq_true, decide_eq_true_eq] at hw
  have hM : bits w 30 24 = 37 := by simp only [bits]; omega
  have hf : OpVU.ofWord w = ⟨f_bd, f_fm, f_d, f_a⟩ := by
    simp only [OpVU.ofWord, bits, OpVU.mk.injEq]; omega
  refine (decode_compute hM (by decide)).trans ((decodeCompute_37 hM).trans ?_)
  have hm : bits w 6 0 = 16 := by simp only [bits]; omega
  unfold decodeMinor25
  rw [hm]
  exact congrArg (fun x => Except.ok (Instr.fneg x)) hf
theorem fabs (o : OpVU) : Statement (.fabs o) := by
  obtain ⟨f_bd, f_fm, f_d, f_a⟩ := o
  intro w hw he
  have he := Option.some.inj he
  have hw : OpVU.wf _ = true := hw
  dsimp only [OpVU.toBits] at he
  simp only [OpVU.wf, Bool.and_eq_true, decide_eq_true_eq] at hw
  have hM : bits w 30 24 = 37 := by simp only [bits]; omega
  have hf : OpVU.ofWord w = ⟨f_bd, f_fm, f_d, f_a⟩ := by
    simp only [OpVU.ofWord, bits, OpVU.mk.injEq]; omega
  refine (decode_compute hM (by decide)).trans ((decodeCompute_37 hM).trans ?_)
  have hm : bits w 6 0 = 17 := by simp only [bits]; omega
  unfold decodeMinor25
  rw [hm]
  exact congrArg (fun x => Except.ok (Instr.fabs x)) hf
theorem frcp (o : OpVU) : Statement (.frcp o) := by
  obtain ⟨f_bd, f_fm, f_d, f_a⟩ := o
  intro w hw he
  have he := Option.some.inj he
  have hw : OpVU.wf _ = true := hw
  dsimp only [OpVU.toBits] at he
  simp only [OpVU.wf, Bool.and_eq_true, decide_eq_true_eq] at hw
  have hM : bits w 30 24 = 37 := by simp only [bits]; omega
  have hf : OpVU.ofWord w = ⟨f_bd, f_fm, f_d, f_a⟩ := by
    simp only [OpVU.ofWord, bits, OpVU.mk.injEq]; omega
  refine (decode_compute hM (by decide)).trans ((decodeCompute_37 hM).trans ?_)
  have hm : bits w 6 0 = 18 := by simp only [bits]; omega
  unfold decodeMinor25
  rw [hm]
  exact congrArg (fun x => Except.ok (Instr.frcp x)) hf
theorem frsq (o : OpVU) : Statement (.frsq o) := by
  obtain ⟨f_bd, f_fm, f_d, f_a⟩ := o
  intro w hw he
  have he := Option.some.inj he
  have hw : OpVU.wf _ = true := hw
  dsimp only [OpVU.toBits] at he
  simp only [OpVU.wf, Bool.and_eq_true, decide_eq_true_eq] at hw
  have hM : bits w 30 24 = 37 := by simp only [bits]; omega
  have hf : OpVU.ofWord w = ⟨f_bd, f_fm, f_d, f_a⟩ := by
    simp only [OpVU.ofWord, bits, OpVU.mk.injEq]; omega
  refine (decode_compute hM (by decide)).trans ((decodeCompute_37 hM).trans ?_)
  have hm : bits w 6 0 = 19 := by simp only [bits]; omega
  unfold decodeMinor25
  rw [hm]
  exact congrArg (fun x => Except.ok (Instr.frsq x)) hf
theorem fsqrt (o : OpVU) : Statement (.fsqrt o) := by
  obtain ⟨f_bd, f_fm, f_d, f_a⟩ := o
  intro w hw he
  have he := Option.some.inj he
  have hw : OpVU.wf _ = true := hw
  dsimp only [OpVU.toBits] at he
  simp only [OpVU.wf, Bool.and_eq_true, decide_eq_true_eq] at hw
  have hM : bits w 30 24 = 37 := by simp only [bits]; omega
  have hf : OpVU.ofWord w = ⟨f_bd, f_fm, f_d, f_a⟩ := by
    simp only [OpVU.ofWord, bits, OpVU.mk.injEq]; omega
  refine (decode_compute hM (by decide)).trans ((decodeCompute_37 hM).trans ?_)
  have hm : bits w 6 0 = 20 := by simp only [bits]; omega
  unfold decodeMinor25
  rw [hm]
  exact congrArg (fun x => Except.ok (Instr.fsqrt x)) hf
theorem fexp2 (o : OpVU) : Statement (.fexp2 o) := by
  obtain ⟨f_bd, f_fm, f_d, f_a⟩ := o
  intro w hw he
  have he := Option.some.inj he
  have hw : OpVU.wf _ = true := hw
  dsimp only [OpVU.toBits] at he
  simp only [OpVU.wf, Bool.and_eq_true, decide_eq_true_eq] at hw
  have hM : bits w 30 24 = 37 := by simp only [bits]; omega
  have hf : OpVU.ofWord w = ⟨f_bd, f_fm, f_d, f_a⟩ := by
    simp only [OpVU.ofWord, bits, OpVU.mk.injEq]; omega
  refine (decode_compute hM (by decide)).trans ((decodeCompute_37 hM).trans ?_)
  have hm : bits w 6 0 = 21 := by simp only [bits]; omega
  unfold decodeMinor25
  rw [hm]
  exact congrArg (fun x => Except.ok (Instr.fexp2 x)) hf
theorem flog2 (o : OpVU) : Statement (.flog2 o) := by
  obtain ⟨f_bd, f_fm, f_d, f_a⟩ := o
  intro w hw he
  have he := Option.some.inj he
  have hw : OpVU.wf _ = true := hw
  dsimp only [OpVU.toBits] at he
  simp only [OpVU.wf, Bool.and_eq_true, decide_eq_true_eq] at hw
  have hM : bits w 30 24 = 37 := by simp only [bits]; omega
  have hf : OpVU.ofWord w = ⟨f_bd, f_fm, f_d, f_a⟩ := by
    simp only [OpVU.ofWord, bits, OpVU.mk.injEq]; omega
  refine (decode_compute hM (by decide)).trans ((decodeCompute_37 hM).trans ?_)
  have hm : bits w 6 0 = 22 := by simp only [bits]; omega
  unfold decodeMinor25
  rw [hm]
  exact congrArg (fun x => Except.ok (Instr.flog2 x)) hf
theorem fsin (o : OpVU) : Statement (.fsin o) := by
  obtain ⟨f_bd, f_fm, f_d, f_a⟩ := o
  intro w hw he
  have he := Option.some.inj he
  have hw : OpVU.wf _ = true := hw
  dsimp only [OpVU.toBits] at he
  simp only [OpVU.wf, Bool.and_eq_true, decide_eq_true_eq] at hw
  have hM : bits w 30 24 = 37 := by simp only [bits]; omega
  have hf : OpVU.ofWord w = ⟨f_bd, f_fm, f_d, f_a⟩ := by
    simp only [OpVU.ofWord, bits, OpVU.mk.injEq]; omega
  refine (decode_compute hM (by decide)).trans ((decodeCompute_37 hM).trans ?_)
  have hm : bits w 6 0 = 23 := by simp only [bits]; omega
  unfold decodeMinor25
  rw [hm]
  exact congrArg (fun x => Except.ok (Instr.fsin x)) hf
theorem fcos (o : OpVU) : Statement (.fcos o) := by
  obtain ⟨f_bd, f_fm, f_d, f_a⟩ := o
  intro w hw he
  have he := Option.some.inj he
  have hw : OpVU.wf _ = true := hw
  dsimp only [OpVU.toBits] at he
  simp only [OpVU.wf, Bool.and_eq_true, decide_eq_true_eq] at hw
  have hM : bits w 30 24 = 37 := by simp only [bits]; omega
  have hf : OpVU.ofWord w = ⟨f_bd, f_fm, f_d, f_a⟩ := by
    simp only [OpVU.ofWord, bits, OpVU.mk.injEq]; omega
  refine (decode_compute hM (by decide)).trans ((decodeCompute_37 hM).trans ?_)
  have hm : bits w 6 0 = 24 := by simp only [bits]; omega
  unfold decodeMinor25
  rw [hm]
  exact congrArg (fun x => Except.ok (Instr.fcos x)) hf
theorem ftanh (o : OpVU) : Statement (.ftanh o) := by
  obtain ⟨f_bd, f_fm, f_d, f_a⟩ := o
  intro w hw he
  have he := Option.some.inj he
  have hw : OpVU.wf _ = true := hw
  dsimp only [OpVU.toBits] at he
  simp only [OpVU.wf, Bool.and_eq_true, decide_eq_true_eq] at hw
  have hM : bits w 30 24 = 37 := by simp only [bits]; omega
  have hf : OpVU.ofWord w = ⟨f_bd, f_fm, f_d, f_a⟩ := by
    simp only [OpVU.ofWord, bits, OpVU.mk.injEq]; omega
  refine (decode_compute hM (by decide)).trans ((decodeCompute_37 hM).trans ?_)
  have hm : bits w 6 0 = 25 := by simp only [bits]; omega
  unfold decodeMinor25
  rw [hm]
  exact congrArg (fun x => Except.ok (Instr.ftanh x)) hf
theorem ffloor (o : OpVU) : Statement (.ffloor o) := by
  obtain ⟨f_bd, f_fm, f_d, f_a⟩ := o
  intro w hw he
  have he := Option.some.inj he
  have hw : OpVU.wf _ = true := hw
  dsimp only [OpVU.toBits] at he
  simp only [OpVU.wf, Bool.and_eq_true, decide_eq_true_eq] at hw
  have hM : bits w 30 24 = 37 := by simp only [bits]; omega
  have hf : OpVU.ofWord w = ⟨f_bd, f_fm, f_d, f_a⟩ := by
    simp only [OpVU.ofWord, bits, OpVU.mk.injEq]; omega
  refine (decode_compute hM (by decide)).trans ((decodeCompute_37 hM).trans ?_)
  have hm : bits w 6 0 = 26 := by simp only [bits]; omega
  unfold decodeMinor25
  rw [hm]
  exact congrArg (fun x => Except.ok (Instr.ffloor x)) hf
theorem fceil (o : OpVU) : Statement (.fceil o) := by
  obtain ⟨f_bd, f_fm, f_d, f_a⟩ := o
  intro w hw he
  have he := Option.some.inj he
  have hw : OpVU.wf _ = true := hw
  dsimp only [OpVU.toBits] at he
  simp only [OpVU.wf, Bool.and_eq_true, decide_eq_true_eq] at hw
  have hM : bits w 30 24 = 37 := by simp only [bits]; omega
  have hf : OpVU.ofWord w = ⟨f_bd, f_fm, f_d, f_a⟩ := by
    simp only [OpVU.ofWord, bits, OpVU.mk.injEq]; omega
  refine (decode_compute hM (by decide)).trans ((decodeCompute_37 hM).trans ?_)
  have hm : bits w 6 0 = 27 := by simp only [bits]; omega
  unfold decodeMinor25
  rw [hm]
  exact congrArg (fun x => Except.ok (Instr.fceil x)) hf
theorem ftrunc (o : OpVU) : Statement (.ftrunc o) := by
  obtain ⟨f_bd, f_fm, f_d, f_a⟩ := o
  intro w hw he
  have he := Option.some.inj he
  have hw : OpVU.wf _ = true := hw
  dsimp only [OpVU.toBits] at he
  simp only [OpVU.wf, Bool.and_eq_true, decide_eq_true_eq] at hw
  have hM : bits w 30 24 = 37 := by simp only [bits]; omega
  have hf : OpVU.ofWord w = ⟨f_bd, f_fm, f_d, f_a⟩ := by
    simp only [OpVU.ofWord, bits, OpVU.mk.injEq]; omega
  refine (decode_compute hM (by decide)).trans ((decodeCompute_37 hM).trans ?_)
  have hm : bits w 6 0 = 28 := by simp only [bits]; omega
  unfold decodeMinor25
  rw [hm]
  exact congrArg (fun x => Except.ok (Instr.ftrunc x)) hf
theorem frint (o : OpVU) : Statement (.frint o) := by
  obtain ⟨f_bd, f_fm, f_d, f_a⟩ := o
  intro w hw he
  have he := Option.some.inj he
  have hw : OpVU.wf _ = true := hw
  dsimp only [OpVU.toBits] at he
  simp only [OpVU.wf, Bool.and_eq_true, decide_eq_true_eq] at hw
  have hM : bits w 30 24 = 37 := by simp only [bits]; omega
  have hf : OpVU.ofWord w = ⟨f_bd, f_fm, f_d, f_a⟩ := by
    simp only [OpVU.ofWord, bits, OpVU.mk.injEq]; omega
  refine (decode_compute hM (by decide)).trans ((decodeCompute_37 hM).trans ?_)
  have hm : bits w 6 0 = 29 := by simp only [bits]; omega
  unfold decodeMinor25
  rw [hm]
  exact congrArg (fun x => Except.ok (Instr.frint x)) hf
theorem cvtif (o : OpVU) : Statement (.cvtif o) := by
  obtain ⟨f_bd, f_fm, f_d, f_a⟩ := o
  intro w hw he
  have he := Option.some.inj he
  have hw : OpVU.wf _ = true := hw
  dsimp only [OpVU.toBits] at he
  simp only [OpVU.wf, Bool.and_eq_true, decide_eq_true_eq] at hw
  have hM : bits w 30 24 = 37 := by simp only [bits]; omega
  have hf : OpVU.ofWord w = ⟨f_bd, f_fm, f_d, f_a⟩ := by
    simp only [OpVU.ofWord, bits, OpVU.mk.injEq]; omega
  refine (decode_compute hM (by decide)).trans ((decodeCompute_37 hM).trans ?_)
  have hm : bits w 6 0 = 32 := by simp only [bits]; omega
  unfold decodeMinor25
  rw [hm]
  exact congrArg (fun x => Except.ok (Instr.cvtif x)) hf
theorem cvtnf (o : OpVU) : Statement (.cvtnf o) := by
  obtain ⟨f_bd, f_fm, f_d, f_a⟩ := o
  intro w hw he
  have he := Option.some.inj he
  have hw : OpVU.wf _ = true := hw
  dsimp only [OpVU.toBits] at he
  simp only [OpVU.wf, Bool.and_eq_true, decide_eq_true_eq] at hw
  have hM : bits w 30 24 = 37 := by simp only [bits]; omega
  have hf : OpVU.ofWord w = ⟨f_bd, f_fm, f_d, f_a⟩ := by
    simp only [OpVU.ofWord, bits, OpVU.mk.injEq]; omega
  refine (decode_compute hM (by decide)).trans ((decodeCompute_37 hM).trans ?_)
  have hm : bits w 6 0 = 33 := by simp only [bits]; omega
  unfold decodeMinor25
  rw [hm]
  exact congrArg (fun x => Except.ok (Instr.cvtnf x)) hf
theorem cvtfi (o : OpVU) : Statement (.cvtfi o) := by
  obtain ⟨f_bd, f_fm, f_d, f_a⟩ := o
  intro w hw he
  have he := Option.some.inj he
  have hw : OpVU.wf _ = true := hw
  dsimp only [OpVU.toBits] at he
  simp only [OpVU.wf, Bool.and_eq_true, decide_eq_true_eq] at hw
  have hM : bits w 30 24 = 37 := by simp only [bits]; omega
  have hf : OpVU.ofWord w = ⟨f_bd, f_fm, f_d, f_a⟩ := by
    simp only [OpVU.ofWord, bits, OpVU.mk.injEq]; omega
  refine (decode_compute hM (by decide)).trans ((decodeCompute_37 hM).trans ?_)
  have hm : bits w 6 0 = 34 := by simp only [bits]; omega
  unfold decodeMinor25
  rw [hm]
  exact congrArg (fun x => Except.ok (Instr.cvtfi x)) hf
theorem cvtfn (o : OpVU) : Statement (.cvtfn o) := by
  obtain ⟨f_bd, f_fm, f_d, f_a⟩ := o
  intro w hw he
  have he := Option.some.inj he
  have hw : OpVU.wf _ = true := hw
  dsimp only [OpVU.toBits] at he
  simp only [OpVU.wf, Bool.and_eq_true, decide_eq_true_eq] at hw
  have hM : bits w 30 24 = 37 := by simp only [bits]; omega
  have hf : OpVU.ofWord w = ⟨f_bd, f_fm, f_d, f_a⟩ := by
    simp only [OpVU.ofWord, bits, OpVU.mk.injEq]; omega
  refine (decode_compute hM (by decide)).trans ((decodeCompute_37 hM).trans ?_)
  have hm : bits w 6 0 = 35 := by simp only [bits]; omega
  unfold decodeMinor25
  rw [hm]
  exact congrArg (fun x => Except.ok (Instr.cvtfn x)) hf
theorem cvthfl (o : OpVU) : Statement (.cvthfl o) := by
  obtain ⟨f_bd, f_fm, f_d, f_a⟩ := o
  intro w hw he
  have he := Option.some.inj he
  have hw : OpVU.wf _ = true := hw
  dsimp only [OpVU.toBits] at he
  simp only [OpVU.wf, Bool.and_eq_true, decide_eq_true_eq] at hw
  have hM : bits w 30 24 = 37 := by simp only [bits]; omega
  have hf : OpVU.ofWord w = ⟨f_bd, f_fm, f_d, f_a⟩ := by
    simp only [OpVU.ofWord, bits, OpVU.mk.injEq]; omega
  refine (decode_compute hM (by decide)).trans ((decodeCompute_37 hM).trans ?_)
  have hm : bits w 6 0 = 36 := by simp only [bits]; omega
  unfold decodeMinor25
  rw [hm]
  exact congrArg (fun x => Except.ok (Instr.cvthfl x)) hf
theorem cvthfh (o : OpVU) : Statement (.cvthfh o) := by
  obtain ⟨f_bd, f_fm, f_d, f_a⟩ := o
  intro w hw he
  have he := Option.some.inj he
  have hw : OpVU.wf _ = true := hw
  dsimp only [OpVU.toBits] at he
  simp only [OpVU.wf, Bool.and_eq_true, decide_eq_true_eq] at hw
  have hM : bits w 30 24 = 37 := by simp only [bits]; omega
  have hf : OpVU.ofWord w = ⟨f_bd, f_fm, f_d, f_a⟩ := by
    simp only [OpVU.ofWord, bits, OpVU.mk.injEq]; omega
  refine (decode_compute hM (by decide)).trans ((decodeCompute_37 hM).trans ?_)
  have hm : bits w 6 0 = 37 := by simp only [bits]; omega
  unfold decodeMinor25
  rw [hm]
  exact congrArg (fun x => Except.ok (Instr.cvthfh x)) hf
theorem cvtbfl (o : OpVU) : Statement (.cvtbfl o) := by
  obtain ⟨f_bd, f_fm, f_d, f_a⟩ := o
  intro w hw he
  have he := Option.some.inj he
  have hw : OpVU.wf _ = true := hw
  dsimp only [OpVU.toBits] at he
  simp only [OpVU.wf, Bool.and_eq_true, decide_eq_true_eq] at hw
  have hM : bits w 30 24 = 37 := by simp only [bits]; omega
  have hf : OpVU.ofWord w = ⟨f_bd, f_fm, f_d, f_a⟩ := by
    simp only [OpVU.ofWord, bits, OpVU.mk.injEq]; omega
  refine (decode_compute hM (by decide)).trans ((decodeCompute_37 hM).trans ?_)
  have hm : bits w 6 0 = 38 := by simp only [bits]; omega
  unfold decodeMinor25
  rw [hm]
  exact congrArg (fun x => Except.ok (Instr.cvtbfl x)) hf
theorem cvtbfh (o : OpVU) : Statement (.cvtbfh o) := by
  obtain ⟨f_bd, f_fm, f_d, f_a⟩ := o
  intro w hw he
  have he := Option.some.inj he
  have hw : OpVU.wf _ = true := hw
  dsimp only [OpVU.toBits] at he
  simp only [OpVU.wf, Bool.and_eq_true, decide_eq_true_eq] at hw
  have hM : bits w 30 24 = 37 := by simp only [bits]; omega
  have hf : OpVU.ofWord w = ⟨f_bd, f_fm, f_d, f_a⟩ := by
    simp only [OpVU.ofWord, bits, OpVU.mk.injEq]; omega
  refine (decode_compute hM (by decide)).trans ((decodeCompute_37 hM).trans ?_)
  have hm : bits w 6 0 = 39 := by simp only [bits]; omega
  unfold decodeMinor25
  rw [hm]
  exact congrArg (fun x => Except.ok (Instr.cvtbfh x)) hf
theorem decodeCompute_38 {w : Nat} (h : bits w 30 24 = 38) : decodeCompute w = decodeMinor26 w := by unfold decodeCompute; rw [h]; rfl
theorem pack4 (o : OpCV) : Statement (.pack4 o) := by
  obtain ⟨f_bd, f_fm, f_d, f_a, f_slot⟩ := o
  intro w hw he
  have he := Option.some.inj he
  have hw : OpCV.wf _ = true := hw
  dsimp only [OpCV.toBits] at he
  simp only [OpCV.wf, Bool.and_eq_true, decide_eq_true_eq] at hw
  have hM : bits w 30 24 = 38 := by simp only [bits]; omega
  have hf : OpCV.ofWord w = ⟨f_bd, f_fm, f_d, f_a, f_slot⟩ := by
    simp only [OpCV.ofWord, bits, OpCV.mk.injEq]; omega
  refine (decode_compute hM (by decide)).trans ((decodeCompute_38 hM).trans ?_)
  have hm : bits w 3 0 = 0 := by simp only [bits]; omega
  unfold decodeMinor26
  rw [hm]
  exact congrArg (fun x => Except.ok (Instr.pack4 x)) hf
theorem pack2 (o : OpCV) : Statement (.pack2 o) := by
  obtain ⟨f_bd, f_fm, f_d, f_a, f_slot⟩ := o
  intro w hw he
  have he := Option.some.inj he
  have hw : OpCV.wf _ = true := hw
  dsimp only [OpCV.toBits] at he
  simp only [OpCV.wf, Bool.and_eq_true, decide_eq_true_eq] at hw
  have hM : bits w 30 24 = 38 := by simp only [bits]; omega
  have hf : OpCV.ofWord w = ⟨f_bd, f_fm, f_d, f_a, f_slot⟩ := by
    simp only [OpCV.ofWord, bits, OpCV.mk.injEq]; omega
  refine (decode_compute hM (by decide)).trans ((decodeCompute_38 hM).trans ?_)
  have hm : bits w 3 0 = 1 := by simp only [bits]; omega
  unfold decodeMinor26
  rw [hm]
  exact congrArg (fun x => Except.ok (Instr.pack2 x)) hf
theorem unpack8 (o : OpCV) : Statement (.unpack8 o) := by
  obtain ⟨f_bd, f_fm, f_d, f_a, f_slot⟩ := o
  intro w hw he
  have he := Option.some.inj he
  have hw : OpCV.wf _ = true := hw
  dsimp only [OpCV.toBits] at he
  simp only [OpCV.wf, Bool.and_eq_true, decide_eq_true_eq] at hw
  have hM : bits w 30 24 = 38 := by simp only [bits]; omega
  have hf : OpCV.ofWord w = ⟨f_bd, f_fm, f_d, f_a, f_slot⟩ := by
    simp only [OpCV.ofWord, bits, OpCV.mk.injEq]; omega
  refine (decode_compute hM (by decide)).trans ((decodeCompute_38 hM).trans ?_)
  have hm : bits w 3 0 = 2 := by simp only [bits]; omega
  unfold decodeMinor26
  rw [hm]
  exact congrArg (fun x => Except.ok (Instr.unpack8 x)) hf
theorem unpack16 (o : OpCV) : Statement (.unpack16 o) := by
  obtain ⟨f_bd, f_fm, f_d, f_a, f_slot⟩ := o
  intro w hw he
  have he := Option.some.inj he
  have hw : OpCV.wf _ = true := hw
  dsimp only [OpCV.toBits] at he
  simp only [OpCV.wf, Bool.and_eq_true, decide_eq_true_eq] at hw
  have hM : bits w 30 24 = 38 := by simp only [bits]; omega
  have hf : OpCV.ofWord w = ⟨f_bd, f_fm, f_d, f_a, f_slot⟩ := by
    simp only [OpCV.ofWord, bits, OpCV.mk.injEq]; omega
  refine (decode_compute hM (by decide)).trans ((decodeCompute_38 hM).trans ?_)
  have hm : bits w 3 0 = 3 := by simp only [bits]; omega
  unfold decodeMinor26
  rw [hm]
  exact congrArg (fun x => Except.ok (Instr.unpack16 x)) hf
theorem scale (o : OpCV) : Statement (.scale o) := by
  obtain ⟨f_bd, f_fm, f_d, f_a, f_slot⟩ := o
  intro w hw he
  have he := Option.some.inj he
  have hw : OpCV.wf _ = true := hw
  dsimp only [OpCV.toBits] at he
  simp only [OpCV.wf, Bool.and_eq_true, decide_eq_true_eq] at hw
  have hM : bits w 30 24 = 38 := by simp only [bits]; omega
  have hf : OpCV.ofWord w = ⟨f_bd, f_fm, f_d, f_a, f_slot⟩ := by
    simp only [OpCV.ofWord, bits, OpCV.mk.injEq]; omega
  refine (decode_compute hM (by decide)).trans ((decodeCompute_38 hM).trans ?_)
  have hm : bits w 3 0 = 4 := by simp only [bits]; omega
  unfold decodeMinor26
  rw [hm]
  exact congrArg (fun x => Except.ok (Instr.scale x)) hf
theorem decodeCompute_39 {w : Nat} (h : bits w 30 24 = 39) : decodeCompute w = .ok (.fcmp (.ofWord w)) := by unfold decodeCompute; rw [h]; rfl
theorem fcmp (o : OpP) : Statement (.fcmp o) := by
  obtain ⟨f_bd, f_fm, f_pd, f_cc, f_a, f_b⟩ := o
  intro w hw he
  have he := Option.some.inj he
  have hw : OpP.wf _ = true := hw
  dsimp only [OpP.toBits] at he
  simp only [OpP.wf, Bool.and_eq_true, decide_eq_true_eq] at hw
  have hM : bits w 30 24 = 39 := by simp only [bits]; omega
  have hf : OpP.ofWord w = ⟨f_bd, f_fm, f_pd, f_cc, f_a, f_b⟩ := by
    simp only [OpP.ofWord, bits, OpP.mk.injEq]; omega
  refine (decode_compute hM (by decide)).trans ((decodeCompute_39 hM).trans ?_)
  exact congrArg (fun x => Except.ok (Instr.fcmp x)) hf
theorem decodeCompute_40 {w : Nat} (h : bits w 30 24 = 40) : decodeCompute w = .ok (.icmp (.ofWord w)) := by unfold decodeCompute; rw [h]; rfl
theorem icmp (o : OpP) : Statement (.icmp o) := by
  obtain ⟨f_bd, f_fm, f_pd, f_cc, f_a, f_b⟩ := o
  intro w hw he
  have he := Option.some.inj he
  have hw : OpP.wf _ = true := hw
  dsimp only [OpP.toBits] at he
  simp only [OpP.wf, Bool.and_eq_true, decide_eq_true_eq] at hw
  have hM : bits w 30 24 = 40 := by simp only [bits]; omega
  have hf : OpP.ofWord w = ⟨f_bd, f_fm, f_pd, f_cc, f_a, f_b⟩ := by
    simp only [OpP.ofWord, bits, OpP.mk.injEq]; omega
  refine (decode_compute hM (by decide)).trans ((decodeCompute_40 hM).trans ?_)
  exact congrArg (fun x => Except.ok (Instr.icmp x)) hf
theorem decodeCompute_41 {w : Nat} (h : bits w 30 24 = 41) : decodeCompute w = .ok (.icmpn (.ofWord w)) := by unfold decodeCompute; rw [h]; rfl
theorem icmpn (o : OpP) : Statement (.icmpn o) := by
  obtain ⟨f_bd, f_fm, f_pd, f_cc, f_a, f_b⟩ := o
  intro w hw he
  have he := Option.some.inj he
  have hw : OpP.wf _ = true := hw
  dsimp only [OpP.toBits] at he
  simp only [OpP.wf, Bool.and_eq_true, decide_eq_true_eq] at hw
  have hM : bits w 30 24 = 41 := by simp only [bits]; omega
  have hf : OpP.ofWord w = ⟨f_bd, f_fm, f_pd, f_cc, f_a, f_b⟩ := by
    simp only [OpP.ofWord, bits, OpP.mk.injEq]; omega
  refine (decode_compute hM (by decide)).trans ((decodeCompute_41 hM).trans ?_)
  exact congrArg (fun x => Except.ok (Instr.icmpn x)) hf
theorem decodeCompute_42 {w : Nat} (h : bits w 30 24 = 42) : decodeCompute w = ifZero (bits w 23 22 == 2 && bits w 16 14 == 0) (.fclass (.ofWord w)) := by unfold decodeCompute; rw [h]; rfl
theorem fclass (o : OpFclass) : Statement (.fclass o) := by
  obtain ⟨f_bd, f_pd, f_a, f_mask⟩ := o
  intro w hw he
  have he := Option.some.inj he
  have hw : OpFclass.wf _ = true := hw
  dsimp only [OpFclass.toBits] at he
  simp only [OpFclass.wf, Bool.and_eq_true, decide_eq_true_eq] at hw
  have hM : bits w 30 24 = 42 := by simp only [bits]; omega
  have hf : OpFclass.ofWord w = ⟨f_bd, f_pd, f_a, f_mask⟩ := by
    simp only [OpFclass.ofWord, bits, OpFclass.mk.injEq]; omega
  refine (decode_compute hM (by decide)).trans ((decodeCompute_42 hM).trans ?_)
  refine (ifZero_true (by simp only [bits, Bool.and_eq_true, beq_iff_eq]; omega)).trans ?_
  rw [hf]
theorem decodeCompute_43 {w : Nat} (h : bits w 30 24 = 43) : decodeCompute w = .ok (.plop (.ofWord w)) := by unfold decodeCompute; rw [h]; rfl
theorem plop (o : OpPL) : Statement (.plop o) := by
  obtain ⟨f_bd, f_lop, f_pd, f_pa, f_pb⟩ := o
  intro w hw he
  have he := Option.some.inj he
  have hw : OpPL.wf _ = true := hw
  dsimp only [OpPL.toBits] at he
  simp only [OpPL.wf, Bool.and_eq_true, decide_eq_true_eq] at hw
  have hM : bits w 30 24 = 43 := by simp only [bits]; omega
  have hf : OpPL.ofWord w = ⟨f_bd, f_lop, f_pd, f_pa, f_pb⟩ := by
    simp only [OpPL.ofWord, bits, OpPL.mk.injEq]; omega
  refine (decode_compute hM (by decide)).trans ((decodeCompute_43 hM).trans ?_)
  exact congrArg (fun x => Except.ok (Instr.plop x)) hf
theorem decodeCompute_44 {w : Nat} (h : bits w 30 24 = 44) : decodeCompute w = .ok (.cmov (.ofWord w)) := by unfold decodeCompute; rw [h]; rfl
theorem cmov (o : OpCM) : Statement (.cmov o) := by
  obtain ⟨f_bd, f_ps, f_n, f_d, f_a⟩ := o
  intro w hw he
  have he := Option.some.inj he
  have hw : OpCM.wf _ = true := hw
  dsimp only [OpCM.toBits] at he
  simp only [OpCM.wf, Bool.and_eq_true, decide_eq_true_eq] at hw
  have hM : bits w 30 24 = 44 := by simp only [bits]; omega
  have hf : OpCM.ofWord w = ⟨f_bd, f_ps, f_n, f_d, f_a⟩ := by
    simp only [OpCM.ofWord, bits, OpCM.mk.injEq]; omega
  refine (decode_compute hM (by decide)).trans ((decodeCompute_44 hM).trans ?_)
  exact congrArg (fun x => Except.ok (Instr.cmov x)) hf
theorem decodeCompute_45 {w : Nat} (h : bits w 30 24 = 45) : decodeCompute w = .ok (.shfl (.ofWord w)) := by unfold decodeCompute; rw [h]; rfl
theorem shfl (o : OpSH) : Statement (.shfl o) := by
  obtain ⟨f_bd, f_md, f_d, f_a, f_b⟩ := o
  intro w hw he
  have he := Option.some.inj he
  have hw : OpSH.wf _ = true := hw
  dsimp only [OpSH.toBits] at he
  simp only [OpSH.wf, Bool.and_eq_true, decide_eq_true_eq] at hw
  have hM : bits w 30 24 = 45 := by simp only [bits]; omega
  have hf : OpSH.ofWord w = ⟨f_bd, f_md, f_d, f_a, f_b⟩ := by
    simp only [OpSH.ofWord, bits, OpSH.mk.injEq]; omega
  refine (decode_compute hM (by decide)).trans ((decodeCompute_45 hM).trans ?_)
  exact congrArg (fun x => Except.ok (Instr.shfl x)) hf
theorem decodeCompute_46 {w : Nat} (h : bits w 30 24 = 46) : decodeCompute w = decodeMinor2E w := by unfold decodeCompute; rw [h]; rfl
theorem voteAll (o : OpVote) : Statement (.voteAll o) := by
  obtain ⟨f_bd, f_d, f_a, f_seg⟩ := o
  intro w hw he
  have he := Option.some.inj he
  have hw : OpVote.wf _ = true := hw
  dsimp only [OpVote.toBits] at he
  simp only [OpVote.wf, Bool.and_eq_true, decide_eq_true_eq] at hw
  have hM : bits w 30 24 = 46 := by simp only [bits]; omega
  have hf : OpVote.ofWord w = ⟨f_bd, f_d, f_a, f_seg⟩ := by
    simp only [OpVote.ofWord, bits, OpVote.mk.injEq]; omega
  refine (decode_compute hM (by decide)).trans ((decodeCompute_46 hM).trans ?_)
  have hm : bits w 23 21 = 0 := by simp only [bits]; omega
  unfold decodeMinor2E
  rw [hm]
  refine (ifZero_true (by simp only [bits, Bool.and_eq_true, beq_iff_eq]; omega)).trans ?_
  rw [hf]
theorem voteAny (o : OpVote) : Statement (.voteAny o) := by
  obtain ⟨f_bd, f_d, f_a, f_seg⟩ := o
  intro w hw he
  have he := Option.some.inj he
  have hw : OpVote.wf _ = true := hw
  dsimp only [OpVote.toBits] at he
  simp only [OpVote.wf, Bool.and_eq_true, decide_eq_true_eq] at hw
  have hM : bits w 30 24 = 46 := by simp only [bits]; omega
  have hf : OpVote.ofWord w = ⟨f_bd, f_d, f_a, f_seg⟩ := by
    simp only [OpVote.ofWord, bits, OpVote.mk.injEq]; omega
  refine (decode_compute hM (by decide)).trans ((decodeCompute_46 hM).trans ?_)
  have hm : bits w 23 21 = 1 := by simp only [bits]; omega
  unfold decodeMinor2E
  rw [hm]
  refine (ifZero_true (by simp only [bits, Bool.and_eq_true, beq_iff_eq]; omega)).trans ?_
  rw [hf]
theorem voteEq (o : OpVote) : Statement (.voteEq o) := by
  obtain ⟨f_bd, f_d, f_a, f_seg⟩ := o
  intro w hw he
  have he := Option.some.inj he
  have hw : OpVote.wf _ = true := hw
  dsimp only [OpVote.toBits] at he
  simp only [OpVote.wf, Bool.and_eq_true, decide_eq_true_eq] at hw
  have hM : bits w 30 24 = 46 := by simp only [bits]; omega
  have hf : OpVote.ofWord w = ⟨f_bd, f_d, f_a, f_seg⟩ := by
    simp only [OpVote.ofWord, bits, OpVote.mk.injEq]; omega
  refine (decode_compute hM (by decide)).trans ((decodeCompute_46 hM).trans ?_)
  have hm : bits w 23 21 = 2 := by simp only [bits]; omega
  unfold decodeMinor2E
  rw [hm]
  refine (ifZero_true (by simp only [bits, Bool.and_eq_true, beq_iff_eq]; omega)).trans ?_
  rw [hf]
theorem ballot (o : OpBallot) : Statement (.ballot o) := by
  obtain ⟨f_bd, f_d, f_a, f_seg⟩ := o
  intro w hw he
  have he := Option.some.inj he
  have hw : OpBallot.wf _ = true := hw
  dsimp only [OpBallot.toBits] at he
  simp only [OpBallot.wf, Bool.and_eq_true, decide_eq_true_eq] at hw
  have hM : bits w 30 24 = 46 := by simp only [bits]; omega
  have hf : OpBallot.ofWord w = ⟨f_bd, f_d, f_a, f_seg⟩ := by
    simp only [OpBallot.ofWord, bits, OpBallot.mk.injEq]; omega
  refine (decode_compute hM (by decide)).trans ((decodeCompute_46 hM).trans ?_)
  have hm : bits w 23 21 = 3 := by simp only [bits]; omega
  unfold decodeMinor2E
  rw [hm]
  refine (ifZero_true (by simp only [bits, beq_iff_eq]; omega)).trans ?_
  rw [hf]
theorem decodeCompute_47 {w : Nat} (h : bits w 30 24 = 47) : decodeCompute w = ifZero (bits w 2 0 == 0) (.redux (.ofWord w)) := by unfold decodeCompute; rw [h]; rfl
theorem redux (o : OpRedux) : Statement (.redux o) := by
  obtain ⟨f_bd, f_op, f_d, f_a, f_seg⟩ := o
  intro w hw he
  have he := Option.some.inj he
  have hw : OpRedux.wf _ = true := hw
  dsimp only [OpRedux.toBits] at he
  simp only [OpRedux.wf, Bool.and_eq_true, decide_eq_true_eq] at hw
  have hM : bits w 30 24 = 47 := by simp only [bits]; omega
  have hf : OpRedux.ofWord w = ⟨f_bd, f_op, f_d, f_a, f_seg⟩ := by
    simp only [OpRedux.ofWord, bits, OpRedux.mk.injEq]; omega
  refine (decode_compute hM (by decide)).trans ((decodeCompute_47 hM).trans ?_)
  refine (ifZero_true (by simp only [bits, beq_iff_eq]; omega)).trans ?_
  rw [hf]
theorem decodeCompute_48 {w : Nat} (h : bits w 30 24 = 48) : decodeCompute w = ifZero (bits w 23 22 == 0 && bits w 13 7 == 0) (.sread (.ofWord w)) := by unfold decodeCompute; rw [h]; rfl
theorem sread (o : OpSR) : Statement (.sread o) := by
  obtain ⟨f_bd, f_d, f_code⟩ := o
  intro w hw he
  have he := Option.some.inj he
  have hw : OpSR.wf _ = true := hw
  dsimp only [OpSR.toBits] at he
  simp only [OpSR.wf, Bool.and_eq_true, decide_eq_true_eq] at hw
  have hM : bits w 30 24 = 48 := by simp only [bits]; omega
  have hf : OpSR.ofWord w = ⟨f_bd, f_d, f_code⟩ := by
    simp only [OpSR.ofWord, bits, OpSR.mk.injEq]; omega
  refine (decode_compute hM (by decide)).trans ((decodeCompute_48 hM).trans ?_)
  refine (ifZero_true (by simp only [bits, Bool.and_eq_true, beq_iff_eq]; omega)).trans ?_
  rw [hf]
theorem decodeCompute_49 {w : Nat} (h : bits w 30 24 = 49) : decodeCompute w = .ok (if (OpV.ofWord w).isBcast then .bcast (.ofWord w) else .lanex (.ofWord w)) := by unfold decodeCompute; rw [h]; rfl
theorem bcast (o : OpV) : Statement (.bcast o) := by
  obtain ⟨f_bd, f_fm, f_d, f_a, f_b⟩ := o
  intro w hw he
  have he := Option.some.inj he
  have hw : (OpV.wf _ && _) = true := hw
  have hb := (Bool.and_eq_true_iff.mp hw).2
  have hw := (Bool.and_eq_true_iff.mp hw).1
  dsimp only [OpV.toBits] at he
  simp only [OpV.wf, Bool.and_eq_true, decide_eq_true_eq] at hw
  have hM : bits w 30 24 = 49 := by simp only [bits]; omega
  have hf : OpV.ofWord w = ⟨f_bd, f_fm, f_d, f_a, f_b⟩ := by
    simp only [OpV.ofWord, bits, OpV.mk.injEq]; omega
  refine (decode_compute hM (by decide)).trans ((decodeCompute_49 hM).trans ?_)
  rw [hf, hb]; rfl
theorem lanex (o : OpV) : Statement (.lanex o) := by
  obtain ⟨f_bd, f_fm, f_d, f_a, f_b⟩ := o
  intro w hw he
  have he := Option.some.inj he
  have hw : (OpV.wf _ && _) = true := hw
  have hb := (Bool.and_eq_true_iff.mp hw).2
  have hw := (Bool.and_eq_true_iff.mp hw).1
  dsimp only [OpV.toBits] at he
  simp only [OpV.wf, Bool.and_eq_true, decide_eq_true_eq] at hw
  have hM : bits w 30 24 = 49 := by simp only [bits]; omega
  have hf : OpV.ofWord w = ⟨f_bd, f_fm, f_d, f_a, f_b⟩ := by
    simp only [OpV.ofWord, bits, OpV.mk.injEq]; omega
  refine (decode_compute hM (by decide)).trans ((decodeCompute_49 hM).trans ?_)
  rw [hf, if_neg (by simpa using hb)]
theorem decodeCompute_50 {w : Nat} (h : bits w 30 24 = 50) : decodeCompute w = ifZero (bits w 13 7 == 0) (.vgeti (.ofWord w)) := by unfold decodeCompute; rw [h]; rfl
theorem vgeti (o : OpVgeti) : Statement (.vgeti o) := by
  obtain ⟨f_bd, f_fm, f_d, f_b⟩ := o
  intro w hw he
  have he := Option.some.inj he
  have hw : OpVgeti.wf _ = true := hw
  dsimp only [OpVgeti.toBits] at he
  simp only [OpVgeti.wf, Bool.and_eq_true, decide_eq_true_eq] at hw
  have hM : bits w 30 24 = 50 := by simp only [bits]; omega
  have hf : OpVgeti.ofWord w = ⟨f_bd, f_fm, f_d, f_b⟩ := by
    simp only [OpVgeti.ofWord, bits, OpVgeti.mk.injEq]; omega
  refine (decode_compute hM (by decide)).trans ((decodeCompute_50 hM).trans ?_)
  refine (ifZero_true (by simp only [bits, beq_iff_eq]; omega)).trans ?_
  rw [hf]
theorem decodeCompute_51 {w : Nat} (h : bits w 30 24 = 51) : decodeCompute w = ifZero (bits w 21 14 == 0) (.vputi (.ofWord w)) := by unfold decodeCompute; rw [h]; rfl
theorem vputi (o : OpVputi) : Statement (.vputi o) := by
  obtain ⟨f_bd, f_fm, f_a, f_b⟩ := o
  intro w hw he
  have he := Option.some.inj he
  have hw : OpVputi.wf _ = true := hw
  dsimp only [OpVputi.toBits] at he
  simp only [OpVputi.wf, Bool.and_eq_true, decide_eq_true_eq] at hw
  have hM : bits w 30 24 = 51 := by simp only [bits]; omega
  have hf : OpVputi.ofWord w = ⟨f_bd, f_fm, f_a, f_b⟩ := by
    simp only [OpVputi.ofWord, bits, OpVputi.mk.injEq]; omega
  refine (decode_compute hM (by decide)).trans ((decodeCompute_51 hM).trans ?_)
  refine (ifZero_true (by simp only [bits, beq_iff_eq]; omega)).trans ?_
  rw [hf]
theorem decodeCompute_64 {w : Nat} (h : bits w 30 24 = 64) : decodeCompute w = .ok (.ld (.ofWord w)) := by unfold decodeCompute; rw [h]; rfl
theorem ld (o : OpM) : Statement (.ld o) := by
  obtain ⟨f_bd, f_la, f_sp, f_w, f_d, f_a⟩ := o
  intro w hw he
  have he := Option.some.inj he
  have hw : OpM.wf _ = true := hw
  dsimp only [OpM.toBits] at he
  simp only [OpM.wf, Bool.and_eq_true, decide_eq_true_eq] at hw
  have hM : bits w 30 24 = 64 := by simp only [bits]; omega
  have hf : OpM.ofWord w = ⟨f_bd, f_la, f_sp, f_w, f_d, f_a⟩ := by
    simp only [OpM.ofWord, bits, OpM.mk.injEq]; omega
  refine (decode_compute hM (by decide)).trans ((decodeCompute_64 hM).trans ?_)
  exact congrArg (fun x => Except.ok (Instr.ld x)) hf
theorem decodeCompute_65 {w : Nat} (h : bits w 30 24 = 65) : decodeCompute w = .ok (.st (.ofWord w)) := by unfold decodeCompute; rw [h]; rfl
theorem st (o : OpM) : Statement (.st o) := by
  obtain ⟨f_bd, f_la, f_sp, f_w, f_d, f_a⟩ := o
  intro w hw he
  have he := Option.some.inj he
  have hw : OpM.wf _ = true := hw
  dsimp only [OpM.toBits] at he
  simp only [OpM.wf, Bool.and_eq_true, decide_eq_true_eq] at hw
  have hM : bits w 30 24 = 65 := by simp only [bits]; omega
  have hf : OpM.ofWord w = ⟨f_bd, f_la, f_sp, f_w, f_d, f_a⟩ := by
    simp only [OpM.ofWord, bits, OpM.mk.injEq]; omega
  refine (decode_compute hM (by decide)).trans ((decodeCompute_65 hM).trans ?_)
  exact congrArg (fun x => Except.ok (Instr.st x)) hf
theorem decodeCompute_66 {w : Nat} (h : bits w 30 24 = 66) : decodeCompute w = .ok (.atom (.ofWord w)) := by unfold decodeCompute; rw [h]; rfl
theorem atom (o : OpAT) : Statement (.atom o) := by
  obtain ⟨f_bd, f_la, f_sp, f_aop, f_d, f_a⟩ := o
  intro w hw he
  have he := Option.some.inj he
  have hw : OpAT.wf _ = true := hw
  dsimp only [OpAT.toBits] at he
  simp only [OpAT.wf, Bool.and_eq_true, decide_eq_true_eq] at hw
  have hM : bits w 30 24 = 66 := by simp only [bits]; omega
  have hf : OpAT.ofWord w = ⟨f_bd, f_la, f_sp, f_aop, f_d, f_a⟩ := by
    simp only [OpAT.ofWord, bits, OpAT.mk.injEq]; omega
  refine (decode_compute hM (by decide)).trans ((decodeCompute_66 hM).trans ?_)
  exact congrArg (fun x => Except.ok (Instr.atom x)) hf
theorem decodeCompute_67 {w : Nat} (h : bits w 30 24 = 67) : decodeCompute w = decodeMinor43 w := by unfold decodeCompute; rw [h]; rfl
theorem qpop (o : OpQpop) : Statement (.qpop o) := by
  obtain ⟨f_bd, f_la, f_d, f_q⟩ := o
  intro w hw he
  have he := Option.some.inj he
  have hw : OpQpop.wf _ = true := hw
  dsimp only [OpQpop.toBits] at he
  simp only [OpQpop.wf, Bool.and_eq_true, decide_eq_true_eq] at hw
  have hM : bits w 30 24 = 67 := by simp only [bits]; omega
  have hf : OpQpop.ofWord w = ⟨f_bd, f_la, f_d, f_q⟩ := by
    simp only [OpQpop.ofWord, bits, OpQpop.mk.injEq]; omega
  refine (decode_compute hM (by decide)).trans ((decodeCompute_67 hM).trans ?_)
  have hm : bits w 19 16 = 0 := by simp only [bits]; omega
  unfold decodeMinor43
  rw [hm]
  refine (ifZero_true (by simp only [bits, beq_iff_eq]; omega)).trans ?_
  rw [hf]
theorem qpops (o : OpQU) : Statement (.qpops o) := by
  obtain ⟨f_bd, f_la, f_sd, f_q⟩ := o
  intro w hw he
  have he := Option.some.inj he
  have hw : OpQU.wf _ = true := hw
  dsimp only [OpQU.toBits] at he
  simp only [OpQU.wf, Bool.and_eq_true, decide_eq_true_eq] at hw
  have hM : bits w 30 24 = 67 := by simp only [bits]; omega
  have hf : OpQU.ofWord w = ⟨f_bd, f_la, f_sd, f_q⟩ := by
    simp only [OpQU.ofWord, bits, OpQU.mk.injEq]; omega
  refine (decode_compute hM (by decide)).trans ((decodeCompute_67 hM).trans ?_)
  have hm : bits w 19 16 = 1 := by simp only [bits]; omega
  unfold decodeMinor43
  rw [hm]
  refine (ifZero_true (by simp only [bits, Bool.and_eq_true, beq_iff_eq]; omega)).trans ?_
  rw [hf]
theorem qpush (o : OpQpush) : Statement (.qpush o) := by
  obtain ⟨f_bd, f_la, f_reg, f_q, f_k⟩ := o
  intro w hw he
  have he := Option.some.inj he
  have hw : OpQpush.wf _ = true := hw
  dsimp only [OpQpush.toBits] at he
  simp only [OpQpush.wf, Bool.and_eq_true, decide_eq_true_eq] at hw
  have hM : bits w 30 24 = 67 := by simp only [bits]; omega
  have hf : OpQpush.ofWord w = ⟨f_bd, f_la, f_reg, f_q, f_k⟩ := by
    simp only [OpQpush.ofWord, bits, OpQpush.mk.injEq]; omega
  refine (decode_compute hM (by decide)).trans ((decodeCompute_67 hM).trans ?_)
  have hm : bits w 19 16 = 2 := by simp only [bits]; omega
  unfold decodeMinor43
  rw [hm]
  refine (ifZero_true (by simp only [bits, beq_iff_eq]; omega)).trans ?_
  rw [hf]
theorem qpeek (o : OpQU) : Statement (.qpeek o) := by
  obtain ⟨f_bd, f_la, f_sd, f_q⟩ := o
  intro w hw he
  have he := Option.some.inj he
  have hw : OpQU.wf _ = true := hw
  dsimp only [OpQU.toBits] at he
  simp only [OpQU.wf, Bool.and_eq_true, decide_eq_true_eq] at hw
  have hM : bits w 30 24 = 67 := by simp only [bits]; omega
  have hf : OpQU.ofWord w = ⟨f_bd, f_la, f_sd, f_q⟩ := by
    simp only [OpQU.ofWord, bits, OpQU.mk.injEq]; omega
  refine (decode_compute hM (by decide)).trans ((decodeCompute_67 hM).trans ?_)
  have hm : bits w 19 16 = 3 := by simp only [bits]; omega
  unfold decodeMinor43
  rw [hm]
  refine (ifZero_true (by simp only [bits, Bool.and_eq_true, beq_iff_eq]; omega)).trans ?_
  rw [hf]
theorem qstat (o : OpQU) : Statement (.qstat o) := by
  obtain ⟨f_bd, f_la, f_sd, f_q⟩ := o
  intro w hw he
  have he := Option.some.inj he
  have hw : OpQU.wf _ = true := hw
  dsimp only [OpQU.toBits] at he
  simp only [OpQU.wf, Bool.and_eq_true, decide_eq_true_eq] at hw
  have hM : bits w 30 24 = 67 := by simp only [bits]; omega
  have hf : OpQU.ofWord w = ⟨f_bd, f_la, f_sd, f_q⟩ := by
    simp only [OpQU.ofWord, bits, OpQU.mk.injEq]; omega
  refine (decode_compute hM (by decide)).trans ((decodeCompute_67 hM).trans ?_)
  have hm : bits w 19 16 = 4 := by simp only [bits]; omega
  unfold decodeMinor43
  rw [hm]
  refine (ifZero_true (by simp only [bits, Bool.and_eq_true, beq_iff_eq]; omega)).trans ?_
  rw [hf]
theorem qdrop (o : OpQdrop) : Statement (.qdrop o) := by
  obtain ⟨f_bd, f_la, f_n, f_q⟩ := o
  intro w hw he
  have he := Option.some.inj he
  have hw : OpQdrop.wf _ = true := hw
  dsimp only [OpQdrop.toBits] at he
  simp only [OpQdrop.wf, Bool.and_eq_true, decide_eq_true_eq] at hw
  have hM : bits w 30 24 = 67 := by simp only [bits]; omega
  have hf : OpQdrop.ofWord w = ⟨f_bd, f_la, f_n, f_q⟩ := by
    simp only [OpQdrop.ofWord, bits, OpQdrop.mk.injEq]; omega
  refine (decode_compute hM (by decide)).trans ((decodeCompute_67 hM).trans ?_)
  have hm : bits w 19 16 = 5 := by simp only [bits]; omega
  unfold decodeMinor43
  rw [hm]
  refine (ifZero_true (by simp only [bits, Bool.and_eq_true, beq_iff_eq]; omega)).trans ?_
  rw [hf]
theorem decodeCompute_68 {w : Nat} (h : bits w 30 24 = 68) : decodeCompute w = decodeMinor44 w := by unfold decodeCompute; rw [h]; rfl
theorem rawait (o : OpRingD) : Statement (.rawait o) := by
  obtain ⟨f_bd, f_la, f_sd, f_sh⟩ := o
  intro w hw he
  have he := Option.some.inj he
  have hw : OpRingD.wf _ = true := hw
  dsimp only [OpRingD.toBits] at he
  simp only [OpRingD.wf, Bool.and_eq_true, decide_eq_true_eq] at hw
  have hM : bits w 30 24 = 68 := by simp only [bits]; omega
  have hf : OpRingD.ofWord w = ⟨f_bd, f_la, f_sd, f_sh⟩ := by
    simp only [OpRingD.ofWord, bits, OpRingD.mk.injEq]; omega
  refine (decode_compute hM (by decide)).trans ((decodeCompute_68 hM).trans ?_)
  have hm : bits w 19 16 = 0 := by simp only [bits]; omega
  unfold decodeMinor44
  rw [hm]
  refine (ifZero_true (by simp only [bits, beq_iff_eq]; omega)).trans ?_
  rw [hf]
theorem rrel (o : OpRrel) : Statement (.rrel o) := by
  obtain ⟨f_bd, f_la, f_sh⟩ := o
  intro w hw he
  have he := Option.some.inj he
  have hw : OpRrel.wf _ = true := hw
  dsimp only [OpRrel.toBits] at he
  simp only [OpRrel.wf, Bool.and_eq_true, decide_eq_true_eq] at hw
  have hM : bits w 30 24 = 68 := by simp only [bits]; omega
  have hf : OpRrel.ofWord w = ⟨f_bd, f_la, f_sh⟩ := by
    simp only [OpRrel.ofWord, bits, OpRrel.mk.injEq]; omega
  refine (decode_compute hM (by decide)).trans ((decodeCompute_68 hM).trans ?_)
  have hm : bits w 19 16 = 1 := by simp only [bits]; omega
  unfold decodeMinor44
  rw [hm]
  refine (ifZero_true (by simp only [bits, beq_iff_eq]; omega)).trans ?_
  rw [hf]
theorem rstat (o : OpRingD) : Statement (.rstat o) := by
  obtain ⟨f_bd, f_la, f_sd, f_sh⟩ := o
  intro w hw he
  have he := Option.some.inj he
  have hw : OpRingD.wf _ = true := hw
  dsimp only [OpRingD.toBits] at he
  simp only [OpRingD.wf, Bool.and_eq_true, decide_eq_true_eq] at hw
  have hM : bits w 30 24 = 68 := by simp only [bits]; omega
  have hf : OpRingD.ofWord w = ⟨f_bd, f_la, f_sd, f_sh⟩ := by
    simp only [OpRingD.ofWord, bits, OpRingD.mk.injEq]; omega
  refine (decode_compute hM (by decide)).trans ((decodeCompute_68 hM).trans ?_)
  have hm : bits w 19 16 = 2 := by simp only [bits]; omega
  unfold decodeMinor44
  rw [hm]
  refine (ifZero_true (by simp only [bits, beq_iff_eq]; omega)).trans ?_
  rw [hf]
theorem decodeCompute_69 {w : Nat} (h : bits w 30 24 = 69) : decodeCompute w = decodeMinor45 w := by unfold decodeCompute; rw [h]; rfl
theorem waitc (o : OpWaitc) : Statement (.waitc o) := by
  obtain ⟨f_bd, f_cls, f_n⟩ := o
  intro w hw he
  have he := Option.some.inj he
  have hw : OpWaitc.wf _ = true := hw
  dsimp only [OpWaitc.toBits] at he
  simp only [OpWaitc.wf, Bool.and_eq_true, decide_eq_true_eq] at hw
  have hM : bits w 30 24 = 69 := by simp only [bits]; omega
  have hf : OpWaitc.ofWord w = ⟨f_bd, f_cls, f_n⟩ := by
    simp only [OpWaitc.ofWord, bits, OpWaitc.mk.injEq]; omega
  refine (decode_compute hM (by decide)).trans ((decodeCompute_69 hM).trans ?_)
  have hm : bits w 19 16 = 0 := by simp only [bits]; omega
  unfold decodeMinor45
  rw [hm]
  refine (ifZero_true (by simp only [bits, Bool.and_eq_true, beq_iff_eq]; omega)).trans ?_
  rw [hf]
theorem cntrd (o : OpCntrd) : Statement (.cntrd o) := by
  obtain ⟨f_bd, f_sd, f_cls⟩ := o
  intro w hw he
  have he := Option.some.inj he
  have hw : OpCntrd.wf _ = true := hw
  dsimp only [OpCntrd.toBits] at he
  simp only [OpCntrd.wf, Bool.and_eq_true, decide_eq_true_eq] at hw
  have hM : bits w 30 24 = 69 := by simp only [bits]; omega
  have hf : OpCntrd.ofWord w = ⟨f_bd, f_sd, f_cls⟩ := by
    simp only [OpCntrd.ofWord, bits, OpCntrd.mk.injEq]; omega
  refine (decode_compute hM (by decide)).trans ((decodeCompute_69 hM).trans ?_)
  have hm : bits w 19 16 = 1 := by simp only [bits]; omega
  unfold decodeMinor45
  rw [hm]
  refine (ifZero_true (by simp only [bits, Bool.and_eq_true, beq_iff_eq]; omega)).trans ?_
  rw [hf]
theorem gather (o : OpGather) : Statement (.gather o) := by
  obtain ⟨f_bd, f_la, f_ix, f_sb⟩ := o
  intro w hw he
  have he := Option.some.inj he
  have hw : OpGather.wf _ = true := hw
  dsimp only [OpGather.toBits] at he
  simp only [OpGather.wf, Bool.and_eq_true, decide_eq_true_eq] at hw
  have hM : bits w 30 24 = 69 := by simp only [bits]; omega
  have hf : OpGather.ofWord w = ⟨f_bd, f_la, f_ix, f_sb⟩ := by
    simp only [OpGather.ofWord, bits, OpGather.mk.injEq]; omega
  refine (decode_compute hM (by decide)).trans ((decodeCompute_69 hM).trans ?_)
  have hm : bits w 19 16 = 2 := by simp only [bits]; omega
  unfold decodeMinor45
  rw [hm]
  refine (ifZero_true (by simp only [bits, beq_iff_eq]; omega)).trans ?_
  rw [hf]
theorem creduce (o : OpCreduce) : Statement (.creduce o) := by
  obtain ⟨f_bd, f_la, f_opr, f_sb⟩ := o
  intro w hw he
  have he := Option.some.inj he
  have hw : OpCreduce.wf _ = true := hw
  dsimp only [OpCreduce.toBits] at he
  simp only [OpCreduce.wf, Bool.and_eq_true, decide_eq_true_eq] at hw
  have hM : bits w 30 24 = 69 := by simp only [bits]; omega
  have hf : OpCreduce.ofWord w = ⟨f_bd, f_la, f_opr, f_sb⟩ := by
    simp only [OpCreduce.ofWord, bits, OpCreduce.mk.injEq]; omega
  refine (decode_compute hM (by decide)).trans ((decodeCompute_69 hM).trans ?_)
  have hm : bits w 19 16 = 3 := by simp only [bits]; omega
  unfold decodeMinor45
  rw [hm]
  refine (ifZero_true (by simp only [bits, beq_iff_eq]; omega)).trans ?_
  rw [hf]
theorem decodeCompute_70 {w : Nat} (h : bits w 30 24 = 70) : decodeCompute w = decodeMinor46 w := by unfold decodeCompute; rw [h]; rfl
theorem msign (o : OpMsign) : Statement (.msign o) := by
  obtain ⟨f_bd, f_la, f_cv, f_sb, f_set⟩ := o
  intro w hw he
  have he := Option.some.inj he
  have hw : OpMsign.wf _ = true := hw
  dsimp only [OpMsign.toBits] at he
  simp only [OpMsign.wf, Bool.and_eq_true, decide_eq_true_eq] at hw
  have hM : bits w 30 24 = 70 := by simp only [bits]; omega
  have hf : OpMsign.ofWord w = ⟨f_bd, f_la, f_cv, f_sb, f_set⟩ := by
    simp only [OpMsign.ofWord, bits, OpMsign.mk.injEq]; omega
  refine (decode_compute hM (by decide)).trans ((decodeCompute_70 hM).trans ?_)
  have hm : bits w 19 16 = 0 := by simp only [bits]; omega
  unfold decodeMinor46
  rw [hm]
  exact congrArg (fun x => Except.ok (Instr.msign x)) hf
theorem mclr (o : OpMclr) : Statement (.mclr o) := by
  obtain ⟨f_bd, f_la, f_sb⟩ := o
  intro w hw he
  have he := Option.some.inj he
  have hw : OpMclr.wf _ = true := hw
  dsimp only [OpMclr.toBits] at he
  simp only [OpMclr.wf, Bool.and_eq_true, decide_eq_true_eq] at hw
  have hM : bits w 30 24 = 70 := by simp only [bits]; omega
  have hf : OpMclr.ofWord w = ⟨f_bd, f_la, f_sb⟩ := by
    simp only [OpMclr.ofWord, bits, OpMclr.mk.injEq]; omega
  refine (decode_compute hM (by decide)).trans ((decodeCompute_70 hM).trans ?_)
  have hm : bits w 19 16 = 1 := by simp only [bits]; omega
  unfold decodeMinor46
  rw [hm]
  refine (ifZero_true (by simp only [bits, beq_iff_eq]; omega)).trans ?_
  rw [hf]
theorem mstat (o : OpMstat) : Statement (.mstat o) := by
  obtain ⟨f_bd, f_la, f_sd, f_sel⟩ := o
  intro w hw he
  have he := Option.some.inj he
  have hw : OpMstat.wf _ = true := hw
  dsimp only [OpMstat.toBits] at he
  simp only [OpMstat.wf, Bool.and_eq_true, decide_eq_true_eq] at hw
  have hM : bits w 30 24 = 70 := by simp only [bits]; omega
  have hf : OpMstat.ofWord w = ⟨f_bd, f_la, f_sd, f_sel⟩ := by
    simp only [OpMstat.ofWord, bits, OpMstat.mk.injEq]; omega
  refine (decode_compute hM (by decide)).trans ((decodeCompute_70 hM).trans ?_)
  have hm : bits w 19 16 = 2 := by simp only [bits]; omega
  unfold decodeMinor46
  rw [hm]
  refine (ifZero_true (by simp only [bits, Bool.and_eq_true, beq_iff_eq]; omega)).trans ?_
  rw [hf]
theorem decodeCompute_71 {w : Nat} (h : bits w 30 24 = 71) : decodeCompute w = decodeMinor47 w := by unfold decodeCompute; rw [h]; rfl
theorem bar (o : OpBare) : Statement (.bar o) := by
  obtain ⟨f_bd⟩ := o
  intro w hw he
  have he := Option.some.inj he
  have hw : OpBare.wf _ = true := hw
  dsimp only [OpBare.toBits] at he
  simp only [OpBare.wf, decide_eq_true_eq] at hw
  have hM : bits w 30 24 = 71 := by simp only [bits]; omega
  have hf : OpBare.ofWord w = ⟨f_bd⟩ := by
    simp only [OpBare.ofWord, bits, OpBare.mk.injEq]; omega
  refine (decode_compute hM (by decide)).trans ((decodeCompute_71 hM).trans ?_)
  have hm : bits w 19 16 = 0 := by simp only [bits]; omega
  unfold decodeMinor47
  rw [hm]
  refine (ifZero_true (by simp only [bits, Bool.and_eq_true, beq_iff_eq]; omega)).trans ?_
  rw [hf]
theorem barn (o : OpBarn) : Statement (.barn o) := by
  obtain ⟨f_bd, f_team⟩ := o
  intro w hw he
  have he := Option.some.inj he
  have hw : OpBarn.wf _ = true := hw
  dsimp only [OpBarn.toBits] at he
  simp only [OpBarn.wf, Bool.and_eq_true, decide_eq_true_eq] at hw
  have hM : bits w 30 24 = 71 := by simp only [bits]; omega
  have hf : OpBarn.ofWord w = ⟨f_bd, f_team⟩ := by
    simp only [OpBarn.ofWord, bits, OpBarn.mk.injEq]; omega
  refine (decode_compute hM (by decide)).trans ((decodeCompute_71 hM).trans ?_)
  have hm : bits w 19 16 = 1 := by simp only [bits]; omega
  unfold decodeMinor47
  rw [hm]
  refine (ifZero_true (by simp only [bits, Bool.and_eq_true, beq_iff_eq]; omega)).trans ?_
  rw [hf]
theorem fence (o : OpFence) : Statement (.fence o) := by
  obtain ⟨f_bd, f_kind, f_scope⟩ := o
  intro w hw he
  have he := Option.some.inj he
  have hw : OpFence.wf _ = true := hw
  dsimp only [OpFence.toBits] at he
  simp only [OpFence.wf, Bool.and_eq_true, decide_eq_true_eq] at hw
  have hM : bits w 30 24 = 71 := by simp only [bits]; omega
  have hf : OpFence.ofWord w = ⟨f_bd, f_kind, f_scope⟩ := by
    simp only [OpFence.ofWord, bits, OpFence.mk.injEq]; omega
  refine (decode_compute hM (by decide)).trans ((decodeCompute_71 hM).trans ?_)
  have hm : bits w 19 16 = 2 := by simp only [bits]; omega
  unfold decodeMinor47
  rw [hm]
  refine (ifZero_true (by simp only [bits, Bool.and_eq_true, beq_iff_eq]; omega)).trans ?_
  rw [hf]
theorem arrive (o : OpArrive) : Statement (.arrive o) := by
  obtain ⟨f_bd, f_la, f_cnt, f_sa⟩ := o
  intro w hw he
  have he := Option.some.inj he
  have hw : OpArrive.wf _ = true := hw
  dsimp only [OpArrive.toBits] at he
  simp only [OpArrive.wf, Bool.and_eq_true, decide_eq_true_eq] at hw
  have hM : bits w 30 24 = 71 := by simp only [bits]; omega
  have hf : OpArrive.ofWord w = ⟨f_bd, f_la, f_cnt, f_sa⟩ := by
    simp only [OpArrive.ofWord, bits, OpArrive.mk.injEq]; omega
  refine (decode_compute hM (by decide)).trans ((decodeCompute_71 hM).trans ?_)
  have hm : bits w 19 16 = 3 := by simp only [bits]; omega
  unfold decodeMinor47
  rw [hm]
  refine (ifZero_true (by simp only [bits, beq_iff_eq]; omega)).trans ?_
  rw [hf]
theorem await (o : OpAwait) : Statement (.await o) := by
  obtain ⟨f_bd, f_sg, f_sa⟩ := o
  intro w hw he
  have he := Option.some.inj he
  have hw : OpAwait.wf _ = true := hw
  dsimp only [OpAwait.toBits] at he
  simp only [OpAwait.wf, Bool.and_eq_true, decide_eq_true_eq] at hw
  have hM : bits w 30 24 = 71 := by simp only [bits]; omega
  have hf : OpAwait.ofWord w = ⟨f_bd, f_sg, f_sa⟩ := by
    simp only [OpAwait.ofWord, bits, OpAwait.mk.injEq]; omega
  refine (decode_compute hM (by decide)).trans ((decodeCompute_71 hM).trans ?_)
  have hm : bits w 19 16 = 4 := by simp only [bits]; omega
  unfold decodeMinor47
  rw [hm]
  refine (ifZero_true (by simp only [bits, Bool.and_eq_true, beq_iff_eq]; omega)).trans ?_
  rw [hf]
theorem tjoin (o : OpTeam) : Statement (.tjoin o) := by
  obtain ⟨f_bd, f_la, f_team⟩ := o
  intro w hw he
  have he := Option.some.inj he
  have hw : OpTeam.wf _ = true := hw
  dsimp only [OpTeam.toBits] at he
  simp only [OpTeam.wf, Bool.and_eq_true, decide_eq_true_eq] at hw
  have hM : bits w 30 24 = 71 := by simp only [bits]; omega
  have hf : OpTeam.ofWord w = ⟨f_bd, f_la, f_team⟩ := by
    simp only [OpTeam.ofWord, bits, OpTeam.mk.injEq]; omega
  refine (decode_compute hM (by decide)).trans ((decodeCompute_71 hM).trans ?_)
  have hm : bits w 19 16 = 5 := by simp only [bits]; omega
  unfold decodeMinor47
  rw [hm]
  refine (ifZero_true (by simp only [bits, beq_iff_eq]; omega)).trans ?_
  rw [hf]
theorem tleave (o : OpTeam) : Statement (.tleave o) := by
  obtain ⟨f_bd, f_la, f_team⟩ := o
  intro w hw he
  have he := Option.some.inj he
  have hw : OpTeam.wf _ = true := hw
  dsimp only [OpTeam.toBits] at he
  simp only [OpTeam.wf, Bool.and_eq_true, decide_eq_true_eq] at hw
  have hM : bits w 30 24 = 71 := by simp only [bits]; omega
  have hf : OpTeam.ofWord w = ⟨f_bd, f_la, f_team⟩ := by
    simp only [OpTeam.ofWord, bits, OpTeam.mk.injEq]; omega
  refine (decode_compute hM (by decide)).trans ((decodeCompute_71 hM).trans ?_)
  have hm : bits w 19 16 = 6 := by simp only [bits]; omega
  unfold decodeMinor47
  rw [hm]
  refine (ifZero_true (by simp only [bits, beq_iff_eq]; omega)).trans ?_
  rw [hf]
theorem gridwait (o : OpBare) : Statement (.gridwait o) := by
  obtain ⟨f_bd⟩ := o
  intro w hw he
  have he := Option.some.inj he
  have hw : OpBare.wf _ = true := hw
  dsimp only [OpBare.toBits] at he
  simp only [OpBare.wf, decide_eq_true_eq] at hw
  have hM : bits w 30 24 = 71 := by simp only [bits]; omega
  have hf : OpBare.ofWord w = ⟨f_bd⟩ := by
    simp only [OpBare.ofWord, bits, OpBare.mk.injEq]; omega
  refine (decode_compute hM (by decide)).trans ((decodeCompute_71 hM).trans ?_)
  have hm : bits w 19 16 = 7 := by simp only [bits]; omega
  unfold decodeMinor47
  rw [hm]
  refine (ifZero_true (by simp only [bits, Bool.and_eq_true, beq_iff_eq]; omega)).trans ?_
  rw [hf]
theorem trigger (o : OpTrigger) : Statement (.trigger o) := by
  obtain ⟨f_bd, f_la⟩ := o
  intro w hw he
  have he := Option.some.inj he
  have hw : OpTrigger.wf _ = true := hw
  dsimp only [OpTrigger.toBits] at he
  simp only [OpTrigger.wf, Bool.and_eq_true, decide_eq_true_eq] at hw
  have hM : bits w 30 24 = 71 := by simp only [bits]; omega
  have hf : OpTrigger.ofWord w = ⟨f_bd, f_la⟩ := by
    simp only [OpTrigger.ofWord, bits, OpTrigger.mk.injEq]; omega
  refine (decode_compute hM (by decide)).trans ((decodeCompute_71 hM).trans ?_)
  have hm : bits w 19 16 = 8 := by simp only [bits]; omega
  unfold decodeMinor47
  rw [hm]
  refine (ifZero_true (by simp only [bits, beq_iff_eq]; omega)).trans ?_
  rw [hf]
theorem mwait (o : OpMwait) : Statement (.mwait o) := by
  obtain ⟨f_bd, f_sv, f_sa⟩ := o
  intro w hw he
  have he := Option.some.inj he
  have hw : OpMwait.wf _ = true := hw
  dsimp only [OpMwait.toBits] at he
  simp only [OpMwait.wf, Bool.and_eq_true, decide_eq_true_eq] at hw
  have hM : bits w 30 24 = 71 := by simp only [bits]; omega
  have hf : OpMwait.ofWord w = ⟨f_bd, f_sv, f_sa⟩ := by
    simp only [OpMwait.ofWord, bits, OpMwait.mk.injEq]; omega
  refine (decode_compute hM (by decide)).trans ((decodeCompute_71 hM).trans ?_)
  have hm : bits w 19 16 = 9 := by simp only [bits]; omega
  unfold decodeMinor47
  rw [hm]
  refine (ifZero_true (by simp only [bits, Bool.and_eq_true, beq_iff_eq]; omega)).trans ?_
  rw [hf]
theorem decodeCompute_72 {w : Nat} (h : bits w 30 24 = 72) : decodeCompute w = decodeMinor48 w := by unfold decodeCompute; rw [h]; rfl
theorem uipost (o : OpPair) : Statement (.uipost o) := by
  obtain ⟨f_bd, f_la, f_sd, f_sa⟩ := o
  intro w hw he
  have he := Option.some.inj he
  have hw : OpPair.wf _ = true := hw
  dsimp only [OpPair.toBits] at he
  simp only [OpPair.wf, Bool.and_eq_true, decide_eq_true_eq] at hw
  have hM : bits w 30 24 = 72 := by simp only [bits]; omega
  have hf : OpPair.ofWord w = ⟨f_bd, f_la, f_sd, f_sa⟩ := by
    simp only [OpPair.ofWord, bits, OpPair.mk.injEq]; omega
  refine (decode_compute hM (by decide)).trans ((decodeCompute_72 hM).trans ?_)
  have hm : bits w 19 16 = 0 := by simp only [bits]; omega
  unfold decodeMinor48
  rw [hm]
  refine (ifZero_true (by simp only [bits, beq_iff_eq]; omega)).trans ?_
  rw [hf]
theorem decodeAddress_72 {w : Nat} (h : bits w 30 24 = 72) : decodeAddress w = decodeMinor48Address w := by unfold decodeAddress; rw [h]; rfl
theorem uipostAslice (o : OpGPair) : Statement (.uipostAslice o) := by
  obtain ⟨f_bd, f_la, f_sd, f_sa⟩ := o
  intro w hw he
  have he := Option.some.inj he
  have hw : OpGPair.wf _ = true := hw
  dsimp only [OpGPair.toBits] at he
  simp only [OpGPair.wf, Bool.and_eq_true, decide_eq_true_eq] at hw
  have hM : bits w 30 24 = 72 := by simp only [bits]; omega
  have hf : OpGPair.ofWord w = ⟨f_bd, f_la, f_sd, f_sa⟩ := by
    simp only [OpGPair.ofWord, bits, OpGPair.mk.injEq]; omega
  refine (decode_address hM (by decide)).trans ((decodeAddress_72 hM).trans ?_)
  have hm : bits w 19 16 = 0 := by simp only [bits]; omega
  unfold decodeMinor48Address
  rw [hm]
  refine (ifZero_true (by simp only [bits, Bool.and_eq_true, beq_iff_eq]; omega)).trans ?_
  rw [hf]
theorem uiwait (o : OpUiwait) : Statement (.uiwait o) := by
  obtain ⟨f_bd, f_sd⟩ := o
  intro w hw he
  have he := Option.some.inj he
  have hw : OpUiwait.wf _ = true := hw
  dsimp only [OpUiwait.toBits] at he
  simp only [OpUiwait.wf, Bool.and_eq_true, decide_eq_true_eq] at hw
  have hM : bits w 30 24 = 72 := by simp only [bits]; omega
  have hf : OpUiwait.ofWord w = ⟨f_bd, f_sd⟩ := by
    simp only [OpUiwait.ofWord, bits, OpUiwait.mk.injEq]; omega
  refine (decode_compute hM (by decide)).trans ((decodeCompute_72 hM).trans ?_)
  have hm : bits w 19 16 = 1 := by simp only [bits]; omega
  unfold decodeMinor48
  rw [hm]
  refine (ifZero_true (by simp only [bits, Bool.and_eq_true, beq_iff_eq]; omega)).trans ?_
  rw [hf]
theorem uiack (o : OpUiack) : Statement (.uiack o) := by
  obtain ⟨f_bd, f_la, f_sd⟩ := o
  intro w hw he
  have he := Option.some.inj he
  have hw : OpUiack.wf _ = true := hw
  dsimp only [OpUiack.toBits] at he
  simp only [OpUiack.wf, Bool.and_eq_true, decide_eq_true_eq] at hw
  have hM : bits w 30 24 = 72 := by simp only [bits]; omega
  have hf : OpUiack.ofWord w = ⟨f_bd, f_la, f_sd⟩ := by
    simp only [OpUiack.ofWord, bits, OpUiack.mk.injEq]; omega
  refine (decode_compute hM (by decide)).trans ((decodeCompute_72 hM).trans ?_)
  have hm : bits w 19 16 = 2 := by simp only [bits]; omega
  unfold decodeMinor48
  rw [hm]
  refine (ifZero_true (by simp only [bits, Bool.and_eq_true, beq_iff_eq]; omega)).trans ?_
  rw [hf]
theorem uimask (o : OpPair) : Statement (.uimask o) := by
  obtain ⟨f_bd, f_la, f_sd, f_sa⟩ := o
  intro w hw he
  have he := Option.some.inj he
  have hw : OpPair.wf _ = true := hw
  dsimp only [OpPair.toBits] at he
  simp only [OpPair.wf, Bool.and_eq_true, decide_eq_true_eq] at hw
  have hM : bits w 30 24 = 72 := by simp only [bits]; omega
  have hf : OpPair.ofWord w = ⟨f_bd, f_la, f_sd, f_sa⟩ := by
    simp only [OpPair.ofWord, bits, OpPair.mk.injEq]; omega
  refine (decode_compute hM (by decide)).trans ((decodeCompute_72 hM).trans ?_)
  have hm : bits w 19 16 = 3 := by simp only [bits]; omega
  unfold decodeMinor48
  rw [hm]
  refine (ifZero_true (by simp only [bits, beq_iff_eq]; omega)).trans ?_
  rw [hf]
theorem lookout (o : OpLookout) : Statement (.lookout o) := by
  obtain ⟨f_bd, f_as, f_sa⟩ := o
  intro w hw he
  have he := Option.some.inj he
  have hw : OpLookout.wf _ = true := hw
  dsimp only [OpLookout.toBits] at he
  simp only [OpLookout.wf, Bool.and_eq_true, decide_eq_true_eq] at hw
  have hM : bits w 30 24 = 72 := by simp only [bits]; omega
  have hf : OpLookout.ofWord w = ⟨f_bd, f_as, f_sa⟩ := by
    simp only [OpLookout.ofWord, bits, OpLookout.mk.injEq]; omega
  refine (decode_compute hM (by decide)).trans ((decodeCompute_72 hM).trans ?_)
  have hm : bits w 19 16 = 4 := by simp only [bits]; omega
  unfold decodeMinor48
  rw [hm]
  refine (ifZero_true (by simp only [bits, Bool.and_eq_true, beq_iff_eq]; omega)).trans ?_
  rw [hf]
theorem decodeCompute_73 {w : Nat} (h : bits w 30 24 = 73) : decodeCompute w = decodeMinor49 w := by unfold decodeCompute; rw [h]; rfl
theorem svc (o : OpSvc) : Statement (.svc o) := by
  obtain ⟨f_bd, f_n, f_sa⟩ := o
  intro w hw he
  have he := Option.some.inj he
  have hw : OpSvc.wf _ = true := hw
  dsimp only [OpSvc.toBits] at he
  simp only [OpSvc.wf, Bool.and_eq_true, decide_eq_true_eq] at hw
  have hM : bits w 30 24 = 73 := by simp only [bits]; omega
  have hf : OpSvc.ofWord w = ⟨f_bd, f_n, f_sa⟩ := by
    simp only [OpSvc.ofWord, bits, OpSvc.mk.injEq]; omega
  refine (decode_compute hM (by decide)).trans ((decodeCompute_73 hM).trans ?_)
  have hm : bits w 19 16 = 0 := by simp only [bits]; omega
  unfold decodeMinor49
  rw [hm]
  refine (ifZero_true (by simp only [bits, Bool.and_eq_true, beq_iff_eq]; omega)).trans ?_
  rw [hf]
theorem decodeAddress_73 {w : Nat} (h : bits w 30 24 = 73) : decodeAddress w = decodeMinor49Address w := by unfold decodeAddress; rw [h]; rfl
theorem svcAslice (o : OpGSvc) : Statement (.svcAslice o) := by
  obtain ⟨f_bd, f_n, f_sa⟩ := o
  intro w hw he
  have he := Option.some.inj he
  have hw : OpGSvc.wf _ = true := hw
  dsimp only [OpGSvc.toBits] at he
  simp only [OpGSvc.wf, Bool.and_eq_true, decide_eq_true_eq] at hw
  have hM : bits w 30 24 = 73 := by simp only [bits]; omega
  have hf : OpGSvc.ofWord w = ⟨f_bd, f_n, f_sa⟩ := by
    simp only [OpGSvc.ofWord, bits, OpGSvc.mk.injEq]; omega
  refine (decode_address hM (by decide)).trans ((decodeAddress_73 hM).trans ?_)
  have hm : bits w 19 16 = 0 := by simp only [bits]; omega
  unfold decodeMinor49Address
  rw [hm]
  refine (ifZero_true (by simp only [bits, Bool.and_eq_true, beq_iff_eq]; omega)).trans ?_
  rw [hf]
theorem decodeCompute_74 {w : Nat} (h : bits w 30 24 = 74) : decodeCompute w = decodeMinor4A w := by unfold decodeCompute; rw [h]; rfl
theorem capld (o : OpPair) : Statement (.capld o) := by
  obtain ⟨f_bd, f_la, f_sd, f_sa⟩ := o
  intro w hw he
  have he := Option.some.inj he
  have hw : OpPair.wf _ = true := hw
  dsimp only [OpPair.toBits] at he
  simp only [OpPair.wf, Bool.and_eq_true, decide_eq_true_eq] at hw
  have hM : bits w 30 24 = 74 := by simp only [bits]; omega
  have hf : OpPair.ofWord w = ⟨f_bd, f_la, f_sd, f_sa⟩ := by
    simp only [OpPair.ofWord, bits, OpPair.mk.injEq]; omega
  refine (decode_compute hM (by decide)).trans ((decodeCompute_74 hM).trans ?_)
  have hm : bits w 19 16 = 0 := by simp only [bits]; omega
  unfold decodeMinor4A
  rw [hm]
  refine (ifZero_true (by simp only [bits, beq_iff_eq]; omega)).trans ?_
  rw [hf]
theorem capst (o : OpPair) : Statement (.capst o) := by
  obtain ⟨f_bd, f_la, f_sd, f_sa⟩ := o
  intro w hw he
  have he := Option.some.inj he
  have hw : OpPair.wf _ = true := hw
  dsimp only [OpPair.toBits] at he
  simp only [OpPair.wf, Bool.and_eq_true, decide_eq_true_eq] at hw
  have hM : bits w 30 24 = 74 := by simp only [bits]; omega
  have hf : OpPair.ofWord w = ⟨f_bd, f_la, f_sd, f_sa⟩ := by
    simp only [OpPair.ofWord, bits, OpPair.mk.injEq]; omega
  refine (decode_compute hM (by decide)).trans ((decodeCompute_74 hM).trans ?_)
  have hm : bits w 19 16 = 1 := by simp only [bits]; omega
  unfold decodeMinor4A
  rw [hm]
  refine (ifZero_true (by simp only [bits, beq_iff_eq]; omega)).trans ?_
  rw [hf]
theorem capnarrow (o : OpPair) : Statement (.capnarrow o) := by
  obtain ⟨f_bd, f_la, f_sd, f_sa⟩ := o
  intro w hw he
  have he := Option.some.inj he
  have hw : OpPair.wf _ = true := hw
  dsimp only [OpPair.toBits] at he
  simp only [OpPair.wf, Bool.and_eq_true, decide_eq_true_eq] at hw
  have hM : bits w 30 24 = 74 := by simp only [bits]; omega
  have hf : OpPair.ofWord w = ⟨f_bd, f_la, f_sd, f_sa⟩ := by
    simp only [OpPair.ofWord, bits, OpPair.mk.injEq]; omega
  refine (decode_compute hM (by decide)).trans ((decodeCompute_74 hM).trans ?_)
  have hm : bits w 19 16 = 2 := by simp only [bits]; omega
  unfold decodeMinor4A
  rw [hm]
  refine (ifZero_true (by simp only [bits, beq_iff_eq]; omega)).trans ?_
  rw [hf]
theorem capchk (o : OpPair) : Statement (.capchk o) := by
  obtain ⟨f_bd, f_la, f_sd, f_sa⟩ := o
  intro w hw he
  have he := Option.some.inj he
  have hw : OpPair.wf _ = true := hw
  dsimp only [OpPair.toBits] at he
  simp only [OpPair.wf, Bool.and_eq_true, decide_eq_true_eq] at hw
  have hM : bits w 30 24 = 74 := by simp only [bits]; omega
  have hf : OpPair.ofWord w = ⟨f_bd, f_la, f_sd, f_sa⟩ := by
    simp only [OpPair.ofWord, bits, OpPair.mk.injEq]; omega
  refine (decode_compute hM (by decide)).trans ((decodeCompute_74 hM).trans ?_)
  have hm : bits w 19 16 = 3 := by simp only [bits]; omega
  unfold decodeMinor4A
  rw [hm]
  refine (ifZero_true (by simp only [bits, beq_iff_eq]; omega)).trans ?_
  rw [hf]
theorem decodeAddress_74 {w : Nat} (h : bits w 30 24 = 74) : decodeAddress w = decodeMinor4AAddress w := by unfold decodeAddress; rw [h]; rfl
theorem capldAslice (o : OpGPair) : Statement (.capldAslice o) := by
  obtain ⟨f_bd, f_la, f_sd, f_sa⟩ := o
  intro w hw he
  have he := Option.some.inj he
  have hw : OpGPair.wf _ = true := hw
  dsimp only [OpGPair.toBits] at he
  simp only [OpGPair.wf, Bool.and_eq_true, decide_eq_true_eq] at hw
  have hM : bits w 30 24 = 74 := by simp only [bits]; omega
  have hf : OpGPair.ofWord w = ⟨f_bd, f_la, f_sd, f_sa⟩ := by
    simp only [OpGPair.ofWord, bits, OpGPair.mk.injEq]; omega
  refine (decode_address hM (by decide)).trans ((decodeAddress_74 hM).trans ?_)
  have hm : bits w 19 16 = 0 := by simp only [bits]; omega
  unfold decodeMinor4AAddress
  rw [hm]
  refine (ifZero_true (by simp only [bits, Bool.and_eq_true, beq_iff_eq]; omega)).trans ?_
  rw [hf]
theorem capstAslice (o : OpGPair) : Statement (.capstAslice o) := by
  obtain ⟨f_bd, f_la, f_sd, f_sa⟩ := o
  intro w hw he
  have he := Option.some.inj he
  have hw : OpGPair.wf _ = true := hw
  dsimp only [OpGPair.toBits] at he
  simp only [OpGPair.wf, Bool.and_eq_true, decide_eq_true_eq] at hw
  have hM : bits w 30 24 = 74 := by simp only [bits]; omega
  have hf : OpGPair.ofWord w = ⟨f_bd, f_la, f_sd, f_sa⟩ := by
    simp only [OpGPair.ofWord, bits, OpGPair.mk.injEq]; omega
  refine (decode_address hM (by decide)).trans ((decodeAddress_74 hM).trans ?_)
  have hm : bits w 19 16 = 1 := by simp only [bits]; omega
  unfold decodeMinor4AAddress
  rw [hm]
  refine (ifZero_true (by simp only [bits, Bool.and_eq_true, beq_iff_eq]; omega)).trans ?_
  rw [hf]
theorem capnarrowAslice (o : OpGPair) : Statement (.capnarrowAslice o) := by
  obtain ⟨f_bd, f_la, f_sd, f_sa⟩ := o
  intro w hw he
  have he := Option.some.inj he
  have hw : OpGPair.wf _ = true := hw
  dsimp only [OpGPair.toBits] at he
  simp only [OpGPair.wf, Bool.and_eq_true, decide_eq_true_eq] at hw
  have hM : bits w 30 24 = 74 := by simp only [bits]; omega
  have hf : OpGPair.ofWord w = ⟨f_bd, f_la, f_sd, f_sa⟩ := by
    simp only [OpGPair.ofWord, bits, OpGPair.mk.injEq]; omega
  refine (decode_address hM (by decide)).trans ((decodeAddress_74 hM).trans ?_)
  have hm : bits w 19 16 = 2 := by simp only [bits]; omega
  unfold decodeMinor4AAddress
  rw [hm]
  refine (ifZero_true (by simp only [bits, Bool.and_eq_true, beq_iff_eq]; omega)).trans ?_
  rw [hf]
theorem capchkAslice (o : OpGPair) : Statement (.capchkAslice o) := by
  obtain ⟨f_bd, f_la, f_sd, f_sa⟩ := o
  intro w hw he
  have he := Option.some.inj he
  have hw : OpGPair.wf _ = true := hw
  dsimp only [OpGPair.toBits] at he
  simp only [OpGPair.wf, Bool.and_eq_true, decide_eq_true_eq] at hw
  have hM : bits w 30 24 = 74 := by simp only [bits]; omega
  have hf : OpGPair.ofWord w = ⟨f_bd, f_la, f_sd, f_sa⟩ := by
    simp only [OpGPair.ofWord, bits, OpGPair.mk.injEq]; omega
  refine (decode_address hM (by decide)).trans ((decodeAddress_74 hM).trans ?_)
  have hm : bits w 19 16 = 3 := by simp only [bits]; omega
  unfold decodeMinor4AAddress
  rw [hm]
  refine (ifZero_true (by simp only [bits, Bool.and_eq_true, beq_iff_eq]; omega)).trans ?_
  rw [hf]
theorem decodeCompute_80 {w : Nat} (h : bits w 30 24 = 80) : decodeCompute w = ifZero (bits w 31 31 == 1) (.brc (.ofWord w)) := by unfold decodeCompute; rw [h]; rfl
theorem brc (o : OpBrc) : Statement (.brc o) := by
  obtain ⟨f_ps, f_n, f_off⟩ := o
  intro w hw he
  have he := Option.some.inj he
  have hw : OpBrc.wf _ = true := hw
  dsimp only [OpBrc.toBits] at he
  simp only [OpBrc.wf, Bool.and_eq_true, decide_eq_true_eq] at hw
  have hM : bits w 30 24 = 80 := by simp only [bits]; omega
  have hf : OpBrc.ofWord w = ⟨f_ps, f_n, f_off⟩ := by
    simp only [OpBrc.ofWord, bits, OpBrc.mk.injEq]; omega
  refine (decode_compute hM (by decide)).trans ((decodeCompute_80 hM).trans ?_)
  refine (ifZero_true (by simp only [bits, beq_iff_eq]; omega)).trans ?_
  rw [hf]
theorem decodeCompute_81 {w : Nat} (h : bits w 30 24 = 81) : decodeCompute w = decodeMinor51 w := by unfold decodeCompute; rw [h]; rfl
theorem jmp (o : OpJump) : Statement (.jmp o) := by
  obtain ⟨f_off⟩ := o
  intro w hw he
  have he := Option.some.inj he
  have hw : OpJump.wf _ = true := hw
  dsimp only [OpJump.toBits] at he
  simp only [OpJump.wf, decide_eq_true_eq] at hw
  have hM : bits w 30 24 = 81 := by simp only [bits]; omega
  have hf : OpJump.ofWord w = ⟨f_off⟩ := by
    simp only [OpJump.ofWord, bits, OpJump.mk.injEq]; omega
  refine (decode_compute hM (by decide)).trans ((decodeCompute_81 hM).trans ?_)
  have hm : bits w 23 21 = 0 := by simp only [bits]; omega
  unfold decodeMinor51
  rw [hm]
  refine (ifZero_true (by simp only [bits, beq_iff_eq]; omega)).trans ?_
  rw [hf]
theorem call (o : OpJump) : Statement (.call o) := by
  obtain ⟨f_off⟩ := o
  intro w hw he
  have he := Option.some.inj he
  have hw : OpJump.wf _ = true := hw
  dsimp only [OpJump.toBits] at he
  simp only [OpJump.wf, decide_eq_true_eq] at hw
  have hM : bits w 30 24 = 81 := by simp only [bits]; omega
  have hf : OpJump.ofWord w = ⟨f_off⟩ := by
    simp only [OpJump.ofWord, bits, OpJump.mk.injEq]; omega
  refine (decode_compute hM (by decide)).trans ((decodeCompute_81 hM).trans ?_)
  have hm : bits w 23 21 = 1 := by simp only [bits]; omega
  unfold decodeMinor51
  rw [hm]
  refine (ifZero_true (by simp only [bits, beq_iff_eq]; omega)).trans ?_
  rw [hf]
theorem jmpr (o : OpJmpr) : Statement (.jmpr o) := by
  obtain ⟨f_d⟩ := o
  intro w hw he
  have he := Option.some.inj he
  have hw : OpJmpr.wf _ = true := hw
  dsimp only [OpJmpr.toBits] at he
  simp only [OpJmpr.wf, decide_eq_true_eq] at hw
  have hM : bits w 30 24 = 81 := by simp only [bits]; omega
  have hf : OpJmpr.ofWord w = ⟨f_d⟩ := by
    simp only [OpJmpr.ofWord, bits, OpJmpr.mk.injEq]; omega
  refine (decode_compute hM (by decide)).trans ((decodeCompute_81 hM).trans ?_)
  have hm : bits w 23 21 = 3 := by simp only [bits]; omega
  unfold decodeMinor51
  rw [hm]
  refine (ifZero_true (by simp only [bits, Bool.and_eq_true, beq_iff_eq]; omega)).trans ?_
  rw [hf]
theorem decodeCompute_82 {w : Nat} (h : bits w 30 24 = 82) : decodeCompute w = decodeMinor52 w := by unfold decodeCompute; rw [h]; rfl
theorem himm (o : OpHimm) : Statement (.himm o) := by
  obtain ⟨f_bd, f_imm⟩ := o
  intro w hw he
  have he := Option.some.inj he
  have hw : OpHimm.wf _ = true := hw
  dsimp only [OpHimm.toBits] at he
  simp only [OpHimm.wf, Bool.and_eq_true, decide_eq_true_eq] at hw
  have hM : bits w 30 24 = 82 := by simp only [bits]; omega
  have hf : OpHimm.ofWord w = ⟨f_bd, f_imm⟩ := by
    simp only [OpHimm.ofWord, bits, OpHimm.mk.injEq]; omega
  refine (decode_compute hM (by decide)).trans ((decodeCompute_82 hM).trans ?_)
  have hm : bits w 23 20 = 0 := by simp only [bits]; omega
  unfold decodeMinor52
  rw [hm]
  exact congrArg (fun x => Except.ok (Instr.himm x)) hf
theorem himmx (o : OpHimmx) : Statement (.himmx o) := by
  obtain ⟨f_bd, f_immx⟩ := o
  intro w hw he
  have he := Option.some.inj he
  have hw : OpHimmx.wf _ = true := hw
  dsimp only [OpHimmx.toBits] at he
  simp only [OpHimmx.wf, Bool.and_eq_true, decide_eq_true_eq] at hw
  have hM : bits w 30 24 = 82 := by simp only [bits]; omega
  have hf : OpHimmx.ofWord w = ⟨f_bd, f_immx⟩ := by
    simp only [OpHimmx.ofWord, bits, OpHimmx.mk.injEq]; omega
  refine (decode_compute hM (by decide)).trans ((decodeCompute_82 hM).trans ?_)
  have hm : bits w 23 20 = 1 := by simp only [bits]; omega
  unfold decodeMinor52
  rw [hm]
  refine (ifHint_true (by simp only [bits, beq_iff_eq]; omega)).trans ?_
  rw [hf]
theorem hmod (o : OpHmod) : Statement (.hmod o) := by
  obtain ⟨f_bd, f_rnd, f_sat, f_w64, f_n, f_sz, f_sgn, f_nega, f_absa, f_negb, f_absb, f_ord, f_scope⟩ := o
  intro w hw he
  have he := Option.some.inj he
  have hw : OpHmod.wf _ = true := hw
  dsimp only [OpHmod.toBits] at he
  simp only [OpHmod.wf, Bool.and_eq_true, decide_eq_true_eq] at hw
  have hM : bits w 30 24 = 82 := by simp only [bits]; omega
  have hf : OpHmod.ofWord w = ⟨f_bd, f_rnd, f_sat, f_w64, f_n, f_sz, f_sgn, f_nega, f_absa, f_negb, f_absb, f_ord, f_scope⟩ := by
    simp only [OpHmod.ofWord, bits, OpHmod.mk.injEq]; omega
  refine (decode_compute hM (by decide)).trans ((decodeCompute_82 hM).trans ?_)
  have hm : bits w 23 20 = 2 := by simp only [bits]; omega
  unfold decodeMinor52
  rw [hm]
  refine (ifHint_true (by simp only [bits, beq_iff_eq]; omega)).trans ?_
  rw [hf]
theorem hgrd (o : OpHgrd) : Statement (.hgrd o) := by
  obtain ⟨f_bd, f_pred, f_neg⟩ := o
  intro w hw he
  have he := Option.some.inj he
  have hw : OpHgrd.wf _ = true := hw
  dsimp only [OpHgrd.toBits] at he
  simp only [OpHgrd.wf, Bool.and_eq_true, decide_eq_true_eq] at hw
  have hM : bits w 30 24 = 82 := by simp only [bits]; omega
  have hf : OpHgrd.ofWord w = ⟨f_bd, f_pred, f_neg⟩ := by
    simp only [OpHgrd.ofWord, bits, OpHgrd.mk.injEq]; omega
  refine (decode_compute hM (by decide)).trans ((decodeCompute_82 hM).trans ?_)
  have hm : bits w 23 20 = 3 := by simp only [bits]; omega
  unfold decodeMinor52
  rw [hm]
  refine (ifZero_true (by simp only [bits, beq_iff_eq]; omega)).trans ?_
  rw [hf]
theorem hxb (o : OpHxb) : Statement (.hxb o) := by
  obtain ⟨f_bd, f_xa, f_xb⟩ := o
  intro w hw he
  have he := Option.some.inj he
  have hw : OpHxb.wf _ = true := hw
  dsimp only [OpHxb.toBits] at he
  simp only [OpHxb.wf, Bool.and_eq_true, decide_eq_true_eq] at hw
  have hM : bits w 30 24 = 82 := by simp only [bits]; omega
  have hf : OpHxb.ofWord w = ⟨f_bd, f_xa, f_xb⟩ := by
    simp only [OpHxb.ofWord, bits, OpHxb.mk.injEq]; omega
  refine (decode_compute hM (by decide)).trans ((decodeCompute_82 hM).trans ?_)
  have hm : bits w 23 20 = 4 := by simp only [bits]; omega
  unfold decodeMinor52
  rw [hm]
  refine (ifHint_true (by simp only [bits, beq_iff_eq]; omega)).trans ?_
  rw [hf]
theorem hadr (o : OpHadr) : Statement (.hadr o) := by
  obtain ⟨f_bd, f_sb, f_off⟩ := o
  intro w hw he
  have he := Option.some.inj he
  have hw : OpHadr.wf _ = true := hw
  dsimp only [OpHadr.toBits] at he
  simp only [OpHadr.wf, Bool.and_eq_true, decide_eq_true_eq] at hw
  have hM : bits w 30 24 = 82 := by simp only [bits]; omega
  have hf : OpHadr.ofWord w = ⟨f_bd, f_sb, f_off⟩ := by
    simp only [OpHadr.ofWord, bits, OpHadr.mk.injEq]; omega
  refine (decode_compute hM (by decide)).trans ((decodeCompute_82 hM).trans ?_)
  have hm : bits w 23 20 = 5 := by simp only [bits]; omega
  unfold decodeMinor52
  rw [hm]
  exact congrArg (fun x => Except.ok (Instr.hadr x)) hf
theorem hkeep (o : OpHkeep) : Statement (.hkeep o) := by
  obtain ⟨f_bd, f_k1, f_k2, f_v1, f_v2⟩ := o
  intro w hw he
  have he := Option.some.inj he
  have hw : OpHkeep.wf _ = true := hw
  dsimp only [OpHkeep.toBits] at he
  simp only [OpHkeep.wf, Bool.and_eq_true, decide_eq_true_eq] at hw
  have hM : bits w 30 24 = 82 := by simp only [bits]; omega
  have hf : OpHkeep.ofWord w = ⟨f_bd, f_k1, f_k2, f_v1, f_v2⟩ := by
    simp only [OpHkeep.ofWord, bits, OpHkeep.mk.injEq]; omega
  refine (decode_compute hM (by decide)).trans ((decodeCompute_82 hM).trans ?_)
  have hm : bits w 23 20 = 6 := by simp only [bits]; omega
  unfold decodeMinor52
  rw [hm]
  refine (ifHint_true (by simp only [bits, beq_iff_eq]; omega)).trans ?_
  rw [hf]
theorem hpri (o : OpHpri) : Statement (.hpri o) := by
  obtain ⟨f_bd, f_nudge⟩ := o
  intro w hw he
  have he := Option.some.inj he
  have hw : OpHpri.wf _ = true := hw
  dsimp only [OpHpri.toBits] at he
  simp only [OpHpri.wf, Bool.and_eq_true, decide_eq_true_eq] at hw
  have hM : bits w 30 24 = 82 := by simp only [bits]; omega
  have hf : OpHpri.ofWord w = ⟨f_bd, f_nudge⟩ := by
    simp only [OpHpri.ofWord, bits, OpHpri.mk.injEq]; omega
  refine (decode_compute hM (by decide)).trans ((decodeCompute_82 hM).trans ?_)
  have hm : bits w 23 20 = 7 := by simp only [bits]; omega
  unfold decodeMinor52
  rw [hm]
  refine (ifHint_true (by simp only [bits, beq_iff_eq]; omega)).trans ?_
  rw [hf]
theorem decodeCompute_83 {w : Nat} (h : bits w 30 24 = 83) : decodeCompute w = decodeMinor53 w := by unfold decodeCompute; rw [h]; rfl
theorem uadd (o : OpU) : Statement (.uadd o) := by
  obtain ⟨f_bd, f_sd, f_sa, f_sb⟩ := o
  intro w hw he
  have he := Option.some.inj he
  have hw : OpU.wf _ = true := hw
  dsimp only [OpU.toBits] at he
  simp only [OpU.wf, Bool.and_eq_true, decide_eq_true_eq] at hw
  have hM : bits w 30 24 = 83 := by simp only [bits]; omega
  have hf : OpU.ofWord w = ⟨f_bd, f_sd, f_sa, f_sb⟩ := by
    simp only [OpU.ofWord, bits, OpU.mk.injEq]; omega
  refine (decode_compute hM (by decide)).trans ((decodeCompute_83 hM).trans ?_)
  have hm : bits w 23 21 = 0 := by simp only [bits]; omega
  unfold decodeMinor53
  rw [hm]
  exact congrArg (fun x => Except.ok (Instr.uadd x)) hf
theorem usub (o : OpU) : Statement (.usub o) := by
  obtain ⟨f_bd, f_sd, f_sa, f_sb⟩ := o
  intro w hw he
  have he := Option.some.inj he
  have hw : OpU.wf _ = true := hw
  dsimp only [OpU.toBits] at he
  simp only [OpU.wf, Bool.and_eq_true, decide_eq_true_eq] at hw
  have hM : bits w 30 24 = 83 := by simp only [bits]; omega
  have hf : OpU.ofWord w = ⟨f_bd, f_sd, f_sa, f_sb⟩ := by
    simp only [OpU.ofWord, bits, OpU.mk.injEq]; omega
  refine (decode_compute hM (by decide)).trans ((decodeCompute_83 hM).trans ?_)
  have hm : bits w 23 21 = 1 := by simp only [bits]; omega
  unfold decodeMinor53
  rw [hm]
  exact congrArg (fun x => Except.ok (Instr.usub x)) hf
theorem umul (o : OpU) : Statement (.umul o) := by
  obtain ⟨f_bd, f_sd, f_sa, f_sb⟩ := o
  intro w hw he
  have he := Option.some.inj he
  have hw : OpU.wf _ = true := hw
  dsimp only [OpU.toBits] at he
  simp only [OpU.wf, Bool.and_eq_true, decide_eq_true_eq] at hw
  have hM : bits w 30 24 = 83 := by simp only [bits]; omega
  have hf : OpU.ofWord w = ⟨f_bd, f_sd, f_sa, f_sb⟩ := by
    simp only [OpU.ofWord, bits, OpU.mk.injEq]; omega
  refine (decode_compute hM (by decide)).trans ((decodeCompute_83 hM).trans ?_)
  have hm : bits w 23 21 = 2 := by simp only [bits]; omega
  unfold decodeMinor53
  rw [hm]
  exact congrArg (fun x => Except.ok (Instr.umul x)) hf
theorem umulh (o : OpU) : Statement (.umulh o) := by
  obtain ⟨f_bd, f_sd, f_sa, f_sb⟩ := o
  intro w hw he
  have he := Option.some.inj he
  have hw : OpU.wf _ = true := hw
  dsimp only [OpU.toBits] at he
  simp only [OpU.wf, Bool.and_eq_true, decide_eq_true_eq] at hw
  have hM : bits w 30 24 = 83 := by simp only [bits]; omega
  have hf : OpU.ofWord w = ⟨f_bd, f_sd, f_sa, f_sb⟩ := by
    simp only [OpU.ofWord, bits, OpU.mk.injEq]; omega
  refine (decode_compute hM (by decide)).trans ((decodeCompute_83 hM).trans ?_)
  have hm : bits w 23 21 = 3 := by simp only [bits]; omega
  unfold decodeMinor53
  rw [hm]
  exact congrArg (fun x => Except.ok (Instr.umulh x)) hf
theorem uand (o : OpU) : Statement (.uand o) := by
  obtain ⟨f_bd, f_sd, f_sa, f_sb⟩ := o
  intro w hw he
  have he := Option.some.inj he
  have hw : OpU.wf _ = true := hw
  dsimp only [OpU.toBits] at he
  simp only [OpU.wf, Bool.and_eq_true, decide_eq_true_eq] at hw
  have hM : bits w 30 24 = 83 := by simp only [bits]; omega
  have hf : OpU.ofWord w = ⟨f_bd, f_sd, f_sa, f_sb⟩ := by
    simp only [OpU.ofWord, bits, OpU.mk.injEq]; omega
  refine (decode_compute hM (by decide)).trans ((decodeCompute_83 hM).trans ?_)
  have hm : bits w 23 21 = 4 := by simp only [bits]; omega
  unfold decodeMinor53
  rw [hm]
  exact congrArg (fun x => Except.ok (Instr.uand x)) hf
theorem uor (o : OpU) : Statement (.uor o) := by
  obtain ⟨f_bd, f_sd, f_sa, f_sb⟩ := o
  intro w hw he
  have he := Option.some.inj he
  have hw : OpU.wf _ = true := hw
  dsimp only [OpU.toBits] at he
  simp only [OpU.wf, Bool.and_eq_true, decide_eq_true_eq] at hw
  have hM : bits w 30 24 = 83 := by simp only [bits]; omega
  have hf : OpU.ofWord w = ⟨f_bd, f_sd, f_sa, f_sb⟩ := by
    simp only [OpU.ofWord, bits, OpU.mk.injEq]; omega
  refine (decode_compute hM (by decide)).trans ((decodeCompute_83 hM).trans ?_)
  have hm : bits w 23 21 = 5 := by simp only [bits]; omega
  unfold decodeMinor53
  rw [hm]
  exact congrArg (fun x => Except.ok (Instr.uor x)) hf
theorem uxor (o : OpU) : Statement (.uxor o) := by
  obtain ⟨f_bd, f_sd, f_sa, f_sb⟩ := o
  intro w hw he
  have he := Option.some.inj he
  have hw : OpU.wf _ = true := hw
  dsimp only [OpU.toBits] at he
  simp only [OpU.wf, Bool.and_eq_true, decide_eq_true_eq] at hw
  have hM : bits w 30 24 = 83 := by simp only [bits]; omega
  have hf : OpU.ofWord w = ⟨f_bd, f_sd, f_sa, f_sb⟩ := by
    simp only [OpU.ofWord, bits, OpU.mk.injEq]; omega
  refine (decode_compute hM (by decide)).trans ((decodeCompute_83 hM).trans ?_)
  have hm : bits w 23 21 = 6 := by simp only [bits]; omega
  unfold decodeMinor53
  rw [hm]
  exact congrArg (fun x => Except.ok (Instr.uxor x)) hf
theorem uandn (o : OpU) : Statement (.uandn o) := by
  obtain ⟨f_bd, f_sd, f_sa, f_sb⟩ := o
  intro w hw he
  have he := Option.some.inj he
  have hw : OpU.wf _ = true := hw
  dsimp only [OpU.toBits] at he
  simp only [OpU.wf, Bool.and_eq_true, decide_eq_true_eq] at hw
  have hM : bits w 30 24 = 83 := by simp only [bits]; omega
  have hf : OpU.ofWord w = ⟨f_bd, f_sd, f_sa, f_sb⟩ := by
    simp only [OpU.ofWord, bits, OpU.mk.injEq]; omega
  refine (decode_compute hM (by decide)).trans ((decodeCompute_83 hM).trans ?_)
  have hm : bits w 23 21 = 7 := by simp only [bits]; omega
  unfold decodeMinor53
  rw [hm]
  exact congrArg (fun x => Except.ok (Instr.uandn x)) hf
theorem decodeCompute_84 {w : Nat} (h : bits w 30 24 = 84) : decodeCompute w = decodeMinor54 w := by unfold decodeCompute; rw [h]; rfl
theorem ushl (o : OpU) : Statement (.ushl o) := by
  obtain ⟨f_bd, f_sd, f_sa, f_sb⟩ := o
  intro w hw he
  have he := Option.some.inj he
  have hw : OpU.wf _ = true := hw
  dsimp only [OpU.toBits] at he
  simp only [OpU.wf, Bool.and_eq_true, decide_eq_true_eq] at hw
  have hM : bits w 30 24 = 84 := by simp only [bits]; omega
  have hf : OpU.ofWord w = ⟨f_bd, f_sd, f_sa, f_sb⟩ := by
    simp only [OpU.ofWord, bits, OpU.mk.injEq]; omega
  refine (decode_compute hM (by decide)).trans ((decodeCompute_84 hM).trans ?_)
  have hm : bits w 23 21 = 0 := by simp only [bits]; omega
  unfold decodeMinor54
  rw [hm]
  exact congrArg (fun x => Except.ok (Instr.ushl x)) hf
theorem ushr (o : OpU) : Statement (.ushr o) := by
  obtain ⟨f_bd, f_sd, f_sa, f_sb⟩ := o
  intro w hw he
  have he := Option.some.inj he
  have hw : OpU.wf _ = true := hw
  dsimp only [OpU.toBits] at he
  simp only [OpU.wf, Bool.and_eq_true, decide_eq_true_eq] at hw
  have hM : bits w 30 24 = 84 := by simp only [bits]; omega
  have hf : OpU.ofWord w = ⟨f_bd, f_sd, f_sa, f_sb⟩ := by
    simp only [OpU.ofWord, bits, OpU.mk.injEq]; omega
  refine (decode_compute hM (by decide)).trans ((decodeCompute_84 hM).trans ?_)
  have hm : bits w 23 21 = 1 := by simp only [bits]; omega
  unfold decodeMinor54
  rw [hm]
  exact congrArg (fun x => Except.ok (Instr.ushr x)) hf
theorem usar (o : OpU) : Statement (.usar o) := by
  obtain ⟨f_bd, f_sd, f_sa, f_sb⟩ := o
  intro w hw he
  have he := Option.some.inj he
  have hw : OpU.wf _ = true := hw
  dsimp only [OpU.toBits] at he
  simp only [OpU.wf, Bool.and_eq_true, decide_eq_true_eq] at hw
  have hM : bits w 30 24 = 84 := by simp only [bits]; omega
  have hf : OpU.ofWord w = ⟨f_bd, f_sd, f_sa, f_sb⟩ := by
    simp only [OpU.ofWord, bits, OpU.mk.injEq]; omega
  refine (decode_compute hM (by decide)).trans ((decodeCompute_84 hM).trans ?_)
  have hm : bits w 23 21 = 2 := by simp only [bits]; omega
  unfold decodeMinor54
  rw [hm]
  exact congrArg (fun x => Except.ok (Instr.usar x)) hf
theorem umin (o : OpU) : Statement (.umin o) := by
  obtain ⟨f_bd, f_sd, f_sa, f_sb⟩ := o
  intro w hw he
  have he := Option.some.inj he
  have hw : OpU.wf _ = true := hw
  dsimp only [OpU.toBits] at he
  simp only [OpU.wf, Bool.and_eq_true, decide_eq_true_eq] at hw
  have hM : bits w 30 24 = 84 := by simp only [bits]; omega
  have hf : OpU.ofWord w = ⟨f_bd, f_sd, f_sa, f_sb⟩ := by
    simp only [OpU.ofWord, bits, OpU.mk.injEq]; omega
  refine (decode_compute hM (by decide)).trans ((decodeCompute_84 hM).trans ?_)
  have hm : bits w 23 21 = 3 := by simp only [bits]; omega
  unfold decodeMinor54
  rw [hm]
  exact congrArg (fun x => Except.ok (Instr.umin x)) hf
theorem umax (o : OpU) : Statement (.umax o) := by
  obtain ⟨f_bd, f_sd, f_sa, f_sb⟩ := o
  intro w hw he
  have he := Option.some.inj he
  have hw : OpU.wf _ = true := hw
  dsimp only [OpU.toBits] at he
  simp only [OpU.wf, Bool.and_eq_true, decide_eq_true_eq] at hw
  have hM : bits w 30 24 = 84 := by simp only [bits]; omega
  have hf : OpU.ofWord w = ⟨f_bd, f_sd, f_sa, f_sb⟩ := by
    simp only [OpU.ofWord, bits, OpU.mk.injEq]; omega
  refine (decode_compute hM (by decide)).trans ((decodeCompute_84 hM).trans ?_)
  have hm : bits w 23 21 = 4 := by simp only [bits]; omega
  unfold decodeMinor54
  rw [hm]
  exact congrArg (fun x => Except.ok (Instr.umax x)) hf
theorem uminn (o : OpU) : Statement (.uminn o) := by
  obtain ⟨f_bd, f_sd, f_sa, f_sb⟩ := o
  intro w hw he
  have he := Option.some.inj he
  have hw : OpU.wf _ = true := hw
  dsimp only [OpU.toBits] at he
  simp only [OpU.wf, Bool.and_eq_true, decide_eq_true_eq] at hw
  have hM : bits w 30 24 = 84 := by simp only [bits]; omega
  have hf : OpU.ofWord w = ⟨f_bd, f_sd, f_sa, f_sb⟩ := by
    simp only [OpU.ofWord, bits, OpU.mk.injEq]; omega
  refine (decode_compute hM (by decide)).trans ((decodeCompute_84 hM).trans ?_)
  have hm : bits w 23 21 = 5 := by simp only [bits]; omega
  unfold decodeMinor54
  rw [hm]
  exact congrArg (fun x => Except.ok (Instr.uminn x)) hf
theorem umaxn (o : OpU) : Statement (.umaxn o) := by
  obtain ⟨f_bd, f_sd, f_sa, f_sb⟩ := o
  intro w hw he
  have he := Option.some.inj he
  have hw : OpU.wf _ = true := hw
  dsimp only [OpU.toBits] at he
  simp only [OpU.wf, Bool.and_eq_true, decide_eq_true_eq] at hw
  have hM : bits w 30 24 = 84 := by simp only [bits]; omega
  have hf : OpU.ofWord w = ⟨f_bd, f_sd, f_sa, f_sb⟩ := by
    simp only [OpU.ofWord, bits, OpU.mk.injEq]; omega
  refine (decode_compute hM (by decide)).trans ((decodeCompute_84 hM).trans ?_)
  have hm : bits w 23 21 = 6 := by simp only [bits]; omega
  unfold decodeMinor54
  rw [hm]
  exact congrArg (fun x => Except.ok (Instr.umaxn x)) hf
theorem umov (o : OpUmov) : Statement (.umov o) := by
  obtain ⟨f_bd, f_sd, f_sa⟩ := o
  intro w hw he
  have he := Option.some.inj he
  have hw : OpUmov.wf _ = true := hw
  dsimp only [OpUmov.toBits] at he
  simp only [OpUmov.wf, Bool.and_eq_true, decide_eq_true_eq] at hw
  have hM : bits w 30 24 = 84 := by simp only [bits]; omega
  have hf : OpUmov.ofWord w = ⟨f_bd, f_sd, f_sa⟩ := by
    simp only [OpUmov.ofWord, bits, OpUmov.mk.injEq]; omega
  refine (decode_compute hM (by decide)).trans ((decodeCompute_84 hM).trans ?_)
  have hm : bits w 23 21 = 7 := by simp only [bits]; omega
  unfold decodeMinor54
  rw [hm]
  refine (ifZero_true (by simp only [bits, beq_iff_eq]; omega)).trans ?_
  rw [hf]
theorem decodeCompute_85 {w : Nat} (h : bits w 30 24 = 85) : decodeCompute w = decodeMinor55 w := by unfold decodeCompute; rw [h]; rfl
theorem uaddi (o : OpUI) : Statement (.uaddi o) := by
  obtain ⟨f_bd, f_sd, f_imm⟩ := o
  intro w hw he
  have he := Option.some.inj he
  have hw : OpUI.wf _ = true := hw
  dsimp only [OpUI.toBits] at he
  simp only [OpUI.wf, Bool.and_eq_true, decide_eq_true_eq] at hw
  have hM : bits w 30 24 = 85 := by simp only [bits]; omega
  have hf : OpUI.ofWord w = ⟨f_bd, f_sd, f_imm⟩ := by
    simp only [OpUI.ofWord, bits, OpUI.mk.injEq]; omega
  refine (decode_compute hM (by decide)).trans ((decodeCompute_85 hM).trans ?_)
  have hm : bits w 23 21 = 0 := by simp only [bits]; omega
  unfold decodeMinor55
  rw [hm]
  exact congrArg (fun x => Except.ok (Instr.uaddi x)) hf
theorem uandi (o : OpUI) : Statement (.uandi o) := by
  obtain ⟨f_bd, f_sd, f_imm⟩ := o
  intro w hw he
  have he := Option.some.inj he
  have hw : OpUI.wf _ = true := hw
  dsimp only [OpUI.toBits] at he
  simp only [OpUI.wf, Bool.and_eq_true, decide_eq_true_eq] at hw
  have hM : bits w 30 24 = 85 := by simp only [bits]; omega
  have hf : OpUI.ofWord w = ⟨f_bd, f_sd, f_imm⟩ := by
    simp only [OpUI.ofWord, bits, OpUI.mk.injEq]; omega
  refine (decode_compute hM (by decide)).trans ((decodeCompute_85 hM).trans ?_)
  have hm : bits w 23 21 = 1 := by simp only [bits]; omega
  unfold decodeMinor55
  rw [hm]
  exact congrArg (fun x => Except.ok (Instr.uandi x)) hf
theorem uori (o : OpUI) : Statement (.uori o) := by
  obtain ⟨f_bd, f_sd, f_imm⟩ := o
  intro w hw he
  have he := Option.some.inj he
  have hw : OpUI.wf _ = true := hw
  dsimp only [OpUI.toBits] at he
  simp only [OpUI.wf, Bool.and_eq_true, decide_eq_true_eq] at hw
  have hM : bits w 30 24 = 85 := by simp only [bits]; omega
  have hf : OpUI.ofWord w = ⟨f_bd, f_sd, f_imm⟩ := by
    simp only [OpUI.ofWord, bits, OpUI.mk.injEq]; omega
  refine (decode_compute hM (by decide)).trans ((decodeCompute_85 hM).trans ?_)
  have hm : bits w 23 21 = 2 := by simp only [bits]; omega
  unfold decodeMinor55
  rw [hm]
  exact congrArg (fun x => Except.ok (Instr.uori x)) hf
theorem uxori (o : OpUI) : Statement (.uxori o) := by
  obtain ⟨f_bd, f_sd, f_imm⟩ := o
  intro w hw he
  have he := Option.some.inj he
  have hw : OpUI.wf _ = true := hw
  dsimp only [OpUI.toBits] at he
  simp only [OpUI.wf, Bool.and_eq_true, decide_eq_true_eq] at hw
  have hM : bits w 30 24 = 85 := by simp only [bits]; omega
  have hf : OpUI.ofWord w = ⟨f_bd, f_sd, f_imm⟩ := by
    simp only [OpUI.ofWord, bits, OpUI.mk.injEq]; omega
  refine (decode_compute hM (by decide)).trans ((decodeCompute_85 hM).trans ?_)
  have hm : bits w 23 21 = 3 := by simp only [bits]; omega
  unfold decodeMinor55
  rw [hm]
  exact congrArg (fun x => Except.ok (Instr.uxori x)) hf
theorem ushli (o : OpUI) : Statement (.ushli o) := by
  obtain ⟨f_bd, f_sd, f_imm⟩ := o
  intro w hw he
  have he := Option.some.inj he
  have hw : OpUI.wf _ = true := hw
  dsimp only [OpUI.toBits] at he
  simp only [OpUI.wf, Bool.and_eq_true, decide_eq_true_eq] at hw
  have hM : bits w 30 24 = 85 := by simp only [bits]; omega
  have hf : OpUI.ofWord w = ⟨f_bd, f_sd, f_imm⟩ := by
    simp only [OpUI.ofWord, bits, OpUI.mk.injEq]; omega
  refine (decode_compute hM (by decide)).trans ((decodeCompute_85 hM).trans ?_)
  have hm : bits w 23 21 = 4 := by simp only [bits]; omega
  unfold decodeMinor55
  rw [hm]
  exact congrArg (fun x => Except.ok (Instr.ushli x)) hf
theorem ushri (o : OpUI) : Statement (.ushri o) := by
  obtain ⟨f_bd, f_sd, f_imm⟩ := o
  intro w hw he
  have he := Option.some.inj he
  have hw : OpUI.wf _ = true := hw
  dsimp only [OpUI.toBits] at he
  simp only [OpUI.wf, Bool.and_eq_true, decide_eq_true_eq] at hw
  have hM : bits w 30 24 = 85 := by simp only [bits]; omega
  have hf : OpUI.ofWord w = ⟨f_bd, f_sd, f_imm⟩ := by
    simp only [OpUI.ofWord, bits, OpUI.mk.injEq]; omega
  refine (decode_compute hM (by decide)).trans ((decodeCompute_85 hM).trans ?_)
  have hm : bits w 23 21 = 5 := by simp only [bits]; omega
  unfold decodeMinor55
  rw [hm]
  exact congrArg (fun x => Except.ok (Instr.ushri x)) hf
theorem usari (o : OpUI) : Statement (.usari o) := by
  obtain ⟨f_bd, f_sd, f_imm⟩ := o
  intro w hw he
  have he := Option.some.inj he
  have hw : OpUI.wf _ = true := hw
  dsimp only [OpUI.toBits] at he
  simp only [OpUI.wf, Bool.and_eq_true, decide_eq_true_eq] at hw
  have hM : bits w 30 24 = 85 := by simp only [bits]; omega
  have hf : OpUI.ofWord w = ⟨f_bd, f_sd, f_imm⟩ := by
    simp only [OpUI.ofWord, bits, OpUI.mk.injEq]; omega
  refine (decode_compute hM (by decide)).trans ((decodeCompute_85 hM).trans ?_)
  have hm : bits w 23 21 = 6 := by simp only [bits]; omega
  unfold decodeMinor55
  rw [hm]
  exact congrArg (fun x => Except.ok (Instr.usari x)) hf
theorem umovi (o : OpUI) : Statement (.umovi o) := by
  obtain ⟨f_bd, f_sd, f_imm⟩ := o
  intro w hw he
  have he := Option.some.inj he
  have hw : OpUI.wf _ = true := hw
  dsimp only [OpUI.toBits] at he
  simp only [OpUI.wf, Bool.and_eq_true, decide_eq_true_eq] at hw
  have hM : bits w 30 24 = 85 := by simp only [bits]; omega
  have hf : OpUI.ofWord w = ⟨f_bd, f_sd, f_imm⟩ := by
    simp only [OpUI.ofWord, bits, OpUI.mk.injEq]; omega
  refine (decode_compute hM (by decide)).trans ((decodeCompute_85 hM).trans ?_)
  have hm : bits w 23 21 = 7 := by simp only [bits]; omega
  unfold decodeMinor55
  rw [hm]
  exact congrArg (fun x => Except.ok (Instr.umovi x)) hf
theorem decodeCompute_86 {w : Nat} (h : bits w 30 24 = 86) : decodeCompute w = .ok (.ucmp (.ofWord w)) := by unfold decodeCompute; rw [h]; rfl
theorem ucmp (o : OpUC) : Statement (.ucmp o) := by
  obtain ⟨f_bd, f_cc, f_sd, f_sa, f_sb⟩ := o
  intro w hw he
  have he := Option.some.inj he
  have hw : OpUC.wf _ = true := hw
  dsimp only [OpUC.toBits] at he
  simp only [OpUC.wf, Bool.and_eq_true, decide_eq_true_eq] at hw
  have hM : bits w 30 24 = 86 := by simp only [bits]; omega
  have hf : OpUC.ofWord w = ⟨f_bd, f_cc, f_sd, f_sa, f_sb⟩ := by
    simp only [OpUC.ofWord, bits, OpUC.mk.injEq]; omega
  refine (decode_compute hM (by decide)).trans ((decodeCompute_86 hM).trans ?_)
  exact congrArg (fun x => Except.ok (Instr.ucmp x)) hf
theorem decodeCompute_87 {w : Nat} (h : bits w 30 24 = 87) : decodeCompute w = decodeMinor57 w := by unfold decodeCompute; rw [h]; rfl
theorem nop (o : OpBare) : Statement (.nop o) := by
  obtain ⟨f_bd⟩ := o
  intro w hw he
  have he := Option.some.inj he
  have hw : OpBare.wf _ = true := hw
  dsimp only [OpBare.toBits] at he
  simp only [OpBare.wf, decide_eq_true_eq] at hw
  have hM : bits w 30 24 = 87 := by simp only [bits]; omega
  have hf : OpBare.ofWord w = ⟨f_bd⟩ := by
    simp only [OpBare.ofWord, bits, OpBare.mk.injEq]; omega
  refine (decode_compute hM (by decide)).trans ((decodeCompute_87 hM).trans ?_)
  have hm : bits w 23 20 = 0 := by simp only [bits]; omega
  unfold decodeMinor57
  rw [hm]
  refine (ifZero_true (by simp only [bits, beq_iff_eq]; omega)).trans ?_
  rw [hf]
theorem trapfence (o : OpBare) : Statement (.trapfence o) := by
  obtain ⟨f_bd⟩ := o
  intro w hw he
  have he := Option.some.inj he
  have hw : OpBare.wf _ = true := hw
  dsimp only [OpBare.toBits] at he
  simp only [OpBare.wf, decide_eq_true_eq] at hw
  have hM : bits w 30 24 = 87 := by simp only [bits]; omega
  have hf : OpBare.ofWord w = ⟨f_bd⟩ := by
    simp only [OpBare.ofWord, bits, OpBare.mk.injEq]; omega
  refine (decode_compute hM (by decide)).trans ((decodeCompute_87 hM).trans ?_)
  have hm : bits w 23 20 = 1 := by simp only [bits]; omega
  unfold decodeMinor57
  rw [hm]
  refine (ifZero_true (by simp only [bits, beq_iff_eq]; omega)).trans ?_
  rw [hf]
theorem trap (o : OpCode) : Statement (.trap o) := by
  obtain ⟨f_bd, f_code⟩ := o
  intro w hw he
  have he := Option.some.inj he
  have hw : OpCode.wf _ = true := hw
  dsimp only [OpCode.toBits] at he
  simp only [OpCode.wf, Bool.and_eq_true, decide_eq_true_eq] at hw
  have hM : bits w 30 24 = 87 := by simp only [bits]; omega
  have hf : OpCode.ofWord w = ⟨f_bd, f_code⟩ := by
    simp only [OpCode.ofWord, bits, OpCode.mk.injEq]; omega
  refine (decode_compute hM (by decide)).trans ((decodeCompute_87 hM).trans ?_)
  have hm : bits w 23 20 = 2 := by simp only [bits]; omega
  unfold decodeMinor57
  rw [hm]
  refine (ifZero_true (by simp only [bits, beq_iff_eq]; omega)).trans ?_
  rw [hf]
theorem bkpt (o : OpBkpt) : Statement (.bkpt o) := by
  obtain ⟨f_bd, f_snap, f_code⟩ := o
  intro w hw he
  have he := Option.some.inj he
  have hw : OpBkpt.wf _ = true := hw
  dsimp only [OpBkpt.toBits] at he
  simp only [OpBkpt.wf, Bool.and_eq_true, decide_eq_true_eq] at hw
  have hM : bits w 30 24 = 87 := by simp only [bits]; omega
  have hf : OpBkpt.ofWord w = ⟨f_bd, f_snap, f_code⟩ := by
    simp only [OpBkpt.ofWord, bits, OpBkpt.mk.injEq]; omega
  refine (decode_compute hM (by decide)).trans ((decodeCompute_87 hM).trans ?_)
  have hm : bits w 23 20 = 3 := by simp only [bits]; omega
  unfold decodeMinor57
  rw [hm]
  refine (ifZero_true (by simp only [bits, beq_iff_eq]; omega)).trans ?_
  rw [hf]
theorem xacq (o : OpXacq) : Statement (.xacq o) := by
  obtain ⟨f_bd, f_n⟩ := o
  intro w hw he
  have he := Option.some.inj he
  have hw : OpXacq.wf _ = true := hw
  dsimp only [OpXacq.toBits] at he
  simp only [OpXacq.wf, Bool.and_eq_true, decide_eq_true_eq] at hw
  have hM : bits w 30 24 = 87 := by simp only [bits]; omega
  have hf : OpXacq.ofWord w = ⟨f_bd, f_n⟩ := by
    simp only [OpXacq.ofWord, bits, OpXacq.mk.injEq]; omega
  refine (decode_compute hM (by decide)).trans ((decodeCompute_87 hM).trans ?_)
  have hm : bits w 23 20 = 4 := by simp only [bits]; omega
  unfold decodeMinor57
  rw [hm]
  refine (ifZero_true (by simp only [bits, beq_iff_eq]; omega)).trans ?_
  rw [hf]
theorem xrel (o : OpBare) : Statement (.xrel o) := by
  obtain ⟨f_bd⟩ := o
  intro w hw he
  have he := Option.some.inj he
  have hw : OpBare.wf _ = true := hw
  dsimp only [OpBare.toBits] at he
  simp only [OpBare.wf, decide_eq_true_eq] at hw
  have hM : bits w 30 24 = 87 := by simp only [bits]; omega
  have hf : OpBare.ofWord w = ⟨f_bd⟩ := by
    simp only [OpBare.ofWord, bits, OpBare.mk.injEq]; omega
  refine (decode_compute hM (by decide)).trans ((decodeCompute_87 hM).trans ?_)
  have hm : bits w 23 20 = 5 := by simp only [bits]; omega
  unfold decodeMinor57
  rw [hm]
  refine (ifZero_true (by simp only [bits, beq_iff_eq]; omega)).trans ?_
  rw [hf]
theorem fork (o : OpFork) : Statement (.fork o) := by
  obtain ⟨f_bd, f_sd, f_sa⟩ := o
  intro w hw he
  have he := Option.some.inj he
  have hw : OpFork.wf _ = true := hw
  dsimp only [OpFork.toBits] at he
  simp only [OpFork.wf, Bool.and_eq_true, decide_eq_true_eq] at hw
  have hM : bits w 30 24 = 87 := by simp only [bits]; omega
  have hf : OpFork.ofWord w = ⟨f_bd, f_sd, f_sa⟩ := by
    simp only [OpFork.ofWord, bits, OpFork.mk.injEq]; omega
  refine (decode_compute hM (by decide)).trans ((decodeCompute_87 hM).trans ?_)
  have hm : bits w 23 20 = 6 := by simp only [bits]; omega
  unfold decodeMinor57
  rw [hm]
  refine (ifZero_true (by simp only [bits, beq_iff_eq]; omega)).trans ?_
  rw [hf]
theorem join (o : OpJoin) : Statement (.join o) := by
  obtain ⟨f_bd, f_sa⟩ := o
  intro w hw he
  have he := Option.some.inj he
  have hw : OpJoin.wf _ = true := hw
  dsimp only [OpJoin.toBits] at he
  simp only [OpJoin.wf, Bool.and_eq_true, decide_eq_true_eq] at hw
  have hM : bits w 30 24 = 87 := by simp only [bits]; omega
  have hf : OpJoin.ofWord w = ⟨f_bd, f_sa⟩ := by
    simp only [OpJoin.ofWord, bits, OpJoin.mk.injEq]; omega
  refine (decode_compute hM (by decide)).trans ((decodeCompute_87 hM).trans ?_)
  have hm : bits w 23 20 = 7 := by simp only [bits]; omega
  unfold decodeMinor57
  rw [hm]
  refine (ifZero_true (by simp only [bits, beq_iff_eq]; omega)).trans ?_
  rw [hf]
theorem uswin (o : OpUswin) : Statement (.uswin o) := by
  obtain ⟨f_bd, f_wb⟩ := o
  intro w hw he
  have he := Option.some.inj he
  have hw : OpUswin.wf _ = true := hw
  dsimp only [OpUswin.toBits] at he
  simp only [OpUswin.wf, Bool.and_eq_true, decide_eq_true_eq] at hw
  have hM : bits w 30 24 = 87 := by simp only [bits]; omega
  have hf : OpUswin.ofWord w = ⟨f_bd, f_wb⟩ := by
    simp only [OpUswin.ofWord, bits, OpUswin.mk.injEq]; omega
  refine (decode_compute hM (by decide)).trans ((decodeCompute_87 hM).trans ?_)
  have hm : bits w 23 20 = 8 := by simp only [bits]; omega
  unfold decodeMinor57
  rw [hm]
  refine (ifZero_true (by simp only [bits, beq_iff_eq]; omega)).trans ?_
  rw [hf]
theorem yield (o : OpBare) : Statement (.yield o) := by
  obtain ⟨f_bd⟩ := o
  intro w hw he
  have he := Option.some.inj he
  have hw : OpBare.wf _ = true := hw
  dsimp only [OpBare.toBits] at he
  simp only [OpBare.wf, decide_eq_true_eq] at hw
  have hM : bits w 30 24 = 87 := by simp only [bits]; omega
  have hf : OpBare.ofWord w = ⟨f_bd⟩ := by
    simp only [OpBare.ofWord, bits, OpBare.mk.injEq]; omega
  refine (decode_compute hM (by decide)).trans ((decodeCompute_87 hM).trans ?_)
  have hm : bits w 23 20 = 9 := by simp only [bits]; omega
  unfold decodeMinor57
  rw [hm]
  refine (ifZero_true (by simp only [bits, beq_iff_eq]; omega)).trans ?_
  rw [hf]
theorem aflclr (o : OpAflclr) : Statement (.aflclr o) := by
  obtain ⟨f_bd, f_mask⟩ := o
  intro w hw he
  have he := Option.some.inj he
  have hw : OpAflclr.wf _ = true := hw
  dsimp only [OpAflclr.toBits] at he
  simp only [OpAflclr.wf, Bool.and_eq_true, decide_eq_true_eq] at hw
  have hM : bits w 30 24 = 87 := by simp only [bits]; omega
  have hf : OpAflclr.ofWord w = ⟨f_bd, f_mask⟩ := by
    simp only [OpAflclr.ofWord, bits, OpAflclr.mk.injEq]; omega
  refine (decode_compute hM (by decide)).trans ((decodeCompute_87 hM).trans ?_)
  have hm : bits w 23 20 = 10 := by simp only [bits]; omega
  unfold decodeMinor57
  rw [hm]
  refine (ifZero_true (by simp only [bits, beq_iff_eq]; omega)).trans ?_
  rw [hf]
theorem decodeAddress_96 {w : Nat} (h : bits w 30 24 = 96) : decodeAddress w = decodeMinor60 w := by unfold decodeAddress; rw [h]; rfl
theorem gadd (o : OpGA) : Statement (.gadd o) := by
  obtain ⟨f_bd, f_gd, f_ga, f_gb⟩ := o
  intro w hw he
  have he := Option.some.inj he
  have hw : OpGA.wf _ = true := hw
  dsimp only [OpGA.toBits] at he
  simp only [OpGA.wf, Bool.and_eq_true, decide_eq_true_eq] at hw
  have hM : bits w 30 24 = 96 := by simp only [bits]; omega
  have hf : OpGA.ofWord w = ⟨f_bd, f_gd, f_ga, f_gb⟩ := by
    simp only [OpGA.ofWord, bits, OpGA.mk.injEq]; omega
  refine (decode_address hM (by decide)).trans ((decodeAddress_96 hM).trans ?_)
  have hm : bits w 23 20 = 0 := by simp only [bits]; omega
  unfold decodeMinor60
  rw [hm]
  refine (ifZero_true (by simp only [bits, beq_iff_eq]; omega)).trans ?_
  rw [hf]
theorem gsub (o : OpGA) : Statement (.gsub o) := by
  obtain ⟨f_bd, f_gd, f_ga, f_gb⟩ := o
  intro w hw he
  have he := Option.some.inj he
  have hw : OpGA.wf _ = true := hw
  dsimp only [OpGA.toBits] at he
  simp only [OpGA.wf, Bool.and_eq_true, decide_eq_true_eq] at hw
  have hM : bits w 30 24 = 96 := by simp only [bits]; omega
  have hf : OpGA.ofWord w = ⟨f_bd, f_gd, f_ga, f_gb⟩ := by
    simp only [OpGA.ofWord, bits, OpGA.mk.injEq]; omega
  refine (decode_address hM (by decide)).trans ((decodeAddress_96 hM).trans ?_)
  have hm : bits w 23 20 = 1 := by simp only [bits]; omega
  unfold decodeMinor60
  rw [hm]
  refine (ifZero_true (by simp only [bits, beq_iff_eq]; omega)).trans ?_
  rw [hf]
theorem gmul (o : OpGA) : Statement (.gmul o) := by
  obtain ⟨f_bd, f_gd, f_ga, f_gb⟩ := o
  intro w hw he
  have he := Option.some.inj he
  have hw : OpGA.wf _ = true := hw
  dsimp only [OpGA.toBits] at he
  simp only [OpGA.wf, Bool.and_eq_true, decide_eq_true_eq] at hw
  have hM : bits w 30 24 = 96 := by simp only [bits]; omega
  have hf : OpGA.ofWord w = ⟨f_bd, f_gd, f_ga, f_gb⟩ := by
    simp only [OpGA.ofWord, bits, OpGA.mk.injEq]; omega
  refine (decode_address hM (by decide)).trans ((decodeAddress_96 hM).trans ?_)
  have hm : bits w 23 20 = 2 := by simp only [bits]; omega
  unfold decodeMinor60
  rw [hm]
  refine (ifZero_true (by simp only [bits, beq_iff_eq]; omega)).trans ?_
  rw [hf]
theorem gmulh (o : OpGA) : Statement (.gmulh o) := by
  obtain ⟨f_bd, f_gd, f_ga, f_gb⟩ := o
  intro w hw he
  have he := Option.some.inj he
  have hw : OpGA.wf _ = true := hw
  dsimp only [OpGA.toBits] at he
  simp only [OpGA.wf, Bool.and_eq_true, decide_eq_true_eq] at hw
  have hM : bits w 30 24 = 96 := by simp only [bits]; omega
  have hf : OpGA.ofWord w = ⟨f_bd, f_gd, f_ga, f_gb⟩ := by
    simp only [OpGA.ofWord, bits, OpGA.mk.injEq]; omega
  refine (decode_address hM (by decide)).trans ((decodeAddress_96 hM).trans ?_)
  have hm : bits w 23 20 = 3 := by simp only [bits]; omega
  unfold decodeMinor60
  rw [hm]
  refine (ifZero_true (by simp only [bits, beq_iff_eq]; omega)).trans ?_
  rw [hf]
theorem gand (o : OpGA) : Statement (.gand o) := by
  obtain ⟨f_bd, f_gd, f_ga, f_gb⟩ := o
  intro w hw he
  have he := Option.some.inj he
  have hw : OpGA.wf _ = true := hw
  dsimp only [OpGA.toBits] at he
  simp only [OpGA.wf, Bool.and_eq_true, decide_eq_true_eq] at hw
  have hM : bits w 30 24 = 96 := by simp only [bits]; omega
  have hf : OpGA.ofWord w = ⟨f_bd, f_gd, f_ga, f_gb⟩ := by
    simp only [OpGA.ofWord, bits, OpGA.mk.injEq]; omega
  refine (decode_address hM (by decide)).trans ((decodeAddress_96 hM).trans ?_)
  have hm : bits w 23 20 = 4 := by simp only [bits]; omega
  unfold decodeMinor60
  rw [hm]
  refine (ifZero_true (by simp only [bits, beq_iff_eq]; omega)).trans ?_
  rw [hf]
theorem gor (o : OpGA) : Statement (.gor o) := by
  obtain ⟨f_bd, f_gd, f_ga, f_gb⟩ := o
  intro w hw he
  have he := Option.some.inj he
  have hw : OpGA.wf _ = true := hw
  dsimp only [OpGA.toBits] at he
  simp only [OpGA.wf, Bool.and_eq_true, decide_eq_true_eq] at hw
  have hM : bits w 30 24 = 96 := by simp only [bits]; omega
  have hf : OpGA.ofWord w = ⟨f_bd, f_gd, f_ga, f_gb⟩ := by
    simp only [OpGA.ofWord, bits, OpGA.mk.injEq]; omega
  refine (decode_address hM (by decide)).trans ((decodeAddress_96 hM).trans ?_)
  have hm : bits w 23 20 = 5 := by simp only [bits]; omega
  unfold decodeMinor60
  rw [hm]
  refine (ifZero_true (by simp only [bits, beq_iff_eq]; omega)).trans ?_
  rw [hf]
theorem gxor (o : OpGA) : Statement (.gxor o) := by
  obtain ⟨f_bd, f_gd, f_ga, f_gb⟩ := o
  intro w hw he
  have he := Option.some.inj he
  have hw : OpGA.wf _ = true := hw
  dsimp only [OpGA.toBits] at he
  simp only [OpGA.wf, Bool.and_eq_true, decide_eq_true_eq] at hw
  have hM : bits w 30 24 = 96 := by simp only [bits]; omega
  have hf : OpGA.ofWord w = ⟨f_bd, f_gd, f_ga, f_gb⟩ := by
    simp only [OpGA.ofWord, bits, OpGA.mk.injEq]; omega
  refine (decode_address hM (by decide)).trans ((decodeAddress_96 hM).trans ?_)
  have hm : bits w 23 20 = 6 := by simp only [bits]; omega
  unfold decodeMinor60
  rw [hm]
  refine (ifZero_true (by simp only [bits, beq_iff_eq]; omega)).trans ?_
  rw [hf]
theorem gshl (o : OpGA) : Statement (.gshl o) := by
  obtain ⟨f_bd, f_gd, f_ga, f_gb⟩ := o
  intro w hw he
  have he := Option.some.inj he
  have hw : OpGA.wf _ = true := hw
  dsimp only [OpGA.toBits] at he
  simp only [OpGA.wf, Bool.and_eq_true, decide_eq_true_eq] at hw
  have hM : bits w 30 24 = 96 := by simp only [bits]; omega
  have hf : OpGA.ofWord w = ⟨f_bd, f_gd, f_ga, f_gb⟩ := by
    simp only [OpGA.ofWord, bits, OpGA.mk.injEq]; omega
  refine (decode_address hM (by decide)).trans ((decodeAddress_96 hM).trans ?_)
  have hm : bits w 23 20 = 7 := by simp only [bits]; omega
  unfold decodeMinor60
  rw [hm]
  refine (ifZero_true (by simp only [bits, beq_iff_eq]; omega)).trans ?_
  rw [hf]
theorem gshr (o : OpGA) : Statement (.gshr o) := by
  obtain ⟨f_bd, f_gd, f_ga, f_gb⟩ := o
  intro w hw he
  have he := Option.some.inj he
  have hw : OpGA.wf _ = true := hw
  dsimp only [OpGA.toBits] at he
  simp only [OpGA.wf, Bool.and_eq_true, decide_eq_true_eq] at hw
  have hM : bits w 30 24 = 96 := by simp only [bits]; omega
  have hf : OpGA.ofWord w = ⟨f_bd, f_gd, f_ga, f_gb⟩ := by
    simp only [OpGA.ofWord, bits, OpGA.mk.injEq]; omega
  refine (decode_address hM (by decide)).trans ((decodeAddress_96 hM).trans ?_)
  have hm : bits w 23 20 = 8 := by simp only [bits]; omega
  unfold decodeMinor60
  rw [hm]
  refine (ifZero_true (by simp only [bits, beq_iff_eq]; omega)).trans ?_
  rw [hf]
theorem gsar (o : OpGA) : Statement (.gsar o) := by
  obtain ⟨f_bd, f_gd, f_ga, f_gb⟩ := o
  intro w hw he
  have he := Option.some.inj he
  have hw : OpGA.wf _ = true := hw
  dsimp only [OpGA.toBits] at he
  simp only [OpGA.wf, Bool.and_eq_true, decide_eq_true_eq] at hw
  have hM : bits w 30 24 = 96 := by simp only [bits]; omega
  have hf : OpGA.ofWord w = ⟨f_bd, f_gd, f_ga, f_gb⟩ := by
    simp only [OpGA.ofWord, bits, OpGA.mk.injEq]; omega
  refine (decode_address hM (by decide)).trans ((decodeAddress_96 hM).trans ?_)
  have hm : bits w 23 20 = 9 := by simp only [bits]; omega
  unfold decodeMinor60
  rw [hm]
  refine (ifZero_true (by simp only [bits, beq_iff_eq]; omega)).trans ?_
  rw [hf]
theorem gmin (o : OpGA) : Statement (.gmin o) := by
  obtain ⟨f_bd, f_gd, f_ga, f_gb⟩ := o
  intro w hw he
  have he := Option.some.inj he
  have hw : OpGA.wf _ = true := hw
  dsimp only [OpGA.toBits] at he
  simp only [OpGA.wf, Bool.and_eq_true, decide_eq_true_eq] at hw
  have hM : bits w 30 24 = 96 := by simp only [bits]; omega
  have hf : OpGA.ofWord w = ⟨f_bd, f_gd, f_ga, f_gb⟩ := by
    simp only [OpGA.ofWord, bits, OpGA.mk.injEq]; omega
  refine (decode_address hM (by decide)).trans ((decodeAddress_96 hM).trans ?_)
  have hm : bits w 23 20 = 10 := by simp only [bits]; omega
  unfold decodeMinor60
  rw [hm]
  refine (ifZero_true (by simp only [bits, beq_iff_eq]; omega)).trans ?_
  rw [hf]
theorem gmax (o : OpGA) : Statement (.gmax o) := by
  obtain ⟨f_bd, f_gd, f_ga, f_gb⟩ := o
  intro w hw he
  have he := Option.some.inj he
  have hw : OpGA.wf _ = true := hw
  dsimp only [OpGA.toBits] at he
  simp only [OpGA.wf, Bool.and_eq_true, decide_eq_true_eq] at hw
  have hM : bits w 30 24 = 96 := by simp only [bits]; omega
  have hf : OpGA.ofWord w = ⟨f_bd, f_gd, f_ga, f_gb⟩ := by
    simp only [OpGA.ofWord, bits, OpGA.mk.injEq]; omega
  refine (decode_address hM (by decide)).trans ((decodeAddress_96 hM).trans ?_)
  have hm : bits w 23 20 = 11 := by simp only [bits]; omega
  unfold decodeMinor60
  rw [hm]
  refine (ifZero_true (by simp only [bits, beq_iff_eq]; omega)).trans ?_
  rw [hf]
theorem gminn (o : OpGA) : Statement (.gminn o) := by
  obtain ⟨f_bd, f_gd, f_ga, f_gb⟩ := o
  intro w hw he
  have he := Option.some.inj he
  have hw : OpGA.wf _ = true := hw
  dsimp only [OpGA.toBits] at he
  simp only [OpGA.wf, Bool.and_eq_true, decide_eq_true_eq] at hw
  have hM : bits w 30 24 = 96 := by simp only [bits]; omega
  have hf : OpGA.ofWord w = ⟨f_bd, f_gd, f_ga, f_gb⟩ := by
    simp only [OpGA.ofWord, bits, OpGA.mk.injEq]; omega
  refine (decode_address hM (by decide)).trans ((decodeAddress_96 hM).trans ?_)
  have hm : bits w 23 20 = 12 := by simp only [bits]; omega
  unfold decodeMinor60
  rw [hm]
  refine (ifZero_true (by simp only [bits, beq_iff_eq]; omega)).trans ?_
  rw [hf]
theorem gmaxn (o : OpGA) : Statement (.gmaxn o) := by
  obtain ⟨f_bd, f_gd, f_ga, f_gb⟩ := o
  intro w hw he
  have he := Option.some.inj he
  have hw : OpGA.wf _ = true := hw
  dsimp only [OpGA.toBits] at he
  simp only [OpGA.wf, Bool.and_eq_true, decide_eq_true_eq] at hw
  have hM : bits w 30 24 = 96 := by simp only [bits]; omega
  have hf : OpGA.ofWord w = ⟨f_bd, f_gd, f_ga, f_gb⟩ := by
    simp only [OpGA.ofWord, bits, OpGA.mk.injEq]; omega
  refine (decode_address hM (by decide)).trans ((decodeAddress_96 hM).trans ?_)
  have hm : bits w 23 20 = 13 := by simp only [bits]; omega
  unfold decodeMinor60
  rw [hm]
  refine (ifZero_true (by simp only [bits, beq_iff_eq]; omega)).trans ?_
  rw [hf]
theorem gslt (o : OpGA) : Statement (.gslt o) := by
  obtain ⟨f_bd, f_gd, f_ga, f_gb⟩ := o
  intro w hw he
  have he := Option.some.inj he
  have hw : OpGA.wf _ = true := hw
  dsimp only [OpGA.toBits] at he
  simp only [OpGA.wf, Bool.and_eq_true, decide_eq_true_eq] at hw
  have hM : bits w 30 24 = 96 := by simp only [bits]; omega
  have hf : OpGA.ofWord w = ⟨f_bd, f_gd, f_ga, f_gb⟩ := by
    simp only [OpGA.ofWord, bits, OpGA.mk.injEq]; omega
  refine (decode_address hM (by decide)).trans ((decodeAddress_96 hM).trans ?_)
  have hm : bits w 23 20 = 14 := by simp only [bits]; omega
  unfold decodeMinor60
  rw [hm]
  refine (ifZero_true (by simp only [bits, beq_iff_eq]; omega)).trans ?_
  rw [hf]
theorem gsltn (o : OpGA) : Statement (.gsltn o) := by
  obtain ⟨f_bd, f_gd, f_ga, f_gb⟩ := o
  intro w hw he
  have he := Option.some.inj he
  have hw : OpGA.wf _ = true := hw
  dsimp only [OpGA.toBits] at he
  simp only [OpGA.wf, Bool.and_eq_true, decide_eq_true_eq] at hw
  have hM : bits w 30 24 = 96 := by simp only [bits]; omega
  have hf : OpGA.ofWord w = ⟨f_bd, f_gd, f_ga, f_gb⟩ := by
    simp only [OpGA.ofWord, bits, OpGA.mk.injEq]; omega
  refine (decode_address hM (by decide)).trans ((decodeAddress_96 hM).trans ?_)
  have hm : bits w 23 20 = 15 := by simp only [bits]; omega
  unfold decodeMinor60
  rw [hm]
  refine (ifZero_true (by simp only [bits, beq_iff_eq]; omega)).trans ?_
  rw [hf]
theorem decodeAddress_97 {w : Nat} (h : bits w 30 24 = 97) : decodeAddress w = decodeMinor61 w := by unfold decodeAddress; rw [h]; rfl
theorem gaddi (o : OpGI) : Statement (.gaddi o) := by
  obtain ⟨f_bd, f_gd, f_ga, f_imm⟩ := o
  intro w hw he
  have he := Option.some.inj he
  have hw : OpGI.wf _ = true := hw
  dsimp only [OpGI.toBits] at he
  simp only [OpGI.wf, Bool.and_eq_true, decide_eq_true_eq] at hw
  have hM : bits w 30 24 = 97 := by simp only [bits]; omega
  have hf : OpGI.ofWord w = ⟨f_bd, f_gd, f_ga, f_imm⟩ := by
    simp only [OpGI.ofWord, bits, OpGI.mk.injEq]; omega
  refine (decode_address hM (by decide)).trans ((decodeAddress_97 hM).trans ?_)
  have hm : bits w 23 21 = 0 := by simp only [bits]; omega
  unfold decodeMinor61
  rw [hm]
  exact congrArg (fun x => Except.ok (Instr.gaddi x)) hf
theorem gandi (o : OpGI) : Statement (.gandi o) := by
  obtain ⟨f_bd, f_gd, f_ga, f_imm⟩ := o
  intro w hw he
  have he := Option.some.inj he
  have hw : OpGI.wf _ = true := hw
  dsimp only [OpGI.toBits] at he
  simp only [OpGI.wf, Bool.and_eq_true, decide_eq_true_eq] at hw
  have hM : bits w 30 24 = 97 := by simp only [bits]; omega
  have hf : OpGI.ofWord w = ⟨f_bd, f_gd, f_ga, f_imm⟩ := by
    simp only [OpGI.ofWord, bits, OpGI.mk.injEq]; omega
  refine (decode_address hM (by decide)).trans ((decodeAddress_97 hM).trans ?_)
  have hm : bits w 23 21 = 1 := by simp only [bits]; omega
  unfold decodeMinor61
  rw [hm]
  exact congrArg (fun x => Except.ok (Instr.gandi x)) hf
theorem gori (o : OpGI) : Statement (.gori o) := by
  obtain ⟨f_bd, f_gd, f_ga, f_imm⟩ := o
  intro w hw he
  have he := Option.some.inj he
  have hw : OpGI.wf _ = true := hw
  dsimp only [OpGI.toBits] at he
  simp only [OpGI.wf, Bool.and_eq_true, decide_eq_true_eq] at hw
  have hM : bits w 30 24 = 97 := by simp only [bits]; omega
  have hf : OpGI.ofWord w = ⟨f_bd, f_gd, f_ga, f_imm⟩ := by
    simp only [OpGI.ofWord, bits, OpGI.mk.injEq]; omega
  refine (decode_address hM (by decide)).trans ((decodeAddress_97 hM).trans ?_)
  have hm : bits w 23 21 = 2 := by simp only [bits]; omega
  unfold decodeMinor61
  rw [hm]
  exact congrArg (fun x => Except.ok (Instr.gori x)) hf
theorem gxori (o : OpGI) : Statement (.gxori o) := by
  obtain ⟨f_bd, f_gd, f_ga, f_imm⟩ := o
  intro w hw he
  have he := Option.some.inj he
  have hw : OpGI.wf _ = true := hw
  dsimp only [OpGI.toBits] at he
  simp only [OpGI.wf, Bool.and_eq_true, decide_eq_true_eq] at hw
  have hM : bits w 30 24 = 97 := by simp only [bits]; omega
  have hf : OpGI.ofWord w = ⟨f_bd, f_gd, f_ga, f_imm⟩ := by
    simp only [OpGI.ofWord, bits, OpGI.mk.injEq]; omega
  refine (decode_address hM (by decide)).trans ((decodeAddress_97 hM).trans ?_)
  have hm : bits w 23 21 = 3 := by simp only [bits]; omega
  unfold decodeMinor61
  rw [hm]
  exact congrArg (fun x => Except.ok (Instr.gxori x)) hf
theorem gshli (o : OpGI) : Statement (.gshli o) := by
  obtain ⟨f_bd, f_gd, f_ga, f_imm⟩ := o
  intro w hw he
  have he := Option.some.inj he
  have hw : OpGI.wf _ = true := hw
  dsimp only [OpGI.toBits] at he
  simp only [OpGI.wf, Bool.and_eq_true, decide_eq_true_eq] at hw
  have hM : bits w 30 24 = 97 := by simp only [bits]; omega
  have hf : OpGI.ofWord w = ⟨f_bd, f_gd, f_ga, f_imm⟩ := by
    simp only [OpGI.ofWord, bits, OpGI.mk.injEq]; omega
  refine (decode_address hM (by decide)).trans ((decodeAddress_97 hM).trans ?_)
  have hm : bits w 23 21 = 4 := by simp only [bits]; omega
  unfold decodeMinor61
  rw [hm]
  exact congrArg (fun x => Except.ok (Instr.gshli x)) hf
theorem gshri (o : OpGI) : Statement (.gshri o) := by
  obtain ⟨f_bd, f_gd, f_ga, f_imm⟩ := o
  intro w hw he
  have he := Option.some.inj he
  have hw : OpGI.wf _ = true := hw
  dsimp only [OpGI.toBits] at he
  simp only [OpGI.wf, Bool.and_eq_true, decide_eq_true_eq] at hw
  have hM : bits w 30 24 = 97 := by simp only [bits]; omega
  have hf : OpGI.ofWord w = ⟨f_bd, f_gd, f_ga, f_imm⟩ := by
    simp only [OpGI.ofWord, bits, OpGI.mk.injEq]; omega
  refine (decode_address hM (by decide)).trans ((decodeAddress_97 hM).trans ?_)
  have hm : bits w 23 21 = 5 := by simp only [bits]; omega
  unfold decodeMinor61
  rw [hm]
  exact congrArg (fun x => Except.ok (Instr.gshri x)) hf
theorem gsari (o : OpGI) : Statement (.gsari o) := by
  obtain ⟨f_bd, f_gd, f_ga, f_imm⟩ := o
  intro w hw he
  have he := Option.some.inj he
  have hw : OpGI.wf _ = true := hw
  dsimp only [OpGI.toBits] at he
  simp only [OpGI.wf, Bool.and_eq_true, decide_eq_true_eq] at hw
  have hM : bits w 30 24 = 97 := by simp only [bits]; omega
  have hf : OpGI.ofWord w = ⟨f_bd, f_gd, f_ga, f_imm⟩ := by
    simp only [OpGI.ofWord, bits, OpGI.mk.injEq]; omega
  refine (decode_address hM (by decide)).trans ((decodeAddress_97 hM).trans ?_)
  have hm : bits w 23 21 = 6 := by simp only [bits]; omega
  unfold decodeMinor61
  rw [hm]
  exact congrArg (fun x => Except.ok (Instr.gsari x)) hf
theorem gslti (o : OpGI) : Statement (.gslti o) := by
  obtain ⟨f_bd, f_gd, f_ga, f_imm⟩ := o
  intro w hw he
  have he := Option.some.inj he
  have hw : OpGI.wf _ = true := hw
  dsimp only [OpGI.toBits] at he
  simp only [OpGI.wf, Bool.and_eq_true, decide_eq_true_eq] at hw
  have hM : bits w 30 24 = 97 := by simp only [bits]; omega
  have hf : OpGI.ofWord w = ⟨f_bd, f_gd, f_ga, f_imm⟩ := by
    simp only [OpGI.ofWord, bits, OpGI.mk.injEq]; omega
  refine (decode_address hM (by decide)).trans ((decodeAddress_97 hM).trans ?_)
  have hm : bits w 23 21 = 7 := by simp only [bits]; omega
  unfold decodeMinor61
  rw [hm]
  exact congrArg (fun x => Except.ok (Instr.gslti x)) hf
theorem decodeAddress_98 {w : Nat} (h : bits w 30 24 = 98) : decodeAddress w = .ok (.gmovi (.ofWord w)) := by unfold decodeAddress; rw [h]; rfl
theorem gmovi (o : OpGM) : Statement (.gmovi o) := by
  obtain ⟨f_bd, f_gd, f_sh, f_imm⟩ := o
  intro w hw he
  have he := Option.some.inj he
  have hw : OpGM.wf _ = true := hw
  dsimp only [OpGM.toBits] at he
  simp only [OpGM.wf, Bool.and_eq_true, decide_eq_true_eq] at hw
  have hM : bits w 30 24 = 98 := by simp only [bits]; omega
  have hf : OpGM.ofWord w = ⟨f_bd, f_gd, f_sh, f_imm⟩ := by
    simp only [OpGM.ofWord, bits, OpGM.mk.injEq]; omega
  refine (decode_address hM (by decide)).trans ((decodeAddress_98 hM).trans ?_)
  exact congrArg (fun x => Except.ok (Instr.gmovi x)) hf
theorem decodeAddress_99 {w : Nat} (h : bits w 30 24 = 99) : decodeAddress w = .ok (.gmovk (.ofWord w)) := by unfold decodeAddress; rw [h]; rfl
theorem gmovk (o : OpGM) : Statement (.gmovk o) := by
  obtain ⟨f_bd, f_gd, f_sh, f_imm⟩ := o
  intro w hw he
  have he := Option.some.inj he
  have hw : OpGM.wf _ = true := hw
  dsimp only [OpGM.toBits] at he
  simp only [OpGM.wf, Bool.and_eq_true, decide_eq_true_eq] at hw
  have hM : bits w 30 24 = 99 := by simp only [bits]; omega
  have hf : OpGM.ofWord w = ⟨f_bd, f_gd, f_sh, f_imm⟩ := by
    simp only [OpGM.ofWord, bits, OpGM.mk.injEq]; omega
  refine (decode_address hM (by decide)).trans ((decodeAddress_99 hM).trans ?_)
  exact congrArg (fun x => Except.ok (Instr.gmovk x)) hf
theorem decodeAddress_100 {w : Nat} (h : bits w 30 24 = 100) : decodeAddress w = ifZero (bits w 1 0 == 0) (.gld (.ofWord w)) := by unfold decodeAddress; rw [h]; rfl
theorem gld (o : OpGL) : Statement (.gld o) := by
  obtain ⟨f_bd, f_la, f_sp, f_w, f_gd, f_ga, f_sgn⟩ := o
  intro w hw he
  have he := Option.some.inj he
  have hw : OpGL.wf _ = true := hw
  dsimp only [OpGL.toBits] at he
  simp only [OpGL.wf, Bool.and_eq_true, decide_eq_true_eq] at hw
  have hM : bits w 30 24 = 100 := by simp only [bits]; omega
  have hf : OpGL.ofWord w = ⟨f_bd, f_la, f_sp, f_w, f_gd, f_ga, f_sgn⟩ := by
    simp only [OpGL.ofWord, bits, OpGL.mk.injEq]; omega
  refine (decode_address hM (by decide)).trans ((decodeAddress_100 hM).trans ?_)
  refine (ifZero_true (by simp only [bits, beq_iff_eq]; omega)).trans ?_
  rw [hf]
theorem decodeAddress_101 {w : Nat} (h : bits w 30 24 = 101) : decodeAddress w = ifZero (bits w 1 0 == 0) (.gst (.ofWord w)) := by unfold decodeAddress; rw [h]; rfl
theorem gst (o : OpGL) : Statement (.gst o) := by
  obtain ⟨f_bd, f_la, f_sp, f_w, f_gd, f_ga, f_sgn⟩ := o
  intro w hw he
  have he := Option.some.inj he
  have hw : OpGL.wf _ = true := hw
  dsimp only [OpGL.toBits] at he
  simp only [OpGL.wf, Bool.and_eq_true, decide_eq_true_eq] at hw
  have hM : bits w 30 24 = 101 := by simp only [bits]; omega
  have hf : OpGL.ofWord w = ⟨f_bd, f_la, f_sp, f_w, f_gd, f_ga, f_sgn⟩ := by
    simp only [OpGL.ofWord, bits, OpGL.mk.injEq]; omega
  refine (decode_address hM (by decide)).trans ((decodeAddress_101 hM).trans ?_)
  refine (ifZero_true (by simp only [bits, beq_iff_eq]; omega)).trans ?_
  rw [hf]
theorem decodeAddress_102 {w : Nat} (h : bits w 30 24 = 102) : decodeAddress w = ifZero (bits w 5 0 == 0) (.gldq (.ofWord w)) := by unfold decodeAddress; rw [h]; rfl
theorem gldq (o : OpGldq) : Statement (.gldq o) := by
  obtain ⟨f_bd, f_la, f_sp, f_w, f_q, f_ga⟩ := o
  intro w hw he
  have he := Option.some.inj he
  have hw : OpGldq.wf _ = true := hw
  dsimp only [OpGldq.toBits] at he
  simp only [OpGldq.wf, Bool.and_eq_true, decide_eq_true_eq] at hw
  have hM : bits w 30 24 = 102 := by simp only [bits]; omega
  have hf : OpGldq.ofWord w = ⟨f_bd, f_la, f_sp, f_w, f_q, f_ga⟩ := by
    simp only [OpGldq.ofWord, bits, OpGldq.mk.injEq]; omega
  refine (decode_address hM (by decide)).trans ((decodeAddress_102 hM).trans ?_)
  refine (ifZero_true (by simp only [bits, beq_iff_eq]; omega)).trans ?_
  rw [hf]
theorem decodeAddress_103 {w : Nat} (h : bits w 30 24 = 103) : decodeAddress w = ifZero (bits w 2 0 == 0) (.gldqv (.ofWord w)) := by unfold decodeAddress; rw [h]; rfl
theorem gldqv (o : OpGldqv) : Statement (.gldqv o) := by
  obtain ⟨f_bd, f_la, f_sp, f_q, f_ga, f_gb⟩ := o
  intro w hw he
  have he := Option.some.inj he
  have hw : OpGldqv.wf _ = true := hw
  dsimp only [OpGldqv.toBits] at he
  simp only [OpGldqv.wf, Bool.and_eq_true, decide_eq_true_eq] at hw
  have hM : bits w 30 24 = 103 := by simp only [bits]; omega
  have hf : OpGldqv.ofWord w = ⟨f_bd, f_la, f_sp, f_q, f_ga, f_gb⟩ := by
    simp only [OpGldqv.ofWord, bits, OpGldqv.mk.injEq]; omega
  refine (decode_address hM (by decide)).trans ((decodeAddress_103 hM).trans ?_)
  refine (ifZero_true (by simp only [bits, beq_iff_eq]; omega)).trans ?_
  rw [hf]
theorem decodeAddress_104 {w : Nat} (h : bits w 30 24 = 104) : decodeAddress w = decodeMinor68 w := by unfold decodeAddress; rw [h]; rfl
theorem gqpush (o : OpGQ) : Statement (.gqpush o) := by
  obtain ⟨f_bd, f_gd, f_q⟩ := o
  intro w hw he
  have he := Option.some.inj he
  have hw : OpGQ.wf _ = true := hw
  dsimp only [OpGQ.toBits] at he
  simp only [OpGQ.wf, Bool.and_eq_true, decide_eq_true_eq] at hw
  have hM : bits w 30 24 = 104 := by simp only [bits]; omega
  have hf : OpGQ.ofWord w = ⟨f_bd, f_gd, f_q⟩ := by
    simp only [OpGQ.ofWord, bits, OpGQ.mk.injEq]; omega
  refine (decode_address hM (by decide)).trans ((decodeAddress_104 hM).trans ?_)
  have hm : bits w 23 21 = 0 := by simp only [bits]; omega
  unfold decodeMinor68
  rw [hm]
  refine (ifZero_true (by simp only [bits, beq_iff_eq]; omega)).trans ?_
  rw [hf]
theorem gqpop (o : OpGQ) : Statement (.gqpop o) := by
  obtain ⟨f_bd, f_gd, f_q⟩ := o
  intro w hw he
  have he := Option.some.inj he
  have hw : OpGQ.wf _ = true := hw
  dsimp only [OpGQ.toBits] at he
  simp only [OpGQ.wf, Bool.and_eq_true, decide_eq_true_eq] at hw
  have hM : bits w 30 24 = 104 := by simp only [bits]; omega
  have hf : OpGQ.ofWord w = ⟨f_bd, f_gd, f_q⟩ := by
    simp only [OpGQ.ofWord, bits, OpGQ.mk.injEq]; omega
  refine (decode_address hM (by decide)).trans ((decodeAddress_104 hM).trans ?_)
  have hm : bits w 23 21 = 1 := by simp only [bits]; omega
  unfold decodeMinor68
  rw [hm]
  refine (ifZero_true (by simp only [bits, beq_iff_eq]; omega)).trans ?_
  rw [hf]
theorem gqtry (o : OpGQ) : Statement (.gqtry o) := by
  obtain ⟨f_bd, f_gd, f_q⟩ := o
  intro w hw he
  have he := Option.some.inj he
  have hw : OpGQ.wf _ = true := hw
  dsimp only [OpGQ.toBits] at he
  simp only [OpGQ.wf, Bool.and_eq_true, decide_eq_true_eq] at hw
  have hM : bits w 30 24 = 104 := by simp only [bits]; omega
  have hf : OpGQ.ofWord w = ⟨f_bd, f_gd, f_q⟩ := by
    simp only [OpGQ.ofWord, bits, OpGQ.mk.injEq]; omega
  refine (decode_address hM (by decide)).trans ((decodeAddress_104 hM).trans ?_)
  have hm : bits w 23 21 = 2 := by simp only [bits]; omega
  unfold decodeMinor68
  rw [hm]
  refine (ifZero_true (by simp only [bits, beq_iff_eq]; omega)).trans ?_
  rw [hf]
theorem gqclose (o : OpGqclose) : Statement (.gqclose o) := by
  obtain ⟨f_bd, f_q⟩ := o
  intro w hw he
  have he := Option.some.inj he
  have hw : OpGqclose.wf _ = true := hw
  dsimp only [OpGqclose.toBits] at he
  simp only [OpGqclose.wf, Bool.and_eq_true, decide_eq_true_eq] at hw
  have hM : bits w 30 24 = 104 := by simp only [bits]; omega
  have hf : OpGqclose.ofWord w = ⟨f_bd, f_q⟩ := by
    simp only [OpGqclose.ofWord, bits, OpGqclose.mk.injEq]; omega
  refine (decode_address hM (by decide)).trans ((decodeAddress_104 hM).trans ?_)
  have hm : bits w 23 21 = 3 := by simp only [bits]; omega
  unfold decodeMinor68
  rw [hm]
  refine (ifZero_true (by simp only [bits, Bool.and_eq_true, beq_iff_eq]; omega)).trans ?_
  rw [hf]
theorem gqstat (o : OpGQ) : Statement (.gqstat o) := by
  obtain ⟨f_bd, f_gd, f_q⟩ := o
  intro w hw he
  have he := Option.some.inj he
  have hw : OpGQ.wf _ = true := hw
  dsimp only [OpGQ.toBits] at he
  simp only [OpGQ.wf, Bool.and_eq_true, decide_eq_true_eq] at hw
  have hM : bits w 30 24 = 104 := by simp only [bits]; omega
  have hf : OpGQ.ofWord w = ⟨f_bd, f_gd, f_q⟩ := by
    simp only [OpGQ.ofWord, bits, OpGQ.mk.injEq]; omega
  refine (decode_address hM (by decide)).trans ((decodeAddress_104 hM).trans ?_)
  have hm : bits w 23 21 = 4 := by simp only [bits]; omega
  unfold decodeMinor68
  rw [hm]
  refine (ifZero_true (by simp only [bits, beq_iff_eq]; omega)).trans ?_
  rw [hf]
theorem decodeAddress_105 {w : Nat} (h : bits w 30 24 = 105) : decodeAddress w = decodeMinor69 w := by unfold decodeAddress; rw [h]; rfl
theorem gbeqz (o : OpGB) : Statement (.gbeqz o) := by
  obtain ⟨f_bd, f_ga, f_off⟩ := o
  intro w hw he
  have he := Option.some.inj he
  have hw : OpGB.wf _ = true := hw
  dsimp only [OpGB.toBits] at he
  simp only [OpGB.wf, Bool.and_eq_true, decide_eq_true_eq] at hw
  have hM : bits w 30 24 = 105 := by simp only [bits]; omega
  have hf : OpGB.ofWord w = ⟨f_bd, f_ga, f_off⟩ := by
    simp only [OpGB.ofWord, bits, OpGB.mk.injEq]; omega
  refine (decode_address hM (by decide)).trans ((decodeAddress_105 hM).trans ?_)
  have hm : bits w 23 21 = 0 := by simp only [bits]; omega
  unfold decodeMinor69
  rw [hm]
  exact congrArg (fun x => Except.ok (Instr.gbeqz x)) hf
theorem gbnez (o : OpGB) : Statement (.gbnez o) := by
  obtain ⟨f_bd, f_ga, f_off⟩ := o
  intro w hw he
  have he := Option.some.inj he
  have hw : OpGB.wf _ = true := hw
  dsimp only [OpGB.toBits] at he
  simp only [OpGB.wf, Bool.and_eq_true, decide_eq_true_eq] at hw
  have hM : bits w 30 24 = 105 := by simp only [bits]; omega
  have hf : OpGB.ofWord w = ⟨f_bd, f_ga, f_off⟩ := by
    simp only [OpGB.ofWord, bits, OpGB.mk.injEq]; omega
  refine (decode_address hM (by decide)).trans ((decodeAddress_105 hM).trans ?_)
  have hm : bits w 23 21 = 1 := by simp only [bits]; omega
  unfold decodeMinor69
  rw [hm]
  exact congrArg (fun x => Except.ok (Instr.gbnez x)) hf
theorem gbltz (o : OpGB) : Statement (.gbltz o) := by
  obtain ⟨f_bd, f_ga, f_off⟩ := o
  intro w hw he
  have he := Option.some.inj he
  have hw : OpGB.wf _ = true := hw
  dsimp only [OpGB.toBits] at he
  simp only [OpGB.wf, Bool.and_eq_true, decide_eq_true_eq] at hw
  have hM : bits w 30 24 = 105 := by simp only [bits]; omega
  have hf : OpGB.ofWord w = ⟨f_bd, f_ga, f_off⟩ := by
    simp only [OpGB.ofWord, bits, OpGB.mk.injEq]; omega
  refine (decode_address hM (by decide)).trans ((decodeAddress_105 hM).trans ?_)
  have hm : bits w 23 21 = 2 := by simp only [bits]; omega
  unfold decodeMinor69
  rw [hm]
  exact congrArg (fun x => Except.ok (Instr.gbltz x)) hf
theorem gbgez (o : OpGB) : Statement (.gbgez o) := by
  obtain ⟨f_bd, f_ga, f_off⟩ := o
  intro w hw he
  have he := Option.some.inj he
  have hw : OpGB.wf _ = true := hw
  dsimp only [OpGB.toBits] at he
  simp only [OpGB.wf, Bool.and_eq_true, decide_eq_true_eq] at hw
  have hM : bits w 30 24 = 105 := by simp only [bits]; omega
  have hf : OpGB.ofWord w = ⟨f_bd, f_ga, f_off⟩ := by
    simp only [OpGB.ofWord, bits, OpGB.mk.injEq]; omega
  refine (decode_address hM (by decide)).trans ((decodeAddress_105 hM).trans ?_)
  have hm : bits w 23 21 = 3 := by simp only [bits]; omega
  unfold decodeMinor69
  rw [hm]
  exact congrArg (fun x => Except.ok (Instr.gbgez x)) hf
theorem gbgtz (o : OpGB) : Statement (.gbgtz o) := by
  obtain ⟨f_bd, f_ga, f_off⟩ := o
  intro w hw he
  have he := Option.some.inj he
  have hw : OpGB.wf _ = true := hw
  dsimp only [OpGB.toBits] at he
  simp only [OpGB.wf, Bool.and_eq_true, decide_eq_true_eq] at hw
  have hM : bits w 30 24 = 105 := by simp only [bits]; omega
  have hf : OpGB.ofWord w = ⟨f_bd, f_ga, f_off⟩ := by
    simp only [OpGB.ofWord, bits, OpGB.mk.injEq]; omega
  refine (decode_address hM (by decide)).trans ((decodeAddress_105 hM).trans ?_)
  have hm : bits w 23 21 = 4 := by simp only [bits]; omega
  unfold decodeMinor69
  rw [hm]
  exact congrArg (fun x => Except.ok (Instr.gbgtz x)) hf
theorem gblez (o : OpGB) : Statement (.gblez o) := by
  obtain ⟨f_bd, f_ga, f_off⟩ := o
  intro w hw he
  have he := Option.some.inj he
  have hw : OpGB.wf _ = true := hw
  dsimp only [OpGB.toBits] at he
  simp only [OpGB.wf, Bool.and_eq_true, decide_eq_true_eq] at hw
  have hM : bits w 30 24 = 105 := by simp only [bits]; omega
  have hf : OpGB.ofWord w = ⟨f_bd, f_ga, f_off⟩ := by
    simp only [OpGB.ofWord, bits, OpGB.mk.injEq]; omega
  refine (decode_address hM (by decide)).trans ((decodeAddress_105 hM).trans ?_)
  have hm : bits w 23 21 = 5 := by simp only [bits]; omega
  unfold decodeMinor69
  rw [hm]
  exact congrArg (fun x => Except.ok (Instr.gblez x)) hf
theorem decodeAddress_106 {w : Nat} (h : bits w 30 24 = 106) : decodeAddress w = decodeMinor6A w := by unfold decodeAddress; rw [h]; rfl
theorem gjmp (o : OpGJ) : Statement (.gjmp o) := by
  obtain ⟨f_bd, f_off⟩ := o
  intro w hw he
  have he := Option.some.inj he
  have hw : OpGJ.wf _ = true := hw
  dsimp only [OpGJ.toBits] at he
  simp only [OpGJ.wf, Bool.and_eq_true, decide_eq_true_eq] at hw
  have hM : bits w 30 24 = 106 := by simp only [bits]; omega
  have hf : OpGJ.ofWord w = ⟨f_bd, f_off⟩ := by
    simp only [OpGJ.ofWord, bits, OpGJ.mk.injEq]; omega
  refine (decode_address hM (by decide)).trans ((decodeAddress_106 hM).trans ?_)
  have hm : bits w 23 22 = 0 := by simp only [bits]; omega
  unfold decodeMinor6A
  rw [hm]
  exact congrArg (fun x => Except.ok (Instr.gjmp x)) hf
theorem gcall (o : OpGJ) : Statement (.gcall o) := by
  obtain ⟨f_bd, f_off⟩ := o
  intro w hw he
  have he := Option.some.inj he
  have hw : OpGJ.wf _ = true := hw
  dsimp only [OpGJ.toBits] at he
  simp only [OpGJ.wf, Bool.and_eq_true, decide_eq_true_eq] at hw
  have hM : bits w 30 24 = 106 := by simp only [bits]; omega
  have hf : OpGJ.ofWord w = ⟨f_bd, f_off⟩ := by
    simp only [OpGJ.ofWord, bits, OpGJ.mk.injEq]; omega
  refine (decode_address hM (by decide)).trans ((decodeAddress_106 hM).trans ?_)
  have hm : bits w 23 22 = 1 := by simp only [bits]; omega
  unfold decodeMinor6A
  rw [hm]
  exact congrArg (fun x => Except.ok (Instr.gcall x)) hf
theorem gret (o : OpGret) : Statement (.gret o) := by
  obtain ⟨f_bd, f_ga⟩ := o
  intro w hw he
  have he := Option.some.inj he
  have hw : OpGret.wf _ = true := hw
  dsimp only [OpGret.toBits] at he
  simp only [OpGret.wf, Bool.and_eq_true, decide_eq_true_eq] at hw
  have hM : bits w 30 24 = 106 := by simp only [bits]; omega
  have hf : OpGret.ofWord w = ⟨f_bd, f_ga⟩ := by
    simp only [OpGret.ofWord, bits, OpGret.mk.injEq]; omega
  refine (decode_address hM (by decide)).trans ((decodeAddress_106 hM).trans ?_)
  have hm : bits w 23 22 = 2 := by simp only [bits]; omega
  unfold decodeMinor6A
  rw [hm]
  refine (ifZero_true (by simp only [bits, beq_iff_eq]; omega)).trans ?_
  rw [hf]
theorem gexit (o : OpBare) : Statement (.gexit o) := by
  obtain ⟨f_bd⟩ := o
  intro w hw he
  have he := Option.some.inj he
  have hw : OpBare.wf _ = true := hw
  dsimp only [OpBare.toBits] at he
  simp only [OpBare.wf, decide_eq_true_eq] at hw
  have hM : bits w 30 24 = 106 := by simp only [bits]; omega
  have hf : OpBare.ofWord w = ⟨f_bd⟩ := by
    simp only [OpBare.ofWord, bits, OpBare.mk.injEq]; omega
  refine (decode_address hM (by decide)).trans ((decodeAddress_106 hM).trans ?_)
  have hm : bits w 23 22 = 3 := by simp only [bits]; omega
  unfold decodeMinor6A
  rw [hm]
  refine (ifZero_true (by simp only [bits, beq_iff_eq]; omega)).trans ?_
  rw [hf]
theorem decodeAddress_107 {w : Nat} (h : bits w 30 24 = 107) : decodeAddress w = decodeMinor6B w := by unfold decodeAddress; rw [h]; rfl
theorem cstart (o : OpCstart) : Statement (.cstart o) := by
  obtain ⟨f_bd, f_gd, f_gh, f_gc⟩ := o
  intro w hw he
  have he := Option.some.inj he
  have hw : OpCstart.wf _ = true := hw
  dsimp only [OpCstart.toBits] at he
  simp only [OpCstart.wf, Bool.and_eq_true, decide_eq_true_eq] at hw
  have hM : bits w 30 24 = 107 := by simp only [bits]; omega
  have hf : OpCstart.ofWord w = ⟨f_bd, f_gd, f_gh, f_gc⟩ := by
    simp only [OpCstart.ofWord, bits, OpCstart.mk.injEq]; omega
  refine (decode_address hM (by decide)).trans ((decodeAddress_107 hM).trans ?_)
  have hm : bits w 23 22 = 0 := by simp only [bits]; omega
  unfold decodeMinor6B
  rw [hm]
  refine (ifZero_true (by simp only [bits, beq_iff_eq]; omega)).trans ?_
  rw [hf]
theorem cwait (o : OpCwait) : Statement (.cwait o) := by
  obtain ⟨f_bd, f_ga⟩ := o
  intro w hw he
  have he := Option.some.inj he
  have hw : OpCwait.wf _ = true := hw
  dsimp only [OpCwait.toBits] at he
  simp only [OpCwait.wf, Bool.and_eq_true, decide_eq_true_eq] at hw
  have hM : bits w 30 24 = 107 := by simp only [bits]; omega
  have hf : OpCwait.ofWord w = ⟨f_bd, f_ga⟩ := by
    simp only [OpCwait.ofWord, bits, OpCwait.mk.injEq]; omega
  refine (decode_address hM (by decide)).trans ((decodeAddress_107 hM).trans ?_)
  have hm : bits w 23 22 = 1 := by simp only [bits]; omega
  unfold decodeMinor6B
  rw [hm]
  refine (ifZero_true (by simp only [bits, Bool.and_eq_true, beq_iff_eq]; omega)).trans ?_
  rw [hf]
theorem cquery (o : OpCquery) : Statement (.cquery o) := by
  obtain ⟨f_bd, f_gd, f_ga⟩ := o
  intro w hw he
  have he := Option.some.inj he
  have hw : OpCquery.wf _ = true := hw
  dsimp only [OpCquery.toBits] at he
  simp only [OpCquery.wf, Bool.and_eq_true, decide_eq_true_eq] at hw
  have hM : bits w 30 24 = 107 := by simp only [bits]; omega
  have hf : OpCquery.ofWord w = ⟨f_bd, f_gd, f_ga⟩ := by
    simp only [OpCquery.ofWord, bits, OpCquery.mk.injEq]; omega
  refine (decode_address hM (by decide)).trans ((decodeAddress_107 hM).trans ?_)
  have hm : bits w 23 22 = 2 := by simp only [bits]; omega
  unfold decodeMinor6B
  rw [hm]
  refine (ifZero_true (by simp only [bits, beq_iff_eq]; omega)).trans ?_
  rw [hf]
theorem decodeAddress_108 {w : Nat} (h : bits w 30 24 = 108) : decodeAddress w = decodeMinor6C w := by unfold decodeAddress; rw [h]; rfl
theorem rfree (o : OpGR) : Statement (.rfree o) := by
  obtain ⟨f_bd, f_gd, f_gh⟩ := o
  intro w hw he
  have he := Option.some.inj he
  have hw : OpGR.wf _ = true := hw
  dsimp only [OpGR.toBits] at he
  simp only [OpGR.wf, Bool.and_eq_true, decide_eq_true_eq] at hw
  have hM : bits w 30 24 = 108 := by simp only [bits]; omega
  have hf : OpGR.ofWord w = ⟨f_bd, f_gd, f_gh⟩ := by
    simp only [OpGR.ofWord, bits, OpGR.mk.injEq]; omega
  refine (decode_address hM (by decide)).trans ((decodeAddress_108 hM).trans ?_)
  have hm : bits w 23 22 = 0 := by simp only [bits]; omega
  unfold decodeMinor6C
  rw [hm]
  refine (ifZero_true (by simp only [bits, beq_iff_eq]; omega)).trans ?_
  rw [hf]
theorem rarm (o : OpRarm) : Statement (.rarm o) := by
  obtain ⟨f_bd, f_gd, f_gh, f_gb⟩ := o
  intro w hw he
  have he := Option.some.inj he
  have hw : OpRarm.wf _ = true := hw
  dsimp only [OpRarm.toBits] at he
  simp only [OpRarm.wf, Bool.and_eq_true, decide_eq_true_eq] at hw
  have hM : bits w 30 24 = 108 := by simp only [bits]; omega
  have hf : OpRarm.ofWord w = ⟨f_bd, f_gd, f_gh, f_gb⟩ := by
    simp only [OpRarm.ofWord, bits, OpRarm.mk.injEq]; omega
  refine (decode_address hM (by decide)).trans ((decodeAddress_108 hM).trans ?_)
  have hm : bits w 23 22 = 1 := by simp only [bits]; omega
  unfold decodeMinor6C
  rw [hm]
  refine (ifZero_true (by simp only [bits, beq_iff_eq]; omega)).trans ?_
  rw [hf]
theorem rpeek (o : OpGR) : Statement (.rpeek o) := by
  obtain ⟨f_bd, f_gd, f_gh⟩ := o
  intro w hw he
  have he := Option.some.inj he
  have hw : OpGR.wf _ = true := hw
  dsimp only [OpGR.toBits] at he
  simp only [OpGR.wf, Bool.and_eq_true, decide_eq_true_eq] at hw
  have hM : bits w 30 24 = 108 := by simp only [bits]; omega
  have hf : OpGR.ofWord w = ⟨f_bd, f_gd, f_gh⟩ := by
    simp only [OpGR.ofWord, bits, OpGR.mk.injEq]; omega
  refine (decode_address hM (by decide)).trans ((decodeAddress_108 hM).trans ?_)
  have hm : bits w 23 22 = 2 := by simp only [bits]; omega
  unfold decodeMinor6C
  rw [hm]
  refine (ifZero_true (by simp only [bits, beq_iff_eq]; omega)).trans ?_
  rw [hf]
theorem decodeAddress_109 {w : Nat} (h : bits w 30 24 = 109) : decodeAddress w = decodeMinor6D w := by unfold decodeAddress; rw [h]; rfl
theorem gfence (o : OpFence) : Statement (.gfence o) := by
  obtain ⟨f_bd, f_kind, f_scope⟩ := o
  intro w hw he
  have he := Option.some.inj he
  have hw : OpFence.wf _ = true := hw
  dsimp only [OpFence.toBits] at he
  simp only [OpFence.wf, Bool.and_eq_true, decide_eq_true_eq] at hw
  have hM : bits w 30 24 = 109 := by simp only [bits]; omega
  have hf : OpFence.ofWord w = ⟨f_bd, f_kind, f_scope⟩ := by
    simp only [OpFence.ofWord, bits, OpFence.mk.injEq]; omega
  refine (decode_address hM (by decide)).trans ((decodeAddress_109 hM).trans ?_)
  have hm : bits w 23 22 = 0 := by simp only [bits]; omega
  unfold decodeMinor6D
  rw [hm]
  refine (ifZero_true (by simp only [bits, Bool.and_eq_true, beq_iff_eq]; omega)).trans ?_
  rw [hf]
theorem garrive (o : OpGarrive) : Statement (.garrive o) := by
  obtain ⟨f_bd, f_cnt, f_ga⟩ := o
  intro w hw he
  have he := Option.some.inj he
  have hw : OpGarrive.wf _ = true := hw
  dsimp only [OpGarrive.toBits] at he
  simp only [OpGarrive.wf, Bool.and_eq_true, decide_eq_true_eq] at hw
  have hM : bits w 30 24 = 109 := by simp only [bits]; omega
  have hf : OpGarrive.ofWord w = ⟨f_bd, f_cnt, f_ga⟩ := by
    simp only [OpGarrive.ofWord, bits, OpGarrive.mk.injEq]; omega
  refine (decode_address hM (by decide)).trans ((decodeAddress_109 hM).trans ?_)
  have hm : bits w 23 22 = 1 := by simp only [bits]; omega
  unfold decodeMinor6D
  rw [hm]
  refine (ifZero_true (by simp only [bits, beq_iff_eq]; omega)).trans ?_
  rw [hf]
theorem gmwait (o : OpGmwait) : Statement (.gmwait o) := by
  obtain ⟨f_bd, f_ga, f_gv, f_w, f_acq, f_scope⟩ := o
  intro w hw he
  have he := Option.some.inj he
  have hw : OpGmwait.wf _ = true := hw
  dsimp only [OpGmwait.toBits] at he
  simp only [OpGmwait.wf, Bool.and_eq_true, decide_eq_true_eq] at hw
  have hM : bits w 30 24 = 109 := by simp only [bits]; omega
  have hf : OpGmwait.ofWord w = ⟨f_bd, f_ga, f_gv, f_w, f_acq, f_scope⟩ := by
    simp only [OpGmwait.ofWord, bits, OpGmwait.mk.injEq]; omega
  refine (decode_address hM (by decide)).trans ((decodeAddress_109 hM).trans ?_)
  have hm : bits w 23 22 = 2 := by simp only [bits]; omega
  unfold decodeMinor6D
  rw [hm]
  refine (ifZero_true (by simp only [bits, beq_iff_eq]; omega)).trans ?_
  rw [hf]
theorem decodeAddress_110 {w : Nat} (h : bits w 30 24 = 110) : decodeAddress w = ifZero (bits w 0 0 == 0) (.gatom (.ofWord w)) := by unfold decodeAddress; rw [h]; rfl
theorem gatom (o : OpGatom) : Statement (.gatom o) := by
  obtain ⟨f_bd, f_la, f_aop, f_gd, f_ga, f_sp, f_w⟩ := o
  intro w hw he
  have he := Option.some.inj he
  have hw : OpGatom.wf _ = true := hw
  dsimp only [OpGatom.toBits] at he
  simp only [OpGatom.wf, Bool.and_eq_true, decide_eq_true_eq] at hw
  have hM : bits w 30 24 = 110 := by simp only [bits]; omega
  have hf : OpGatom.ofWord w = ⟨f_bd, f_la, f_aop, f_gd, f_ga, f_sp, f_w⟩ := by
    simp only [OpGatom.ofWord, bits, OpGatom.mk.injEq]; omega
  refine (decode_address hM (by decide)).trans ((decodeAddress_110 hM).trans ?_)
  refine (ifZero_true (by simp only [bits, beq_iff_eq]; omega)).trans ?_
  rw [hf]
theorem decodeAddress_111 {w : Nat} (h : bits w 30 24 = 111) : decodeAddress w = decodeMinor6F w := by unfold decodeAddress; rw [h]; rfl
theorem gtrap (o : OpCode) : Statement (.gtrap o) := by
  obtain ⟨f_bd, f_code⟩ := o
  intro w hw he
  have he := Option.some.inj he
  have hw : OpCode.wf _ = true := hw
  dsimp only [OpCode.toBits] at he
  simp only [OpCode.wf, Bool.and_eq_true, decide_eq_true_eq] at hw
  have hM : bits w 30 24 = 111 := by simp only [bits]; omega
  have hf : OpCode.ofWord w = ⟨f_bd, f_code⟩ := by
    simp only [OpCode.ofWord, bits, OpCode.mk.injEq]; omega
  refine (decode_address hM (by decide)).trans ((decodeAddress_111 hM).trans ?_)
  have hm : bits w 23 21 = 1 := by simp only [bits]; omega
  unfold decodeMinor6F
  rw [hm]
  refine (ifZero_true (by simp only [bits, beq_iff_eq]; omega)).trans ?_
  rw [hf]
theorem gsread (o : OpGsread) : Statement (.gsread o) := by
  obtain ⟨f_bd, f_gd, f_code⟩ := o
  intro w hw he
  have he := Option.some.inj he
  have hw : OpGsread.wf _ = true := hw
  dsimp only [OpGsread.toBits] at he
  simp only [OpGsread.wf, Bool.and_eq_true, decide_eq_true_eq] at hw
  have hM : bits w 30 24 = 111 := by simp only [bits]; omega
  have hf : OpGsread.ofWord w = ⟨f_bd, f_gd, f_code⟩ := by
    simp only [OpGsread.ofWord, bits, OpGsread.mk.injEq]; omega
  refine (decode_address hM (by decide)).trans ((decodeAddress_111 hM).trans ?_)
  have hm : bits w 23 21 = 2 := by simp only [bits]; omega
  unfold decodeMinor6F
  rw [hm]
  refine (ifZero_true (by simp only [bits, beq_iff_eq]; omega)).trans ?_
  rw [hf]
theorem gwaitc (o : OpGwaitc) : Statement (.gwaitc o) := by
  obtain ⟨f_bd, f_cls, f_n⟩ := o
  intro w hw he
  have he := Option.some.inj he
  have hw : OpGwaitc.wf _ = true := hw
  dsimp only [OpGwaitc.toBits] at he
  simp only [OpGwaitc.wf, Bool.and_eq_true, decide_eq_true_eq] at hw
  have hM : bits w 30 24 = 111 := by simp only [bits]; omega
  have hf : OpGwaitc.ofWord w = ⟨f_bd, f_cls, f_n⟩ := by
    simp only [OpGwaitc.ofWord, bits, OpGwaitc.mk.injEq]; omega
  refine (decode_address hM (by decide)).trans ((decodeAddress_111 hM).trans ?_)
  have hm : bits w 23 21 = 3 := by simp only [bits]; omega
  unfold decodeMinor6F
  rw [hm]
  refine (ifZero_true (by simp only [bits, Bool.and_eq_true, beq_iff_eq]; omega)).trans ?_
  rw [hf]
theorem gyield (o : OpBare) : Statement (.gyield o) := by
  obtain ⟨f_bd⟩ := o
  intro w hw he
  have he := Option.some.inj he
  have hw : OpBare.wf _ = true := hw
  dsimp only [OpBare.toBits] at he
  simp only [OpBare.wf, decide_eq_true_eq] at hw
  have hM : bits w 30 24 = 111 := by simp only [bits]; omega
  have hf : OpBare.ofWord w = ⟨f_bd⟩ := by
    simp only [OpBare.ofWord, bits, OpBare.mk.injEq]; omega
  refine (decode_address hM (by decide)).trans ((decodeAddress_111 hM).trans ?_)
  have hm : bits w 23 21 = 4 := by simp only [bits]; omega
  unfold decodeMinor6F
  rw [hm]
  refine (ifZero_true (by simp only [bits, beq_iff_eq]; omega)).trans ?_
  rw [hf]
theorem uiret : Statement .uiret := by
  intro w _ he
  have he := Option.some.inj he
  subst he
  rfl
theorem ret : Statement .ret := by
  intro w _ he
  have he := Option.some.inj he
  subst he
  rfl
theorem exit : Statement .exit := by
  intro w _ he
  have he := Option.some.inj he
  subst he
  rfl
theorem gnop : Statement .gnop := by
  intro w _ he
  have he := Option.some.inj he
  subst he
  rfl
theorem arbitration : Statement .arbitration := fun w _ h => (Option.some_ne_none w h.symm).elim
theorem lookoutDiversion : Statement .lookoutDiversion := fun w _ h => (Option.some_ne_none w h.symm).elim
theorem xacqGrant : Statement .xacqGrant := fun w _ h => (Option.some_ne_none w h.symm).elim
theorem crewAdmission : Statement .crewAdmission := fun w _ h => (Option.some_ne_none w h.symm).elim
theorem blockPlacement : Statement .blockPlacement := fun w _ h => (Option.some_ne_none w h.symm).elim
theorem taskSteal : Statement .taskSteal := fun w _ h => (Option.some_ne_none w h.symm).elim
theorem eviction : Statement .eviction := fun w _ h => (Option.some_ne_none w h.symm).elim
theorem crewRestore : Statement .crewRestore := fun w _ h => (Option.some_ne_none w h.symm).elim
theorem ldCompletion : Statement .ldCompletion := fun w _ h => (Option.some_ne_none w h.symm).elim
theorem stAcknowledgement : Statement .stAcknowledgement := fun w _ h => (Option.some_ne_none w h.symm).elim
theorem atomCompletion : Statement .atomCompletion := fun w _ h => (Option.some_ne_none w h.symm).elim
theorem gldCompletion : Statement .gldCompletion := fun w _ h => (Option.some_ne_none w h.symm).elim
theorem queueEntryFill : Statement .queueEntryFill := fun w _ h => (Option.some_ne_none w h.symm).elim
theorem copyElementReach : Statement .copyElementReach := fun w _ h => (Option.some_ne_none w h.symm).elim
theorem copyArrival : Statement .copyArrival := fun w _ h => (Option.some_ne_none w h.symm).elim
theorem copyCompletion : Statement .copyCompletion := fun w _ h => (Option.some_ne_none w h.symm).elim
theorem gatherCompletion : Statement .gatherCompletion := fun w _ h => (Option.some_ne_none w h.symm).elim
theorem creduceRetirement : Statement .creduceRetirement := fun w _ h => (Option.some_ne_none w h.symm).elim
theorem merge : Statement .merge := fun w _ h => (Option.some_ne_none w h.symm).elim
theorem matrixCompletion : Statement .matrixCompletion := fun w _ h => (Option.some_ne_none w h.symm).elim
theorem matrixFault : Statement .matrixFault := fun w _ h => (Option.some_ne_none w h.symm).elim
theorem mclrCompletion : Statement .mclrCompletion := fun w _ h => (Option.some_ne_none w h.symm).elim
theorem readoutCompletion : Statement .readoutCompletion := fun w _ h => (Option.some_ne_none w h.symm).elim
theorem mwaitObserve : Statement .mwaitObserve := fun w _ h => (Option.some_ne_none w h.symm).elim
theorem thresholdWindow : Statement .thresholdWindow := fun w _ h => (Option.some_ne_none w h.symm).elim
theorem thresholdSumClear : Statement .thresholdSumClear := fun w _ h => (Option.some_ne_none w h.symm).elim
theorem governorWindow : Statement .governorWindow := fun w _ h => (Option.some_ne_none w h.symm).elim
theorem notifyWrite : Statement .notifyWrite := fun w _ h => (Option.some_ne_none w h.symm).elim
theorem launch : Statement .launch := fun w _ h => (Option.some_ne_none w h.symm).elim
theorem waitEvent : Statement .waitEvent := fun w _ h => (Option.some_ne_none w h.symm).elim
theorem signal : Statement .signal := fun w _ h => (Option.some_ne_none w h.symm).elim
theorem uipostPacket : Statement .uipostPacket := fun w _ h => (Option.some_ne_none w h.symm).elim
theorem peerPost : Statement .peerPost := fun w _ h => (Option.some_ne_none w h.symm).elim
theorem cheadWrite : Statement .cheadWrite := fun w _ h => (Option.some_ne_none w h.symm).elim
theorem qctlWrite : Statement .qctlWrite := fun w _ h => (Option.some_ne_none w h.symm).elim
theorem remapTimer : Statement .remapTimer := fun w _ h => (Option.some_ne_none w h.symm).elim
theorem ctxctlCreate : Statement .ctxctlCreate := fun w _ h => (Option.some_ne_none w h.symm).elim
theorem ctxctlDestroy : Statement .ctxctlDestroy := fun w _ h => (Option.some_ne_none w h.symm).elim
theorem ctxctlReserved : Statement .ctxctlReserved := fun w _ h => (Option.some_ne_none w h.symm).elim
theorem invctlPages : Statement .invctlPages := fun w _ h => (Option.some_ne_none w h.symm).elim
theorem invctlContext : Statement .invctlContext := fun w _ h => (Option.some_ne_none w h.symm).elim
theorem invctlFunction : Statement .invctlFunction := fun w _ h => (Option.some_ne_none w h.symm).elim
theorem invalidationDone : Statement .invalidationDone := fun w _ h => (Option.some_ne_none w h.symm).elim
theorem renew : Statement .renew := fun w _ h => (Option.some_ne_none w h.symm).elim
theorem claim : Statement .claim := fun w _ h => (Option.some_ne_none w h.symm).elim
theorem leaseExpiry : Statement .leaseExpiry := fun w _ h => (Option.some_ne_none w h.symm).elim
theorem pxdoneWrite : Statement .pxdoneWrite := fun w _ h => (Option.some_ne_none w h.symm).elim
theorem dbgctlHalt : Statement .dbgctlHalt := fun w _ h => (Option.some_ne_none w h.symm).elim
theorem dbgctlResume : Statement .dbgctlResume := fun w _ h => (Option.some_ne_none w h.symm).elim
theorem snaptrig : Statement .snaptrig := fun w _ h => (Option.some_ne_none w h.symm).elim
theorem snapclr : Statement .snapclr := fun w _ h => (Option.some_ne_none w h.symm).elim
theorem snapshotLatch : Statement .snapshotLatch := fun w _ h => (Option.some_ne_none w h.symm).elim
theorem teldataRead : Statement .teldataRead := fun w _ h => (Option.some_ne_none w h.symm).elim
theorem registerWrite : Statement .registerWrite := fun w _ h => (Option.some_ne_none w h.symm).elim
theorem create : Statement .create := fun w _ h => (Option.some_ne_none w h.symm).elim
theorem destroy : Statement .destroy := fun w _ h => (Option.some_ne_none w h.symm).elim
theorem grow : Statement .grow := fun w _ h => (Option.some_ne_none w h.symm).elim
theorem shrink : Statement .shrink := fun w _ h => (Option.some_ne_none w h.symm).elim
theorem compact : Statement .compact := fun w _ h => (Option.some_ne_none w h.symm).elim
theorem setShare : Statement .setShare := fun w _ h => (Option.some_ne_none w h.symm).elim
theorem setCaps : Statement .setCaps := fun w _ h => (Option.some_ne_none w h.symm).elim
theorem errlogRead : Statement .errlogRead := fun w _ h => (Option.some_ne_none w h.symm).elim
theorem droplogRead : Statement .droplogRead := fun w _ h => (Option.some_ne_none w h.symm).elim
theorem snapRead : Statement .snapRead := fun w _ h => (Option.some_ne_none w h.symm).elim
theorem snapClear : Statement .snapClear := fun w _ h => (Option.some_ne_none w h.symm).elim
theorem shapeRead : Statement .shapeRead := fun w _ h => (Option.some_ne_none w h.symm).elim
theorem fwLoad : Statement .fwLoad := fun w _ h => (Option.some_ne_none w h.symm).elim
theorem mailboxUnknown : Statement .mailboxUnknown := fun w _ h => (Option.some_ne_none w h.symm).elim
theorem tileFailing : Statement .tileFailing := fun w _ h => (Option.some_ne_none w h.symm).elim
theorem coreReplaced : Statement .coreReplaced := fun w _ h => (Option.some_ne_none w h.symm).elim
theorem channelDropped : Statement .channelDropped := fun w _ h => (Option.some_ne_none w h.symm).elim
theorem droopTrip : Statement .droopTrip := fun w _ h => (Option.some_ne_none w h.symm).elim
theorem clockStepUp : Statement .clockStepUp := fun w _ h => (Option.some_ne_none w h.symm).elim
theorem characterisationComplete : Statement .characterisationComplete := fun w _ h => (Option.some_ne_none w h.symm).elim
theorem scrubComplete : Statement .scrubComplete := fun w _ h => (Option.some_ne_none w h.symm).elim
theorem reset : Statement .reset := fun w _ h => (Option.some_ne_none w h.symm).elim
theorem atsTranslationCompletion : Statement .atsTranslationCompletion := fun w _ h => (Option.some_ne_none w h.symm).elim
theorem prgResponse : Statement .prgResponse := fun w _ h => (Option.some_ne_none w h.symm).elim
theorem atsInvalidateRequest : Statement .atsInvalidateRequest := fun w _ h => (Option.some_ne_none w h.symm).elim
theorem vfReset : Statement .vfReset := fun w _ h => (Option.some_ne_none w h.symm).elim
theorem lockInterfaceRequest : Statement .lockInterfaceRequest := fun w _ h => (Option.some_ne_none w h.symm).elim
theorem getVersion : Statement .getVersion := fun w _ h => (Option.some_ne_none w h.symm).elim
theorem getCapabilities : Statement .getCapabilities := fun w _ h => (Option.some_ne_none w h.symm).elim
theorem negotiateAlgorithms : Statement .negotiateAlgorithms := fun w _ h => (Option.some_ne_none w h.symm).elim
theorem getDigests : Statement .getDigests := fun w _ h => (Option.some_ne_none w h.symm).elim
theorem getCertificate : Statement .getCertificate := fun w _ h => (Option.some_ne_none w h.symm).elim
theorem challenge : Statement .challenge := fun w _ h => (Option.some_ne_none w h.symm).elim
theorem getMeasurements : Statement .getMeasurements := fun w _ h => (Option.some_ne_none w h.symm).elim
theorem keyExchange : Statement .keyExchange := fun w _ h => (Option.some_ne_none w h.symm).elim
theorem finish : Statement .finish := fun w _ h => (Option.some_ne_none w h.symm).elim
theorem heartbeat : Statement .heartbeat := fun w _ h => (Option.some_ne_none w h.symm).elim
theorem keyUpdate : Statement .keyUpdate := fun w _ h => (Option.some_ne_none w h.symm).elim
theorem endSession : Statement .endSession := fun w _ h => (Option.some_ne_none w h.symm).elim
theorem vendorDefined : Statement .vendorDefined := fun w _ h => (Option.some_ne_none w h.symm).elim
theorem unsupportedRequest : Statement .unsupportedRequest := fun w _ h => (Option.some_ne_none w h.symm).elim
theorem ideStreamViolation : Statement .ideStreamViolation := fun w _ h => (Option.some_ne_none w h.symm).elim
theorem memAlloc : Statement .memAlloc := fun w _ h => (Option.some_ne_none w h.symm).elim
theorem memFree : Statement .memFree := fun w _ h => (Option.some_ne_none w h.symm).elim
theorem memMap : Statement .memMap := fun w _ h => (Option.some_ne_none w h.symm).elim
theorem memUnmap : Statement .memUnmap := fun w _ h => (Option.some_ne_none w h.symm).elim
theorem memProtect : Statement .memProtect := fun w _ h => (Option.some_ne_none w h.symm).elim
theorem memQuery : Statement .memQuery := fun w _ h => (Option.some_ne_none w h.symm).elim
theorem capMint : Statement .capMint := fun w _ h => (Option.some_ne_none w h.symm).elim
theorem capRevoke : Statement .capRevoke := fun w _ h => (Option.some_ne_none w h.symm).elim
theorem pinHost : Statement .pinHost := fun w _ h => (Option.some_ne_none w h.symm).elim
theorem unpinHost : Statement .unpinHost := fun w _ h => (Option.some_ne_none w h.symm).elim
theorem gridLaunch : Statement .gridLaunch := fun w _ h => (Option.some_ne_none w h.symm).elim
theorem gridQuery : Statement .gridQuery := fun w _ h => (Option.some_ne_none w h.symm).elim
theorem gridCancel : Statement .gridCancel := fun w _ h => (Option.some_ne_none w h.symm).elim
theorem eventCreate : Statement .eventCreate := fun w _ h => (Option.some_ne_none w h.symm).elim
theorem eventSignal : Statement .eventSignal := fun w _ h => (Option.some_ne_none w h.symm).elim
theorem eventWait : Statement .eventWait := fun w _ h => (Option.some_ne_none w h.symm).elim
theorem queueInfo : Statement .queueInfo := fun w _ h => (Option.some_ne_none w h.symm).elim
theorem detRecordFetch : Statement .detRecordFetch := fun w _ h => (Option.some_ne_none w h.symm).elim
theorem uiVectorSet : Statement .uiVectorSet := fun w _ h => (Option.some_ne_none w h.symm).elim
theorem uiPermit : Statement .uiPermit := fun w _ h => (Option.some_ne_none w h.symm).elim
theorem uiRevoke : Statement .uiRevoke := fun w _ h => (Option.some_ne_none w h.symm).elim
theorem uiRoute : Statement .uiRoute := fun w _ h => (Option.some_ne_none w h.symm).elim
theorem uiQuery : Statement .uiQuery := fun w _ h => (Option.some_ne_none w h.symm).elim
theorem uiPostRemote : Statement .uiPostRemote := fun w _ h => (Option.some_ne_none w h.symm).elim
theorem fileOpen : Statement .fileOpen := fun w _ h => (Option.some_ne_none w h.symm).elim
theorem fileRead : Statement .fileRead := fun w _ h => (Option.some_ne_none w h.symm).elim
theorem fileWrite : Statement .fileWrite := fun w _ h => (Option.some_ne_none w h.symm).elim
theorem fileClose : Statement .fileClose := fun w _ h => (Option.some_ne_none w h.symm).elim
theorem fileStat : Statement .fileStat := fun w _ h => (Option.some_ne_none w h.symm).elim
theorem fileSeek : Statement .fileSeek := fun w _ h => (Option.some_ne_none w h.symm).elim
theorem dirList : Statement .dirList := fun w _ h => (Option.some_ne_none w h.symm).elim
theorem fileSync : Statement .fileSync := fun w _ h => (Option.some_ne_none w h.symm).elim
theorem netConnect : Statement .netConnect := fun w _ h => (Option.some_ne_none w h.symm).elim
theorem netAccept : Statement .netAccept := fun w _ h => (Option.some_ne_none w h.symm).elim
theorem netSend : Statement .netSend := fun w _ h => (Option.some_ne_none w h.symm).elim
theorem netRecv : Statement .netRecv := fun w _ h => (Option.some_ne_none w h.symm).elim
theorem netPoll : Statement .netPoll := fun w _ h => (Option.some_ne_none w h.symm).elim
theorem netClose : Statement .netClose := fun w _ h => (Option.some_ne_none w h.symm).elim
theorem logWrite : Statement .logWrite := fun w _ h => (Option.some_ne_none w h.symm).elim
theorem counterRead : Statement .counterRead := fun w _ h => (Option.some_ne_none w h.symm).elim
theorem attestQuote : Statement .attestQuote := fun w _ h => (Option.some_ne_none w h.symm).elim
theorem reportFetch : Statement .reportFetch := fun w _ h => (Option.some_ne_none w h.symm).elim
theorem clockInfo : Statement .clockInfo := fun w _ h => (Option.some_ne_none w h.symm).elim
theorem random : Statement .random := fun w _ h => (Option.some_ne_none w h.symm).elim
theorem dbgHaltSelf : Statement .dbgHaltSelf := fun w _ h => (Option.some_ne_none w h.symm).elim
theorem dbgNotify : Statement .dbgNotify := fun w _ h => (Option.some_ne_none w h.symm).elim
theorem ctxYield : Statement .ctxYield := fun w _ h => (Option.some_ne_none w h.symm).elim
theorem ctxExit : Statement .ctxExit := fun w _ h => (Option.some_ne_none w h.symm).elim
theorem powerLoss : Statement .powerLoss := fun w _ h => (Option.some_ne_none w h.symm).elim
theorem thermalMonitorTrip : Statement .thermalMonitorTrip := fun w _ h => (Option.some_ne_none w h.symm).elim
theorem powerEnvelope : Statement .powerEnvelope := fun w _ h => (Option.some_ne_none w h.symm).elim
theorem coolantOutOfRange : Statement .coolantOutOfRange := fun w _ h => (Option.some_ne_none w h.symm).elim
theorem linkRetrain : Statement .linkRetrain := fun w _ h => (Option.some_ne_none w h.symm).elim
theorem hostAccess : Statement .hostAccess := fun w _ h => (Option.some_ne_none w h.symm).elim
theorem peerAccess : Statement .peerAccess := fun w _ h => (Option.some_ne_none w h.symm).elim
theorem peerModuleUnreachable : Statement .peerModuleUnreachable := fun w _ h => (Option.some_ne_none w h.symm).elim
theorem msixVectorUnmask : Statement .msixVectorUnmask := fun w _ h => (Option.some_ne_none w h.symm).elim
theorem priEnable : Statement .priEnable := fun w _ h => (Option.some_ne_none w h.symm).elim
theorem hostResume : Statement .hostResume := fun w _ h => (Option.some_ne_none w h.symm).elim

end Sys2Proof.Laws.RoundTrip
end

