-- ==== Sys2Proof/Machine/Families.lean ====
section
/-! DEFINITION. The families of words that differ only in one operation: what each member computes, as the claims about a whole
family name it. -/

namespace Sys2Proof.Machine

/-- Words of format V whose lanes act alone: how a short immediate reads, and the operation in a lane (R85 to R103, R128). -/
def vecOp : Instr → Option (OpV × ImmKind × LaneOp)
  | .fadd o => some (o, .f32, opFadd)
  | .fsub o => some (o, .f32, opFsub)
  | .fmul o => some (o, .f32, opFmul)
  | .ffma o => some (o, .f32, opFfma)
  | .fmin o => some (o, .f32, opFmin)
  | .fmax o => some (o, .f32, opFmax)
  | .hadd2 o => some (o, (.packed fp16), opHadd2)
  | .hmul2 o => some (o, (.packed fp16), opHmul2)
  | .hfma2 o => some (o, (.packed fp16), opHfma2)
  | .badd2 o => some (o, (.packed bf16), opBadd2)
  | .bmul2 o => some (o, (.packed bf16), opBmul2)
  | .bfma2 o => some (o, (.packed bf16), opBfma2)
  | .iadd o => some (o, .int, opIadd)
  | .isub o => some (o, .int, opIsub)
  | .imul o => some (o, .int, opImul)
  | .imad o => some (o, .int, opImad)
  | .imulh o => some (o, .int, opImulh)
  | .imin o => some (o, .int, opImin)
  | .imax o => some (o, .int, opImax)
  | .iminn o => some (o, .int, opIminn)
  | .imaxn o => some (o, .int, opImaxn)
  | .and o => some (o, .int, opAnd)
  | .or o => some (o, .int, opOr)
  | .xor o => some (o, .int, opXor)
  | .andn o => some (o, .int, opAndn)
  | .shl o => some (o, .int, opShl)
  | .shr o => some (o, .int, opShr)
  | .sar o => some (o, .int, opSar)
  | .funl o => some (o, .int, opFunl)
  | .prmt o => some (o, .int, opPrmt)
  | .dp4a o => some (o, .int, opDp4a)
  | .bsubs o => some (o, .int, opBsubs)
  | .bminu o => some (o, .int, opBminu)
  | _ => none

/-- Words of VUN: how a short immediate reads, and the operation in a lane (R107 to R113). -/
def vunOp : Instr → Option (OpVU × ImmKind × LaneOp)
  | .mov o => some (o, .int, opMov)
  | .not o => some (o, .int, opNot)
  | .ineg o => some (o, .int, opIneg)
  | .iabs o => some (o, .int, opIabs)
  | .popc o => some (o, .int, opPopc)
  | .clz o => some (o, .int, opClz)
  | .ctz o => some (o, .int, opCtz)
  | .brev o => some (o, .int, opBrev)
  | .sext8 o => some (o, .int, opSext8)
  | .sext16 o => some (o, .int, opSext16)
  | .bswap o => some (o, .int, opBswap)
  | .fneg o => some (o, .f32, opFneg)
  | .fabs o => some (o, .f32, opFabs)
  | .frcp o => some (o, .f32, special .rcp)
  | .frsq o => some (o, .f32, special .rsq)
  | .fsqrt o => some (o, .f32, special .sqrt)
  | .fexp2 o => some (o, .f32, special .exp2)
  | .flog2 o => some (o, .f32, special .log2)
  | .fsin o => some (o, .f32, special .sin)
  | .fcos o => some (o, .f32, special .cos)
  | .ftanh o => some (o, .f32, special .tanh)
  | .ffloor o => some (o, .f32, integral .rdn)
  | .fceil o => some (o, .f32, integral .rup)
  | .ftrunc o => some (o, .f32, integral .rtz)
  | .frint o => some (o, .f32, opFrint)
  | .cvtif o => some (o, .int, opCvtif)
  | .cvtnf o => some (o, .int, opCvtnf)
  | .cvtfi o => some (o, .f32, opCvtfi)
  | .cvtfn o => some (o, .f32, opCvtfn)
  | .cvthfl o => some (o, (.packed fp16), widenHalf fp16 0)
  | .cvthfh o => some (o, (.packed fp16), widenHalf fp16 1)
  | .cvtbfl o => some (o, (.packed bf16), widenHalf bf16 0)
  | .cvtbfh o => some (o, (.packed bf16), widenHalf bf16 1)
  | _ => none

/-- Words of UOPA and UOPB of two operands (R140). -/
def uniOp : Instr → Option (OpU × LaneOp)
  | .uadd o => some (o, opIadd)
  | .usub o => some (o, opIsub)
  | .umul o => some (o, opImul)
  | .umulh o => some (o, opImulh)
  | .uand o => some (o, opAnd)
  | .uor o => some (o, opOr)
  | .uxor o => some (o, opXor)
  | .uandn o => some (o, opAndn)
  | .ushl o => some (o, opShl)
  | .ushr o => some (o, opShr)
  | .usar o => some (o, opSar)
  | .umin o => some (o, opImin)
  | .umax o => some (o, opImax)
  | .uminn o => some (o, opIminn)
  | .umaxn o => some (o, opImaxn)
  | _ => none

/-- Words of UOPI (R141). -/
def uniImmOp : Instr → Option (OpUI × LaneOp)
  | .uaddi o => some (o, opIadd)
  | .uandi o => some (o, opAnd)
  | .uori o => some (o, opOr)
  | .uxori o => some (o, opXor)
  | .ushli o => some (o, opShl)
  | .ushri o => some (o, opShr)
  | .usari o => some (o, opSar)
  | .umovi o => some (o, fun _ _ b _ => pureRes b)
  | _ => none

/-- Words of GOPA (R199). -/
def gopaOp : Instr → Option (OpGA × LaneOp)
  | .gadd o => some (o, opIadd)
  | .gsub o => some (o, opIsub)
  | .gmul o => some (o, opImul)
  | .gmulh o => some (o, opImulh)
  | .gand o => some (o, opAnd)
  | .gor o => some (o, opOr)
  | .gxor o => some (o, opXor)
  | .gshl o => some (o, opShl)
  | .gshr o => some (o, opShr)
  | .gsar o => some (o, opSar)
  | .gmin o => some (o, opImin)
  | .gmax o => some (o, opImax)
  | .gminn o => some (o, opIminn)
  | .gmaxn o => some (o, opImaxn)
  | .gslt o => some (o, opSlt)
  | .gsltn o => some (o, opSltn)
  | _ => none

/-- Words of GOPI (R200). -/
def gopiOp : Instr → Option (OpGI × LaneOp)
  | .gaddi o => some (o, opIadd)
  | .gandi o => some (o, opAnd)
  | .gori o => some (o, opOr)
  | .gxori o => some (o, opXor)
  | .gshli o => some (o, opShl)
  | .gshri o => some (o, opShr)
  | .gsari o => some (o, opSar)
  | .gslti o => some (o, opSlt)
  | _ => none

/-- Branches of GBR and the test each makes of its register (R210). -/
def gbrTest : Instr → Option (OpGB × (Int → Bool))
  | .gbeqz o => some (o, fun x => x == 0)
  | .gbnez o => some (o, fun x => x != 0)
  | .gbltz o => some (o, fun x => decide (x < 0))
  | .gbgez o => some (o, fun x => decide (0 ≤ x))
  | .gbgtz o => some (o, fun x => decide (0 < x))
  | .gblez o => some (o, fun x => decide (x ≤ 0))
  | _ => none

/-- Compares of format P: how a short immediate reads, and the predicate bit and flags in a lane (R118). -/
def cmpOp : Instr → Option (OpP × ImmKind × (OpHmod → Nat → Nat → Bool × Afl))
  | .fcmp o => some (o, .f32, fun m a b => fcmpLane o.cc m a b)
  | .icmp o => some (o, .int, fun m a b => (ccInt o.cc (readInt m a) (readInt m b), flNone))
  | .icmpn o => some (o, .int, fun m a b => (ccInt o.cc (zext (opWidth m) a : Nat) (zext (opWidth m) b : Nat), flNone))
  | _ => none

/-- Votes, and what each makes of the predicate bits of a segment's active lanes (R123). -/
def voteOp : Instr → Option (OpVote × (List Bool → Bool))
  | .voteAll o => some (o, fun bs => bs.all id)
  | .voteAny o => some (o, fun bs => bs.any id)
  | .voteEq o => some (o, fun bs => bs.all id || bs.all (fun b => !b))
  | _ => none

/-- The service calls by number (R372). -/
def serviceNum : Instr → Option Nat
  | .memAlloc => some 0
  | .memFree => some 1
  | .memMap => some 2
  | .memUnmap => some 3
  | .memProtect => some 4
  | .memQuery => some 5
  | .capMint => some 6
  | .capRevoke => some 7
  | .pinHost => some 8
  | .unpinHost => some 9
  | .gridLaunch => some 10
  | .gridQuery => some 11
  | .gridCancel => some 12
  | .eventCreate => some 13
  | .eventSignal => some 14
  | .eventWait => some 15
  | .queueInfo => some 16
  | .detRecordFetch => some 17
  | .uiVectorSet => some 18
  | .uiPermit => some 19
  | .uiRevoke => some 20
  | .uiRoute => some 21
  | .uiQuery => some 22
  | .uiPostRemote => some 23
  | .fileOpen => some 24
  | .fileRead => some 25
  | .fileWrite => some 26
  | .fileClose => some 27
  | .fileStat => some 28
  | .fileSeek => some 29
  | .dirList => some 30
  | .fileSync => some 31
  | .netConnect => some 32
  | .netAccept => some 33
  | .netSend => some 34
  | .netRecv => some 35
  | .netPoll => some 36
  | .netClose => some 37
  | .logWrite => some 38
  | .counterRead => some 39
  | .attestQuote => some 40
  | .reportFetch => some 41
  | .clockInfo => some 42
  | .random => some 43
  | .dbgHaltSelf => some 44
  | .dbgNotify => some 45
  | .ctxYield => some 46
  | .ctxExit => some 47
  | _ => none

/-- The calls that go to the host (R372, R374). -/
def hostCalls : List Nat := [8, 9, 24, 25, 26, 27, 28, 29, 30, 31, 32, 33, 34, 35, 36, 37]

end Sys2Proof.Machine
end

