-- ==== Sys2Proof/Safety.lean ====
section
/-! DEFINITION. The terms in which claims are stated: a sound state, a safe step, who has the turn, when nothing stops a word
from taking effect, and what is left alone. -/

namespace Sys2Proof.Machine

/-! ## Sound states and safe steps -/

/-- The sum of the shares of all partitions. -/
def Mgmt.shareSum (m : Mgmt) : Nat := (m.parts.map (fun p => p.2.share)).sum

/-- Partitions listed under rising tags. -/
def Mgmt.tagsRise (m : Mgmt) : Bool := Assoc.sorted m.parts

/-- What base camp keeps of the partitions: each tag once, and the shares within 256 (R376). -/
def Mgmt.sound (m : Mgmt) : Bool := m.tagsRise && decide (m.shareSum ≤ 256)

/-- A sound state. -/
def State.sound (s : State) : Prop := s.mgmt.sound = true

/-- A safe step: it answers a state. -/
def State.safe (s : State) : Prop := ∃ t, step s = .next t

/-! ## Who has the turn -/

/-- The batch e has the turn, and s is what it sees. -/
def Issuer (s : State) (e : Env) : Prop :=
  s.turn = .batch e.cid e.wi e.lead ∧ env? s.mgmt s.run e.cid e.wi e.lead = some e

/-- The address slice e has the turn, and s is what it sees. -/
def SliceIssuer (s : State) (e : SEnv) : Prop := s.turn = .slice e.cid ∧ senv? s.mgmt s.run e.cid = some e

/-- The state after a step whose effect on what programs change is r; the next step chooses again. -/
def State.after (s : State) (r : Run) : State := { s with run := r, turn := .choose }

/-! ## When nothing stops a word (R62, R63, R66, R196, R324) -/

/-- Nothing stops a compute word before its own checks: its batch is not held, no lookahead window makes it wait or meets its
registers, no word that it follows has failed, hints and modifiers are ones it accepts, its registers are within the warp's
count and hold no error, a queue that it pops has an entry, and it does not hold at issue. -/
structure Clear (d : WordDef) (e : Env) : Prop where
  free : e.b.wait.blocks = false
  awaits : mustAwait e.w.windows e.w.ops e.b.lanes = false
  faultless : behindFault e.w.windows e.w.ops e.b.lanes = false
  legal : d.legal e = true
  lookahead : hazard e.w.windows e.b.lanes (d.uses e) = false
  bound : ∀ n ∈ (d.uses e).vr ++ (d.uses e).vw, n < e.w.count
  intact : e.badRead (d.uses e) = none
  entry : ∀ q, d.pops e = some q → ∃ x, (e.crew.queue q).head = .entry x
  waits : d.waits e = false

/-- Nothing stops an address-slice word before its own checks. -/
structure SliceClear (d : SliceDef) (e : SEnv) : Prop where
  free : e.s.wait.blocks = false
  awaits : mustAwait e.s.windows e.s.ops 1#32 = false
  faultless : behindFault e.s.windows e.s.ops 1#32 = false
  hints : d.hint = true ∨ (e.hints.bad = false ∧ (d.imm = true ∨ e.hints.imm? = false))
  legal : d.legal e = true
  lookahead : hazard e.s.windows 1#32 (d.uses e) = false
  intact : e.badRead (d.uses e) = false
  waits : d.waits e = false

/-! ## What a word does -/

/-- What a word does: the run after its own effect, where its batch goes, and the operation a lookahead window waits for. -/
def does (run : Run) (next : Next := .seq) (op : Nat := 0) : Flow := ⟨run, next, op⟩

/-- What an address-slice word does. -/
def sliceDoes (run : Run) (next : SNext := .seq) (op : Nat := 0) : SFlow := ⟨run, next, op⟩

/-- No word that the batch follows is outstanding. -/
def Env.settled (e : Env) : Prop := outstanding e.w.windows e.w.ops e.b.lanes = false

/-- No word that the slice follows is outstanding. -/
def SEnv.settled (e : SEnv) : Prop := outstanding e.s.windows e.s.ops 1#32 = false

/-- Where a batch may go with older words outstanding: a trap that comes with a word's effect waits for all of them (R64), and a
return from a handler for the pops (R166). -/
structure Next.MayGo (n : Next) (e : Env) : Prop where
  trap : n.trapsAfter = true → e.settled
  leave : n.leaves = true → behindPop e.w.windows e.w.ops e.b.lanes = false

/-- A compute word, with nothing in its way, answers a next state: its effect f on what programs change, and its batch gone on as
f says. -/
def Completes (i : Instr) (e : Env) (f : Flow) : Prop :=
  ∀ s d, wordDef i = some d → Issuer s e → Clear d e → f.next.MayGo e → exec i s = .next (s.after (afterWord e d f))

/-- An address-slice word, with nothing in its way, answers a next state: its effect f, and the slice gone on as f says. Where a trap
comes with its effect, no word that it follows is outstanding (R64). -/
def SliceCompletes (i : Instr) (e : SEnv) (f : SFlow) : Prop :=
  ∀ s d, sliceDef i = some d → SliceIssuer s e → SliceClear d e → (f.next.trapsAfter = true → e.settled) → exec i s = .next (s.after (afterSliceWord e d f))

/-- An event takes place: with its turn, in a state whose run and management are these, it answers the state whose run is t. -/
def Happens (i : Instr) (a : EvArgs) (m : Mgmt) (r t : Run) : Prop :=
  ∀ s, s.turn = .event { kind := i, args := a } → s.mgmt = m → s.run = r → exec i s = .next (s.after t)

/-- An event that also changes what base camp keeps: it answers the state with management m' and run t. -/
def HappensAll (i : Instr) (a : EvArgs) (m : Mgmt) (r : Run) (x : Mgmt × Run) : Prop :=
  ∀ s, s.turn = .event { kind := i, args := a } → s.mgmt = m → s.run = r → exec i s = .next { s.after x.2 with mgmt := x.1 }

/-- A mailbox command is written as R417 has it: through the owner port, to an idle mailbox, after boot; in recovery only
FW_LOAD. -/
structure Commanded (a : EvArgs) (m : Mgmt) (r : Run) (code : Nat) : Prop where
  booted : m.booted = true
  offered : m.recovery = false ∨ code = 13
  first : a.flag = false
  port : a.port = r.owner
  idle : r.mailboxBusy = false
  code : a.value % 256 = code

/-- The run with a command written in MBCMD. -/
def Run.commanded (r : Run) (a : EvArgs) : Run := { r with mbcmd := BitVec.ofNat 64 a.value }

/-- A mailbox command is done with a status, and leaves management m' and run r'. -/
def CommandDone (i : Instr) (a : EvArgs) (m : Mgmt) (r : Run) (status : Nat) (x : Mgmt × Run) : Prop :=
  HappensAll i a m r (x.1, { x.2 with mbstat := BitVec.ofNat 32 status })

/-- A service call taken by a unit comes to x: one at the head of its partition's queue or waiting away from it, whose parameter
block was read whole. -/
def Serves (i : Instr) (a : EvArgs) (e : CallEnv) (r : Run) (x : Run × Served) : Prop :=
  ∀ s n, serviceNum i = some n → s.turn = .event { kind := i, args := a } → s.run = r → callEnv s.mgmt r a.op = some e →
    servable r e n = true → e.c.poisoned = false → exec i s = .next (s.after (settleServed e x))

/-- A service call completes with OK, a result and a detail, and the run is r' (R371). -/
def ServesOk (i : Instr) (a : EvArgs) (e : CallEnv) (r r' : Run) (res : Nat) (detail : Nat := 0) : Prop :=
  Serves i a e r (r', .done stOk detail res)

/-- The warp of the issuing batch changed. -/
def Env.onWarp (e : Env) (f : Warp → Warp) : Run := e.r.warp e.cid e.wi f

/-- A uniform register of the issuing warp, by its field. -/
def Env.un (e : Env) (f : Nat) : Nat := (e.w.u (e.w.uIdx f)).toNat

/-- The address slice of the issuing crew changed. -/
def SEnv.onSlice (e : SEnv) (f : ASlice → ASlice) : Run := e.r.slice e.cid f

/-- A request that a function answers over DOE with free bytes, leaving its mark on the function. -/
def answered (r : Run) (kind : Instr) (fn n : Nat) (f : Func → Func) : Run :=
  answer ((secretBytes r n).2.setFunc fn f) kind fn (secretBytes r n).1 false

/-- The words that read a queue's head: the queue, the destination, whether that is a uniform pair, whether the entry is taken away, and
how many followers may issue (R19, R166). -/
def popOf (e : Env) : Instr → Option (Nat × Nat × Bool × Bool × Nat)
  | .qpop o => some (o.q, o.d, false, true, o.la)
  | .qpops o => some (o.q, e.w.uIdx o.sd, true, true, o.la)
  | .qpeek o => some (o.q, e.w.uIdx o.sd, true, false, o.la)
  | _ => none

/-- The 64 bytes of the task record that a FORK names. -/
def Env.record (e : Env) (o : OpFork) : List Byte := loadBytes e.r e.crew.block (.pad e.cid (e.un o.sa)) 64

/-- Nothing in the record that a FORK names, of kernel k, stops it (R151, R152, R254). -/
structure ForkReady (o : OpFork) (e : Env) (k : Kernel) : Prop where
  aligned : e.un o.sa % 64 = 0
  inside : e.un o.sa + 64 ≤ e.k.pad
  good : taskRecordOk (isProt e.r e.ctx) (e.record o) = true
  kernel : taskKernel e.m e.r e.g (e.record o) = some k
  caps : taskCapFault e (e.record o) = false

/-- What a FORK answers, 0 or 1, in its register (R152). -/
def Env.forked (e : Env) (o : OpFork) (r : Run) (x : Nat) : Run :=
  r.warp e.cid e.wi (fun w => w.setU (e.w.uIdx o.sd) (BitVec.ofNat 32 x))

/-- A branch target that no check refuses and that stays in the code: aligned, in the image, and not the return mark (R57, R134,
R326). -/
def goodTarget (e : Env) (t : Word) : Prop := t.toNat % 4 = 0 ∧ t.toNat < 4 * e.k.cimg.length ∧ t ≠ returnMark

/-- n elements widened to consecutive registers of each active lane, their flags raised and counted (R116). -/
def widenLanes (e : Env) (o : OpCV) (n s : Nat) (f : EFmt) (sc : FVal) : Run :=
  let res := e.lanes.map (fun l =>
    (l, (List.range n).map (fun i => fp32.mulVal (slotRnd s) (elementAt f (fmValue e o.fm o.a e.xa .int false l) i) sc)))
  let fs := res.map (fun p => (p.1, joinFlags p.2))
  countFlags ((popQueue e.r e.cid (fmPops o.fm o.a)).warp e.cid e.wi (fun w =>
    (res.foldl (fun w p => ((List.range n).zip p.2).foldl
      (fun w q => w.setV p.1 (o.d + q.1) (BitVec.ofNat 32 q.2.1)) w) w).raiseAll fs)) e.tile e.ctx fs

/-! ## Arithmetic and arrivals, said another way -/

/-- The integer words of formats V and VUN, each with its operation in a lane. -/
def intOp (i : Instr) : Option LaneOp :=
  match i with
  | .iadd _ | .isub _ | .imul _ | .imad _ | .imulh _ | .imin _ | .imax _ | .iminn _ | .imaxn _ | .and _ | .or _ | .xor _ | .andn _
  | .shl _ | .shr _ | .sar _ | .funl _ | .prmt _ | .dp4a _ | .bsubs _ | .bminu _ => (vecOp i).map (fun x => x.2.2)
  | .mov _ | .not _ | .ineg _ | .iabs _ | .popc _ | .clz _ | .ctz _ | .brev _ | .sext8 _ | .sext16 _ | .bswap _ =>
    (vunOp i).map (fun x => x.2.2)
  | _ => none

/-- The loop of R277 on COUNT, GEN and FLAGS, as often as the fuel lets it turn. -/
def arrivalLoop : Nat → Nat → Nat × Nat × Nat → Nat × Nat × Nat
  | 0, _, x => x
  | k + 1, target, (count, gen, flags) =>
    if target ≤ count then
      arrivalLoop k target (count - target, gen + 1, if bits flags 3 3 = 1 ∧ bits flags 1 0 = 1 then flags + 1 else flags)
    else (count, gen, flags)

/-! ## What states hold -/

/-- Warp w of crew c, when it is there. -/
def Run.warp? (r : Run) (c w : Nat) : Option Warp := (Assoc.get? r.crews c).bind (fun x => x.warps[w]?)

/-- The address slice of crew c, when it is there. -/
def Run.slice? (r : Run) (c : Nat) : Option ASlice := (Assoc.get? r.crews c).map (·.aslice)

/-- Every byte of memory reads in one run as in another, whatever its place. -/
def SameMemory (r t : Run) : Prop := ∀ p : Place, rawByte t p = rawByte r p

/-- No store of an agent through another page than this is still to be seen of n bytes: as R259 has it, every page shows the same. -/
def Run.Agrees (r : Run) (crew party : Nat) (page : Option Nat) (p : Place) (n : Nat) : Prop :=
  ∀ g, page = some g → r.clashes crew party g p n = []

/-! ## What a word leaves alone -/

/-- A crew after a pop of one of its queues, if there is one (R19). -/
def Crew.popped (c : Crew) : Option Nat → Crew
  | none => c
  | some q => c.setQueue q Queue.pop

/-- What a word of the batch e that acts on its own warp leaves alone in the run t after it: every byte of memory and everything
else but its warp, of which keeps says what it leaves; the queue that it pops; the threshold counts of its tile (R55); and which
batches its core's quadrants issue (R227). -/
structure OnlyWarp (e : Env) (pop : Option Nat) (keeps : Warp → Warp → Prop) (t : Run) : Prop where
  memory : SameMemory e.r t
  rest : { t with crews := e.r.crews, tiles := e.r.tiles, cores := e.r.cores } = e.r
  others : ∀ c, c ≠ e.cid → Assoc.get? t.crews c = Assoc.get? e.r.crews c
  own : ∃ w, Assoc.get? t.crews e.cid = some { e.crew.popped pop with warps := setAt e.crew.warps e.wi w } ∧ keeps e.w w
  tile : t.tileSt e.tile = { e.r.tileSt e.tile with thrCount := (t.tileSt e.tile).thrCount }
  otherTiles : ∀ k, k ≠ e.tile → t.tileSt k = e.r.tileSt k
  core : t.coreSt e.crew.core = { e.r.coreSt e.crew.core with running := (t.coreSt e.crew.core).running }
  otherCores : ∀ k, k ≠ e.crew.core → t.coreSt k = e.r.coreSt k

/-- A warp whose batches and windows have moved on and of whose registers only those of dst in some lanes have changed: every
other register, every predicate, LNK, bound arm and uniform register is as it was; the flags of other lanes are, and no flag of
these lanes is lost (R24). Of the words that hold an error only those written may lose it, and no other comes to hold one (R394). -/
structure LaneFrame (lanes : Mask) (dst : List Nat) (w w' : Warp) : Prop where
  rest : { w' with vregs := w.vregs, afls := w.afls, batches := w.batches, windows := w.windows, bad := w.bad } = w
  regs : ∀ l n, l < 32 → lanes.getLsbD l = false ∨ n ∉ dst → w'.v l n = w.v l n
  errs : ∀ c, c ∈ w'.bad → c ∈ w.bad
  kept : ∀ c ∈ w.bad, (∀ l n, c = .vreg n l → lanes.getLsbD l = false ∨ n ∉ dst) → c ∈ w'.bad
  flags : ∀ l, lanes.getLsbD l = false → w'.afl l = w.afl l
  sticky : ∀ l, w'.afl l ||| w.afl l = w'.afl l

/-- A warp of which only predicate pd of some lanes has changed, p0 never (R16), with flags raised in those lanes. -/
structure PredFrame (lanes : Mask) (pd : Nat) (w w' : Warp) : Prop where
  rest : { w' with preds := w.preds, afls := w.afls, batches := w.batches, windows := w.windows, bad := w.bad } = w
  errs : ∀ c, c ∈ w'.bad → c ∈ w.bad
  kept : ∀ c ∈ w.bad, c ≠ .pred pd → c ∈ w'.bad
  preds : ∀ l n, lanes.getLsbD l = false ∨ n ≠ pd ∨ n = 0 → w'.p l n = w.p l n
  flags : ∀ l, lanes.getLsbD l = false → w'.afl l = w.afl l
  sticky : ∀ l, w'.afl l ||| w.afl l = w'.afl l

/-- A warp of which only the uniform registers of dst have changed, with the capability tags of their quads (R192). -/
structure UniFrame (dst : List Nat) (w w' : Warp) : Prop where
  rest : { w' with uregs := w.uregs, utags := w.utags, batches := w.batches, windows := w.windows, bad := w.bad } = w
  errs : ∀ c, c ∈ w'.bad → c ∈ w.bad
  kept : ∀ c ∈ w.bad, (∀ n ∈ dst, c ≠ .ureg n) → c ∈ w'.bad
  regs : ∀ n, n ∉ dst → w'.u n = w.u n
  tags : ∀ k, k < 96 → k ∉ dst.map (· / 4) → w'.utags.getLsbD k = w.utags.getLsbD k

/-- A warp whose batches and windows alone have moved on. -/
def StillFrame (w w' : Warp) : Prop := { w' with batches := w.batches, windows := w.windows } = w

/-- What a word of the address slice e that acts on its own registers leaves alone: every byte of memory, and everything else but
its slice, of which keeps says what it leaves. -/
structure OnlySlice (e : SEnv) (keeps : ASlice → ASlice → Prop) (t : Run) : Prop where
  memory : SameMemory e.r t
  rest : { t with crews := e.r.crews } = e.r
  others : ∀ c, c ≠ e.cid → Assoc.get? t.crews c = Assoc.get? e.r.crews c
  own : ∃ s, Assoc.get? t.crews e.cid = some { e.crew with aslice := s } ∧ keeps e.s s

/-- A slice of which only the g registers of dst have changed, g0 never (R21), with the tags of their pairs (R192); its PC, hints,
wait and windows move on. -/
structure GFrame (dst : List Nat) (s s' : ASlice) : Prop where
  rest : { s' with gregs := s.gregs, gtags := s.gtags, pc := s.pc, hints := s.hints, wait := s.wait, windows := s.windows,
                   replay := s.replay, bad := s.bad } = s
  errs : ∀ n, n ∈ s'.bad → n ∈ s.bad
  kept : ∀ n ∈ s.bad, n ∉ dst → n ∈ s'.bad
  regs : ∀ n, n ∉ dst ∨ n = 0 → s'.g n = s.g n
  tags : ∀ k, k < 32 → k ∉ dst.map (· / 2) → s'.gtags.getLsbD k = s.gtags.getLsbD k

end Sys2Proof.Machine
end

