-- ==== Sys2Proof/Certificates/Slice0/Obligations.lean ====
section
/-! DEFINITION. The statements for the provers. -/

open Sys2Proof Sys2Proof.Machine

/-! ## What each compute word does when nothing stops it -/

/-- The words of format V whose lanes act alone: every active lane writes its operation's result and flags (R85, R88). -/
def Obligations.VectorWordsComplete : Prop :=
  ∀ i o k (f : LaneOp) e, vecOp i = some (o, k, f) →
    Completes i e (does (writeLanes e e.wide o.d (fmPops o.fm o.b) (e.lanes.map (fun l =>
      (l, f e.mods (e.w.vW e.wide l (o.a + 128 * e.xa)) (fmValue e o.fm o.b e.xb k e.wide l) (e.w.vW e.wide l o.d))))))

/-- The words of VUN: every active lane writes the function of its operand (R107, R109, R111 to R113); SETLNK writes LNK
(R110). -/
def Obligations.UnaryWordsComplete : Prop :=
  (∀ i o k (f : LaneOp) e, vunOp i = some (o, k, f) →
    Completes i e (does (writeLanes e e.wide o.d (fmPops o.fm o.a)
      (e.lanes.map (fun l => (l, f e.mods (fmValue e o.fm o.a e.xa k e.wide l) 0 0)))))) ∧
  (∀ o e, Completes (.setlnk o) e (does ((popQueue e.r e.cid (fmPops o.fm o.a)).warp e.cid e.wi (fun w =>
    e.lanes.foldl (fun w l => w.setLnk l (BitVec.ofNat 32 (fmValue e o.fm o.a e.xa .int false l))) w))))

/-- CVT: with a good slot s of format f and scale sc, PACK4 and PACK2 narrow a group, UNPACK8 and UNPACK16 widen elements, and
SCALE divides and checks its bound (R114 to R117). -/
def Obligations.ConversionWordsComplete : Prop :=
  (∀ o e s f sc, cvtFormat e o.slot byteFormat = .ok (s, f) → cvtScale e s = .ok sc →
    Completes (.pack4 o) e (does (writeLanes e false o.d none (e.lanes.map (fun l =>
      let es := (List.range 4).map (fun i => packOne s f sc (e.w.v l (o.a + 128 * e.xa + i)).toNat)
      (l, packLane f (e.w.v l o.d).toNat es, joinFlags es)))))) ∧
  (∀ o e s f sc, cvtFormat e o.slot halfFormat = .ok (s, f) → cvtScale e s = .ok sc →
    Completes (.pack2 o) e (does (writeLanes e false o.d none (e.lanes.map (fun l =>
      let es := (List.range 2).map (fun i => packOne s f sc (e.w.v l (o.a + 128 * e.xa + i)).toNat)
      (l, packLane f (e.w.v l o.d).toNat es, joinFlags es)))))) ∧
  (∀ o e s f sc, cvtFormat e o.slot byteFormat = .ok (s, f) → cvtScale e s = .ok sc →
    Completes (.unpack8 o) e (does (widenLanes e o 4 s f sc))) ∧
  (∀ o e s f sc, cvtFormat e o.slot halfFormat = .ok (s, f) → cvtScale e s = .ok sc →
    Completes (.unpack16 o) e (does (widenLanes e o 2 s f sc))) ∧
  (∀ o e s f sc, cvtFormat e o.slot (fun f => f == .fp32) = .ok (s, f) → cvtScale e s = .ok sc →
    (e.g.bounds.getD o.slot {}).bad = false →
    Completes (.scale o) e (does (let be := e.g.bounds.getD o.slot {}
      let res := e.lanes.map (fun l =>
        let (x, fl) := scaleOne s sc (fmValue e o.fm o.a e.xa .f32 false l)
        let (y, fl', event, arm) := be.check fp32 x
        (l, y, fl ||| fl', event, arm))
      let r := writeLanes e false o.d (fmPops o.fm o.a) (res.map (fun p => (p.1, p.2.1, p.2.2.1)))
      let r := r.warp e.cid e.wi (fun w =>
        { w with arms := w.arms ||| maskOf ((res.filter (fun p => p.2.2.2.2)).map (·.1)) })
      countEvents r e.tile e.ctx be.eclass (res.filter (fun p => p.2.2.2.1)).length)))

/-- The words that write predicates, and CMOV (R118 to R121, R123). -/
def Obligations.PredicateWordsComplete : Prop :=
  (∀ i o k (f : OpHmod → Nat → Nat → Bool × Afl) e, cmpOp i = some (o, k, f) →
    Completes i e (does (let res := e.lanes.map (fun l =>
        (l, f e.mods (e.w.vW e.wide l (o.a + 128 * e.xa)) (fmValue e o.fm o.b e.xb k e.wide l)))
      let fs := res.map (fun p => (p.1, p.2.2))
      countFlags ((popQueue e.r e.cid (fmPops o.fm o.b)).warp e.cid e.wi (fun w =>
        (w.setPredMask o.pd e.active (maskOf ((res.filter (fun p => p.2.1)).map (·.1)))).raiseAll fs)) e.tile e.ctx fs))) ∧
  (∀ o e, Completes (.fclass o) e (does (predWrite e o.pd (fun l => fclassBits (e.w.v l (o.a + 128 * e.xa)).toNat &&& o.mask != 0)))) ∧
  (∀ o e, Completes (.plop o) e (does (predWrite e o.pd (fun l => if o.lop = 7 then o.pa % 2 == 1 else plopBit o.lop (e.w.p l o.pa) (e.w.p l o.pb))))) ∧
  (∀ o e, Completes (.cmov o) e (does (e.onWarp (fun w =>
    (e.lanes.filter (fun l => e.w.p l o.ps != (o.n == 1))).foldl
      (fun w l => w.setVW e.wide l o.d (e.w.vW e.wide l o.a)) w)))) ∧
  (∀ i o (f : List Bool → Bool) e, voteOp i = some (o, f) →
    Completes i e (does (e.onWarp (fun w => w.setPredMask o.d e.active (maskOf (e.lanes.filter (fun l =>
      f ((segLanes e (2 ^ (5 - o.seg)) l).map (fun j => e.w.p j o.a)))))))))

/-- The words that read other lanes, tables, registers by index and special registers (R106, R122 to R130). What is read of the lane of
a thread that has exited is free (R136; log 46). -/
def Obligations.LaneWordsComplete : Prop :=
  (∀ o e, Completes (.shfl o) e (does (let c := shflControl e o
    let w := 2 ^ (5 - bits c 7 5)
    let src := o.a + 128 * e.xa
    e.spent (writePlain e false o.d none (fun l =>
      let (t, inside) := shflTarget o.md (l % w) (bits c 4 0) w
      let sb := l - l % w
      if inside then (e.other (sb + t.toNat) src).toNat
      else match bits c 9 8 with
        | 1 => 0
        | 2 => (e.other (sb + (t % w).toNat) src).toNat
        | _ => (e.w.v l src).toNat))))) ∧
  (∀ o e, Completes (.ballot o) e (does (writePlain e false o.d none (fun l =>
    ((segLanes e (2 ^ (5 - o.seg)) l).map (fun j => b2n (e.w.p j o.a) * 2 ^ (j % 2 ^ (5 - o.seg)))).sum)))) ∧
  (∀ o e, Completes (.redux o) e (does (writePlain e false o.d none (fun l =>
    reduceList o.op ((segLanes e (2 ^ (5 - o.seg)) l).map (fun j => (e.w.v j o.a).toNat)))))) ∧
  (∀ o e, Completes (.bcast o) e (does (e.spent (writePlain e false o.d (fmPops o.fm o.b) (fun l =>
    (e.other (fmValue e o.fm o.b 0 .int false l % 32) (o.a + 128 * e.xa)).toNat))))) ∧
  (∀ o e, Completes (.lanex o) e (does (e.spent (writePlain e false o.d (fmPops o.fm o.b) (fun l =>
    let t := (e.w.v l (o.a + 128 * e.xa)).toNat % 32
    if o.fm = 0 then (e.other t (o.b + 128 * e.xb)).toNat else fmValue e o.fm o.b e.xb .int false t))))) ∧
  (∀ o e, Completes (.sread o) e (does ((sampleCounter e.r e.crew.core o.code).1.warp e.cid e.wi (fun w => e.lanes.foldl (fun w l =>
      w.setVW e.wide l o.d (specialLane e o.code (sampleCounter e.r e.crew.core o.code).2 l)) w)))) ∧
  (∀ o e, Completes (.vgeti o) e (does (writePlain e false o.d (fmPops o.fm o.b)
    (fun l => (e.w.v l (fmValue e o.fm o.b 0 .int false 0)).toNat)))) ∧
  (∀ o e, Completes (.vputi o) e (does (writePlain e false (fmValue e o.fm o.b 0 .int false 0) (fmPops o.fm o.b)
    (fun l => (e.w.v l (o.a + 128 * e.xa)).toNat)))) ∧
  (∀ o e, Completes (.nlutl o) e (does (writePlain e false o.d none (fun l =>
    lutBytes false (tableByte e o l) (e.w.v l (o.a + 128 * e.xa)).toNat)))) ∧
  (∀ o e, Completes (.nluth o) e (does (writePlain e false o.d none (fun l =>
    lutBytes true (tableByte e o l) (e.w.v l (o.a + 128 * e.xa)).toNat)))) ∧
  (∀ o e, Completes (.prevb o) e (does (e.spent (writePlain e false o.d (fmPops o.fm o.b) (fun l =>
    let n := fmValue e o.fm o.b e.xb .int false l % 4
    gatherBytes 4 (fun i =>
      if n ≤ 4 * l + i then byteOf (e.other ((4 * l + i - n) / 4) (o.a + 128 * e.xa)).toNat ((4 * l + i - n) % 4)
      else byteOf (e.other ((128 + 4 * l + i - n) / 4) o.d).toNat ((128 + 4 * l + i - n) % 4)))))))

/-- The uniform words: each acts once, whatever the guard (R139 to R142). -/
def Obligations.UniformWordsComplete : Prop :=
  (∀ i o (f : LaneOp) e, uniOp i = some (o, f) →
    Completes i e (does (e.onWarp (fun w => w.setUW e.wide (e.w.uIdx o.sd)
      (f e.mods (e.w.uW e.wide (e.w.uIdx o.sa)) (e.w.uW e.wide (e.w.uIdx o.sb)) 0).1)))) ∧
  (∀ i o (f : LaneOp) e, uniImmOp i = some (o, f) →
    Completes i e (does (e.onWarp (fun w => w.setUW e.wide (e.w.uIdx o.sd)
      (f e.mods (e.w.uW e.wide (e.w.uIdx o.sd)) (uniImm e o.imm) 0).1)))) ∧
  (∀ o e, Completes (.umov o) e (does (e.onWarp (fun w =>
    w.setUW e.wide (e.w.uIdx o.sd) (e.w.uW e.wide (e.w.uIdx o.sa)))))) ∧
  (∀ o e, Completes (.ucmp o) e (does (e.onWarp (fun w => w.setU (e.w.uIdx o.sd) (BitVec.ofNat 32 (b2n
    (if e.mods.n = 1 then ccInt o.cc (e.w.uW e.wide (e.w.uIdx o.sa)) (e.w.uW e.wide (e.w.uIdx o.sb))
     else ccInt o.cc (sext (opWidth e.mods) (e.w.uW e.wide (e.w.uIdx o.sa)))
       (sext (opWidth e.mods) (e.w.uW e.wide (e.w.uIdx o.sb)))))) ))))

/-- The hints of both slices, which change only what meets the next word (R60, R69, R70, R74, R137); and branches, calls and returns
whose targets are aligned and inside the image, and the end of threads (R133 to R136, R190). -/
def Obligations.ControlWordsComplete : Prop :=
  (∀ (o : OpHimm) e, Completes (.himm o) e (does e.r (next := .keeps e.b.guard (himmOnto o e.b.hints)))) ∧
  (∀ (o : OpHimmx) e, Completes (.himmx o) e (does e.r (next := .keeps e.b.guard (himmxOnto o e.b.hints)))) ∧
  (∀ (o : OpHmod) e, Completes (.hmod o) e (does e.r (next := .keeps e.b.guard { e.b.hints with hmod := some o, bad := e.b.hints.bad || e.b.hints.hmod.isSome }))) ∧
  (∀ (o : OpHgrd) e, Completes (.hgrd o) e (does e.r (next := .keeps (if o.neg = 1 then ~~~e.w.predMask o.pred else e.w.predMask o.pred) e.b.hints))) ∧
  (∀ (o : OpHxb) e, Completes (.hxb o) e (does e.r (next := .keeps e.b.guard { e.b.hints with hxb := some o, bad := e.b.hints.bad || e.b.hints.hxb.isSome }))) ∧
  (∀ (o : OpHadr) e, Completes (.hadr o) e (does e.r (next := .keeps e.b.guard { e.b.hints with hadr := some o, bad := e.b.hints.bad || e.b.hints.hadr.isSome }))) ∧
  (∀ (o : OpHkeep) e, Completes (.hkeep o) e (does e.r (next := .keeps e.b.guard { e.b.hints with hkeep := some o, bad := e.b.hints.bad || e.b.hints.hkeep.isSome }))) ∧
  (∀ (o : OpHpri) e, Completes (.hpri o) e (does e.r (next := .keeps e.b.guard { e.b.hints with hpri := some o, bad := e.b.hints.bad || e.b.hints.hpri.isSome }))) ∧
  (∀ (o : OpHimm) e, SliceCompletes (.himm o) e (sliceDoes e.r (next := .keeps (himmOnto o e.s.hints)))) ∧
  (∀ (o : OpHimmx) e, SliceCompletes (.himmx o) e (sliceDoes e.r (next := .keeps (himmxOnto o e.s.hints)))) ∧
  (∀ o e, (∀ l ∈ e.lanes, e.w.p l o.ps ≠ (o.n == 1) → goodTarget e (branchTarget e.b.pc 16 o.off)) →
    Completes (.brc o) e (does e.r (next := .jumps ((e.lanes.filter (fun l => e.w.p l o.ps != (o.n == 1))).map (fun l => (l, branchTarget e.b.pc 16 o.off)))))) ∧
  (∀ o e, goodTarget e (branchTarget e.b.pc 21 o.off) →
    Completes (.jmp o) e (does e.r (next := .jumps (e.lanes.map (fun l => (l, branchTarget e.b.pc 21 o.off)))))) ∧
  (∀ o e, goodTarget e (branchTarget e.b.pc 21 o.off) →
    Completes (.call o) e (does (e.onWarp (fun w => e.lanes.foldl (fun w l => w.setLnk l (e.b.pc + 4)) w)) (next := .jumps (e.lanes.map (fun l => (l, branchTarget e.b.pc 21 o.off)))))) ∧
  (∀ e, (∀ l ∈ e.lanes, goodTarget e (e.w.lnk l)) →
    Completes .ret e (does e.r (next := .jumps (e.lanes.map (fun l => (l, e.w.lnk l)))))) ∧
  (∀ o e, (∀ l ∈ e.lanes, goodTarget e (e.w.v l o.d)) →
    Completes (.jmpr o) e (does e.r (next := .jumps (e.lanes.map (fun l => (l, e.w.v l o.d)))))) ∧
  (∀ e, (endsWarp e = false ∨ counter e.w.ops .mx = 0) →
    Completes .exit e (does (settleWarp e.m (endThreads e.m e.r e.cid e.wi e.crew.block e.wkey e.active) e.cid e.wi) (next := .exits e.active))) ∧
  (∀ e d, e.w.divrec = some d →
    Completes .uiret e (does (e.onWarp (fun w =>
        { w with divrec := if d.lanes &&& ~~~e.b.lanes = 0#32 then none else some (d.only (d.lanes &&& ~~~e.b.lanes)) })) (next := .resumes [{ d.only e.b.lanes with losses := e.b.losses, promoted := e.b.promoted }])))

/-- The SYS family (R143 to R154). -/
def Obligations.SystemWordsComplete : Prop :=
  (∀ o e, Completes (.nop o) e (does e.r)) ∧
  (∀ o e, Completes (.yield o) e (does e.r (next := .yields))) ∧
  (∀ o e, e.w.arms &&& e.active = 0#32 → (∀ l ∈ e.lanes, e.w.afl l &&& e.g.temask = 0#8) →
    Completes (.trapfence o) e (does e.r)) ∧
  (∀ o e, Completes (.trap o) e (does e.r (next := if e.active = 0#32 then .seq else
    .trapAfter { code := tcSoftware, mask := e.active, info0 := codeValue e.b.hints o.code }))) ∧
  (∀ o e, e.active ≠ 0#32 → Completes (.bkpt o) e (does (if o.snap = 1 then raiseSnapshot e.r e.tile else e.r) (next := .trapAfter { code := tcBreakpoint, mask := e.active, info0 := codeValue e.b.hints o.code }))) ∧
  (∀ o e, e.b.wait ≠ .pass → 64 ≤ e.w.base → e.w.gran = 0 → e.w.xpend = none → (e.r.coreSt e.crew.core).xacq = [] →
    granUsed e.r e.crew.core + o.n ≤ poolSize e.m e.crew.core →
    Completes (.xacq o) e (does (e.onWarp (fun w => w.grant o.n)))) ∧
  (∀ o e, Completes (.xrel o) e (does (e.onWarp (·.dropExtended)))) ∧
  (∀ o e, Completes (.uswin o) e (does (e.onWarp (fun w => { w with wb := o.wb })))) ∧
  (∀ o e, Completes (.aflclr o) e (does (e.onWarp (fun w =>
    e.lanes.foldl (fun w l => { w with afls := wrReg w.afls l (w.afl l &&& ~~~(BitVec.ofNat 8 o.mask)) }) w)))) ∧
  (∀ o e k r, let t := openInterval e.r e.crew.block
    ForkReady o e k → e.blk.replay = false → (e.r.coreSt e.crew.core).deque.length < 64 →
    (match joinAddr (isProt e.r e.ctx) (recField (e.record o) 16 16) with
      | none => r = t
      | some a => addJoin e t a 1 = .ok r) →
    Completes (.fork o) e (does (e.forked o (pushTask r e k (e.record o)) 0))) ∧
  (∀ o e k, ForkReady o e k → e.blk.replay = true → Completes (.fork o) e (does (e.forked o e.r 0))) ∧
  (∀ o e k, ForkReady o e k → e.blk.replay = false → 64 ≤ (e.r.coreSt e.crew.core).deque.length →
    Completes (.fork o) e (does (e.forked o e.r 1))) ∧
  (∀ o e, e.w.quad128 (e.w.uIdx o.sa) = 0 → Completes (.join o) e (does e.r)) ∧
  (∀ o e p, let x := e.w.quad128 (e.w.uIdx o.sa)
    let va := if isProt e.r e.ctx then capAddr x else x
    x ≠ 0 → (isProt e.r e.ctx = true → capPasses e.ctx (e.w.utag (e.w.uIdx o.sa)) x 0 va 8 = true) →
    watchPlace e va 8 = .ok p → poisonedSpan e.r p 8 = false → loadNum e.r e.crew.block p 8 = 0 →
    Completes (.join o) e (does e.r))

/-- LD, ST and ATOM whose every active lane passes the checks of R157 (R157, R158, R160, R163): lane by lane from the lowest. That an
access is performed as its word issues is log 1, and so is what a page with synonyms may show (R259). -/
def Obligations.MemoryWordsComplete : Prop :=
  (∀ o e ps, accessPlaces e o.a o.sp (accessBytes e o.w) needRd = .ok ps → poisonStop e.r ps (accessBytes e o.w) = none →
    let (r, ws) := ps.foldl (loadLane e o (accessBytes e o.w)) (openFor e.r e.crew.block ps, [])
    Completes (.ld o) e (if o.sp < 4 then does (r.warp e.cid e.wi (fun w => w.setAll ws))
      else does (addOp e r .ldg (.vregs ws)).2 (op := (addOp e r .ldg (.vregs ws)).1))) ∧
  (∀ o e ps, accessPlaces e o.a o.sp (accessBytes e o.w) needWr = .ok ps →
    let r := openFor e.r e.crew.block ps
    let r := if e.mods.ord = 2 ∧ 2 ≤ e.mods.scope then openInterval r e.crew.block else r
    let r := ps.foldl (storeLane e o (accessBytes e o.w)) r
    Completes (.st o) e (does (if o.sp < 4 then r else (addOp e r .stg .none).2))) ∧
  (∀ o e ps, accessPlaces e o.a (o.sp + 1) (if e.wide then 8 else 4) needAt = .ok ps →
    poisonStop e.r ps (if e.wide then 8 else 4) = none →
    let r := if o.sp = 3 ∨ (2 ≤ e.mods.ord ∧ 2 ≤ e.mods.scope) then openInterval e.r e.crew.block else e.r
    let (r, ws, fs) := ps.foldl (atomLane e o) (r, [], [])
    Completes (.atom o) e (if o.sp < 3 then
        does (countFlags (r.warp e.cid e.wi (fun w => (w.setAll ws).raiseAll fs)) e.tile e.ctx fs)
      else does (addOp e r .at (.atom ws fs)).2 (op := (addOp e r .at (.atom ws fs)).1)))

/-- The queue and ring words of the compute slice (R166 to R169). A pop of an empty queue takes its place among the pops of the queue and
lets its followers issue; that one with no followers waits before it issues is log 21. -/
def Obligations.QueueWordsComplete : Prop :=
  (∀ o e x, (e.crew.queue o.q).head = .entry x →
    Completes (.qpop o) e (does ((popQueue e.r e.cid (some o.q)).warp e.cid e.wi (fun w => e.lanes.foldl (fun w l =>
      if isVecQueue o.q then w.setVW false l o.d (x.lane l) else w.setVW true l o.d x.x64) w)))) ∧
  (∀ o e x, (e.crew.queue o.q).head = .entry x →
    Completes (.qpops o) e (does ((popQueue e.r e.cid (some o.q)).warp e.cid e.wi (fun w => w.setUW true (e.w.uIdx o.sd) x.x64)))) ∧
  (∀ o e x, (e.crew.queue o.q).head = .entry x →
    Completes (.qpeek o) e (does (e.onWarp (fun w => w.setUW true (e.w.uIdx o.sd) x.x64)))) ∧
  (∀ i q dst uni take la e, popOf e i = some (q, dst, uni, take, la) → (e.crew.queue q).head = .wait → la ≠ 0 →
    withinFault e.w.windows e.w.ops e.b.lanes = true →
    let x := pushOp e.r e.cid e.wi .none (.pop q take dst uni e.active e.b.lanes la e.b)
    Completes i e (does (x.2.crew e.cid (fun c => c.setQueue q (fun y => { y with claims := y.claims ++ [⟨e.wi, x.1, take⟩] })))
      (op := x.1))) ∧
  (∀ o e, Completes (.qpush o) e (does (match pushValue e o with
    | none => e.r
    | some x => if (e.crew.queue o.q).cend then e.r
      else e.r.crew e.cid (fun c => c.setQueue o.q (fun q =>
        { q with entries := q.entries ++ [.uni (BitVec.ofNat 64 x)] }))))) ∧
  (∀ o e, Completes (.qstat o) e (does (e.onWarp (fun w =>
    w.setU (e.w.uIdx o.sd) (BitVec.ofNat 32 (queueStatus e.r e.ctx e.crew o.q)))))) ∧
  (∀ o e, Completes (.qdrop o) e (does (e.r.crew e.cid (fun c => c.setQueue o.q (fun q =>
    { q with entries := dropEntries o.n q.entries }))))) ∧
  (∀ o e h, ringOf e o.sh = .ok h → Completes (.rawait o) e (does (e.onWarp (fun w => w.setUs (e.w.uIdx o.sd)
    [BitVec.ofNat 32 h.ridx, BitVec.ofNat 32 (h.data + h.ridx * h.slotsz)])))) ∧
  (∀ o e h, ringOf e o.sh = .ok h → h.state e.r e.crew.block e.cid h.ridx = 2 →
    Completes (.rrel o) e (does (storeNum (h.setState e.r e.crew.block e.cid h.ridx 0) e.crew.block
      (.pad e.cid (e.un o.sh + 1)) 1 ((h.ridx + 1) % h.slots)))) ∧
  (∀ o e h, ringOf e o.sh = .ok h → Completes (.rstat o) e (does (e.onWarp (fun w => w.setU (e.w.uIdx o.sd)
    (BitVec.ofNat 32 (h.ridx + 2 ^ 8 * h.widx + 2 ^ 16 * h.inState e.r e.crew.block e.cid 2 + 2 ^ 24 * h.slots))))))

/-- WAITC, CNTRD, GATHER, CREDUCE and the MX family (R171 to R177). What GATHER, CREDUCE, MCLR and matrix operations do to memory
comes later (log 30). -/
def Obligations.EngineWordsComplete : Prop :=
  (∀ o e, counter e.w.ops (clsOf o.cls) ≤ o.n → Completes (.waitc o) e (does
    (if counter e.w.ops (clsOf o.cls) = 0 then waitedStores e.r e.cid e.wi (clsOf o.cls) else e.r))) ∧
  (∀ o e, Completes (.cntrd o) e (does (e.onWarp (fun w =>
    w.setU (e.w.uIdx o.sd) (BitVec.ofNat 32 (counter e.w.ops (clsOf o.cls))))))) ∧
  (∀ o e ps, let dst := (e.w.u (e.w.uIdx o.sb)).toNat
    let size := (e.w.u (e.w.uIdx o.sb + 1)).toNat
    let va (l : Nat) : Nat := (e.w.u64 (e.w.uIdx o.sb + 2) + (e.w.v l o.ix).toNat * size) % 2 ^ 64
    gatherSize size = true → lanePlaces (e.lanes.map (fun l => (l, gatherPlace e dst size (va l) l))) = .ok ps →
    let x := addOp e (openFor e.r e.crew.block ps) .gt (.gather size dst (ps.map (fun p => (p.1, p.2, e.w.ord p.1))))
    Completes (.gather o) e (does (x.2.warp e.cid e.wi (fun w => bumpOrds e w e.lanes)) (op := x.1))) ∧
  (∀ o e, let at_ (i : Nat) : Nat := (e.w.u (e.w.uIdx o.sb + i)).toNat
    creduceFault e o (at_ 0) (at_ 1) (at_ 2) (at_ 3) = none →
    let l := e.lanes.headD e.lead
    let x := addOp e e.r .cl (.creduce (at_ 0) (at_ 1) (at_ 2) o.opr e.active (e.thread l) (e.w.ord l))
    Completes (.creduce o) e (does (x.2.warp e.cid e.wi (fun w => bumpOrds e w [l])) (op := x.1))) ∧
  (∀ o e, e.b.wait = .none → e.active ≠ 0#32 → (∀ i < 3, recordFault e.k (signOff e o i) = none) → sameOrder e o = true →
    e.active &&& ~~~rdReg (setMembers e.r e.blk o.set) e.wkey = 0#32 → resigning e o ≠ e.active →
    Completes (.msign o) e (does (signRun e o) (next := .parked))) ∧
  (∀ o e, e.b.wait = .pass ∨ e.b.wait = .none ∧ e.active = 0#32 → Completes (.msign o) e (does e.r)) ∧
  (∀ o e, recordFault e.k (e.un o.sb) = none →
    let ds := loadBytes e.r e.crew.block (.clu e.crew.block (e.un o.sb)) 64
    checkAcc e.m e.r e.tile e.g (accOf ds) (needRd + needWr) = .ok () →
    let x := pushOp (openInterval e.r e.crew.block) e.cid e.wi .mx
      (.mclr ds (accPlaces e.m e.r e.tile e.ctx (accOf ds) (needRd + needWr)))
    Completes (.mclr o) e (does x.2 (op := x.1))) ∧
  (∀ o e, Completes (.mstat o) e (does (e.onWarp (fun w => w.setUs (e.w.uIdx o.sd)
    [BitVec.ofNat 32 (mstatValue e o.sel).1, BitVec.ofNat 32 (mstatValue e o.sel).2]))))

/-- Barriers, fences, arrival words, teams, dependences and monitors (R179 to R185). The monitored word is read as the word issues
(log 1). -/
def Obligations.SynchronisationWordsComplete : Prop :=
  (∀ o e, (e.b.wait == .pass || e.active == 0#32) = true → Completes (.bar o) e (does e.r)) ∧
  (∀ o e, (e.b.wait == .pass || e.active == 0#32) = false → Completes (.bar o) e (does (settleBar (parkBatch e
    (e.r.block e.crew.block (fun x => { x with bar := { x.bar with arrived := addLanes x.bar.arrived e.wkey e.active } }))
    .bar) e.crew.block) (next := .parked))) ∧
  (∀ o e, (e.b.wait == .pass || e.active == 0#32) = true → Completes (.barn o) e (does e.r)) ∧
  (∀ o e, (e.b.wait == .pass || e.active == 0#32) = false → outsiders e o.team = 0#32 →
    let x := e.blk.barn o.team
    let x := if x.inProgress then x else { x with inProgress := true, expected := setMembers e.r e.blk o.team, arrived := [] }
    let x := { x with arrived := addLanes x.arrived e.wkey e.active }
    let r := e.r.block e.crew.block (fun y => { y with barns := Assoc.set y.barns o.team x })
    Completes (.barn o) e (does (settleBarn (parkBatch e r (.barn o.team)) e.crew.block o.team) (next := .parked))) ∧
  (∀ o e, Completes (.fence o) e (does (
    let r := if e.active != 0#32 && decide (2 ≤ o.scope) then openInterval e.r e.crew.block else e.r
    if 1 ≤ o.scope then fenceSynonyms r e.cid (fun p => p / 32 == e.wi && e.active.getLsbD (p % 32)) else r))) ∧
  (∀ o e p, arrivalPlace e.k e.cid e.crew.block (e.un o.sa) = .ok p →
    Completes (.arrive o) e (does (arrive e.r e.crew.block p o.cnt))) ∧
  (∀ o e p, arrivalPlace e.k e.cid e.crew.block (e.un o.sa) = .ok p → Completes (.await o) e (does (e.onWarp (fun w =>
    w.setU (e.w.uIdx o.sg) (BitVec.ofNat 32 (generation e.r e.crew.block p)))))) ∧
  (∀ o e, Completes (.tjoin o) e (does (e.r.block e.crew.block (fun x =>
    { x with teams := addLanes x.teams (o.team * 512 + e.wkey) e.active })))) ∧
  (∀ o e, Completes (.tleave o) e (does (leaveTeam e.m e.r e.crew.block o.team e.wkey e.active))) ∧
  (∀ o e, Completes (.gridwait o) e (does (e.r.block e.crew.block (fun b => { b with passedWait := true })))) ∧
  (∀ o e, Completes (.trigger o) e (does
    (if e.active = 0#32 then e.r else triggerBlock (openInterval e.r e.crew.block) e.crew.block e.blk))) ∧
  (∀ o e p, let n := if e.wide then 8 else 4
    e.b.wait ≠ .pass → watchPlace e (e.w.u64 (e.w.uIdx o.sa)) n = .ok p →
    Completes (.mwait o) e (does e.r (next :=
      if loadNum e.r e.crew.block p n = e.w.uW e.wide (e.w.uIdx o.sv) then
        .stay (.monitor (e.w.u64 (e.w.uIdx o.sa)) (e.w.uW e.wide (e.w.uIdx o.sv)) n) else .seq))) ∧
  (∀ o e, e.b.wait = .pass → Completes (.mwait o) e (does e.r))

/-- User interrupts and service calls of the compute slice (R187 to R191). -/
def Obligations.InterruptWordsComplete : Prop :=
  (∀ o (e : Env),
    let x := localPost e.r e.crew.block e.g (e.w.u (e.w.uIdx o.sa + 0)).toNat (e.w.u (e.w.uIdx o.sa + 1)).toNat
      (e.w.u (e.w.uIdx o.sa + 2)).toNat
    Completes (.uipost o) e (does (x.1.warp e.cid e.wi (fun w => w.setU (e.w.uIdx o.sd) (BitVec.ofNat 32 x.2))))) ∧
  (∀ o e, Completes (.uiwait o) e (if e.blk.ui.deliverable then does (acceptTo e o.sd)
    else does (openInterval e.r e.crew.block) (next := .stay .uiwait))) ∧
  (∀ o e, Completes (.uiack o) e (does (if e.blk.ui.deliverable then acceptTo e o.sd
    else (openInterval e.r e.crew.block).warp e.cid e.wi (fun w => w.setUs (e.w.uIdx o.sd) [0xFFFFFFFF#32, 0#32])))) ∧
  (∀ o e, Completes (.uimask o) e (does (wakeLookout ((e.r.block e.crew.block (fun b =>
      { b with ui := { b.ui with mask := BitVec.ofNat 64 (e.w.u64 (e.w.uIdx o.sa)) } })).warp e.cid e.wi
    (fun w => w.setUW true (e.w.uIdx o.sd) e.blk.ui.mask.toNat)) e.crew.block))) ∧
  (∀ o e, (o.as = 1 → e.un o.sa % 4 = 0) → Completes (.lookout o) e (does (e.r.block e.crew.block (fun b =>
    { b with ui := { b.ui with lookout := some (e.cid, e.wi), async := if o.as = 1 then some (e.w.u (e.w.uIdx o.sa)) else none } })))) ∧
  (∀ o e key r, e.b.wait ≠ .pass →
    beginCall e.r e.k e.g e.cid e.crew.block (some (e.wi, e.lead)) o.n (e.un o.sa) = .ok (some (key, r)) →
    Completes (.svc o) e (does r (next := .stay (.svc key)))) ∧
  (∀ o e, e.b.wait = .pass → Completes (.svc o) e (does e.r))

/-- The CAP family of both slices (R192 to R195). That an access is performed as its word issues is log 1, and the layouts of a
slice's capabilities are log 27. -/
def Obligations.CapabilityWordsComplete : Prop :=
  (∀ o e x tag, capLoad e.m e.r e.crew.block e.asker e.ctx (e.w.u64 (e.w.uIdx o.sa)) = .ok (x, tag) →
    let k := addOp e e.r .ldg (.cap (e.w.uIdx o.sd) x tag)
    Completes (.capld o) e (does k.2 (op := k.1))) ∧
  (∀ o e r, let va := e.w.u64 (e.w.uIdx o.sa)
    capStore e.m e.r e.crew.block e.asker e.ctx va (e.w.quad128 (e.w.uIdx o.sd)) (e.w.utag (e.w.uIdx o.sd)) = .ok r →
    let k := addOp e (foldWrites e r (e.lanes.headD e.lead) (storeTerms 4 va 16 (e.w.quad128 (e.w.uIdx o.sd)))) .stg .none
    Completes (.capst o) e (does k.2 (op := k.1))) ∧
  (∀ o e x, isProt e.r e.ctx = true →
    narrowCap e.ctx (e.w.utag (e.w.uIdx o.sd)) (e.w.quad128 (e.w.uIdx o.sd)) (e.w.quad128 (e.w.uIdx o.sa)) = some x →
    Completes (.capnarrow o) e (does (e.onWarp (fun w => w.setCap (e.w.uIdx o.sd) x true)))) ∧
  (∀ o e, isProt e.r e.ctx = true → Completes (.capchk o) e (does (e.onWarp (fun w => w.setU (e.w.uIdx o.sd)
    (BitVec.ofNat 32 (capSummary e.ctx (e.w.utag (e.w.uIdx o.sa)) (e.w.quad128 (e.w.uIdx o.sa)))))))) ∧
  (∀ o e x tag, capLoad e.m e.r e.crew.block e.asker e.ctx (e.s.gn o.sa) = .ok (x, tag) →
    let k := pushSliceOp e e.r .gld (.cap o.sd x tag)
    SliceCompletes (.capldAslice o) e (sliceDoes k.2 (op := k.1))) ∧
  (∀ o e r, capStore e.m e.r e.crew.block e.asker e.ctx (e.s.gn o.sa) (e.s.pair128 o.sd) (e.s.tag o.sd) = .ok r →
    SliceCompletes (.capstAslice o) e (sliceDoes (foldSlice e r (storeTerms 4 (e.s.gn o.sa) 16 (e.s.pair128 o.sd))))) ∧
  (∀ o e x, isProt e.r e.ctx = true → narrowCap e.ctx (e.s.tag o.sd) (e.s.pair128 o.sd) (e.s.pair128 o.sa) = some x →
    SliceCompletes (.capnarrowAslice o) e (sliceDoes (e.onSlice (fun s => s.setCap o.sd x true)))) ∧
  (∀ o e, isProt e.r e.ctx = true → SliceCompletes (.capchkAslice o) e (sliceDoes (e.onSlice (fun s =>
    s.setG o.sd (capSummary e.ctx (e.s.tag o.sa) (e.s.pair128 o.sa))))))
/-! ## What each word of the address slice does when nothing stops it -/

/-- GOPA, GOPI, GMOVI and GMOVK write one register with the 64-bit result (R198 to R201). -/
def Obligations.SliceArithmeticWordsComplete : Prop :=
  (∀ i o (f : LaneOp) e, gopaOp i = some (o, f) → SliceCompletes i e (sliceDoes (e.onSlice (fun s =>
    s.setG o.gd (f mods64 (e.s.gn o.ga) (e.s.gn o.gb) 0).1)))) ∧
  (∀ i o (f : LaneOp) e, gopiOp i = some (o, f) → SliceCompletes i e (sliceDoes (e.onSlice (fun s =>
    s.setG o.gd (f mods64 (e.s.gn o.ga) (if e.hints.imm? then e.imm else sextTo 64 9 o.imm) 0).1)))) ∧
  (∀ o e, SliceCompletes (.gmovi o) e (sliceDoes (e.onSlice (fun s => s.setG o.gd (o.imm * 2 ^ (16 * o.sh)))))) ∧
  (∀ o e, SliceCompletes (.gmovk o) e (sliceDoes (e.onSlice (fun s => s.setG o.gd
    (e.s.gn o.gd - e.s.gn o.gd / 2 ^ (16 * o.sh) % 65536 * 2 ^ (16 * o.sh) + o.imm * 2 ^ (16 * o.sh))))))

/-- Branches, calls and returns of the slice to targets inside its image, the return from a handler, and the end of a slice
whose copies and loads have completed (R210, R211, R327). -/
def Obligations.SliceControlWordsComplete : Prop :=
  (∀ i o (test : Int → Bool) e, gbrTest i = some (o, test) → test (sext 64 (e.s.gn o.ga)) = false →
    SliceCompletes i e (sliceDoes e.r)) ∧
  (∀ i o (test : Int → Bool) e, gbrTest i = some (o, test) → test (sext 64 (e.s.gn o.ga)) = true →
    sliceTarget e.s.pc 15 o.off < 4 * e.k.aimg.length →
    SliceCompletes i e (sliceDoes e.r (next := .jump (BitVec.ofNat 32 (sliceTarget e.s.pc 15 o.off))))) ∧
  (∀ o e, sliceTarget e.s.pc 22 o.off < 4 * e.k.aimg.length →
    SliceCompletes (.gjmp o) e (sliceDoes e.r (next := .jump (BitVec.ofNat 32 (sliceTarget e.s.pc 22 o.off))))) ∧
  (∀ o e, sliceTarget e.s.pc 22 o.off < 4 * e.k.aimg.length →
    SliceCompletes (.gcall o) e (sliceDoes (e.onSlice (fun s => s.setG 63 (e.s.pc + 4).toNat))
      (next := .jump (BitVec.ofNat 32 (sliceTarget e.s.pc 22 o.off))))) ∧
  (∀ o e, (e.s.gn o.ga ≠ returnMark.toNat ∨ e.s.hsave = none) → e.s.gn o.ga % 4 = 0 →
    e.s.gn o.ga < 4 * e.k.aimg.length →
    SliceCompletes (.gret o) e (sliceDoes e.r (next := .jump (BitVec.ofNat 32 (e.s.gn o.ga))))) ∧
  (∀ o e, e.s.gn o.ga = returnMark.toNat → e.s.hsave.isSome = true →
    SliceCompletes (.gret o) e (sliceDoes e.r (next := .back))) ∧
  (∀ o e, e.s.copies = [] → counter e.s.ops .gld = 0 →
    SliceCompletes (.gexit o) e (sliceDoes (e.r.crew e.cid endSliceQueues) (next := .ends)))

/-- GLD, GST, the loads into queues, GATOM and GQOP, at an address that passes the slice's checks (R202 to R209, R219). That an
access is performed as its word issues is log 1. -/
def Obligations.SliceMemoryWordsComplete : Prop :=
  (∀ o e p, sliceAccess e o.sp (e.addr o.sp o.ga) (glBytes o.w) needRd = .ok p → poisonedSpan e.r p (glBytes o.w) = false →
    let x := e.loads (openOutside e.r e.crew.block p) o.sp (e.addr o.sp o.ga) p (glBytes o.w)
    let k := pushSliceOp e x.2 .gld (.greg o.gd (BitVec.ofNat 64 (if o.sgn = 1 then sextTo 64 (8 * glBytes o.w) x.1 else x.1)))
    SliceCompletes (.gld o) e (sliceDoes k.2 (op := k.1))) ∧
  (∀ o e p, sliceAccess e o.sp (e.addr o.sp o.ga) (glBytes o.w) needWr = .ok p →
    let x := e.s.gn o.gd % 2 ^ (8 * glBytes o.w)
    let r := e.stores (openOutside e.r e.crew.block p) o.sp (e.addr o.sp o.ga) p (glBytes o.w) x
    SliceCompletes (.gst o) e (sliceDoes (foldSlice e r (storeTerms o.sp (e.addr o.sp o.ga) (glBytes o.w) x)))) ∧
  (∀ o e p, sliceAccess e o.sp (e.addr o.sp o.ga) (glBytes o.w) needRd = .ok p → poisonedSpan e.r p (glBytes o.w) = false →
    let x := e.loads (openOutside (reserve e o.q).2 e.crew.block p) o.sp (e.addr o.sp o.ga) p (glBytes o.w)
    SliceCompletes (.gldq o) e (sliceDoes (x.2.slice e.cid (fun s => { s with
      ops := s.ops ++ [{ id := (reserve e o.q).1, cls := .gld, data := .fillUni o.q (BitVec.ofNat 64 x.1) }],
      resv := s.resv.filter (fun x => x.2.2 != (reserve e o.q).1) })) (op := (reserve e o.q).1))) ∧
  (∀ o e ps, elementPlaces e o = .ok ps → elementPoison e o ps = none →
    let r := if ps.any (·.outside) then openInterval (reserve e (8 + o.q)).2 e.crew.block else (reserve e (8 + o.q)).2
    let x := loadElements e o r ps
    SliceCompletes (.gldqv o) e (sliceDoes (x.2.slice e.cid (fun s => { s with
      ops := s.ops ++ [{ id := (reserve e (8 + o.q)).1, cls := .gld, data := .fillVec (8 + o.q) x.1 }],
      resv := s.resv.filter (fun x => x.2.2 != (reserve e (8 + o.q)).1) })) (op := (reserve e (8 + o.q)).1))) ∧
  (∀ o e p, let n := if o.w = 1 then 8 else 4
    sliceAccess e (o.sp + 1) (e.addr (o.sp + 1) o.ga) n needAt = .ok p → poisonedSpan e.r p n = false →
    let r := if o.sp + 1 = 4 then openInterval e.r e.crew.block else e.r
    let b := e.s.gn o.gd % 2 ^ (8 * n)
    let c := if o.aop = 9 then e.s.gn (o.gd + 1) % 2 ^ (8 * n) else 0
    let (m, r) := e.loads r (o.sp + 1) (e.addr (o.sp + 1) o.ga) p n
    let r := e.stores r (o.sp + 1) (e.addr (o.sp + 1) o.ga) p n (atomNew o.aop (8 * n) m b c).1
    let r := foldSlice e r [atomTerm o.aop (o.sp + 1) (e.addr (o.sp + 1) o.ga) n b c]
    SliceCompletes (.gatom o) e (if o.sp + 1 < 4 then sliceDoes (r.slice e.cid (fun s => s.setG o.gd m))
      else sliceDoes (pushSliceOp e r .none (.greg o.gd (BitVec.ofNat 64 m))).2
        (op := (pushSliceOp e r .none (.greg o.gd (BitVec.ofNat 64 m))).1))) ∧
  (∀ o e, SliceCompletes (.gqpush o) e (sliceDoes (if (e.crew.queue o.q).cend then e.r
    else feedQueue e.r e.cid o.q (fun q => { q with entries := q.entries ++ [.uni (e.s.g o.gd)] })))) ∧
  (∀ o e x, (e.crew.queue o.q).head = .entry x → SliceCompletes (.gqpop o) e (sliceDoes
    ((popQueue e.r e.cid (some o.q)).slice e.cid (fun s => s.setG o.gd x.x64)))) ∧
  (∀ o e x, (e.crew.queue o.q).head = .entry x → SliceCompletes (.gqtry o) e (sliceDoes
    ((popQueue e.r e.cid (some o.q)).slice e.cid (fun s => (s.setG o.gd x.x64).setG (o.gd + 1) 0)))) ∧
  (∀ o e, (e.crew.queue o.q).head = .wait →
    SliceCompletes (.gqtry o) e (sliceDoes (e.onSlice (fun s => (s.setG o.gd 0).setG (o.gd + 1) 1)))) ∧
  (∀ o e, (e.crew.queue o.q).head = .orphan →
    SliceCompletes (.gqtry o) e (sliceDoes (e.onSlice (fun s => (s.setG o.gd 0).setG (o.gd + 1) 2)))) ∧
  (∀ o e, SliceCompletes (.gqclose o) e (sliceDoes (feedQueue e.r e.cid o.q (fun q => { q with closed := true })))) ∧
  (∀ o e, SliceCompletes (.gqstat o) e (sliceDoes (e.onSlice (fun s =>
    s.setG o.gd (sliceQueueStatus e.r e.ctx e.crew o.q)))))

/-- Copies, rings, fences, arrival words and monitors of the slice (R212 to R218, R220). When the engine delivers bytes is log 29.
-/
def Obligations.SliceEngineWordsComplete : Prop :=
  (∀ o e, cstartFault e (e.s.gn o.gh) (e.s.gn o.gc) = none →
    let ctl := e.s.gn o.gc
    let part (x : Nat) : Option Nat := if ctl = 0 ∨ x = 0xFFFFFFFF then none else some x
    let c : Copy := { tag := e.s.seqno.toNat, elem := e.s.gn o.gh, arrival := part (ctl % 2 ^ 32), predWord := part (ctl / 2 ^ 32) }
    let r := if 4 ≤ (elementOf (loadBytes e.r e.crew.block (.pad e.cid (e.s.gn o.gh)) 64)).dsp then openInterval e.r e.crew.block else e.r
    SliceCompletes (.cstart o) e (sliceDoes (r.slice e.cid (fun s =>
      { (s.setG o.gd c.tag) with copies := s.copies ++ [c], seqno := s.seqno + 1 })))) ∧
  (∀ o e, tagged e.s (e.s.gn o.ga % 65536) = none → SliceCompletes (.cwait o) e (sliceDoes e.r)) ∧
  (∀ o e, SliceCompletes (.cquery o) e (sliceDoes (e.onSlice (fun s => s.setG o.gd
    (match (tagged e.s (e.s.gn o.ga % 65536)).bind e.copy? with
      | none => 0
      | some c => queryCopy c))))) ∧
  (∀ o e h, sliceRing e o.gh = .ok h → h.state e.r e.crew.block e.cid h.widx = 0 →
    SliceCompletes (.rfree o) e (sliceDoes (e.onSlice (fun s => s.setG o.gd (h.data + h.widx * h.slotsz + h.widx * 2 ^ 32))))) ∧
  (∀ o e h, sliceRing e o.gh = .ok h → e.s.gn o.gb ≤ h.slotsz → h.state e.r e.crew.block e.cid h.widx = 0 →
    let r := storeBytes e.r e.crew.block (h.word e.cid h.widx)
      (toBytes 4 (if e.s.gn o.gb = 0 then h.slotsz else e.s.gn o.gb) ++ toBytes 4 0)
    let r := h.setState r e.crew.block e.cid h.widx 1
    let r := storeNum r e.crew.block (.pad e.cid (e.s.gn o.gh % 2 ^ 32 + 2)) 1 ((h.widx + 1) % h.slots)
    SliceCompletes (.rarm o) e (sliceDoes (r.slice e.cid (fun s => s.setG o.gd (h.awarr + 16 * h.widx))))) ∧
  (∀ o e h, sliceRing e o.gh = .ok h → SliceCompletes (.rpeek o) e (sliceDoes (e.onSlice (fun s => s.setG o.gd
    (h.ridx + 2 ^ 8 * h.widx + 2 ^ 16 * h.inState e.r e.crew.block e.cid 2 + 2 ^ 24 * h.slots +
      2 ^ 32 * h.inState e.r e.crew.block e.cid 1))))) ∧
  (∀ o e, SliceCompletes (.gfence o) e (sliceDoes (
    let r := if 2 ≤ o.scope then openInterval e.r e.crew.block else e.r
    if 1 ≤ o.scope then fenceSynonyms r e.cid (· == sliceParty) else r))) ∧
  (∀ o e p, arrivalPlace e.k e.cid e.crew.block (e.s.gn o.ga % 2 ^ 32) = .ok p →
    SliceCompletes (.garrive o) e (sliceDoes (arrive e.r e.crew.block p o.cnt))) ∧
  (∀ o e, e.s.wait = .pass → SliceCompletes (.gmwait o) e (sliceDoes e.r)) ∧
  (∀ o e p, let n := if o.w = 1 then 8 else 4
    e.s.wait ≠ .pass → e.s.gn o.ga % n = 0 → globalPlace e.m e.r e.asker e.ctx (e.s.gn o.ga) needRd = .ok p →
    SliceCompletes (.gmwait o) e (sliceDoes e.r (next :=
      if loadNum e.r e.crew.block p n = e.s.gn o.gv % 2 ^ (8 * n) then .stay (.monitor (e.s.gn o.ga) (e.s.gn o.gv % 2 ^ (8 * n)) n)
      else .seq))) ∧
  (∀ o e, (if o.cls = 1 then counter e.s.ops .gld else e.s.copies.length) ≤ o.n →
    SliceCompletes (.gwaitc o) e (sliceDoes e.r))

/-- GSYS, and UIPOST and SVC of the address slice (R187, R191, R220). -/
def Obligations.SliceSystemWordsComplete : Prop :=
  (∀ e, SliceCompletes .gnop e (sliceDoes e.r)) ∧
  (∀ o e, SliceCompletes (.gtrap o) e (sliceDoes e.r (next := .trapAfter
    { code := tcSoftware, info0 := if e.hints.imm? then e.hints.immValue else o.code }))) ∧
  (∀ o e, SliceCompletes (.gsread o) e (sliceDoes ((sampleCounter e.r e.crew.core o.code).1.slice e.cid (fun s => s.setG o.gd
    (if o.code = 0x0D ∨ o.code = 0x0E then (sampleCounter e.r e.crew.core o.code).2
     else sharedSpecial e.m e.r e.crew e.blk e.g o.code))))) ∧
  (∀ o e, SliceCompletes (.gyield o) e (sliceDoes (e.onSlice (fun s => { s with yielded := true })))) ∧
  (∀ o e, let x := localPost e.r e.crew.block e.g (e.s.gn o.sa) (e.s.gn (o.sa + 1)) (e.s.gn (o.sa + 2))
    SliceCompletes (.uipostAslice o) e (sliceDoes (x.1.slice e.cid (fun s => s.setG o.sd x.2)))) ∧
  (∀ o e key r, e.s.wait ≠ .pass → beginCall e.r e.k e.g e.cid e.crew.block none o.n (e.s.gn o.sa) = .ok (some (key, r)) →
    SliceCompletes (.svcAslice o) e (sliceDoes r (next := .stay (.svc key)))) ∧
  (∀ o e, e.s.wait = .pass → SliceCompletes (.svcAslice o) e (sliceDoes e.r))
/-! ## Events: what each does when what it is about is there -/

/-- Completions of loads, stores, atomics, queue fills, GATHER and CREDUCE that are outstanding, and a watched word seen (R25, R160,
R163, R172, R173, R185, R202, R204, R219). That memory was accessed when the word issued is log 1. -/
def Obligations.CompletionEventsHappen : Prop :=
  (∀ a m r o, warpOp r a.crew a.warp a.op .ldg = some o →
    Happens .ldCompletion a m r (finishWarpOp m r a.crew a.warp a.op (fun w => match o.data with
      | .vregs ws => w.setAll ws
      | .cap n x tag => w.setCap n x tag
      | _ => w))) ∧
  (∀ a m r o, warpOp r a.crew a.warp a.op .stg = some o →
    Happens .stAcknowledgement a m r (finishWarpOp m r a.crew a.warp a.op (fun w => w))) ∧
  (∀ a m r o ws fs, a.slice = false → warpOp r a.crew a.warp a.op .at = some o → o.data = .atom ws fs →
    Happens .atomCompletion a m r (finishWarpOp m (countFlags r (crewTile r a.crew) (crewCtx r a.crew) fs) a.crew a.warp a.op
      (fun w => (w.setAll ws).raiseAll fs))) ∧
  (∀ a m r o n x, a.slice = true → sliceOp r a.crew a.op .none = some o → o.data = .greg n x →
    Happens .atomCompletion a m r (finishSliceOp r a.crew a.op (fun s => s.setG n x.toNat))) ∧
  (∀ a m r o n x, sliceOp r a.crew a.op .gld = some o → o.data = .greg n x →
    Happens .gldCompletion a m r (finishSliceOp r a.crew a.op (fun s => s.setG n x.toNat))) ∧
  (∀ a m r o n x tag, sliceOp r a.crew a.op .gld = some o → o.data = .cap n x tag →
    Happens .gldCompletion a m r (finishSliceOp r a.crew a.op (fun s => s.setCap n x tag))) ∧
  (∀ a m r o q x, sliceOp r a.crew a.op .gld = some o → o.data = .fillUni q x →
    Happens .queueEntryFill a m r
      (finishSliceOp (feedQueue r a.crew q (fun y => y.fill a.op (.uni x))) a.crew a.op (fun s => s))) ∧
  (∀ a m r o q xs, sliceOp r a.crew a.op .gld = some o → o.data = .fillVec q xs →
    Happens .queueEntryFill a m r
      (finishSliceOp (feedQueue r a.crew q (fun y => y.fill a.op (.vec xs))) a.crew a.op (fun s => s))) ∧
  (∀ a m r o c size dst src, warpOp r a.crew a.warp a.op .gt = some o → Assoc.get? r.crews a.crew = some c →
    o.data = .gather size dst src →
    Happens .gatherCompletion a m r (finishWarpOp m (gatherAll a.crew a.warp c.block c.threads c.idx size dst src r)
      a.crew a.warp a.op (fun w => w))) ∧
  (∀ a m r o c src dst cnt opr lanes thread ord, warpOp r a.crew a.warp a.op .cl = some o →
    Assoc.get? r.crews a.crew = some c → o.data = .creduce src dst cnt opr lanes thread ord →
    let x := (List.range cnt).foldl (combineElement a.crew c.block src dst opr thread ord) (r, flNone)
    let fs := (lanesOf lanes).map (fun l => (l, x.2))
    Happens .creduceRetirement a m r
      (finishWarpOp m (countFlags x.1 (c.core / 24) (crewCtx x.1 a.crew) fs) a.crew a.warp a.op (fun w => w.raiseAll fs))) ∧
  (∀ a m r c, Assoc.get? r.crews a.crew = some c → a.slice = true →
    let k := sliceAsker (c.core / 24) a.crew
    Happens .mwaitObserve a m r ((askWatched m r k a.crew c.aslice.wait).slice a.crew (fun s =>
      { s with wait := seenWait m r k a.crew c.block s.wait }))) ∧
  (∀ a m r c w b, Assoc.get? r.crews a.crew = some c → a.slice = false → c.warps[a.warp]? = some w → w.batch? a.lane = some b →
    let k := batchAsker (c.core / 24) a.crew a.warp a.lane
    Happens .mwaitObserve a m r ((askWatched m r k a.crew b.wait).warp a.crew a.warp (fun w => { w with batches := w.batches.map (fun b =>
      if lowLane b.lanes = a.lane then { b with wait := seenWait m r k a.crew c.block b.wait } else b) })))

/-- Arbitration of an idle quadrant, diversion, grants, admission, placement, stealing, eviction and restore, each where its
conditions hold (R13, R190, R222, R225, R229 to R231, R308 to R315, R332 to R336). When each is chosen is log 2, and the ties among
them are log 34. -/
def Obligations.SchedulingEventsHappen : Prop :=
  (∀ a m r₀ w out, let r := mergeQuad m r₀ a.core a.n
    let es := contenders m r a.core a.n
    Assoc.has (r₀.coreSt a.core).running a.n = false → (r₀.coreSt a.core).freed.contains a.n = false →
    chooseWinner es = (some w, out) →
    let losers := es.filter (fun e => e.ready && !w.same e)
    let t := (sortBy (fun a b => keysBefore a.lowerKeys b.lowerKeys) losers).foldl (loseOnce a.core) r
    let t := out.foldl (fun t e => setBatch t e (fun b => { b with yielded := false })) t
    let t := (es.filter (·.ready)).foldl (fun t e => setBatch t e Batch.nudged) t
    let t := setBatch t w (fun b => { b with losses := 0, promoted := none })
    let t := match w.entry with
      | some entry => divert t w.cid w.wi (if w.ready then w.b.nudged else w.b) entry
      | none => t
    let t := enterActive t a.core a.n (w.cid * 32 + w.wi)
    Happens .arbitration a m r₀ (t.core a.core (fun c =>
      { c with running := Assoc.set c.running a.n (w.cid, w.wi, w.lead), lastRun := wrReg c.lastRun a.n (w.entry.getD w.b.pc) }))) ∧
  (∀ a m r e w, env? m r a.crew a.warp a.lane = some e → winner m r e.crew.core e.w.quad = some w → w.same e = true →
    mayDivert w = true → Happens .lookoutDiversion a m r (arbitrate m r e.crew.core e.w.quad)) ∧
  (∀ a m r c w lead n rest, (r.coreSt a.core).xacq = (c, w, lead, n) :: rest → granUsed r a.core + n ≤ poolSize m a.core →
    Happens .xacqGrant a m r ((r.core a.core (fun k => { k with xacq := rest })).warp c w (fun x =>
      { x.grant n with batches := (x.grant n).batches.map (fun b =>
          if lowLane b.lanes = lead ∧ b.wait = .xacq then { b with wait := .pass } else b) }))) ∧
  (∀ a m r w, (Assoc.get? r.blocks a.n).bind (blockWaiter m r a.n) = some w → isNext m r w = true →
    Happens .crewAdmission a m r
      (takeHeld (firstCairn m ((w.crews.foldl (fun r c => seatCrew r c.1 c.2) r).block a.n (fun b => { b with admitted := true, holds := [] })) a.n)
        a.n)) ∧
  (∀ a m r g cores, Assoc.get? r.grids a.grid = some g → g.redo = [] → nextCores m r g = some cores →
    betterGrid m r a.grid g = false → Happens .blockPlacement a m r (placeOn r a.grid g cores)) ∧
  (∀ a m r g, Assoc.get? r.grids a.grid = some g → g.redo ≠ [] → Happens .blockPlacement a m r (startReplay m r a.grid)) ∧
  (∀ a m r k bk, stealPick m r a.core = some (k, bk) → mayStealFor m r a.core = true →
    Happens .taskSteal a m r (moveTask r k a.core bk)) ∧
  (∀ a m r, a.value ≠ 1 → Happens .eviction a m r ((if a.flag then victimsUnplaced m r a.grid
      else if a.slice then victimsSaved m r a.crew else victimsPlaced m r a.n).foldl (fun r c => beginSave r c 1) r)) ∧
  (∀ a m r x, a.value = 1 → Assoc.get? r.crews a.crew = some x → x.status = .saving → drained r a.crew x = true →
    Happens .eviction a m r (saveCrew m r a.crew x)) ∧
  (∀ a m r x w, Assoc.get? r.crews a.crew = some x →
    (savedWaiters m r a.crew x).find? (fun w => w.crews == [(a.crew, a.core)]) = some w → isNext m r w = true →
    Happens .crewRestore a m r (seatAgain r a.crew a.core x.block))

/-- The copy engine and the matrix units at work (R176, R271 to R277, R287 to R298). How many bytes or chunks move at one event is
log 29 and log 30. -/
def Obligations.EngineEventsHappen : Prop :=
  (∀ a m r₀ e c bs tags, copyEnv m r₀ a.crew a.n = some (e, c) → c.snapshot = none → readElement e c = .ok (bs, tags) →
    elementFault e c (elementOf bs) tags = none →
    let x := elementOf bs
    let r := spendKept r₀ (copyAsker e c)
    let skip := x.skipEn && (bitOf (match c.predWord with
      | some o => loadNum r e.crew.block (.pad a.crew o) 8
      | none => 0) x.skipBit == x.skipPol)
    let c' := { c with snapshot := some bs, skip := skip, prefixLen := 0 }
    let t := if 4 ≤ x.dsp && !skip && x.total != 0 then openInterval r e.crew.block else r
    Happens .copyElementReach a m r₀ (setCopy t a.crew a.n (fun _ =>
      (if c'.finished then c'.advance (isProt t e.ctx) x else c').awayOf m t e.ctx e.crew.status))) ∧
  (∀ a m r e c bs tags code, copyEnv m r a.crew a.n = some (e, c) → c.snapshot = none → readElement e c = .ok (bs, tags) →
    elementFault e c (elementOf bs) tags = some code → e.crew.status ≠ .ended →
    Happens .copyElementReach a m r (setCopy (spendKept r (copyAsker e c)) a.crew a.n (·.stop code))) ∧
  (∀ a m r₀ e c bs d, copyEnv m r₀ a.crew a.n = some (e, c) → c.snapshot = some bs → c.finished = false → e.crew.status ≠ .ended →
    let x := elementOf bs
    let start : Moved := { run := spendKept r₀ (copyAsker e c), n := c.prefixLen, ahead := c.ahead }
    deliver e x (copyAsker e c) a.n (min (c.prefixLen + max 1 a.value) x.total) (x.total - c.prefixLen) start start = (d, none) →
    let r := countBytes e (if d.n = x.total then flushWord e d.run a.n else d.run) c (d.n - c.prefixLen)
    Happens .copyArrival a m r₀ (setCopy r a.crew a.n (fun y =>
      let y := { y with prefixLen := d.n, ahead := d.ahead, written := y.written + (d.n - y.prefixLen) }
      (if y.finished then y.advance (isProt r e.ctx) x else y).awayOf m r e.ctx e.crew.status))) ∧
  (∀ a m r e c, copyEnv m r a.crew a.n = some (e, c) → c.finished = true →
    Happens .copyCompletion a m r (settleCopies (setCopy r a.crew a.n (fun c => { c with done := true })) a.crew)) ∧
  (∀ a m r s op, (r.coreSt a.core).stage = some s → Assoc.get? r.matrix s.op = some op → s.whole op = true →
    accHeld m r (opGrid r op).ctx (accOf op.desc) = false →
    Happens .merge a m r (countStalls (spendIssues 257 m (mergeStage r a.core) a.core) a.core)) ∧
  (∀ a m r op, Assoc.get? r.matrix a.op = some op → op.cut = true → op.readout = false →
    op.pieces.all (fun p => p.finished op) = true → Happens .matrixCompletion a m r (retireMatrix m r a.op op)) ∧
  (∀ a m r k code x, nextFault m r a.op a.core = some (k, code, x) → code ≠ tcHostPage →
    let t := leaveOp (mergeOp r k) k
    Happens .matrixFault a m r
      { t with matrix := Assoc.modify t.matrix k (fun y => { y with fault := some (code, x), taken := [] }) }) ∧
  (∀ a m r o c ds ps, warpOp r a.crew a.warp a.op .mx = some o → Assoc.get? r.crews a.crew = some c → o.data = .mclr ds ps →
    earlierDone r a.crew a.warp a.op (accOf ds) false = true → accHeld m r (crewCtx r a.crew) (accOf ds) = false →
    Happens .mclrCompletion a m r (finishWarpOp m (ps.foldl (fun r p => storeBytes r c.block p (List.replicate 4096 0)) r)
      a.crew a.warp a.op (fun w => w))) ∧
  (∀ a m r op b g xs, readyReadout r a.op = some (op, b, g) → readElements m r (matrixAsker (opTile r op) a.op) g b op = .ok xs →
    accHeld m r g.ctx (accOf op.desc) = false →
    let fs := xs.map (fun x => (x.ix, x.value.2.1))
    Happens .readoutCompletion a m r (retireMatrix m (countBound (countFlags (writeElements r g op xs) (opTile r op) g.ctx fs)
        (opTile r op) g (accOf op.desc).bound (xs.filter (fun x => x.value.2.2.1)).length) a.op
      { op with flags := joinFlags fs, armed := xs.any (fun x => x.value.2.2.2) })) ∧
  (∀ a m r, let k := r.coreSt a.core
    let cycles := if k.mxBusy then 256 else 256 - a.value % 256
    Happens .governorWindow a m r (countStalls (spendIssues 257 m
      (r.core a.core (fun k => { k with issues := min k.budget cycles, spare := cycles - min k.budget cycles })) a.core) a.core))
/-- Queue interfaces, packets, notify pages, interrupts and the lease: what a write or an intake does when nothing refuses it (R351
to R360). That they come as events with arguments is log 40, and their edges are log 35. -/
def Obligations.QueueEventsHappen : Prop :=
  (∀ a m r, a.port = r.owner → a.addr = 0 → a.n = 4 → (r.queueIf a.fn a.queue).en = true →
    a.value ≠ (r.queueIf a.fn a.queue).qhead.toNat → a.value < 2 ^ (r.queueIf a.fn a.queue).qlog →
    Happens .notifyWrite a m r (r.setQueueIf a.fn a.queue (fun y => { y with tail := a.value }))) ∧
  (∀ a m r, a.port = r.owner → a.addr = 0 → a.n = 4 → (r.queueIf a.fn a.queue).en = true →
    a.value ≠ (r.queueIf a.fn a.queue).qhead.toNat → 2 ^ (r.queueIf a.fn a.queue).qlog ≤ a.value →
    Happens .notifyWrite a m r
      (raiseCause (r.setQueueIf a.fn a.queue (fun y => { y with en := false, tailbad := true })) a.fn a.queue 1)) ∧
  (∀ a m r, a.port = r.owner → a.value = (r.queueIf a.fn a.queue).qhead.toNat → Happens .notifyWrite a m r r) ∧
  (∀ a m r, a.value = 3 → Happens .launch a m r (denyRing r a.fn a.queue)) ∧
  (∀ a m r bs ctx t, nextPacket m r a.fn a.queue = some bs → a.flag = false → a.value ≠ 3 → pktType bs = 1 →
    judgePacket m r a.fn a.queue bs = .accept ctx → fenced r a.fn a.queue bs = false → launchMiss m r ctx (pktAddr bs) = none →
    let x := takeFromRing r a.fn a.queue
    acceptLaunch m x.2 ctx (pktAddr bs) { queue := a.fn * 64 + a.queue, level := (x.2.queueIf a.fn a.queue).pri,
                                          packet := some (x.1, pktSeq bs, pktFlags bs) } = (0, t) →
    Happens .launch a m r (pduDone t ctx (pktAddr bs))) ∧
  (∀ a m r bs ctx, a.value ≠ 1 → nextPacket m r a.fn a.queue = some bs → a.flag = false → pktType bs = 2 →
    judgePacket m r a.fn a.queue bs = .accept ctx → fenced r a.fn a.queue bs = false →
    let x := takeFromRing r a.fn a.queue
    Happens .waitEvent a m r
      (pduDone (x.2.setQueueIf a.fn a.queue (fun y => { y with waiting := some (x.1, ctx, bs) })) ctx (pktAddr bs))) ∧
  (∀ a m r k bs ctx w, a.value = 1 → (r.queueIf a.fn a.queue).waiting = some (k, ctx, bs) →
    hostMissAt m r ctx (pktAddr bs) 8 needRd = none →
    homeHeld m r ctx (pktAddr bs) = false → readVa m r ctx (pktAddr bs) 8 = some w → pktValue bs ≤ ofBytes w →
    Happens .waitEvent a m r (complete ((pduDone r ctx (pktAddr bs)).setQueueIf a.fn a.queue (fun y => { y with waiting := none })) a.fn a.queue k (pktSeq bs)
      0 2 (pktFlags bs) 0)) ∧
  (∀ a m r bs ctx, a.value ≠ 1 → nextPacket m r a.fn a.queue = some bs → a.flag = false → pktType bs = 3 →
    judgePacket m r a.fn a.queue bs = .accept ctx → fenced r a.fn a.queue bs = false →
    let x := takeFromRing r a.fn a.queue
    Happens .signal a m r
      (pduDone (x.2.setQueueIf a.fn a.queue (fun y => { y with signals := y.signals ++ [(x.1, ctx, bs)] })) ctx (pktAddr bs))) ∧
  (∀ a m r k bs rest ctx, a.value = 1 → (r.queueIf a.fn a.queue).signals = (k, ctx, bs) :: rest →
    (r.queueIf a.fn a.queue).outstanding.any (fun j => decide (j < k)) = false →
    homeHeld m r ctx (pktAddr bs) = false → hostMissAt m r ctx (pktAddr bs) 8 needWr = none →
    Happens .signal a m r (complete ((pduDone (writeVa m r ctx (pktAddr bs) (toBytes 8 (pktValue bs))) ctx (pktAddr bs)).setQueueIf a.fn a.queue
      (fun y => { y with signals := rest })) a.fn a.queue k (pktSeq bs) 0 3 (pktFlags bs) 0)) ∧
  (∀ a m r bs ctx, nextPacket m r a.fn a.queue = some bs → a.flag = false → pktType bs = 4 →
    judgePacket m r a.fn a.queue bs = .accept ctx → fenced r a.fn a.queue bs = false →
    let x := takeFromRing r a.fn a.queue
    let v := pktValue bs
    let y := post x.2 (.host (if a.fn = 0 then 0 else 1) a.queue) ctx (v % 256) (v / 2 ^ 32)
    Happens .uipostPacket a m r
      (pduDone (complete y.1 a.fn a.queue x.1 (pktSeq bs) (0x20 + y.2) 4 (pktFlags bs) 0) ctx (pktAddr bs))) ∧
  (∀ a m r bs st, nextPacket m r a.fn a.queue = some bs → a.flag = false → a.value ≠ 3 → pktType bs = 1 →
    judgePacket m r a.fn a.queue bs = .refuse st →
    Happens .launch a m r (refusePacket (pduDone r ((ctxOfPasid m r a.fn (pktPasid bs)).getD 0) (pktAddr bs)) a.fn a.queue st bs)) ∧
  (∀ a m r, a.port = r.owner → Happens .cheadWrite a m r (writeChead r a.fn a.queue a.value)) ∧
  (∀ a m r, a.port = r.owner → Happens .qctlWrite a m r (writeQctl m r a.fn a.queue a.value)) ∧
  (∀ a m r, let x := r.queueIf a.fn a.queue
    bits (rdReg x.remap a.n).toNat 31 31 = 1 → bits (rdReg x.remap a.n).toNat 19 12 ≠ 0 → rdReg x.pendings a.n ≠ 0 → x.held = false →
    Happens .remapTimer a m r (sendCause r a.fn a.queue a.n)) ∧
  (∀ a m r, let f := r.func a.fn
    let k := msixKey a.port a.n
    let t := r.setFunc a.fn (fun g => { g with msix := wrReg g.msix k (rdReg f.msix k &&& ~~~(1#128 <<< 96)), msixPending := setErase g.msixPending k })
    Happens .msixVectorUnmask a m r
      (if f.msixPending.contains k then { t with messages := t.messages ++ [(a.port, a.fn, a.n)] } else t)) ∧
  (∀ a m r, Happens .leaseExpiry a m r { r with expired := true, renewed := false }) ∧
  (∀ a m r, r.expired = true → a.port = r.owner → Happens .renew a m r { r with renewed := true }) ∧
  (∀ a m r, r.expired = false ∨ a.port ≠ r.owner → Happens .renew a m r r) ∧
  (∀ a m r, r.expired = true → r.renewed = false → a.port ≠ r.owner → Happens .claim a m r
    { r with
      owner := a.port % 2, expired := false, epoch := r.epoch + 1
      funcs := r.funcs.map (fun (p : Nat × Func) => (p.1, { p.2 with queues := p.2.queues.map (fun (q : Nat × QueueIf) =>
        (q.1, if q.2.en then { q.2 with held := true, tail := q.2.qhead.toNat } else q.2)) })) })

/-- Contexts, invalidations, HOST pages, thresholds, and accesses of hosts and peers, which a pack-up holds (R56, R329, R341 to R350, R364,
R374, R377, R390, R396, R400). That they come as events with arguments is log 40, and their edges are log 8, log 36 and log 38. -/
def Obligations.ContextEventsHappen : Prop :=
  (∀ a m r tag p d, a.port = r.owner → partOfFn m a.fn = some (tag, p) → createErr m r a.fn tag (a.ctx % 64) p = (0, some d) →
    let old := Assoc.get? r.contexts (tag * 64 + a.ctx % 64)
    Happens .ctxctlCreate a m r (setErr { r with contexts := Assoc.set r.contexts (tag * 64 + a.ctx % 64) {
        s1root := d.s1root, pasid := d.pasid, prot := d.cflags == 1, spbase := d.spbase, splen := d.splen, hpool := d.hpool,
        hplen := d.hplen, live := true, thr := (old.map (·.thr)).getD [], thrFire := (old.map (·.thrFire)).getD 0,
        watch := (old.map (·.watch)).getD [] } } a.fn 0 (a.ctx % 64))) ∧
  (∀ a m r tag p err, a.port = r.owner → partOfFn m a.fn = some (tag, p) → createErr m r a.fn tag (a.ctx % 64) p = (err, none) →
    Happens .ctxctlCreate a m r (setErr r a.fn err (a.ctx % 64))) ∧
  (∀ a m r tag p x, a.port = r.owner → partOfFn m a.fn = some (tag, p) →
    Assoc.get? r.contexts (tag * 64 + a.ctx % 64) = some x → x.live = true →
    Happens .ctxctlDestroy a m r (setErr (killContext r (tag * 64 + a.ctx % 64)) a.fn 0 (a.ctx % 64))) ∧
  (∀ a m r, a.port = r.owner → (partOfFn m a.fn).isSome = true →
    Happens .ctxctlReserved a m r (setErr r a.fn 6 (a.ctx % 64))) ∧
  (∀ a m r, bits a.value 27 26 = 0 → bitOf a.value 31 = true → Happens .invctlPages a m r (writeInvctl m r a.fn a.value)) ∧
  (∀ a m r, bits a.value 27 26 = 1 → bitOf a.value 31 = true → Happens .invctlContext a m r (writeInvctl m r a.fn a.value)) ∧
  (∀ a m r, bits a.value 27 26 = 2 → bitOf a.value 31 = true → Happens .invctlFunction a m r (writeInvctl m r a.fn a.value)) ∧
  (∀ a m r tag p, invalReady m r a.fn = true → partOfFn m a.fn = some (tag, p) → Happens .invalidationDone a m r
    ((dropUnmapped m r tag).setFunc a.fn (fun f => { f with invctl := (f.invctl &&& ~~~(1#32 <<< 28)) ||| (1#32 <<< 30) }))) ∧
  (∀ a m r q, (r.tileSt a.tile).reqs.find? (fun q => q.tag == a.tag && !q.pri && !q.refused && !q.due) = some q →
    (a.n % 8) &&& q.need = q.need →
    let x : HostXlat := { ctx := q.ctx, page := q.page, frame := a.value, rights := a.n % 8, addr := q.addr, lvl := q.lvl,
                          only := if q.stale then some q.waiters else none }
    Happens .atsTranslationCompletion a m r (pageSettled m (r.tile a.tile (fun t => withReq
      { t with hostXlats := t.hostXlats.filter (fun y => !(y.ctx == q.ctx && y.page == q.page && y.only == x.only)) ++ [x] }
      q.tag (fun _ => none))) q.ctx q.page)) ∧
  (∀ a m r q, (r.tileSt a.tile).reqs.find? (fun q => q.tag == a.tag && !q.pri && !q.refused && !q.due) = some q →
    (a.n % 8) &&& q.need ≠ q.need → q.again = false → (r.func (fnOfCtx m q.ctx)).priStopped = false →
    Happens .atsTranslationCompletion a m r (r.tile a.tile (fun t => withReq t a.tag (fun x =>
      some (if 256 ≤ pagesOut m r (fnOfCtx m q.ctx) then { x with due := true } else { x with pri := true }))))) ∧
  (∀ a m r q, (r.tileSt a.tile).reqs.find? (fun q => q.tag == a.tag && q.pri && !q.refused) = some q → a.value = 0 →
    Happens .prgResponse a m r (sendDuePage m (r.tile a.tile (fun t => withReq t a.tag (fun q =>
      some { q with pri := false, again := true, stale := false }))) (fnOfCtx m q.ctx))) ∧
  (∀ a m r q, (r.tileSt a.tile).reqs.find? (fun q => q.tag == a.tag && q.pri && !q.refused) = some q → a.value = 1 →
    Happens .prgResponse a m r (sendDuePage m (pageSettled m (r.tile a.tile (fun t => withReq t a.tag (fun q =>
      some { q with refused := true }))) q.ctx q.page) (fnOfCtx m q.ctx))) ∧
  (∀ a m r q, (r.tileSt a.tile).reqs.find? (fun q => q.tag == a.tag && q.pri && !q.refused) = some q → 1 < a.value →
    Happens .prgResponse a m r (refuseDue m ((pageSettled m (r.tile a.tile (fun t => withReq t a.tag (fun q =>
      some { q with refused := true }))) q.ctx q.page).setFunc (fnOfCtx m q.ctx) (fun f => { f with priStopped := true }))
      (fnOfCtx m q.ctx))) ∧
  (∀ a m r, a.flag = false →
    let mine (k : Nat) : Bool := fnOfCtx m k == a.fn && match Assoc.get? r.contexts k with
      | some c => c.pasid == a.value
      | none => false
    let hit (addr : Nat) : Bool := a.n == 0 || (decide (a.addr ≤ addr) && decide (addr < a.addr + a.n))
    Happens .atsInvalidateRequest a m r (sendInvalidated m
      ((dropWhere r (fun x => mine x.ctx && hit x.addr) (fun q => mine q.ctx && hit q.addr)).setFunc a.fn
        (fun f => { f with atsWaits := f.atsWaits + 1 })) a.fn)) ∧
  (∀ a m r, a.flag = true → (r.func a.fn).atsWaits ≠ 0 → hostHeld m r a.fn = false →
    Happens .atsInvalidateRequest a m r { r.setFunc a.fn (fun f => { f with atsWaits := 0 }) with
      replies := r.replies ++ List.replicate (r.func a.fn).atsWaits { kind := .atsInvalidateRequest, fn := a.fn } }) ∧
  (∀ a m r, Happens .priEnable a m r (r.setFunc a.fn (fun f => { f with priStopped := false }))) ∧
  (∀ a m r c, Assoc.get? r.contexts a.ctx = some c → bits (rdReg c.thr (a.n % 8)).toNat 31 0 = 0 →
    Happens .thresholdWindow a m r
      ((r.tile a.tile (fun t => { t with thrCount := wrReg t.thrCount (a.ctx * 8 + a.n % 8) 0 })).context a.ctx (fun c' =>
        { c' with thrSum := wrReg c'.thrSum (a.n % 8) (BitVec.ofNat 32 (min ((rdReg c.thrSum (a.n % 8)).toNat +
          (rdReg (r.tileSt a.tile).thrCount (a.ctx * 8 + a.n % 8)).toNat) (2 ^ 32 - 1))) }))) ∧
  (∀ a m r, Happens .thresholdSumClear a m r (r.context a.ctx (fun c => { c with thrSum := wrReg c.thrSum (a.n % 8) 0 }))) ∧
  (∀ a m r, let t := r.context (crewCtx r a.crew) (fun c => { c with stop := none })
    Happens .hostResume a m r (if a.slice then t.slice a.crew (fun x => { x with hostrec := none })
      else t.warp a.crew a.warp (fun w => { w with hostrec := none }))) ∧
  (∀ a m r tag, hostHolder m a.addr = some tag →
    Happens .hostAccess a m r { r with arrivals := r.arrivals ++ [⟨tag, true, a⟩] }) ∧
  (∀ a m r, hostHolder m a.addr = none → a.flag = true →
    Happens .hostAccess a m r (writePlaces r ((List.range a.data.length).map (fun i => .dev (a.addr + i))) a.data)) ∧
  (∀ a m r, hostHolder m a.addr = none → a.flag = false → Happens .hostAccess a m r { r with replies := r.replies ++ [{
      kind := .hostAccess, bytes := (List.range a.n).map (fun i => rawByte r (.dev (a.addr + i))), bad := poisonedSpan r (.dev a.addr) a.n }] }) ∧
  (∀ a m r, let t := peerTile a.tile
    m.allowsTag t 4 (tileChan m a.part t) a.part = false →
    Happens .peerAccess a m r (peerAnswer (dropPacket r t t a.part 4 (tileChan m a.part t)) a.part [] true)) ∧
  (∀ a m r, m.allowsTag (peerTile a.tile) 4 (tileChan m a.part (peerTile a.tile)) a.part = true → ppaHeld m a.part false a.addr = true →
    Happens .peerAccess a m r { r with arrivals := r.arrivals ++ [⟨a.part, false, a⟩] }) ∧
  (∀ a m r d, m.allowsTag (peerTile a.tile) 4 (tileChan m a.part (peerTile a.tile)) a.part = true → ppaHeld m a.part false a.addr = false →
    stage2 m r a.part a.addr = some (.dev d) → a.value = 1 →
    let t := writePlaces r ((List.range a.n).map (fun i => Place.dev (d + i))) (a.data.take a.n)
    Happens .peerAccess a m r { t with replies := t.replies ++ [{ kind := .peerAccess, fn := a.part, bytes := [], bad := false }] }) ∧
  (∀ a m r d, m.allowsTag (peerTile a.tile) 4 (tileChan m a.part (peerTile a.tile)) a.part = true → ppaHeld m a.part false a.addr = false →
    stage2 m r a.part a.addr = some (.dev d) → a.value = 0 →
    Happens .peerAccess a m r { r with replies := r.replies ++ [{
      kind := .peerAccess, fn := a.part, bytes := (List.range a.n).map (fun i => rawByte r (.dev (d + i))), bad := poisonedSpan r (.dev d) a.n }] }) ∧
  (∀ a m r, let x := post r (.peer a.n a.tag (a.value % 64)) a.ctx a.lane a.addr
    Happens .peerPost a m r { x.1 with replies := x.1.replies ++ [{ kind := .peerPost, fn := a.n, bytes := toBytes 1 x.2 }] }) ∧
  (∀ a m r key c, r.calls.find? (fun p => p.2.proxy == some a.value && fnOfCtx m (p.2.part * 64 + p.2.ctx) == a.fn) = some (key, c) →
    let at_ := (r.func a.fn).pxbase.toNat + 128 * a.value
    let st := Mem.read r.hostMem 2 (at_ + 2)
    let res := Mem.read r.hostMem 8 (at_ + 56)
    Happens .pxdoneWrite a m r (completeCall (r.setFunc a.fn (fun f =>
      settleHandle f c.num (c.part * 64 + c.ctx) st res (recField c.block 8 8))) key st (Mem.read r.hostMem 4 (at_ + 4)) res)) ∧
  (∀ a m r, a.flag = false → let t := { r with unreachable := setInsert r.unreachable a.n }
    let ks := (t.calls.filter (fun p => p.2.remote && match callEnv m t p.1 with
      | some e => e.arg 0 == a.n
      | none => false)).map (·.1)
    Happens .peerModuleUnreachable a m r (ks.foldl (fun r k => completeCall r k stHostError 0 0) t))

/-- Debug halts, snapshots, telemetry and plain registers (R351, R413, R419, R421). Telemetry values are free (log 15), and the
origin of a snapshot by register is tile 0 (log 15). -/
def Obligations.DebugEventsHappen : Prop :=
  (∀ a m r tag p, partOfFn m a.fn = some (tag, p) → Happens .dbgctlHalt a m r
    (haltContext (r.setFunc a.fn (fun x => { x with dbgctl := BitVec.ofNat 32 (a.ctx % 64) })) (tag * 64 + a.ctx % 64))) ∧
  (∀ a m r tag p, partOfFn m a.fn = some (tag, p) → Happens .dbgctlResume a m r
    (resumeContext (r.setFunc a.fn (fun x => { x with dbgctl := BitVec.ofNat 32 (a.ctx % 64) })) (tag * 64 + a.ctx % 64))) ∧
  (∀ a m r, a.fn = 0 → Happens .snaptrig a m r (raiseSnapshot r 0)) ∧
  (∀ a m r, a.fn = 0 → Happens .snapclr a m r
    { r with tiles := r.tiles.map (fun (p : Nat × TileSt) => (p.1, { p.2 with snapped := false })) }) ∧
  (∀ a m r origin left, r.floods[a.n]? = some (origin, left) → left.contains a.tile = true → (r.tileSt a.tile).snapped = false →
    let rest := setErase left a.tile
    let r' := { r with floods := if rest = [] then r.floods.eraseIdx a.n else setAt r.floods a.n (origin, rest) }
    let t := sampleClocks m (r'.sampleRefc a.tile) a.tile
    (r'.tileSt a.tile).snapped = false →
    Happens .snapshotLatch a m r (t.draw.2.tile a.tile (fun y =>
      { y with snapped := true, snapImage := snapImage m t a.tile origin, snapOrigin := origin }))) ∧
  (∀ a m r, a.fn ≠ 0 → Happens .teldataRead a m r (r.draw.2.setFunc a.fn (fun f =>
    { f with teldata := Config.telemetry (bits (r.func a.fn).telsel.toNat 31 16) r.draw.1, telstat := f.telstat &&& ~~~1#32 }))) ∧
  (∀ a m r, presents m a.fn a.addr = true → Happens .registerWrite a m r (writeRegister m r a.fn a.port a.addr a.n a.value)) ∧
  (∀ a m r, presents m a.fn a.addr = false → Happens .registerWrite a m r r) ∧
  (∀ a m r tag p, m.recovery = false → a.port = r.owner → a.addr = 0x100 → partOfFn m a.fn = some (tag, p) →
    Happens .registerWrite a m r (r.setFunc a.fn (fun f => { f with ctxbase := BitVec.ofNat 64 (a.value / 4096 * 4096) })))
/-- Mailbox commands that nothing refuses, those that wait, and an unknown code (R384, R410, R414, R417, R418, R421). The order of
refusals is log 23, the bytes of records are log 16, and that a pack-up changes all at once is log 38. -/
def Obligations.MailboxCommandsHappen : Prop :=
  (∀ a m r, Commanded a m r 1 → let r1 := r.commanded a
    createRefusal m (bits a.value 15 8) (readCreation r1) = none →
    scrubbing m (readCreation r1).tiles (readCreation r1).pcs = false →
    CommandDone .create a m r 0 (createPart m r1 (bits a.value 15 8) (readCreation r1))) ∧
  (∀ a m r n, Commanded a m r 1 → createRefusal m (bits a.value 15 8) (readCreation (r.commanded a)) = some n →
    CommandDone .create a m r n (m, r.commanded a)) ∧
  (∀ a m r p, Commanded a m r 2 → let r1 := r.commanded a
    let tag := bits a.value 15 8
    Assoc.get? m.parts tag = some p → p.pack = none → m.logFull = false →
    CommandDone .destroy a m r 0 (newConfig (Mgmt.routed { scrubPart m tag with
      parts := Assoc.erase (scrubPart m tag).parts tag
      tileScrubs := p.tiles.foldl (fun w t => Assoc.set w t p.pcset) (scrubPart m tag).tileScrubs })
      (forgetPart (wipePart m r1 tag) tag p.vf))) ∧
  (∀ a m r p, Commanded a m r 3 → let r1 := r.commanded a
    let tag := bits a.value 15 8
    Assoc.get? m.parts tag = some p → growRefusal m r1 tag p = none →
    scrubbing m (mbTiles r1 (r1.mb 0 1)) (growChans r1) = false →
    CommandDone .grow a m r (2 ^ 31) (beginPack m r1 tag (growPack r1 p))) ∧
  (∀ a m r p, Commanded a m r 4 → let r1 := r.commanded a
    let tag := bits a.value 15 8
    Assoc.get? m.parts tag = some p → shrinkRefusal m r1 tag p = none →
    CommandDone .shrink a m r (2 ^ 31) (beginPack m r1 tag (shrinkPack r1 p))) ∧
  (∀ a m r p, Commanded a m r 5 → let r1 := r.commanded a
    let tag := bits a.value 15 8
    Assoc.get? m.parts tag = some p → compactRefusal m r1 tag p = none → scrubbing m (mbTiles r1 (r1.mb 0 1)) [] = false →
    CommandDone .compact a m r (2 ^ 31) (beginPack m r1 tag (compactPack r1 p))) ∧
  (∀ a m r k, m.recovery = false → a.flag = true → r.mailboxBusy = true →
    let tag := bits r.mbcmd.toNat 15 8
    (Assoc.get? m.parts tag).bind (·.pack) = some k → k.command = true → packReady r k = true →
    (r.mbcmd.toNat % 256 = 3 → CommandDone .grow a m r 0 (finishPack m r tag)) ∧
    (r.mbcmd.toNat % 256 = 4 → CommandDone .shrink a m r 0 (finishPack m r tag)) ∧
    (r.mbcmd.toNat % 256 = 5 → CommandDone .compact a m r 0 (finishPack m r tag))) ∧
  (∀ a m r p, Commanded a m r 6 → let tag := bits a.value 15 8
    let x := bits a.value 23 16
    Assoc.get? m.parts tag = some p → x ≠ 0 → sharesBut m tag + x ≤ 256 →
    CommandDone .setShare a m r 0 (m.part tag (fun p => { p with share := x }), r.commanded a)) ∧
  (∀ a m r p, Commanded a m r 6 → let tag := bits a.value 15 8
    Assoc.get? m.parts tag = some p → bits a.value 23 16 ≠ 0 → 256 < sharesBut m tag + bits a.value 23 16 →
    CommandDone .setShare a m r 4 (m, r.commanded a)) ∧
  (∀ a m r p, Commanded a m r 7 → let tag := bits a.value 15 8
    let m1 := settleClocks (m.part tag (fun p => { p with capClock := bits a.value 31 16, capCurrent := bits a.value 47 32 })) p.tiles
    Assoc.get? m.parts tag = some p → m.logFull = false →
    CommandDone .setCaps a m r 0 (newConfig m1 (setBudgets m1 (r.commanded a) p.tiles (bits a.value 47 32)))) ∧
  (∀ a m r p, Commanded a m r 8 → let r1 := r.commanded a
    let tag := bits a.value 15 8
    let es := (Assoc.get? r1.errLogs tag).getD []
    Assoc.get? m.parts tag = some p → entryThere (bits a.value 21 16) es.length = true →
    let out := (es.drop (bits a.value 21 16)).take 63
    CommandDone .errlogRead a m r 0 (m, putMb (putMb r1 0 (toBytes 8 (rdReg r1.errLost tag).toNat ++ toBytes 8 out.length)) 32
      out.flatten)) ∧
  (∀ a m r, Commanded a m r 9 → let r1 := r.commanded a
    entryThere (bits a.value 25 16) r1.dropLog.length = true →
    let out := (r1.dropLog.drop (bits a.value 25 16)).take 127
    CommandDone .droplogRead a m r 0 (m, putMb r1 0 (toBytes 8 r1.dropLost.toNat ++ toBytes 8 out.length ++ out.flatten))) ∧
  (∀ a m r, Commanded a m r 10 → let r1 := r.commanded a
    let t := r1.tileSt (bits a.value 22 16)
    bits a.value 22 16 < 96 →
    CommandDone .snapRead a m r 0 (m, putMb (putMb r1 0
      ((if t.snapImage = [] then List.replicate 2048 0#8 else t.snapImage).take 2048)) 16 (toBytes 8 t.snapLost.toNat))) ∧
  (∀ a m r, Commanded a m r 11 → CommandDone .snapClear a m r 0 (m, rearmSnapshots (r.commanded a))) ∧
  (∀ a m r p, Commanded a m r 12 → Assoc.get? m.parts (bits a.value 15 8) = some p →
    CommandDone .shapeRead a m r 0 (m, putMb (r.commanded a) 0 (shapeReport m (bits a.value 15 8) p))) ∧
  (∀ a m r, Commanded a m r 13 → let i := bits a.value 31 16
    2048 * (i + 1) ≤ 2 ^ 26 →
    CommandDone .fwLoad a m r 0 ({ m with
      standby := Mem.writeBytes m.standby (2048 * i) (Mem.bytes r.mbdata 2048 0)
      standbyLen := max m.standbyLen (2048 * (i + 1))
      standbyReady := bitOf a.value 32 }, r.commanded a)) ∧
  (∀ a m r c, Commanded a m r c → m.recovery = false → c = 0 ∨ 13 < c →
    CommandDone .mailboxUnknown a m r 6 (m, r.commanded a)) ∧
  (∀ a m r c, Commanded a m r c → Assoc.get? m.parts (bits a.value 15 8) = none → m.recovery = false →
    (c = 2 → CommandDone .destroy a m r 6 (m, r.commanded a)) ∧
    (c = 6 → CommandDone .setShare a m r 6 (m, r.commanded a)))

/-- Repairs, scrubbing, clocks, power, reset and links (R377, R388, R391, R401, R402, R404 to R406, R412, R414 to R416). The blocks
of a channel are log 17, what waits for the end of a pack-up is log 38, the numbers that monitors bring are log 22, and what stays over a reset is log 39. -/
def Obligations.ModuleEventsHappen : Prop :=
  (∀ a m r, a.value ≠ 1 → m.owner a.tile = none →
    HappensAll .tileFailing a m r (m.tile a.tile (fun x => { x with failing := true }), r)) ∧
  (∀ a m r tag p, a.value ≠ 1 → m.owner a.tile = some (tag, p) →
    let t := logError r tag 10 0xFF a.tile 0 0 0
    let t := if a.flag then (contextsOn t tag a.tile p.tiles).foldl killContext t else t
    (p.pack = none → HappensAll .tileFailing a m r
      (repairTile (m.tile a.tile (fun x => { x with failing := true })) t tag p a.tile)) ∧
    (p.pack ≠ none → HappensAll .tileFailing a m r (m.tile a.tile (fun x => { x with failing := true }), t))) ∧
  (∀ a m r tag p, a.value = 1 → m.owner a.tile = some (tag, p) → HappensAll .tileFailing a m r (finishPack m r tag)) ∧
  (∀ a m r, (m.tileHw a.tile).spares = [] → HappensAll .coreReplaced a m r (failTile m r a.tile false)) ∧
  (∀ a m r sp rest, (m.tileHw a.tile).spares = sp :: rest → (m.tileHw a.tile).cores.contains a.n = true →
    ∃ x, HappensAll .coreReplaced a m r x ∧ (x.1.tileHw a.tile).spares = rest ∧
      (x.1.tileHw a.tile).cores = (m.tileHw a.tile).cores.map (fun k => if k = a.n then sp else k) ∧
      Assoc.get? (x.1.tileHw a.tile).swaps a.n = some sp) ∧
  (∀ a m r, a.value ≠ 1 → a.value ≠ 2 → m.parts.find? (fun p => p.2.pcset.contains a.n) = none →
    HappensAll .channelDropped a m r
      (newConfig { m with channels := Assoc.set m.channels a.n { m.channel a.n with dropped := true } } r)) ∧
  (∀ a m r tag p k, a.value ≠ 1 → a.value ≠ 2 → m.parts.find? (fun p => p.2.pcset.contains a.n) = some (tag, p) → p.pack = some k →
    HappensAll .channelDropped a m r (m.part tag (fun p => { p with dropsDue := p.dropsDue ++ [(a.n, a.flag)] }), r)) ∧
  (∀ a m r, a.value = 2 → HappensAll .channelDropped a m r
    ({ m with channels := Assoc.set m.channels a.n { m.channel a.n with corrected := 0 } }, r)) ∧
  (∀ a m r tag p, a.value ≠ 1 → a.value ≠ 2 → m.parts.find? (fun p => p.2.pcset.contains a.n) = some (tag, p) → p.pack = none →
    a.flag = true → 1 < p.pcset.length →
    HappensAll .channelDropped a m r (beginPack m (logError r tag 7 0xFF (controllerTile a.n) 0 0 a.n) tag
      { kind := 0, tiles := p.tiles, pcset := p.pcset.filter (· != a.n), affected := p.tiles })) ∧
  (∀ a m r, a.value = 1 → HappensAll .channelDropped a m r (finishPack m r a.part)) ∧
  (∀ a m r, (m.channel a.n).state = 2 → HappensAll .scrubComplete a m r ({ m with
    channels := Assoc.set m.channels a.n { m.channel a.n with state := 0, cursor := 0 }
    tileScrubs := (m.tileScrubs.map (fun (p : Nat × List Nat) => (p.1, p.2.filter (· != a.n)))).filter (fun p => p.2 != []) }, r)) ∧
  (∀ a m r, HappensAll .droopTrip a m r (m.tile a.tile (fun t => { t with clockStep := t.clockStep - 4 }), r)) ∧
  (∀ a m r, HappensAll .clockStepUp a m r
    (m.tile a.tile (fun t => { t with clockStep := min (t.clockStep + 1) (maxStep m a.tile) }), r)) ∧
  (∀ a m r, let m1 := m.tile a.tile (fun x => { x with reduced := false })
    m1.owner a.tile = none → HappensAll .characterisationComplete a m r (m1, r)) ∧
  (∀ a m r tag p, let m1 := m.tile a.tile (fun x => { x with reduced := false })
    m1.owner a.tile = some (tag, p) → m1.reducedPart p = false →
    HappensAll .characterisationComplete a m r (newShape m1 r tag)) ∧
  (∀ a m r, HappensAll .thermalMonitorTrip a m r (newConfig (settleClocks
    (m.tile a.tile (fun x => { x with ceiling := x.ceiling - a.n })) [a.tile]) r)) ∧
  (∀ a m r, HappensAll .coolantOutOfRange a m r (lowerCeilings m r (List.range 96) a.n)) ∧
  (∀ a m r, HappensAll .powerEnvelope a m r (holdEnvelope m r a.n a.value)) ∧
  (∀ a m r, a.value = 1 → HappensAll .linkRetrain a m r (m.tile a.tile (fun x => { x with retrains := 0 }), r)) ∧
  (∀ a m r, let m1 := m.tile a.tile (fun x => { x with retrains := x.retrains + 1 })
    a.value ≠ 1 → (m1.tileHw a.tile).retrains ≤ 8 → HappensAll .linkRetrain a m r (m1, r)) ∧
  (∀ a m r, HappensAll .powerLoss a m r (coldMgmt m, coldRun r)) ∧
  (∀ a m r, a.flag = true → m.standbyReady = false →
    HappensAll .reset a m r (measuredBoot { coldMgmt m with
      channels := (coldMgmt m).channels.map (fun (p : Nat × Channel) => (p.1, p.2.atReset)), booted := true,
      standbyReady := false } (coldRun r))) ∧
  (∀ a m r, a.flag = false → m.standbyReady = false → ∃ x, HappensAll .reset a m r x ∧ x.1.recovery = true) ∧
  (∀ a m r tag p, partOfFn m a.fn = some (tag, p) → p.tdi ≠ 1 → p.tdi ≠ 2 →
    let r1 := (((r.contexts.filter (fun c => partOf c.1 == tag && c.2.live)).map (·.1)).foldl killContext r).setFunc a.fn
      (fun f => { f with handleGen := f.handleGen + 1, handles := [] })
    p.pack = none → HappensAll .vfReset a m r (m, { r1 with
      contexts := r1.contexts.map (fun (c : Nat × Context) => if partOf c.1 = tag then (c.1, { c.2 with intblk := [] }) else c)
      calls := r1.calls.filter (fun c => c.2.part != tag)
      units := r1.units.filter (fun k => (Assoc.get? r1.calls k).all (fun c => c.part != tag))
      svcQueues := Assoc.erase r1.svcQueues tag
      faultQueues := Assoc.erase r1.faultQueues tag }))

/-- SPDM, TDISP and IDE requests to a function that answers (R387, R409). The lengths and bytes of answers that the spec does not
give are log 12 and log 24. -/
def Obligations.AttestationEventsHappen : Prop :=
  (∀ a m r, answers m a.fn = true →
    Happens .getVersion a m r (answered r .getVersion a.fn 2 (fun f => { f with spdm := 1 })) ∧
    Happens .getCapabilities a m r (answered r .getCapabilities a.fn 16 (fun f => { f with spdm := max f.spdm 2 })) ∧
    Happens .negotiateAlgorithms a m r (answered r .negotiateAlgorithms a.fn 32 (fun f => { f with spdm := max f.spdm 3 })) ∧
    Happens .getDigests a m r (answered r .getDigests a.fn 48 id) ∧
    Happens .getCertificate a m r (answered r .getCertificate a.fn 1024 id) ∧
    Happens .challenge a m r (answered r .challenge a.fn 1280 id) ∧
    Happens .keyExchange a m r (answered r .keyExchange a.fn 1424 (fun f => { f with session := 1, keyPhase := 0 })) ∧
    Happens .finish a m r (answered r .finish a.fn 48 (fun f => { f with session := if f.session = 0 then 0 else 2 })) ∧
    Happens .heartbeat a m r (answered r .heartbeat a.fn 0 id) ∧
    Happens .keyUpdate a m r (answered r .keyUpdate a.fn 0
      (fun f => { f with keyPhase := if f.session = 2 then f.keyPhase + 1 else f.keyPhase })) ∧
    Happens .endSession a m r (answered r .endSession a.fn 0 (fun f => { f with session := 0, keyPhase := 0 })) ∧
    Happens .unsupportedRequest a m r (answer r .unsupportedRequest a.fn [] true)) ∧
  (∀ a m r bs, answers m a.fn = true → measurementBlock m a.fn a.n r.free = some bs →
    Happens .getMeasurements a m r (answer r.draw.2 .getMeasurements a.fn bs false)) ∧
  (∀ a m r tag p, partOfFn m a.fn = some (tag, p) → a.value < 4 → p.tdi = 0 →
    let record := toBytes 8 a.value ++ (a.data ++ List.replicate 32 0).take 32
    let m1 := m.part tag (fun p => { p with tdi := 1, repairLock := bitOf a.value 0, reshapeLock := bitOf a.value 1 })
    HappensAll .lockInterfaceRequest a m r (m1.extendPx tag 2 (measure record) record,
      answer (secretBytes r 32).2 .lockInterfaceRequest a.fn (secretBytes r 32).1 false)) ∧
  (∀ a m r tag p, partOfFn m a.fn = some (tag, p) → 4 ≤ a.value ∨ p.tdi ≠ 0 →
    HappensAll .lockInterfaceRequest a m r (m, answer r .lockInterfaceRequest a.fn [] true)) ∧
  (∀ a m r tag p, answers m a.fn = true → partOfFn m a.fn = some (tag, p) → a.n = 2 → p.tdi = 1 →
    HappensAll .vendorDefined a m r (m.setTdi tag 2, answer r .vendorDefined a.fn [] false)) ∧
  (∀ a m r tag p, answers m a.fn = true → partOfFn m a.fn = some (tag, p) → a.n = 4 →
    HappensAll .vendorDefined a m r (m, answer r .vendorDefined a.fn (shapeReport m tag p) false)) ∧
  (∀ a m r tag p, partOfFn m a.fn = some (tag, p) → p.tdi = 2 → (r.func a.fn).ideStreams.contains a.port = false →
    HappensAll .ideStreamViolation a m r (ruinPart (m.tdiError tag) r tag))
/-- Every service call: a call with a poisoned parameter block completes with FAULT (R396). The cost of a call is log 18. -/
def Obligations.PoisonedCallsFault : Prop :=
  ∀ i n a e s, serviceNum i = some n → s.turn = .event { kind := i, args := a } → callEnv s.mgmt s.run a.op = some e →
    servable s.run e n = true → e.c.poisoned = true →
    exec i s = .next (s.after (settleServed e (s.run, .done stFault 0 0)))

/-- Calls on memory and capabilities that their checks let pass (R246, R253, R343, R346, R372 calls 0 to 7 and 13). Where an
allocation lands is log 13, and CAP_MINT's arguments are log 27. -/
def Obligations.MemoryCallsComplete : Prop :=
  (∀ a e r h va t, pagesTouched 0 (e.arg 0) ≠ 0 → attrOk (e.arg 1) = true →
    allocate e.m r e.ctx (pagesTouched 0 (e.arg 0)) (e.arg 1) = some (h, va, t) → ServesOk .memAlloc a e r t va h) ∧
  (∀ a e r h va t, allocate e.m r e.ctx 1 (12 + 2 ^ 12 + 2 ^ 13 + 2 ^ 14) = some (h, va, t) →
    ServesOk .eventCreate a e r (writeVa e.m t e.ctx va (toBytes 8 (e.arg 0))) va) ∧
  (∀ a e r va h x, e.c.owed = none → e.addr r 0 0 useName = .ok va →
    (((Assoc.get? r.contexts e.ctx).map (·.allocs)).getD []).find? (fun p => p.2.va == va) = some (h, x) →
    let r1 := (unmapRange e.m r e.ctx ((leavesIn e.m r e.ctx va x.pages).getD [])).context e.ctx
      (fun c => { c with allocs := Assoc.erase c.allocs h })
    let t := dropXlats { r1 with taken := r1.taken.erase (e.c.part, x.base, x.pages) } (· == e.ctx) (va / 4096) x.pages
    placesHeld t (· == e.ctx) (va / 4096) x.pages = false → ServesOk .memFree a e r t 0) ∧
  (∀ a e r va h x base t, e.c.owed = none → e.addr r 0 0 useName = .ok va →
    ((r.contexts.filter (fun c => partOf c.1 == e.c.part)).flatMap (fun c => c.2.allocs)).find? (fun p => p.1 == e.arg 2) = some (h, x) →
    bits x.attr 15 15 = 1 → attrOk (e.arg 3) = true → rangeOk va (4096 * x.pages) = true →
    rangeEmpty e.m r e.ctx va x.pages = true →
    freeBase e.m r.draw.2 e.c.part (tablePages x.pages) (Config.allocPage r.draw.1) = some base →
    enterPages e.m e.ctx (attrBits (e.arg 3)) x.pages va x.base ((List.range (tablePages x.pages)).map (fun i => base + 4096 * i))
      r.draw.2 = some t →
    let t := dropXlats { t with taken := t.taken ++ [(e.c.part, base, tablePages x.pages)] } (· == e.ctx) (va / 4096) x.pages
    placesHeld t (· == e.ctx) (va / 4096) x.pages = false → ServesOk .memMap a e r t (4096 * x.pages)) ∧
  (∀ a e r va ls, e.c.owed = none → e.addr r 0 (e.arg 2) useName = .ok va → rangeOk va (e.arg 2) = true →
    leavesIn e.m r e.ctx va (e.arg 2 / 4096) = some ls →
    let t := dropXlats (unmapRange e.m r e.ctx ls) (· == e.ctx) (va / 4096) (e.arg 2 / 4096)
    (placesHeld t (· == e.ctx) (va / 4096) (e.arg 2 / 4096) = false → ServesOk .memUnmap a e r t 0) ∧
    (placesHeld t (· == e.ctx) (va / 4096) (e.arg 2 / 4096) = true → Serves .memUnmap a e r ({ t with
      calls := Assoc.modify t.calls e.key (fun c => { c with owed := some 0, range := (va / 4096, e.arg 2 / 4096) }) }, .away))) ∧
  (∀ a e r va ls, e.c.owed = none → e.addr r 0 (e.arg 2) useName = .ok va → rangeOk va (e.arg 2) = true →
    (bits (e.arg 3) 14 14 = 1 → bits (e.arg 3) 13 12 = 3) →
    (List.range (e.arg 2 / 4096)).any (fun i => leafAt e.m r e.ctx (va + 4096 * i) == .hole) = false →
    leavesIn e.m r e.ctx va (e.arg 2 / 4096) = some ls →
    let t := dropXlats (ls.foldl (fun r l => writePpa e.m r e.c.part l.1 (toBytes 8 (withRights l.2 (e.arg 3)))) r)
      (· == e.ctx) (va / 4096) (e.arg 2 / 4096)
    placesHeld t (· == e.ctx) (va / 4096) (e.arg 2 / 4096) = false → ServesOk .memProtect a e r t 0) ∧
  (∀ i a e r res, i ∈ [Instr.memFree, .memMap, .memUnmap, .memProtect] → e.c.owed = some res →
    placesHeld r (· == e.ctx) e.c.range.1 e.c.range.2 = false → ServesOk i a e r r res) ∧
  (∀ a e r va, e.addr r 0 0 useName = .ok va → ServesOk .memQuery a e r r (match leafAt e.m r e.ctx va with
    | .leaf _ _ x => x
    | .hole => 0)) ∧
  (∀ a e r d ps, isProt r e.ctx = true → e.arg 1 = 0 → e.arg 5 = 0 → e.arg 2 < 2 ^ 40 → e.arg 3 % 2 ^ 57 = 0 → e.arg 4 % 16 = 0 →
    mintable e.m r e.ctx (e.arg 0) (e.arg 2) (bits (e.arg 3) 63 57) = true → onProtPage e.m r e.ctx (e.arg 4) = true →
    hostMissAt e.m r e.ctx (e.arg 4) 16 needWr = none → globalSpan e.m r 0 e.ctx (e.arg 4) 16 needWr = .ok (.dev d :: ps) →
    let t := writePlaces r (.dev d :: ps) (toBytes 16 (e.arg 0 % 2 ^ 57 + bits (e.arg 3) 63 57 * 2 ^ 57 + e.arg 2 * 2 ^ 64 +
      ctxId e.ctx * 2 ^ 104))
    ServesOk .capMint a e r { t with capTags := setInsert t.capTags (d / 16) } 0) ∧
  (∀ a e r va ps, e.addr r 0 (e.arg 2) useName = .ok va → hostMissAt e.m r e.ctx va (e.arg 2) 0 = none →
    globalSpan e.m r 0 e.ctx va (e.arg 2) 0 = .ok ps →
    let gs := (ps.filterMap (fun p => match p with
      | .dev a => some (a / 16)
      | _ => none)).eraseDups.filter (fun g => r.capTags.contains g)
    ServesOk .capRevoke a e r { r with capTags := gs.foldl setErase r.capTags } gs.length)

/-- Calls on grids, events, queues, interrupts, records, logs, counters and the context itself, that their checks let pass (R307,
R331, R362 to R364, R369, R372 calls 10 to 23 and 38 to 47, R411, R413, R419). The values of counters, random bytes and quotes are
free (log 12, log 15), and the edges of the calls are log 37. -/
def Obligations.ContextCallsComplete : Prop :=
  (∀ a e r va st t, ((Assoc.get? e.m.parts e.c.part).map (·.stopped)).getD false = false → e.addr r 0 256 useRead = .ok va →
    launchMiss e.m r e.ctx va = none → reachable e.m r e.ctx va 256 needRd = true →
    acceptLaunch e.m r e.ctx va { queue := e.g.queue, level := e.crew.level, byCall := true } = (st, t) →
    ServesOk .gridLaunch a e r t (recordGrid e.m r e.ctx va) st) ∧
  (∀ a e r k g, gridById r e.ctx (e.arg 0) = some (k, g) →
    ServesOk .gridQuery a e r r (if g.status.isSome then 1 else 0) (g.status.getD 0)) ∧
  (∀ a e r gk, gridNamed r e.ctx (e.arg 0) = some gk → ServesOk .gridCancel a e r (killGrid r gk 7) 0) ∧
  (∀ a e r, gridNamed r e.ctx (e.arg 0) = none → Serves .gridCancel a e r (r, .done stNotfound 0 0)) ∧
  (∀ a e r k g dst src ps, gridById r e.ctx (e.arg 0) = some (k, g) → g.det ≠ 0 → e.addr r 2 72 useWrite = .ok dst →
    hostMissAt e.m r e.ctx (g.detrec + 24) 72 needRd = none → globalSpan e.m r 0 e.ctx (g.detrec + 24) 72 needRd = .ok src →
    src.any (poisoned r) = false → hostMissAt e.m r e.ctx dst 72 needWr = none → globalSpan e.m r 0 e.ctx dst 72 needWr = .ok ps →
    ServesOk .detRecordFetch a e r
      (writePlaces r ps ((src.map (rawByte r)).drop 8 ++ (src.map (rawByte r)).take 8)) 72) ∧
  (∀ a e r va ps, e.addr r 0 8 useWrite = .ok va → va % 8 = 0 → hostMissAt e.m r e.ctx va 8 needWr = none →
    globalSpan e.m r 0 e.ctx va 8 needWr = .ok ps → ServesOk .eventSignal a e r (writePlaces r ps (toBytes 8 (e.arg 2))) 0) ∧
  (∀ a e r va ps, e.addr r 0 8 useRead = .ok va → va % 8 = 0 → hostMissAt e.m r e.ctx va 8 needRd = none →
    globalSpan e.m r 0 e.ctx va 8 needRd = .ok ps → ps.any (poisoned r) = false → e.arg 2 ≤ ofBytes (ps.map (rawByte r)) →
    ServesOk .eventWait a e r r 0) ∧
  (∀ a e r, e.arg 0 ≤ 63 → let x := r.queueIf (fnOfCtx e.m e.ctx) (e.arg 0)
    ServesOk .queueInfo a e r r (x.qhead.toNat + 2 ^ 32 * x.ctail.toNat) x.pri) ∧
  (∀ a e r, let b := e.arg 1
    e.arg 0 ≤ 63 → byteOf b 0 ≤ 2 → byteOf b 1 ≤ 3 → byteOf b 2 ≤ 1 → byteOf b 3 = 0 →
    ServesOk .uiVectorSet a e r (setIntblk r e (16 * e.arg 0) (toBytes 8 b ++ toBytes 8 (e.arg 2))) 0) ∧
  (∀ a e r, let b := e.arg 1
    e.arg 0 ≤ 63 → byteOf b 0 ≤ 4 → byteOf b 1 = 0 →
    ServesOk .uiPermit a e r (setIntblk r e (0x400 + 16 * e.arg 0) (toBytes 8 b ++ toBytes 8 (e.arg 2))) 0) ∧
  (∀ a e r, e.arg 0 ≤ 63 → ServesOk .uiRevoke a e r (setIntblk r e (0x400 + 16 * e.arg 0) (toBytes 16 0)) 0) ∧
  (∀ a e r, e.arg 0 ≤ 63 → e.arg 1 ≤ 3 → e.arg 2 < 2 ^ 32 →
    ServesOk .uiRoute a e r (setIntblk (setIntblk r e (16 * e.arg 0 + 1) (toBytes 1 (e.arg 1))) e (16 * e.arg 0 + 4)
      (toBytes 4 (e.arg 2) ++ toBytes 8 (e.arg 3))) 0) ∧
  (∀ a e r c, Assoc.get? r.contexts e.ctx = some c → e.arg 0 ≤ 63 → ServesOk .uiQuery a e r r (Mem.read c.intblk 8 (16 * e.arg 0))
    ((List.range 64).filter (fun i =>
      Mem.read c.intblk 1 (heldOff i + 1) % 2 == 1 && Mem.read c.intblk 1 (heldOff i) == e.arg 0)).length) ∧
  (∀ a e r, r.unreachable.contains (e.arg 0) = false → e.c.remote = true → a.flag = true →
    ServesOk .uiPostRemote a e r r (a.value % 5)) ∧
  (∀ a e r va ps, e.arg 2 ≤ 4096 → e.addr r 0 (e.arg 2) useRead = .ok va → hostMissAt e.m r e.ctx va (e.arg 2) needRd = none →
    globalSpan e.m r 0 e.ctx va (e.arg 2) needRd = .ok ps → ps.any (poisoned r) = false →
    let log := (Assoc.get? r.partLogs e.c.part).getD [] ++ ps.map (rawByte r)
    ServesOk .logWrite a e r { r with partLogs := Assoc.set r.partLogs e.c.part log } (e.arg 2)) ∧
  (∀ a e r, allowsItem e.m r e.c.part (e.arg 0) = true →
    ServesOk .counterRead a e r r.draw.2 (Config.telemetry (e.arg 0) r.draw.1).toNat) ∧
  (∀ a e r nonce dst src ps, 2944 ≤ e.arg 4 → e.addr r 0 32 useRead = .ok nonce → e.addr r 2 (e.arg 4) useWrite = .ok dst →
    hostMissAt e.m r e.ctx nonce 32 needRd = none → globalSpan e.m r 0 e.ctx nonce 32 needRd = .ok src →
    src.any (poisoned r) = false →
    let q := quoteOf e.m e.c.part (src.map (rawByte r)) r.draw.1
    hostMissAt e.m r.draw.2 e.ctx dst q.length needWr = none → globalSpan e.m r.draw.2 0 e.ctx dst q.length needWr = .ok ps →
    ServesOk .attestQuote a e r (writePlaces r.draw.2 ps q) q.length) ∧
  (∀ a e r va ps, let bs := (toBytes 8 (rdReg r.reportLost e.c.part).toNat ++ ((Assoc.get? r.reports e.c.part).getD []).flatten).take (e.arg 2)
    e.addr r 0 bs.length useWrite = .ok va →
    hostMissAt e.m r e.ctx va bs.length needWr = none → globalSpan e.m r 0 e.ctx va bs.length needWr = .ok ps →
    ServesOk .reportFetch a e r (writePlaces r ps bs) bs.length) ∧
  (∀ a e r t, ((Assoc.get? e.m.parts e.c.part).getD {}).tiles[e.arg 0]? = some t →
    ServesOk .clockInfo a e r r (stepMhz (e.m.tileHw t).clockStep + 2 ^ 16 * 100000)) ∧
  (∀ a e r va ps, e.arg 2 ≤ 256 → e.addr r 0 (e.arg 2) useWrite = .ok va → hostMissAt e.m r e.ctx va (e.arg 2) needWr = none →
    globalSpan e.m r 0 e.ctx va (e.arg 2) needWr = .ok ps →
    ServesOk .random a e r (writePlaces (randomBytes (e.arg 2) r).2 ps (randomBytes (e.arg 2) r).1) (e.arg 2)) ∧
  (∀ a e r, e.c.away = false → Serves .dbgHaltSelf a e r (haltContext r e.ctx, .away)) ∧
  (∀ a e r, ServesOk .dbgNotify a e r { r with replies := r.replies ++
    [{ kind := .dbgNotify, fn := fnOfCtx e.m e.ctx, bytes := toBytes 8 (e.arg 0) }] } 0) ∧
  (∀ a e r, e.c.owed = none → (waiters e.m r).any (fun w => w.crews.any (fun c => c.2 == e.crew.core)) = false →
    ServesOk .ctxYield a e r r 0) ∧
  (∀ a e r, e.c.owed = none → (waiters e.m r).any (fun w => w.crews.any (fun c => c.2 == e.crew.core)) = true →
    matrixNeeds r e.c.crew = false → Serves .ctxYield a e r
      (beginSave { r with calls := Assoc.modify r.calls e.key (fun c => { c with owed := some 0 }) } e.c.crew 1, .away)) ∧
  (∀ a e r, e.c.owed ≠ none → e.crew.status = .resident → ServesOk .ctxYield a e r r 0) ∧
  (∀ a e r, ServesOk .ctxExit a e r (raiseStop e.m (killContext
    (r.context e.ctx (fun c => { c with exitcode := BitVec.ofNat 32 (e.arg 0) })) e.ctx) e.ctx (some e.g.queue)) 0)

/-- The calls that go to the host are put into the proxy ring, and then complete by PXDONE (R372 calls 8, 9 and 24 to 37, R374,
R375). When a call is forwarded, and how its buffers are translated, is log 36 and log 37. -/
def Obligations.HostCallsForwarded : Prop :=
  ∀ i n a e r, serviceNum i = some n → hostCalls.contains n = true → e.blk.replay = false →
    let fn := fnOfCtx e.m e.ctx
    let f := r.func fn
    bits f.pxctl.toNat 31 31 = 1 → proxyLimits e = true → (namesHandle e.c.num = true → handleOk r fn e.ctx (e.arg 0) = true) →
    checkSpans e r (proxySpans e) = .ok →
    let i' := f.pxCount % f.pxSize
    r.calls.any (fun p => p.2.proxy == some i' && fnOfCtx e.m (p.2.part * 64 + p.2.ctx) == fn) = false →
    let t := ({ r with hostMem := Mem.writeBytes r.hostMem (f.pxbase.toNat + 128 * i') (proxyRecord e r f) } : Run).setFunc fn
      (fun f => { f with pxCount := f.pxCount + 1 })
    Serves i a e r ({ t with calls := Assoc.modify t.calls e.key (fun c => { c with proxy := some i' }) }, .away)

/-! ## Decoding and stepping -/

/-- Words written out from the encoding tables, and what each stands for (R64 to R75). -/
def Obligations.WordsDecode : Prop :=
  decode .compute 0x8100C082 = .ok (.fadd { bd := 1, fm := 0, d := 3, a := 1, b := 2 }) ∧
  decode .compute 0x28044286 = .ok (.icmp { bd := 0, fm := 0, pd := 2, cc := 1, a := 5, b := 6 }) ∧
  decode .compute 0xC0390514 = .ok (.ld { bd := 1, la := 3, sp := 4, w := 2, d := 10, a := 20 }) ∧
  decode .compute 0x43000920 = .ok (.qpop { bd := 0, la := 0, d := 9, q := 2 }) ∧
  decode .compute 0xD3044913 = .ok (.uadd { bd := 1, sd := 17, sa := 18, sb := 19 }) ∧
  decode .compute 0xD005FFFC = .ok (.brc { ps := 2, n := 1, off := 0xFFFC }) ∧
  decode .compute 0x520ABCDE = .ok (.himm { bd := 0, imm := 0xABCDE }) ∧
  decode .compute 0x57200005 = .ok (.trap { bd := 0, code := 5 }) ∧
  decode .compute 0x4A030208 = .ok (.capchk { bd := 0, la := 0, sd := 4, sa := 8 }) ∧
  decode .address 0x6000420C = .ok (.gadd { bd := 0, gd := 1, ga := 2, gb := 3 }) ∧
  decode .address 0x651B0E40 = .ok (.gst { bd := 0, la := 1, sp := 5, w := 2, gd := 7, ga := 8, sgn := 0 })

/-- What decodes to nothing: majors 0x00 and 0x7F, the reserved majors, and the majors of the other slice (R64, R71, R75). -/
def Obligations.OtherWordsRefused : Prop :=
  (∀ sl w, bits w 30 24 = 0 ∨ bits w 30 24 = 0x7F → decode sl w = .error .ill) ∧
  (∀ sl w, reservedMajor (bits w 30 24) = true → decode sl w = .error .reservedMajor) ∧
  (∀ w, 0x60 ≤ bits w 30 24 → bits w 30 24 ≤ 0x6F → decode .compute w = .error .wrongSlice) ∧
  (∀ w, 1 ≤ bits w 30 24 → bits w 30 24 ≤ 0x57 → reservedMajor (bits w 30 24) = false →
    bits w 30 24 ∉ [0x48, 0x49, 0x4A, 0x52] → decode .address w = .error .wrongSlice)

/-- Decoding the word of any well-formed instruction in its slice gives it back, whatever its operands. -/
def Obligations.DecodeEncode : Prop := ∀ i, Laws.RoundTrip.Statement i

/-- A step runs the instruction that stands at the PC of the party with the turn, the happening whose turn it is, or the choice of
the next turn (R57, R61, R75). Whose turn it is, and the choice of the next turn, are log 2. -/
def Obligations.StepRunsDecoded : Prop :=
  (∀ s e w i, Issuer s e → e.k.cimg[e.b.pc.toNat / 4]? = some w → decode .compute w.toNat = .ok i →
    (e.b.fresh = true → offender e.k.cimg 24 e.b.pc.toNat [] = none) → step s = exec i s) ∧
  (∀ s e w i, SliceIssuer s e → e.k.aimg[e.s.pc.toNat / 4]? = some w → decode .address w.toNat = .ok i →
    (e.s.pc.toNat / 4 + 1 < e.k.aimg.length ∨ opMajor w.toNat ≠ 0x52) → step s = exec i s) ∧
  (∀ s h, s.turn = .event h → step s = exec h.kind s) ∧
  (∀ s, s.turn = .choose → step s = .next (chooseNext s))

/-! ## Invariants -/

/-- Every step keeps what base camp keeps of the partitions: one tag each, and shares whose sum is at most 256 (R376, R418). That
tags stay distinct is the model's own part of it. -/
def Obligations.SharesKept : Prop := ∀ s t, s.sound → step s = .next t → t.sound

/-- The state after reset keeps it, holds no partition, crew, block, grid or context, and has every memory in its canonical form
with nothing listed; nothing has the turn, and base camp has not booted (R405). That unlisted bytes read as 0 is log 3. Every other
value at reset that the spec does not give is log 4. -/
def Obligations.ResetLeaves : Prop :=
  let s := State.reset
  s.sound ∧ s.mgmt.parts = [] ∧ s.run.crews = [] ∧ s.run.blocks = [] ∧ s.run.grids = [] ∧ s.run.contexts = [] ∧
  s.turn = .choose ∧ s.mgmt.booted = false ∧
  (∀ m ∈ [s.run.mem, s.run.spad, s.run.hostMem, s.run.peerMem, s.run.mbdata, s.mgmt.standby], Mem.wf m = true ∧ ∀ a, Mem.byte m a = 0)

/-! ## What the words leave alone -/

/-- The words of formats V and VUN write their destination in the active lanes and raise flags there; every other register and lane,
every byte of memory and all the rest of the state stay (R60, R85, R107). -/
def Obligations.VectorWordsFrame : Prop :=
  (∀ i o k (f : LaneOp) s e d, vecOp i = some (o, k, f) → wordDef i = some d → Issuer s e → Clear d e →
    ∃ t, exec i s = .next (s.after t) ∧ OnlyWarp e (fmPops o.fm o.b) (LaneFrame e.active (pair e.wide o.d)) t) ∧
  (∀ i o k (f : LaneOp) s e d, vunOp i = some (o, k, f) → wordDef i = some d → Issuer s e → Clear d e →
    ∃ t, exec i s = .next (s.after t) ∧ OnlyWarp e (fmPops o.fm o.a) (LaneFrame e.active (pair e.wide o.d)) t)

/-- Compares, FCLASS, PLOP and VOTE write one predicate in the active lanes, and p0 never (R16, R118 to R120, R123). -/
def Obligations.PredicateWordsFrame : Prop :=
  (∀ i o k (f : OpHmod → Nat → Nat → Bool × Afl) s e d, cmpOp i = some (o, k, f) → wordDef i = some d → Issuer s e → Clear d e →
    ∃ t, exec i s = .next (s.after t) ∧ OnlyWarp e (fmPops o.fm o.b) (PredFrame e.active o.pd) t) ∧
  (∀ o s e d, wordDef (.fclass o) = some d → Issuer s e → Clear d e →
    ∃ t, exec (.fclass o) s = .next (s.after t) ∧ OnlyWarp e none (PredFrame e.active o.pd) t) ∧
  (∀ o s e d, wordDef (.plop o) = some d → Issuer s e → Clear d e →
    ∃ t, exec (.plop o) s = .next (s.after t) ∧ OnlyWarp e none (PredFrame e.active o.pd) t) ∧
  (∀ i o (f : List Bool → Bool) s e d, voteOp i = some (o, f) → wordDef i = some d → Issuer s e → Clear d e →
    ∃ t, exec i s = .next (s.after t) ∧ OnlyWarp e none (PredFrame e.active o.d) t)

/-- The uniform words write one uniform register or pair and raise no flag (R139 to R142). -/
def Obligations.UniformWordsFrame : Prop :=
  (∀ i o (f : LaneOp) s e d, uniOp i = some (o, f) → wordDef i = some d → Issuer s e → Clear d e →
    ∃ t, exec i s = .next (s.after t) ∧ OnlyWarp e none (UniFrame (pair e.wide (e.w.uIdx o.sd))) t) ∧
  (∀ i o (f : LaneOp) s e d, uniImmOp i = some (o, f) → wordDef i = some d → Issuer s e → Clear d e →
    ∃ t, exec i s = .next (s.after t) ∧ OnlyWarp e none (UniFrame (pair e.wide (e.w.uIdx o.sd))) t) ∧
  (∀ o s e d, wordDef (.umov o) = some d → Issuer s e → Clear d e →
    ∃ t, exec (.umov o) s = .next (s.after t) ∧ OnlyWarp e none (UniFrame (pair e.wide (e.w.uIdx o.sd))) t) ∧
  (∀ o s e d, wordDef (.ucmp o) = some d → Issuer s e → Clear d e →
    ∃ t, exec (.ucmp o) s = .next (s.after t) ∧ OnlyWarp e none (UniFrame [e.w.uIdx o.sd]) t)

/-- GOPA, GOPI, GMOVI and GMOVK write one g register, g0 never (R21, R199 to R201). -/
def Obligations.SliceArithmeticFrame : Prop :=
  (∀ i o (f : LaneOp) s e d, gopaOp i = some (o, f) → sliceDef i = some d → SliceIssuer s e → SliceClear d e →
    ∃ t, exec i s = .next (s.after t) ∧ OnlySlice e (GFrame [o.gd]) t) ∧
  (∀ i o (f : LaneOp) s e d, gopiOp i = some (o, f) → sliceDef i = some d → SliceIssuer s e → SliceClear d e →
    ∃ t, exec i s = .next (s.after t) ∧ OnlySlice e (GFrame [o.gd]) t) ∧
  (∀ o s e d, sliceDef (.gmovi o) = some d → SliceIssuer s e → SliceClear d e →
    ∃ t, exec (.gmovi o) s = .next (s.after t) ∧ OnlySlice e (GFrame [o.gd]) t) ∧
  (∀ o s e d, sliceDef (.gmovk o) = some d → SliceIssuer s e → SliceClear d e →
    ∃ t, exec (.gmovk o) s = .next (s.after t) ∧ OnlySlice e (GFrame [o.gd]) t)

/-- BRC, JMP and JMPR to good targets change no register, predicate, LNK, flag or byte of memory, outside a handler (R133,
R134). -/
def Obligations.BranchWordsFrame : Prop :=
  (∀ o s e d, wordDef (.brc o) = some d → Issuer s e → Clear d e → e.w.hsave = none →
    (∀ l ∈ e.lanes, e.w.p l o.ps ≠ (o.n == 1) → goodTarget e (branchTarget e.b.pc 16 o.off)) →
    ∃ t, exec (.brc o) s = .next (s.after t) ∧ OnlyWarp e none StillFrame t) ∧
  (∀ o s e d, wordDef (.jmp o) = some d → Issuer s e → Clear d e → e.w.hsave = none →
    goodTarget e (branchTarget e.b.pc 21 o.off) →
    ∃ t, exec (.jmp o) s = .next (s.after t) ∧ OnlyWarp e none StillFrame t) ∧
  (∀ o s e d, wordDef (.jmpr o) = some d → Issuer s e → Clear d e → e.w.hsave = none →
    (∀ l ∈ e.lanes, goodTarget e (e.w.v l o.d)) →
    ∃ t, exec (.jmpr o) s = .next (s.after t) ∧ OnlyWarp e none StillFrame t)

/-- LD changes no byte of memory, and no register but its group in the active lanes: in spaces 0 to 3 at once, with the bytes at each
lane's address, the least significant first, in global memory when the load completes (R4, R157, R160). What it may show of the
issuer's own stores through another page, and the free value drawn for that, are R259's (log 1). The block keeps no closed interval (R398). That memory is read as the word issues is log 1. -/
def Obligations.LoadFrame : Prop :=
  ∀ o s e d ps, wordDef (.ld o) = some d → Issuer s e → Clear d e → e.blk.closedInterval = false →
    accessPlaces e o.a o.sp (accessBytes e o.w) needRd = .ok ps → poisonStop e.r ps (accessBytes e o.w) = none →
    ∃ t, exec (.ld o) s = .next (s.after t) ∧ OnlyWarp e none (fun w w' => w'.afls = w.afls ∧
      LaneFrame e.active (if 4 ≤ o.sp then [] else vRegs o.d (groupSize o.w)) w { w' with ops := w.ops } ∧
      (o.sp < 4 → w'.ops = w.ops ∧ ∀ x ∈ ps, ∀ i < groupSize o.w, w'.v x.1 (o.d + i) =
        BitVec.ofNat 32 (loadExtend e o.w (accessBytes e o.w) (loadNum e.r e.crew.block x.2 (accessBytes e o.w)) / 2 ^ (32 * i))))
      { t with free := e.r.free, stales := e.r.stales }

/-- ST changes no byte of memory but those that its active lanes store to, each at its effective address, and no register,
predicate, LNK or flag of any warp or slice (R76, R158). The block keeps no closed interval (R398). That memory is written as the
word issues is log 1. -/
def Obligations.StoreFrame : Prop :=
  ∀ o s e d ps, wordDef (.st o) = some d → Issuer s e → Clear d e → e.blk.closedInterval = false →
    accessPlaces e o.a o.sp (accessBytes e o.w) needWr = .ok ps →
    ∃ t, exec (.st o) s = .next (s.after t) ∧
      (∀ p, (∀ x ∈ ps, ∀ i < accessBytes e o.w, p ≠ x.2.add i) → rawByte t p = rawByte e.r p) ∧
      (∃ w, t.warp? e.cid e.wi = some w ∧
        { w with ops := e.w.ops, ords := e.w.ords, batches := e.w.batches, windows := e.w.windows } = e.w) ∧
      (∀ c w, c ≠ e.cid ∨ w ≠ e.wi → t.warp? c w = e.r.warp? c w) ∧
      (∀ c, t.slice? c = e.r.slice? c)

/-- ST writes its value's bytes from its effective address up, the least significant at the lowest address (R4, R158), when one lane
is active and none of its own stores through another page is still to be seen there (R259). That memory is written as the word issues
is log 1. -/
def Obligations.StoreWrites : Prop :=
  ∀ o s e d l p, wordDef (.st o) = some d → Issuer s e → Clear d e → e.blk.closedInterval = false →
    accessPlaces e o.a o.sp (accessBytes e o.w) needWr = .ok [(l, p)] →
    e.r.Agrees e.cid (laneParty e.wi l) (e.page o.sp (effAddr e o.a o.sp l)) p (accessBytes e o.w) →
    ∃ t, exec (.st o) s = .next (s.after t) ∧ ∀ i < accessBytes e o.w,
      rawByte t (p.add i) = BitVec.ofNat 8 (e.w.group l o.d (groupSize o.w) / 256 ^ i)

/-- GST changes no byte of memory but those of its width from its address up, which hold its register's low bytes, the least
significant first, and no g register or register of a warp (R4, R202); where a store of its own through another page is still to
be seen there, which of the two those bytes hold is R259's. The block keeps no closed interval (R398). That memory is
written as the word issues is log 1. -/
def Obligations.SliceStoreFrame : Prop :=
  ∀ o s e d p, sliceDef (.gst o) = some d → SliceIssuer s e → SliceClear d e → e.blk.closedInterval = false →
    sliceAccess e o.sp (e.addr o.sp o.ga) (glBytes o.w) needWr = .ok p →
    ∃ t, exec (.gst o) s = .next (s.after t) ∧
      (e.r.Agrees e.cid sliceParty (synonymPage e.m e.r e.ctx o.sp (e.addr o.sp o.ga)) p (glBytes o.w) →
        ∀ i < glBytes o.w, rawByte t (p.add i) = BitVec.ofNat 8 (e.s.gn o.gd / 256 ^ i)) ∧
      (∀ q, (∀ i < glBytes o.w, q ≠ p.add i) → rawByte t q = rawByte e.r q) ∧
      (∃ x, t.slice? e.cid = some x ∧
        { x with ord := e.s.ord, pc := e.s.pc, hints := e.s.hints, wait := e.s.wait, windows := e.s.windows, replay := e.s.replay } = e.s) ∧
      (∀ c, c ≠ e.cid → t.slice? c = e.r.slice? c) ∧ (∀ c w, t.warp? c w = e.r.warp? c w)

/-! ## Results -/

/-- Of the integer words no lane raises a flag but OF, under SAT; IADD, ISUB, IMUL, IMAD, IMIN, IMAX, INEG, IABS and DP4A raise it
exactly when clamping to the type's range changes the exact result, and write what R34 clamps; the others raise none (R94, R97,
R103, R109). -/
def Obligations.IntegerFlags : Prop :=
  (∀ i f m a b d, intOp i = some f → (f m a b d).2 = flNone ∨ (f m a b d).2 = flOF ∧ m.sat = 1) ∧
  (∀ i f, intOp i = some f → f ∈ [opIadd, opIsub, opImul, opImad, opImin, opImax, opIneg, opIabs, opDp4a] ∨
    ∀ m a b d, (f m a b d).2 = flNone) ∧
  (∀ (f : LaneOp) (x : OpHmod → Nat → Nat → Nat → Int),
    (f, x) ∈ [(opIadd, fun m a b _ => intA m a + intB m b), (opIsub, fun m a b _ => intA m a - intB m b),
      (opImul, fun m a b _ => intA m a * intB m b), (opImad, fun m a b d => intA m a * intB m b + readInt m d),
      (opImin, fun m a b _ => min (intA m a) (intB m b)), (opImax, fun m a b _ => max (intA m a) (intB m b))] →
    ∀ m a b d,
    let lo := tyLo (intSigned m) (intWidth m)
    let hi := tyHi (intSigned m) (intWidth m)
    (m.sat = 1 ∧ (x m a b d < lo ∨ hi < x m a b d) ↔ (f m a b d).2 = flOF) ∧
    (f m a b d).1 = writeInt m (if m.sat = 1 then max lo (min hi (x m a b d)) else x m a b d)) ∧
  (∀ (f : LaneOp) (sgn : OpHmod → Bool) (w : OpHmod → Nat) (x : OpHmod → Nat → Nat → Nat → Int),
    (f, sgn, w, x) ∈ [(opIneg, fun _ => true, opWidth, fun m a _ _ => -(sext (opWidth m) a)),
      (opIabs, fun _ => true, opWidth, fun m a _ _ => ((sext (opWidth m) a).natAbs : Int)),
      (opDp4a, fun m => m.n == 0 || m.sz == 1 && m.sgn == 1, fun _ => 32, fun m a b d =>
        (if (m.n == 0 || m.sz == 1 && m.sgn == 1) = true then sext 32 d else (d : Int)) +
        ((List.range 4).map (fun i => (if m.n = 0 then sext 8 (byteOf a i) else (byteOf a i : Int)) *
          (if (if m.sz = 1 then m.sgn = 1 else m.n = 0) then sext 8 (byteOf b i) else (byteOf b i : Int)))).sum)] →
    ∀ m a b d,
    let lo := tyLo (sgn m) (w m)
    let hi := tyHi (sgn m) (w m)
    (m.sat = 1 ∧ (x m a b d < lo ∨ hi < x m a b d) ↔ (f m a b d).2 = flOF) ∧
    (f m a b d).1 = wrap (w m) (if m.sat = 1 then max lo (min hi (x m a b d)) else x m a b d))

/-- IMULH gives the high half of the full product, rounded down, and no flag; IMUL gives the low half of the same product (R95). -/
def Obligations.MulHigh : Prop :=
  ∀ m a b d, m.sz = 0 → m.sat = 0 →
    let n := opWidth m
    let p := intA m a * intB m b
    opImulh m a b d = ((p / (2 ^ n : Nat) % (2 ^ n : Nat)).toNat, flNone) ∧
    (opImul m a b d).1 = (p % (2 ^ n : Nat)).toNat ∧
    (m.n = 1 → m.absa = 0 → m.nega = 0 → intA m a = (a % 2 ^ n : Nat)) ∧
    (m.n = 0 → m.absa = 0 → m.nega = 0 → intA m a = sext n a)

/-- A DS4 code is plus or minus 2^-k, or zero for k = 7 (R37); a DS8 code is the sum of two such terms (R35). In units of 1/64. -/
def Obligations.DsValues : Prop :=
  let term (s k : Nat) : Int := if k = 7 then 0 else (-1) ^ s * (2 : Int) ^ (6 - k)
  (∀ c < 16, ds4Val c = term (bits c 3 3) (bits c 2 0) ∧ -64 ≤ ds4Val c ∧ ds4Val c ≤ 64) ∧
  (∀ c < 256, ds8Val c = term (bits c 7 7) (bits c 6 4) + term (bits c 3 3) (bits c 2 0) ∧ -128 ≤ ds8Val c ∧ ds8Val c ≤ 128)

/-- CAPCHK writes its summary of a quad, whatever the quad holds (R195). -/
def Obligations.CapchkSummary : Prop :=
  ∀ o s e d, wordDef (.capchk o) = some d → Issuer s e → Clear d e → isProt e.r e.ctx = true →
    ∃ t w, exec (.capchk o) s = .next (s.after t) ∧ t.warp? e.cid e.wi = some w ∧
      let x := (w.u (e.w.uIdx o.sd)).toNat
      let quad := e.w.quad128 (e.w.uIdx o.sa)
      let tag := e.w.utags.getLsbD (e.w.uIdx o.sa / 4)
      bits x 0 0 = b2n tag ∧
      (bits x 1 1 = 1 ↔ bits quad 116 104 = partOf e.ctx * 64 + e.ctx % 64) ∧
      bits x 8 2 = (if tag then bits quad 63 57 else 0) ∧
      bits x 31 9 = 0

/-- AFLCLR clears the flags of its mask in the active lanes, and nothing else: no bound arm, no other lane (R24, R54, R150). -/
def Obligations.AflclrClears : Prop :=
  ∀ o s e d, wordDef (.aflclr o) = some d → Issuer s e → Clear d e →
    ∃ t, exec (.aflclr o) s = .next (s.after t) ∧ OnlyWarp e none (fun w w' =>
      { w' with afls := w.afls, batches := w.batches, windows := w.windows } = w ∧
      ∀ l, w'.afl l = if l < 32 ∧ e.active.getLsbD l = true then w.afl l &&& ~~~(BitVec.ofNat 8 o.mask) else w.afl l) t

/-- An arrival of n units does what the loop of R277 does: with TARGET 0 it only counts, else each TARGET in the count completes a
generation, and OVER is set when units are left after one. The waiting parties that it wakes are looked at when they are next chosen
(log 2). -/
def Obligations.ArrivalWord : Prop :=
  ∀ target count gen flags n,
    let c := (count + n) % 2 ^ 32
    let x := arrivalLoop c target (c, gen, flags)
    (target = 0 → arrivalUpdate target count gen flags n = (c, gen, flags)) ∧
    (target ≠ 0 → arrivalUpdate target count gen flags n =
      (x.1, x.2.1, if target ≤ c ∧ x.1 ≠ 0 ∧ bits x.2.2 2 2 = 0 then x.2.2 + 4 else x.2.2))

/-- Registers that discard writes: a PLOP that names p0 and a GOPA that names g0 change nothing, p0 reads as 1 and g0 as 0 (R16,
R21). -/
def Obligations.ZeroRegisters : Prop :=
  (∀ o s e d, o.pd = 0 → wordDef (.plop o) = some d → Issuer s e → Clear d e →
    ∃ t, exec (.plop o) s = .next (s.after t) ∧ OnlyWarp e none StillFrame t) ∧
  (∀ i o (f : LaneOp) s e d, gopaOp i = some (o, f) → o.gd = 0 → sliceDef i = some d → SliceIssuer s e → SliceClear d e →
    ∃ t, exec i s = .next (s.after t) ∧ OnlySlice e (GFrame []) t) ∧
  (∀ (w : Warp) l, l < 32 → w.p l 0 = true) ∧ (∀ s : ASlice, s.g 0 = 0)

/-- TRAPFENCE with an armed active lane takes Bound Trap in those lanes after it has completed, at the word after it, and clears
their arms and no flag; where the class goes to the host the warp's record says so (R145, R323, R329). -/
def Obligations.TrapfenceTraps : Prop :=
  ∀ o s e d, wordDef (.trapfence o) = some d → Issuer s e → Clear d e → e.settled → e.w.arms &&& e.active ≠ 0#32 →
    dispOf e.g tcBound e.w.hsave.isSome = .host →
    ∃ t w rec_, exec (.trapfence o) s = .next (s.after t) ∧ t.warp? e.cid e.wi = some w ∧ w.hostrec = some rec_ ∧
      rec_.code = 0x32 ∧ rec_.mask = e.w.arms &&& e.active ∧ rec_.pc = e.b.pc + 4 ∧ rec_.origin = e.b.pc ∧
      w.arms = e.w.arms &&& ~~~e.active ∧ (∀ l, w.afl l = e.w.afl l)

/-- A trap whose class goes to the handler: the whole batch begins a run at CHAND with its guard holding, the record stands in s368
to s383 under window base 256, each lane's LNK is the return mark, what it displaced is saved with its capability tags, and no vector
register, predicate, flag or bound arm changes (R192, R325). The skip count and the redo mask are those of what the word still passes
over (R64), and no word that it follows is outstanding; that a trap may also come later is log 6. ECC Uncorrectable does what R394 to
R397 say as well. -/
def Obligations.TrapEntersHandler : Prop :=
  ∀ i s e d t, wordDef i = some d → Issuer s e → Clear d e → d.body e = .error (.trap t) → t.code ≠ tcHostPage → t.code ≠ tcEcc →
    e.settled → d.mayBeLate e t = false →
    t.mop = none → t.reg = false → e.w.hsave = none → dispOf e.g t.code false = .handler → e.b.lanes ≠ 0#32 →
    ∃ r w, exec i s = .next (s.after r) ∧ r.warp? e.cid e.wi = some w ∧
      w.wb = 3 ∧ (∀ f, 112 ≤ f → f < 128 → w.uIdx f = 256 + f) ∧
      (∃ b ∈ w.batches, b.lanes = e.b.lanes ∧ b.pc = BitVec.ofNat 32 e.g.chand ∧ b.fresh = true ∧ b.guard = allLanes ∧
        b.hints = {} ∧ b.wait = .none) ∧
      w.u 368 = BitVec.ofNat 32 (t.code + 2 ^ 8 * trapClass t.code + 2 ^ 12 * skipCount e.b.replay + 2 ^ 17 * redoMask e.b.replay) ∧
      w.u 369 = e.b.pc ∧ w.u 370 = e.b.pc ∧ w.u 371 = t.mask ∧
      w.u 372 = BitVec.ofNat 32 (t.addr % 2 ^ 64) ∧ w.u 373 = BitVec.ofNat 32 (t.addr % 2 ^ 64 / 2 ^ 32) ∧ w.u 374 = BitVec.ofNat 32 t.info0 ∧ w.u 375 = BitVec.ofNat 32 t.info1 ∧
      (∀ k < 8, w.u (376 + k) = BitVec.ofNat 32 (gatherBytes 4 (fun i => (e.w.afl (4 * k + i)).toNat))) ∧
      (∀ n, n < 368 ∨ 384 ≤ n → w.u n = e.w.u n) ∧
      (∀ l, l < 32 → w.lnk l = if e.b.lanes.getLsbD l then 0xFFFFFFFC#32 else e.w.lnk l) ∧
      (∃ h, w.hsave = some h ∧ h.wb = e.w.wb ∧ h.uregs = (List.range 16).map (fun k => e.w.u (368 + k)) ∧ h.tags = e.w.utags ∧ h.lanes = e.b.lanes ∧
        h.restart = { e.b with wait := .none }) ∧
      w.vregs = e.w.vregs ∧ w.preds = e.w.preds ∧ w.afls = e.w.afls ∧ w.arms = e.w.arms

/-- R64: the trap of a long-latency word that comes after n of its LA followers have issued has the word's own PC and skip count n, and
its lanes stand at the word with n followers to pass over and then the place where they stood; and a word that executes again with
followers to pass over is followed by that place, none of them executing again. That behind a failed word only some followers
issue is log 6. -/
def Obligations.LateTrapSkips : Prop :=
  (∀ m r (a : EvArgs) c w bl g cls lanes la n b t x b', Assoc.get? r.crews a.crew = some c → c.warps[a.warp]? = some w →
    Assoc.get? r.blocks c.block = some bl → Assoc.get? r.grids bl.grid = some g →
    w.ops = [{ id := a.op, cls := cls, data := .late lanes la b t none }] →
    w.windows = [x] → x.op = a.op → x.left = [(lanes, la - n)] → n ≤ la →
    w.batches = [b'] → b'.lanes = lanes → b'.wait = .none → lanes ≠ 0#32 →
    w.hostrec = none → w.hsave = none → c.status ≠ .saved →
    t.code ≠ tcHostPage → t.code ≠ tcEcc → t.mop = none → t.reg = false → dispOf g t.code false = .host →
    ∃ r' w' rec_, Happens .ldCompletion a m r r' ∧ r'.warp? a.crew a.warp = some w' ∧ w'.hostrec = some rec_ ∧
      rec_.code = t.code ∧ rec_.pc = b.pc ∧ rec_.origin = b.pc ∧ rec_.skip = n ∧ rec_.redo = 0 ∧
      w'.batches = [{ b with lanes := lanes, wait := .none, replay := [⟨lanes, List.replicate n none, b'.spot⟩] }] ∧
      w'.ops = [] ∧ w'.windows = [] ∧ w'.vregs = w.vregs ∧ w'.preds = w.preds ∧ w'.uregs = w.uregs) ∧
  (∀ i s e d f p w, wordDef i = some d → Issuer s e → Clear d e → d.body e = .ok f → f.next = .seq → e.b.replay = [p] →
    (∀ y ∈ p.steps, y = none) → p.lanes ≠ 0#32 → f.run.warp? e.cid e.wi = some w →
    ∃ t w' b, exec i s = .next (s.after t) ∧ t.warp? e.cid e.wi = some w' ∧ b ∈ w'.batches ∧
      b.lanes = p.lanes ∧ b.pc = p.next.pc)

/-- A RET of all the handler's lanes to the return mark ends the handler: the window base, s368 to s383 with their quads' tags, and
each lane's LNK are back, and the lanes stand where the handler was entered from, those that have exited left out (R192, R326). The
return waits for pops of its handler (R166; log 21). -/
def Obligations.HandlerReturns : Prop :=
  ∀ s e d h, wordDef .ret = some d → Issuer s e → Clear d e → e.w.hsave = some h → h.uregs.length = 16 →
    e.active = e.b.lanes → e.b.lanes ≠ 0#32 → e.b.lanes = h.lanes &&& ~~~e.w.exited → (∀ l ∈ e.lanes, e.w.lnk l = 0xFFFFFFFC#32) →
    (∀ b ∈ e.w.batches, lowLane b.lanes = e.lead ∨ b.wait ≠ .mark) → behindPop e.w.windows e.w.ops e.b.lanes = false →
    ∃ t w, exec .ret s = .next (s.after t) ∧ t.warp? e.cid e.wi = some w ∧ w.hsave = none ∧ w.wb = h.wb ∧
      (∀ k < 16, w.u (368 + k) = h.uregs.getD k 0) ∧
      (∀ l ∈ e.lanes, w.lnk l = (Assoc.get? h.lnks l).getD 0) ∧
      (∀ k, 92 ≤ k → k < 96 → w.utags.getLsbD k = h.tags.getLsbD k) ∧ h.restart.only e.b.lanes ∈ w.batches ∧
      w.vregs = e.w.vregs ∧ w.preds = e.w.preds ∧ w.afls = e.w.afls

/-- A context reaches no byte of device memory outside the blocks that its own partition's stage 2 maps (R345), and, during a pack-up,
none whose home lies on a tile that it affects (R390). That no translation of device pages is kept is log 8, and which accesses a pack-up
lets finish is log 38. -/
def Obligations.PartitionIsolation : Prop :=
  ∀ m r tile ctx va need acc a, globalPlace m r tile ctx va need acc = .ok (.dev a) →
    ∃ p k x, Assoc.get? m.parts (partOf ctx) = some p ∧ p.s2[k]? = some x ∧ x.toNat % 2 = 1 ∧ bits x.toNat 1 1 = 0 ∧
      a / 2 ^ 21 = bits x.toNat 56 21 ∧ k * 2 ^ 21 < p.s2limit ∧ homeHeld m r ctx va = false

/-- Every turn of a party, every choice of a turn and every happening is a step that answers a next state: nothing that the machine
does of itself is refused. The choice of turns is log 2, and the one fault of the model is log 5. -/
def Obligations.StepsAreSafe : Prop :=
  ∀ s : State, (∀ h, s.turn = .event h → wordDef h.kind = none ∧ sliceDef h.kind = none) → s.safe
end

