-- ==== Sys2Proof/Laws/Store.lean ====
section
/-! SUPPORT. Laws of finite maps, register files and byte memories: read after write, and the canonical form kept by every
operation. -/

namespace Sys2Proof.Machine

variable {α : Type}

/-! ## Finite maps -/

@[simp] theorem Assoc.get?_nil (k : Nat) : Assoc.get? ([] : Assoc α) k = none := rfl

theorem Assoc.get?_cons (j : Nat) (v : α) (m : Assoc α) (k : Nat) :
    Assoc.get? ((j, v) :: m) k = if j = k then some v else Assoc.get? m k := rfl

@[simp] theorem Assoc.get?_set_self (m : Assoc α) (k : Nat) (v : α) : Assoc.get? (Assoc.set m k v) k = some v := by
  induction m with
  | nil => simp [Assoc.set, Assoc.get?]
  | cons p m ih =>
    obtain ⟨j, u⟩ := p
    simp only [Assoc.set]
    split
    · simp [Assoc.get?]
    · split
      · simp [Assoc.get?]
      · rename_i h _
        simp [Assoc.get?, h, ih]

@[simp] theorem Assoc.get?_set_ne (m : Assoc α) {k n : Nat} (v : α) (h : k ≠ n) :
    Assoc.get? (Assoc.set m k v) n = Assoc.get? m n := by
  induction m with
  | nil => simp [Assoc.set, Assoc.get?, h]
  | cons p m ih =>
    obtain ⟨j, u⟩ := p
    simp only [Assoc.set]
    split
    · rename_i hj
      subst hj
      simp [Assoc.get?, h]
    · split
      · simp [Assoc.get?, h]
      · simp [Assoc.get?, ih]

@[simp] theorem Assoc.get?_erase_self (m : Assoc α) (k : Nat) : Assoc.get? (Assoc.erase m k) k = none := by
  induction m with
  | nil => rfl
  | cons p m ih =>
    obtain ⟨j, u⟩ := p
    by_cases h : j = k
    · simpa [Assoc.erase, h] using ih
    · have : (j != k) = true := by simpa using h
      simpa [Assoc.erase, this, Assoc.get?, h] using ih

@[simp] theorem Assoc.get?_erase_ne (m : Assoc α) {k n : Nat} (h : k ≠ n) :
    Assoc.get? (Assoc.erase m k) n = Assoc.get? m n := by
  induction m with
  | nil => rfl
  | cons p m ih =>
    obtain ⟨j, u⟩ := p
    by_cases hj : j = k
    · subst hj
      simpa [Assoc.erase, Assoc.get?, h] using ih
    · have : (j != k) = true := by simpa using hj
      simp only [Assoc.erase, List.filter_cons, this, if_true, Assoc.get?_cons]
      split
      · rfl
      · exact ih

theorem Assoc.get?_modify_self (m : Assoc α) (k : Nat) (f : α → α) :
    Assoc.get? (Assoc.modify m k f) k = (Assoc.get? m k).map f := by
  unfold Assoc.modify
  split <;> rename_i h <;> simp [h]

@[simp] theorem Assoc.get?_modify_ne (m : Assoc α) {k n : Nat} (f : α → α) (h : k ≠ n) :
    Assoc.get? (Assoc.modify m k f) n = Assoc.get? m n := by
  unfold Assoc.modify
  split
  · rfl
  · simp [h]

/-- The key at the head of a sorted map is below every other. -/
theorem Assoc.sorted_cons {p : Nat × α} {m : Assoc α} :
    Assoc.sorted (p :: m) = true ↔ (∀ q ∈ m, p.1 < q.1) ∧ Assoc.sorted m = true := by
  induction m generalizing p with
  | nil => simp [Assoc.sorted]
  | cons q m ih =>
    simp only [Assoc.sorted, Bool.and_eq_true, decide_eq_true_eq, List.mem_cons, forall_eq_or_imp]
    constructor
    · rintro ⟨h, hs⟩
      exact ⟨⟨h, fun x hx => Nat.lt_trans h ((ih.mp hs).1 x hx)⟩, hs⟩
    · rintro ⟨⟨h, _⟩, hs⟩
      exact ⟨h, hs⟩

theorem Assoc.mem_set {m : Assoc α} {k : Nat} {v : α} {q : Nat × α} (h : q ∈ Assoc.set m k v) : q = (k, v) ∨ q ∈ m := by
  induction m with
  | nil => simpa [Assoc.set] using h
  | cons p m ih =>
    obtain ⟨j, u⟩ := p
    simp only [Assoc.set] at h
    split at h
    · rcases List.mem_cons.mp h with h | h
      · exact .inl h
      · exact .inr (List.mem_cons_of_mem _ h)
    · split at h
      · rcases List.mem_cons.mp h with h | h
        · exact .inl h
        · exact .inr h
      · rcases List.mem_cons.mp h with h | h
        · exact .inr (h ▸ List.mem_cons_self)
        · exact (ih h).imp id (List.mem_cons_of_mem _)

theorem Assoc.sorted_set {m : Assoc α} (k : Nat) (v : α) (h : Assoc.sorted m = true) :
    Assoc.sorted (Assoc.set m k v) = true := by
  induction m with
  | nil => rfl
  | cons p m ih =>
    obtain ⟨j, u⟩ := p
    have hp := Assoc.sorted_cons.mp h
    simp only [Assoc.set]
    split
    · rename_i hj
      subst hj
      exact Assoc.sorted_cons.mpr hp
    · split
      · rename_i hk
        refine Assoc.sorted_cons.mpr ⟨fun q hq => ?_, h⟩
        rcases List.mem_cons.mp hq with hq | hq
        · exact hq ▸ hk
        · exact Nat.lt_trans hk (hp.1 q hq)
      · refine Assoc.sorted_cons.mpr ⟨fun q hq => ?_, ih hp.2⟩
        rcases Assoc.mem_set hq with hq | hq
        · subst hq
          show j < k
          omega
        · exact hp.1 q hq

theorem Assoc.sorted_filter {m : Assoc α} (f : Nat × α → Bool) (h : Assoc.sorted m = true) :
    Assoc.sorted (m.filter f) = true := by
  induction m with
  | nil => rfl
  | cons p m ih =>
    have hp := Assoc.sorted_cons.mp h
    by_cases hf : f p = true
    · rw [List.filter_cons_of_pos hf]
      exact Assoc.sorted_cons.mpr ⟨fun q hq => hp.1 q ((List.mem_filter.mp hq).1), ih hp.2⟩
    · rw [List.filter_cons_of_neg hf]
      exact ih hp.2

theorem Assoc.sorted_erase {m : Assoc α} (k : Nat) (h : Assoc.sorted m = true) : Assoc.sorted (Assoc.erase m k) = true :=
  Assoc.sorted_filter _ h

theorem Assoc.sorted_modify {m : Assoc α} (k : Nat) (f : α → α) (h : Assoc.sorted m = true) :
    Assoc.sorted (Assoc.modify m k f) = true := by
  unfold Assoc.modify
  split
  · exact h
  · exact Assoc.sorted_set k _ h

/-! ## Register files -/

@[simp] theorem rdReg_wrReg_self {n : Nat} (m : Assoc (BitVec n)) (k : Nat) (v : BitVec n) : rdReg (wrReg m k v) k = v := by
  unfold rdReg wrReg
  split
  · rename_i h
    simp [h]
  · simp

@[simp] theorem rdReg_wrReg_ne {n : Nat} (m : Assoc (BitVec n)) {k j : Nat} (v : BitVec n) (h : k ≠ j) :
    rdReg (wrReg m k v) j = rdReg m j := by
  unfold rdReg wrReg
  split <;> simp [h]

theorem regsWf_wrReg {n : Nat} {m : Assoc (BitVec n)} (k : Nat) (v : BitVec n) (h : regsWf m = true) :
    regsWf (wrReg m k v) = true := by
  simp only [regsWf, Bool.and_eq_true, List.all_eq_true] at h ⊢
  unfold wrReg
  split
  · exact ⟨Assoc.sorted_erase k h.1, fun q hq => h.2 q ((List.mem_filter.mp hq).1)⟩
  · rename_i hv
    refine ⟨Assoc.sorted_set k v h.1, fun q hq => ?_⟩
    rcases Assoc.mem_set hq with hq | hq
    · subst hq
      simpa using hv
    · exact h.2 q hq

theorem regsWf_filter {n : Nat} {m : Assoc (BitVec n)} (f : Nat × BitVec n → Bool) (h : regsWf m = true) :
    regsWf (m.filter f) = true := by
  simp only [regsWf, Bool.and_eq_true, List.all_eq_true] at h ⊢
  exact ⟨Assoc.sorted_filter f h.1, fun q hq => h.2 q ((List.mem_filter.mp hq).1)⟩

/-! ## Memories -/

@[simp] theorem Mem.byte_setByte_self (m : Mem) (a : Nat) (b : Byte) : Mem.byte (Mem.setByte m a b) a = b :=
  rdReg_wrReg_self _ _ _

@[simp] theorem Mem.byte_setByte_ne (m : Mem) {a x : Nat} (b : Byte) (h : a ≠ x) :
    Mem.byte (Mem.setByte m a b) x = Mem.byte m x := rdReg_wrReg_ne _ _ h

theorem Mem.wf_setByte {m : Mem} (a : Nat) (b : Byte) (h : Mem.wf m = true) : Mem.wf (Mem.setByte m a b) = true :=
  regsWf_wrReg a b h

theorem Mem.wf_writeBytes {m : Mem} (a : Nat) (bs : List Byte) (h : Mem.wf m = true) :
    Mem.wf (Mem.writeBytes m a bs) = true := by
  induction bs generalizing m a with
  | nil => exact h
  | cons b bs ih => exact ih (a + 1) (Mem.wf_setByte a b h)

theorem Mem.wf_write {m : Mem} (n a x : Nat) (h : Mem.wf m = true) : Mem.wf (Mem.write m n a x) = true :=
  Mem.wf_writeBytes a _ h

theorem Mem.wf_zero {m : Mem} (a n : Nat) (h : Mem.wf m = true) : Mem.wf (Mem.zero m a n) = true := regsWf_filter _ h

/-- Outside the bytes written a memory reads as before. -/
theorem Mem.byte_writeBytes_out (m : Mem) {a x : Nat} (bs : List Byte) (h : x < a ∨ a + bs.length ≤ x) :
    Mem.byte (Mem.writeBytes m a bs) x = Mem.byte m x := by
  induction bs generalizing m a with
  | nil => rfl
  | cons b bs ih =>
    simp only [List.length_cons] at h
    have h1 := ih (Mem.setByte m a b) (a := a + 1) (by omega)
    have h2 : a ≠ x := by omega
    rw [Mem.writeBytes, h1, Mem.byte_setByte_ne _ _ h2]

/-- A byte written reads back. -/
theorem Mem.byte_writeBytes_in (m : Mem) (a : Nat) (bs : List Byte) (i : Nat) (h : i < bs.length) :
    Mem.byte (Mem.writeBytes m a bs) (a + i) = bs[i] := by
  induction bs generalizing m a i with
  | nil => exact absurd h (Nat.not_lt_zero i)
  | cons b bs ih =>
    cases i with
    | zero =>
      have h1 := Mem.byte_writeBytes_out (Mem.setByte m a b) (a := a + 1) (x := a) bs (by omega)
      simpa [Mem.writeBytes] using h1
    | succ i =>
      have h1 := ih (Mem.setByte m a b) (a + 1) i (by simpa using h)
      have h2 : a + (i + 1) = a + 1 + i := by omega
      rw [Mem.writeBytes, h2, h1]
      rfl

end Sys2Proof.Machine
end

