-- ==== Sys2Proof/Laws/State.lean ====
section
/-! SUPPORT. Laws of the state's updates: what each leaves alone, field by field, and what the object it changes reads as. -/

namespace Sys2Proof.Machine

/-! ## Fields of the run that an update leaves alone -/

@[simp] theorem Run.crew_mem (r : Run) (c : Nat) (f : Crew → Crew) : (r.crew c f).mem = r.mem := rfl
@[simp] theorem Run.crew_capTags (r : Run) (c : Nat) (f : Crew → Crew) : (r.crew c f).capTags = r.capTags := rfl
@[simp] theorem Run.crew_poison (r : Run) (c : Nat) (f : Crew → Crew) : (r.crew c f).poison = r.poison := rfl
@[simp] theorem Run.crew_hostMem (r : Run) (c : Nat) (f : Crew → Crew) : (r.crew c f).hostMem = r.hostMem := rfl
@[simp] theorem Run.crew_peerMem (r : Run) (c : Nat) (f : Crew → Crew) : (r.crew c f).peerMem = r.peerMem := rfl
@[simp] theorem Run.crew_spad (r : Run) (c : Nat) (f : Crew → Crew) : (r.crew c f).spad = r.spad := rfl
@[simp] theorem Run.crew_blocks (r : Run) (c : Nat) (f : Crew → Crew) : (r.crew c f).blocks = r.blocks := rfl
@[simp] theorem Run.crew_grids (r : Run) (c : Nat) (f : Crew → Crew) : (r.crew c f).grids = r.grids := rfl
@[simp] theorem Run.crew_contexts (r : Run) (c : Nat) (f : Crew → Crew) : (r.crew c f).contexts = r.contexts := rfl
@[simp] theorem Run.crew_cores (r : Run) (c : Nat) (f : Crew → Crew) : (r.crew c f).cores = r.cores := rfl
@[simp] theorem Run.crew_tiles (r : Run) (c : Nat) (f : Crew → Crew) : (r.crew c f).tiles = r.tiles := rfl
@[simp] theorem Run.crew_matrix (r : Run) (c : Nat) (f : Crew → Crew) : (r.crew c f).matrix = r.matrix := rfl
@[simp] theorem Run.crew_funcs (r : Run) (c : Nat) (f : Crew → Crew) : (r.crew c f).funcs = r.funcs := rfl
@[simp] theorem Run.crew_calls (r : Run) (c : Nat) (f : Crew → Crew) : (r.crew c f).calls = r.calls := rfl
@[simp] theorem Run.crew_svcQueues (r : Run) (c : Nat) (f : Crew → Crew) : (r.crew c f).svcQueues = r.svcQueues := rfl
@[simp] theorem Run.crew_faultQueues (r : Run) (c : Nat) (f : Crew → Crew) : (r.crew c f).faultQueues = r.faultQueues := rfl
@[simp] theorem Run.crew_deficits (r : Run) (c : Nat) (f : Crew → Crew) : (r.crew c f).deficits = r.deficits := rfl
@[simp] theorem Run.crew_taken (r : Run) (c : Nat) (f : Crew → Crew) : (r.crew c f).taken = r.taken := rfl
@[simp] theorem Run.crew_order (r : Run) (c : Nat) (f : Crew → Crew) : (r.crew c f).order = r.order := rfl
@[simp] theorem Run.crew_digestReports (r : Run) (c : Nat) (f : Crew → Crew) : (r.crew c f).digestReports = r.digestReports := rfl
@[simp] theorem Run.crew_unreachable (r : Run) (c : Nat) (f : Crew → Crew) : (r.crew c f).unreachable = r.unreachable := rfl
@[simp] theorem Run.crew_floods (r : Run) (c : Nat) (f : Crew → Crew) : (r.crew c f).floods = r.floods := rfl
@[simp] theorem Run.crew_messages (r : Run) (c : Nat) (f : Crew → Crew) : (r.crew c f).messages = r.messages := rfl
@[simp] theorem Run.crew_epoch (r : Run) (c : Nat) (f : Crew → Crew) : (r.crew c f).epoch = r.epoch := rfl
@[simp] theorem Run.crew_period (r : Run) (c : Nat) (f : Crew → Crew) : (r.crew c f).period = r.period := rfl
@[simp] theorem Run.crew_expired (r : Run) (c : Nat) (f : Crew → Crew) : (r.crew c f).expired = r.expired := rfl
@[simp] theorem Run.crew_owner (r : Run) (c : Nat) (f : Crew → Crew) : (r.crew c f).owner = r.owner := rfl
@[simp] theorem Run.crew_partLogs (r : Run) (c : Nat) (f : Crew → Crew) : (r.crew c f).partLogs = r.partLogs := rfl
@[simp] theorem Run.crew_reports (r : Run) (c : Nat) (f : Crew → Crew) : (r.crew c f).reports = r.reports := rfl
@[simp] theorem Run.crew_reportLost (r : Run) (c : Nat) (f : Crew → Crew) : (r.crew c f).reportLost = r.reportLost := rfl
@[simp] theorem Run.crew_errLogs (r : Run) (c : Nat) (f : Crew → Crew) : (r.crew c f).errLogs = r.errLogs := rfl
@[simp] theorem Run.crew_errLost (r : Run) (c : Nat) (f : Crew → Crew) : (r.crew c f).errLost = r.errLost := rfl
@[simp] theorem Run.crew_dropLog (r : Run) (c : Nat) (f : Crew → Crew) : (r.crew c f).dropLog = r.dropLog := rfl
@[simp] theorem Run.crew_dropLost (r : Run) (c : Nat) (f : Crew → Crew) : (r.crew c f).dropLost = r.dropLost := rfl
@[simp] theorem Run.crew_mbcmd (r : Run) (c : Nat) (f : Crew → Crew) : (r.crew c f).mbcmd = r.mbcmd := rfl
@[simp] theorem Run.crew_mbstat (r : Run) (c : Nat) (f : Crew → Crew) : (r.crew c f).mbstat = r.mbstat := rfl
@[simp] theorem Run.crew_mbdata (r : Run) (c : Nat) (f : Crew → Crew) : (r.crew c f).mbdata = r.mbdata := rfl
@[simp] theorem Run.crew_replies (r : Run) (c : Nat) (f : Crew → Crew) : (r.crew c f).replies = r.replies := rfl
@[simp] theorem Run.crew_free (r : Run) (c : Nat) (f : Crew → Crew) : (r.crew c f).free = r.free := rfl

@[simp] theorem Run.block_mem (r : Run) (b : Nat) (f : Block → Block) : (r.block b f).mem = r.mem := rfl
@[simp] theorem Run.block_capTags (r : Run) (b : Nat) (f : Block → Block) : (r.block b f).capTags = r.capTags := rfl
@[simp] theorem Run.block_poison (r : Run) (b : Nat) (f : Block → Block) : (r.block b f).poison = r.poison := rfl
@[simp] theorem Run.block_hostMem (r : Run) (b : Nat) (f : Block → Block) : (r.block b f).hostMem = r.hostMem := rfl
@[simp] theorem Run.block_peerMem (r : Run) (b : Nat) (f : Block → Block) : (r.block b f).peerMem = r.peerMem := rfl
@[simp] theorem Run.block_spad (r : Run) (b : Nat) (f : Block → Block) : (r.block b f).spad = r.spad := rfl
@[simp] theorem Run.block_crews (r : Run) (b : Nat) (f : Block → Block) : (r.block b f).crews = r.crews := rfl
@[simp] theorem Run.block_grids (r : Run) (b : Nat) (f : Block → Block) : (r.block b f).grids = r.grids := rfl
@[simp] theorem Run.block_contexts (r : Run) (b : Nat) (f : Block → Block) : (r.block b f).contexts = r.contexts := rfl
@[simp] theorem Run.block_cores (r : Run) (b : Nat) (f : Block → Block) : (r.block b f).cores = r.cores := rfl
@[simp] theorem Run.block_tiles (r : Run) (b : Nat) (f : Block → Block) : (r.block b f).tiles = r.tiles := rfl
@[simp] theorem Run.block_matrix (r : Run) (b : Nat) (f : Block → Block) : (r.block b f).matrix = r.matrix := rfl
@[simp] theorem Run.block_funcs (r : Run) (b : Nat) (f : Block → Block) : (r.block b f).funcs = r.funcs := rfl
@[simp] theorem Run.block_calls (r : Run) (b : Nat) (f : Block → Block) : (r.block b f).calls = r.calls := rfl
@[simp] theorem Run.block_svcQueues (r : Run) (b : Nat) (f : Block → Block) : (r.block b f).svcQueues = r.svcQueues := rfl
@[simp] theorem Run.block_faultQueues (r : Run) (b : Nat) (f : Block → Block) : (r.block b f).faultQueues = r.faultQueues := rfl
@[simp] theorem Run.block_deficits (r : Run) (b : Nat) (f : Block → Block) : (r.block b f).deficits = r.deficits := rfl
@[simp] theorem Run.block_taken (r : Run) (b : Nat) (f : Block → Block) : (r.block b f).taken = r.taken := rfl
@[simp] theorem Run.block_order (r : Run) (b : Nat) (f : Block → Block) : (r.block b f).order = r.order := rfl
@[simp] theorem Run.block_digestReports (r : Run) (b : Nat) (f : Block → Block) : (r.block b f).digestReports = r.digestReports := rfl
@[simp] theorem Run.block_unreachable (r : Run) (b : Nat) (f : Block → Block) : (r.block b f).unreachable = r.unreachable := rfl
@[simp] theorem Run.block_floods (r : Run) (b : Nat) (f : Block → Block) : (r.block b f).floods = r.floods := rfl
@[simp] theorem Run.block_messages (r : Run) (b : Nat) (f : Block → Block) : (r.block b f).messages = r.messages := rfl
@[simp] theorem Run.block_epoch (r : Run) (b : Nat) (f : Block → Block) : (r.block b f).epoch = r.epoch := rfl
@[simp] theorem Run.block_period (r : Run) (b : Nat) (f : Block → Block) : (r.block b f).period = r.period := rfl
@[simp] theorem Run.block_expired (r : Run) (b : Nat) (f : Block → Block) : (r.block b f).expired = r.expired := rfl
@[simp] theorem Run.block_owner (r : Run) (b : Nat) (f : Block → Block) : (r.block b f).owner = r.owner := rfl
@[simp] theorem Run.block_partLogs (r : Run) (b : Nat) (f : Block → Block) : (r.block b f).partLogs = r.partLogs := rfl
@[simp] theorem Run.block_reports (r : Run) (b : Nat) (f : Block → Block) : (r.block b f).reports = r.reports := rfl
@[simp] theorem Run.block_reportLost (r : Run) (b : Nat) (f : Block → Block) : (r.block b f).reportLost = r.reportLost := rfl
@[simp] theorem Run.block_errLogs (r : Run) (b : Nat) (f : Block → Block) : (r.block b f).errLogs = r.errLogs := rfl
@[simp] theorem Run.block_errLost (r : Run) (b : Nat) (f : Block → Block) : (r.block b f).errLost = r.errLost := rfl
@[simp] theorem Run.block_dropLog (r : Run) (b : Nat) (f : Block → Block) : (r.block b f).dropLog = r.dropLog := rfl
@[simp] theorem Run.block_dropLost (r : Run) (b : Nat) (f : Block → Block) : (r.block b f).dropLost = r.dropLost := rfl
@[simp] theorem Run.block_mbcmd (r : Run) (b : Nat) (f : Block → Block) : (r.block b f).mbcmd = r.mbcmd := rfl
@[simp] theorem Run.block_mbstat (r : Run) (b : Nat) (f : Block → Block) : (r.block b f).mbstat = r.mbstat := rfl
@[simp] theorem Run.block_mbdata (r : Run) (b : Nat) (f : Block → Block) : (r.block b f).mbdata = r.mbdata := rfl
@[simp] theorem Run.block_replies (r : Run) (b : Nat) (f : Block → Block) : (r.block b f).replies = r.replies := rfl
@[simp] theorem Run.block_free (r : Run) (b : Nat) (f : Block → Block) : (r.block b f).free = r.free := rfl

@[simp] theorem Run.grid_mem (r : Run) (g : Nat) (f : Grid → Grid) : (r.grid g f).mem = r.mem := rfl
@[simp] theorem Run.grid_capTags (r : Run) (g : Nat) (f : Grid → Grid) : (r.grid g f).capTags = r.capTags := rfl
@[simp] theorem Run.grid_poison (r : Run) (g : Nat) (f : Grid → Grid) : (r.grid g f).poison = r.poison := rfl
@[simp] theorem Run.grid_hostMem (r : Run) (g : Nat) (f : Grid → Grid) : (r.grid g f).hostMem = r.hostMem := rfl
@[simp] theorem Run.grid_peerMem (r : Run) (g : Nat) (f : Grid → Grid) : (r.grid g f).peerMem = r.peerMem := rfl
@[simp] theorem Run.grid_spad (r : Run) (g : Nat) (f : Grid → Grid) : (r.grid g f).spad = r.spad := rfl
@[simp] theorem Run.grid_crews (r : Run) (g : Nat) (f : Grid → Grid) : (r.grid g f).crews = r.crews := rfl
@[simp] theorem Run.grid_blocks (r : Run) (g : Nat) (f : Grid → Grid) : (r.grid g f).blocks = r.blocks := rfl
@[simp] theorem Run.grid_contexts (r : Run) (g : Nat) (f : Grid → Grid) : (r.grid g f).contexts = r.contexts := rfl
@[simp] theorem Run.grid_cores (r : Run) (g : Nat) (f : Grid → Grid) : (r.grid g f).cores = r.cores := rfl
@[simp] theorem Run.grid_tiles (r : Run) (g : Nat) (f : Grid → Grid) : (r.grid g f).tiles = r.tiles := rfl
@[simp] theorem Run.grid_matrix (r : Run) (g : Nat) (f : Grid → Grid) : (r.grid g f).matrix = r.matrix := rfl
@[simp] theorem Run.grid_funcs (r : Run) (g : Nat) (f : Grid → Grid) : (r.grid g f).funcs = r.funcs := rfl
@[simp] theorem Run.grid_calls (r : Run) (g : Nat) (f : Grid → Grid) : (r.grid g f).calls = r.calls := rfl
@[simp] theorem Run.grid_svcQueues (r : Run) (g : Nat) (f : Grid → Grid) : (r.grid g f).svcQueues = r.svcQueues := rfl
@[simp] theorem Run.grid_faultQueues (r : Run) (g : Nat) (f : Grid → Grid) : (r.grid g f).faultQueues = r.faultQueues := rfl
@[simp] theorem Run.grid_deficits (r : Run) (g : Nat) (f : Grid → Grid) : (r.grid g f).deficits = r.deficits := rfl
@[simp] theorem Run.grid_taken (r : Run) (g : Nat) (f : Grid → Grid) : (r.grid g f).taken = r.taken := rfl
@[simp] theorem Run.grid_order (r : Run) (g : Nat) (f : Grid → Grid) : (r.grid g f).order = r.order := rfl
@[simp] theorem Run.grid_digestReports (r : Run) (g : Nat) (f : Grid → Grid) : (r.grid g f).digestReports = r.digestReports := rfl
@[simp] theorem Run.grid_unreachable (r : Run) (g : Nat) (f : Grid → Grid) : (r.grid g f).unreachable = r.unreachable := rfl
@[simp] theorem Run.grid_floods (r : Run) (g : Nat) (f : Grid → Grid) : (r.grid g f).floods = r.floods := rfl
@[simp] theorem Run.grid_messages (r : Run) (g : Nat) (f : Grid → Grid) : (r.grid g f).messages = r.messages := rfl
@[simp] theorem Run.grid_epoch (r : Run) (g : Nat) (f : Grid → Grid) : (r.grid g f).epoch = r.epoch := rfl
@[simp] theorem Run.grid_period (r : Run) (g : Nat) (f : Grid → Grid) : (r.grid g f).period = r.period := rfl
@[simp] theorem Run.grid_expired (r : Run) (g : Nat) (f : Grid → Grid) : (r.grid g f).expired = r.expired := rfl
@[simp] theorem Run.grid_owner (r : Run) (g : Nat) (f : Grid → Grid) : (r.grid g f).owner = r.owner := rfl
@[simp] theorem Run.grid_partLogs (r : Run) (g : Nat) (f : Grid → Grid) : (r.grid g f).partLogs = r.partLogs := rfl
@[simp] theorem Run.grid_reports (r : Run) (g : Nat) (f : Grid → Grid) : (r.grid g f).reports = r.reports := rfl
@[simp] theorem Run.grid_reportLost (r : Run) (g : Nat) (f : Grid → Grid) : (r.grid g f).reportLost = r.reportLost := rfl
@[simp] theorem Run.grid_errLogs (r : Run) (g : Nat) (f : Grid → Grid) : (r.grid g f).errLogs = r.errLogs := rfl
@[simp] theorem Run.grid_errLost (r : Run) (g : Nat) (f : Grid → Grid) : (r.grid g f).errLost = r.errLost := rfl
@[simp] theorem Run.grid_dropLog (r : Run) (g : Nat) (f : Grid → Grid) : (r.grid g f).dropLog = r.dropLog := rfl
@[simp] theorem Run.grid_dropLost (r : Run) (g : Nat) (f : Grid → Grid) : (r.grid g f).dropLost = r.dropLost := rfl
@[simp] theorem Run.grid_mbcmd (r : Run) (g : Nat) (f : Grid → Grid) : (r.grid g f).mbcmd = r.mbcmd := rfl
@[simp] theorem Run.grid_mbstat (r : Run) (g : Nat) (f : Grid → Grid) : (r.grid g f).mbstat = r.mbstat := rfl
@[simp] theorem Run.grid_mbdata (r : Run) (g : Nat) (f : Grid → Grid) : (r.grid g f).mbdata = r.mbdata := rfl
@[simp] theorem Run.grid_replies (r : Run) (g : Nat) (f : Grid → Grid) : (r.grid g f).replies = r.replies := rfl
@[simp] theorem Run.grid_free (r : Run) (g : Nat) (f : Grid → Grid) : (r.grid g f).free = r.free := rfl

@[simp] theorem Run.context_mem (r : Run) (x : Nat) (f : Context → Context) : (r.context x f).mem = r.mem := rfl
@[simp] theorem Run.context_capTags (r : Run) (x : Nat) (f : Context → Context) : (r.context x f).capTags = r.capTags := rfl
@[simp] theorem Run.context_poison (r : Run) (x : Nat) (f : Context → Context) : (r.context x f).poison = r.poison := rfl
@[simp] theorem Run.context_hostMem (r : Run) (x : Nat) (f : Context → Context) : (r.context x f).hostMem = r.hostMem := rfl
@[simp] theorem Run.context_peerMem (r : Run) (x : Nat) (f : Context → Context) : (r.context x f).peerMem = r.peerMem := rfl
@[simp] theorem Run.context_spad (r : Run) (x : Nat) (f : Context → Context) : (r.context x f).spad = r.spad := rfl
@[simp] theorem Run.context_crews (r : Run) (x : Nat) (f : Context → Context) : (r.context x f).crews = r.crews := rfl
@[simp] theorem Run.context_blocks (r : Run) (x : Nat) (f : Context → Context) : (r.context x f).blocks = r.blocks := rfl
@[simp] theorem Run.context_grids (r : Run) (x : Nat) (f : Context → Context) : (r.context x f).grids = r.grids := rfl
@[simp] theorem Run.context_cores (r : Run) (x : Nat) (f : Context → Context) : (r.context x f).cores = r.cores := rfl
@[simp] theorem Run.context_tiles (r : Run) (x : Nat) (f : Context → Context) : (r.context x f).tiles = r.tiles := rfl
@[simp] theorem Run.context_matrix (r : Run) (x : Nat) (f : Context → Context) : (r.context x f).matrix = r.matrix := rfl
@[simp] theorem Run.context_funcs (r : Run) (x : Nat) (f : Context → Context) : (r.context x f).funcs = r.funcs := rfl
@[simp] theorem Run.context_calls (r : Run) (x : Nat) (f : Context → Context) : (r.context x f).calls = r.calls := rfl
@[simp] theorem Run.context_svcQueues (r : Run) (x : Nat) (f : Context → Context) : (r.context x f).svcQueues = r.svcQueues := rfl
@[simp] theorem Run.context_faultQueues (r : Run) (x : Nat) (f : Context → Context) : (r.context x f).faultQueues = r.faultQueues := rfl
@[simp] theorem Run.context_deficits (r : Run) (x : Nat) (f : Context → Context) : (r.context x f).deficits = r.deficits := rfl
@[simp] theorem Run.context_taken (r : Run) (x : Nat) (f : Context → Context) : (r.context x f).taken = r.taken := rfl
@[simp] theorem Run.context_order (r : Run) (x : Nat) (f : Context → Context) : (r.context x f).order = r.order := rfl
@[simp] theorem Run.context_digestReports (r : Run) (x : Nat) (f : Context → Context) : (r.context x f).digestReports = r.digestReports := rfl
@[simp] theorem Run.context_unreachable (r : Run) (x : Nat) (f : Context → Context) : (r.context x f).unreachable = r.unreachable := rfl
@[simp] theorem Run.context_floods (r : Run) (x : Nat) (f : Context → Context) : (r.context x f).floods = r.floods := rfl
@[simp] theorem Run.context_messages (r : Run) (x : Nat) (f : Context → Context) : (r.context x f).messages = r.messages := rfl
@[simp] theorem Run.context_epoch (r : Run) (x : Nat) (f : Context → Context) : (r.context x f).epoch = r.epoch := rfl
@[simp] theorem Run.context_period (r : Run) (x : Nat) (f : Context → Context) : (r.context x f).period = r.period := rfl
@[simp] theorem Run.context_expired (r : Run) (x : Nat) (f : Context → Context) : (r.context x f).expired = r.expired := rfl
@[simp] theorem Run.context_owner (r : Run) (x : Nat) (f : Context → Context) : (r.context x f).owner = r.owner := rfl
@[simp] theorem Run.context_partLogs (r : Run) (x : Nat) (f : Context → Context) : (r.context x f).partLogs = r.partLogs := rfl
@[simp] theorem Run.context_reports (r : Run) (x : Nat) (f : Context → Context) : (r.context x f).reports = r.reports := rfl
@[simp] theorem Run.context_reportLost (r : Run) (x : Nat) (f : Context → Context) : (r.context x f).reportLost = r.reportLost := rfl
@[simp] theorem Run.context_errLogs (r : Run) (x : Nat) (f : Context → Context) : (r.context x f).errLogs = r.errLogs := rfl
@[simp] theorem Run.context_errLost (r : Run) (x : Nat) (f : Context → Context) : (r.context x f).errLost = r.errLost := rfl
@[simp] theorem Run.context_dropLog (r : Run) (x : Nat) (f : Context → Context) : (r.context x f).dropLog = r.dropLog := rfl
@[simp] theorem Run.context_dropLost (r : Run) (x : Nat) (f : Context → Context) : (r.context x f).dropLost = r.dropLost := rfl
@[simp] theorem Run.context_mbcmd (r : Run) (x : Nat) (f : Context → Context) : (r.context x f).mbcmd = r.mbcmd := rfl
@[simp] theorem Run.context_mbstat (r : Run) (x : Nat) (f : Context → Context) : (r.context x f).mbstat = r.mbstat := rfl
@[simp] theorem Run.context_mbdata (r : Run) (x : Nat) (f : Context → Context) : (r.context x f).mbdata = r.mbdata := rfl
@[simp] theorem Run.context_replies (r : Run) (x : Nat) (f : Context → Context) : (r.context x f).replies = r.replies := rfl
@[simp] theorem Run.context_free (r : Run) (x : Nat) (f : Context → Context) : (r.context x f).free = r.free := rfl

@[simp] theorem Run.core_mem (r : Run) (k : Nat) (f : CoreSt → CoreSt) : (r.core k f).mem = r.mem := rfl
@[simp] theorem Run.core_capTags (r : Run) (k : Nat) (f : CoreSt → CoreSt) : (r.core k f).capTags = r.capTags := rfl
@[simp] theorem Run.core_poison (r : Run) (k : Nat) (f : CoreSt → CoreSt) : (r.core k f).poison = r.poison := rfl
@[simp] theorem Run.core_hostMem (r : Run) (k : Nat) (f : CoreSt → CoreSt) : (r.core k f).hostMem = r.hostMem := rfl
@[simp] theorem Run.core_peerMem (r : Run) (k : Nat) (f : CoreSt → CoreSt) : (r.core k f).peerMem = r.peerMem := rfl
@[simp] theorem Run.core_spad (r : Run) (k : Nat) (f : CoreSt → CoreSt) : (r.core k f).spad = r.spad := rfl
@[simp] theorem Run.core_crews (r : Run) (k : Nat) (f : CoreSt → CoreSt) : (r.core k f).crews = r.crews := rfl
@[simp] theorem Run.core_blocks (r : Run) (k : Nat) (f : CoreSt → CoreSt) : (r.core k f).blocks = r.blocks := rfl
@[simp] theorem Run.core_grids (r : Run) (k : Nat) (f : CoreSt → CoreSt) : (r.core k f).grids = r.grids := rfl
@[simp] theorem Run.core_contexts (r : Run) (k : Nat) (f : CoreSt → CoreSt) : (r.core k f).contexts = r.contexts := rfl
@[simp] theorem Run.core_tiles (r : Run) (k : Nat) (f : CoreSt → CoreSt) : (r.core k f).tiles = r.tiles := rfl
@[simp] theorem Run.core_matrix (r : Run) (k : Nat) (f : CoreSt → CoreSt) : (r.core k f).matrix = r.matrix := rfl
@[simp] theorem Run.core_funcs (r : Run) (k : Nat) (f : CoreSt → CoreSt) : (r.core k f).funcs = r.funcs := rfl
@[simp] theorem Run.core_calls (r : Run) (k : Nat) (f : CoreSt → CoreSt) : (r.core k f).calls = r.calls := rfl
@[simp] theorem Run.core_svcQueues (r : Run) (k : Nat) (f : CoreSt → CoreSt) : (r.core k f).svcQueues = r.svcQueues := rfl
@[simp] theorem Run.core_faultQueues (r : Run) (k : Nat) (f : CoreSt → CoreSt) : (r.core k f).faultQueues = r.faultQueues := rfl
@[simp] theorem Run.core_deficits (r : Run) (k : Nat) (f : CoreSt → CoreSt) : (r.core k f).deficits = r.deficits := rfl
@[simp] theorem Run.core_taken (r : Run) (k : Nat) (f : CoreSt → CoreSt) : (r.core k f).taken = r.taken := rfl
@[simp] theorem Run.core_order (r : Run) (k : Nat) (f : CoreSt → CoreSt) : (r.core k f).order = r.order := rfl
@[simp] theorem Run.core_digestReports (r : Run) (k : Nat) (f : CoreSt → CoreSt) : (r.core k f).digestReports = r.digestReports := rfl
@[simp] theorem Run.core_unreachable (r : Run) (k : Nat) (f : CoreSt → CoreSt) : (r.core k f).unreachable = r.unreachable := rfl
@[simp] theorem Run.core_floods (r : Run) (k : Nat) (f : CoreSt → CoreSt) : (r.core k f).floods = r.floods := rfl
@[simp] theorem Run.core_messages (r : Run) (k : Nat) (f : CoreSt → CoreSt) : (r.core k f).messages = r.messages := rfl
@[simp] theorem Run.core_epoch (r : Run) (k : Nat) (f : CoreSt → CoreSt) : (r.core k f).epoch = r.epoch := rfl
@[simp] theorem Run.core_period (r : Run) (k : Nat) (f : CoreSt → CoreSt) : (r.core k f).period = r.period := rfl
@[simp] theorem Run.core_expired (r : Run) (k : Nat) (f : CoreSt → CoreSt) : (r.core k f).expired = r.expired := rfl
@[simp] theorem Run.core_owner (r : Run) (k : Nat) (f : CoreSt → CoreSt) : (r.core k f).owner = r.owner := rfl
@[simp] theorem Run.core_partLogs (r : Run) (k : Nat) (f : CoreSt → CoreSt) : (r.core k f).partLogs = r.partLogs := rfl
@[simp] theorem Run.core_reports (r : Run) (k : Nat) (f : CoreSt → CoreSt) : (r.core k f).reports = r.reports := rfl
@[simp] theorem Run.core_reportLost (r : Run) (k : Nat) (f : CoreSt → CoreSt) : (r.core k f).reportLost = r.reportLost := rfl
@[simp] theorem Run.core_errLogs (r : Run) (k : Nat) (f : CoreSt → CoreSt) : (r.core k f).errLogs = r.errLogs := rfl
@[simp] theorem Run.core_errLost (r : Run) (k : Nat) (f : CoreSt → CoreSt) : (r.core k f).errLost = r.errLost := rfl
@[simp] theorem Run.core_dropLog (r : Run) (k : Nat) (f : CoreSt → CoreSt) : (r.core k f).dropLog = r.dropLog := rfl
@[simp] theorem Run.core_dropLost (r : Run) (k : Nat) (f : CoreSt → CoreSt) : (r.core k f).dropLost = r.dropLost := rfl
@[simp] theorem Run.core_mbcmd (r : Run) (k : Nat) (f : CoreSt → CoreSt) : (r.core k f).mbcmd = r.mbcmd := rfl
@[simp] theorem Run.core_mbstat (r : Run) (k : Nat) (f : CoreSt → CoreSt) : (r.core k f).mbstat = r.mbstat := rfl
@[simp] theorem Run.core_mbdata (r : Run) (k : Nat) (f : CoreSt → CoreSt) : (r.core k f).mbdata = r.mbdata := rfl
@[simp] theorem Run.core_replies (r : Run) (k : Nat) (f : CoreSt → CoreSt) : (r.core k f).replies = r.replies := rfl
@[simp] theorem Run.core_free (r : Run) (k : Nat) (f : CoreSt → CoreSt) : (r.core k f).free = r.free := rfl

@[simp] theorem Run.tile_mem (r : Run) (t : Nat) (f : TileSt → TileSt) : (r.tile t f).mem = r.mem := rfl
@[simp] theorem Run.tile_capTags (r : Run) (t : Nat) (f : TileSt → TileSt) : (r.tile t f).capTags = r.capTags := rfl
@[simp] theorem Run.tile_poison (r : Run) (t : Nat) (f : TileSt → TileSt) : (r.tile t f).poison = r.poison := rfl
@[simp] theorem Run.tile_hostMem (r : Run) (t : Nat) (f : TileSt → TileSt) : (r.tile t f).hostMem = r.hostMem := rfl
@[simp] theorem Run.tile_peerMem (r : Run) (t : Nat) (f : TileSt → TileSt) : (r.tile t f).peerMem = r.peerMem := rfl
@[simp] theorem Run.tile_spad (r : Run) (t : Nat) (f : TileSt → TileSt) : (r.tile t f).spad = r.spad := rfl
@[simp] theorem Run.tile_crews (r : Run) (t : Nat) (f : TileSt → TileSt) : (r.tile t f).crews = r.crews := rfl
@[simp] theorem Run.tile_blocks (r : Run) (t : Nat) (f : TileSt → TileSt) : (r.tile t f).blocks = r.blocks := rfl
@[simp] theorem Run.tile_grids (r : Run) (t : Nat) (f : TileSt → TileSt) : (r.tile t f).grids = r.grids := rfl
@[simp] theorem Run.tile_contexts (r : Run) (t : Nat) (f : TileSt → TileSt) : (r.tile t f).contexts = r.contexts := rfl
@[simp] theorem Run.tile_cores (r : Run) (t : Nat) (f : TileSt → TileSt) : (r.tile t f).cores = r.cores := rfl
@[simp] theorem Run.tile_matrix (r : Run) (t : Nat) (f : TileSt → TileSt) : (r.tile t f).matrix = r.matrix := rfl
@[simp] theorem Run.tile_funcs (r : Run) (t : Nat) (f : TileSt → TileSt) : (r.tile t f).funcs = r.funcs := rfl
@[simp] theorem Run.tile_calls (r : Run) (t : Nat) (f : TileSt → TileSt) : (r.tile t f).calls = r.calls := rfl
@[simp] theorem Run.tile_svcQueues (r : Run) (t : Nat) (f : TileSt → TileSt) : (r.tile t f).svcQueues = r.svcQueues := rfl
@[simp] theorem Run.tile_faultQueues (r : Run) (t : Nat) (f : TileSt → TileSt) : (r.tile t f).faultQueues = r.faultQueues := rfl
@[simp] theorem Run.tile_deficits (r : Run) (t : Nat) (f : TileSt → TileSt) : (r.tile t f).deficits = r.deficits := rfl
@[simp] theorem Run.tile_taken (r : Run) (t : Nat) (f : TileSt → TileSt) : (r.tile t f).taken = r.taken := rfl
@[simp] theorem Run.tile_order (r : Run) (t : Nat) (f : TileSt → TileSt) : (r.tile t f).order = r.order := rfl
@[simp] theorem Run.tile_digestReports (r : Run) (t : Nat) (f : TileSt → TileSt) : (r.tile t f).digestReports = r.digestReports := rfl
@[simp] theorem Run.tile_unreachable (r : Run) (t : Nat) (f : TileSt → TileSt) : (r.tile t f).unreachable = r.unreachable := rfl
@[simp] theorem Run.tile_floods (r : Run) (t : Nat) (f : TileSt → TileSt) : (r.tile t f).floods = r.floods := rfl
@[simp] theorem Run.tile_messages (r : Run) (t : Nat) (f : TileSt → TileSt) : (r.tile t f).messages = r.messages := rfl
@[simp] theorem Run.tile_epoch (r : Run) (t : Nat) (f : TileSt → TileSt) : (r.tile t f).epoch = r.epoch := rfl
@[simp] theorem Run.tile_period (r : Run) (t : Nat) (f : TileSt → TileSt) : (r.tile t f).period = r.period := rfl
@[simp] theorem Run.tile_expired (r : Run) (t : Nat) (f : TileSt → TileSt) : (r.tile t f).expired = r.expired := rfl
@[simp] theorem Run.tile_owner (r : Run) (t : Nat) (f : TileSt → TileSt) : (r.tile t f).owner = r.owner := rfl
@[simp] theorem Run.tile_partLogs (r : Run) (t : Nat) (f : TileSt → TileSt) : (r.tile t f).partLogs = r.partLogs := rfl
@[simp] theorem Run.tile_reports (r : Run) (t : Nat) (f : TileSt → TileSt) : (r.tile t f).reports = r.reports := rfl
@[simp] theorem Run.tile_reportLost (r : Run) (t : Nat) (f : TileSt → TileSt) : (r.tile t f).reportLost = r.reportLost := rfl
@[simp] theorem Run.tile_errLogs (r : Run) (t : Nat) (f : TileSt → TileSt) : (r.tile t f).errLogs = r.errLogs := rfl
@[simp] theorem Run.tile_errLost (r : Run) (t : Nat) (f : TileSt → TileSt) : (r.tile t f).errLost = r.errLost := rfl
@[simp] theorem Run.tile_dropLog (r : Run) (t : Nat) (f : TileSt → TileSt) : (r.tile t f).dropLog = r.dropLog := rfl
@[simp] theorem Run.tile_dropLost (r : Run) (t : Nat) (f : TileSt → TileSt) : (r.tile t f).dropLost = r.dropLost := rfl
@[simp] theorem Run.tile_mbcmd (r : Run) (t : Nat) (f : TileSt → TileSt) : (r.tile t f).mbcmd = r.mbcmd := rfl
@[simp] theorem Run.tile_mbstat (r : Run) (t : Nat) (f : TileSt → TileSt) : (r.tile t f).mbstat = r.mbstat := rfl
@[simp] theorem Run.tile_mbdata (r : Run) (t : Nat) (f : TileSt → TileSt) : (r.tile t f).mbdata = r.mbdata := rfl
@[simp] theorem Run.tile_replies (r : Run) (t : Nat) (f : TileSt → TileSt) : (r.tile t f).replies = r.replies := rfl
@[simp] theorem Run.tile_free (r : Run) (t : Nat) (f : TileSt → TileSt) : (r.tile t f).free = r.free := rfl

@[simp] theorem Run.setFunc_mem (r : Run) (n : Nat) (f : Func → Func) : (r.setFunc n f).mem = r.mem := rfl
@[simp] theorem Run.setFunc_capTags (r : Run) (n : Nat) (f : Func → Func) : (r.setFunc n f).capTags = r.capTags := rfl
@[simp] theorem Run.setFunc_poison (r : Run) (n : Nat) (f : Func → Func) : (r.setFunc n f).poison = r.poison := rfl
@[simp] theorem Run.setFunc_hostMem (r : Run) (n : Nat) (f : Func → Func) : (r.setFunc n f).hostMem = r.hostMem := rfl
@[simp] theorem Run.setFunc_peerMem (r : Run) (n : Nat) (f : Func → Func) : (r.setFunc n f).peerMem = r.peerMem := rfl
@[simp] theorem Run.setFunc_spad (r : Run) (n : Nat) (f : Func → Func) : (r.setFunc n f).spad = r.spad := rfl
@[simp] theorem Run.setFunc_crews (r : Run) (n : Nat) (f : Func → Func) : (r.setFunc n f).crews = r.crews := rfl
@[simp] theorem Run.setFunc_blocks (r : Run) (n : Nat) (f : Func → Func) : (r.setFunc n f).blocks = r.blocks := rfl
@[simp] theorem Run.setFunc_grids (r : Run) (n : Nat) (f : Func → Func) : (r.setFunc n f).grids = r.grids := rfl
@[simp] theorem Run.setFunc_contexts (r : Run) (n : Nat) (f : Func → Func) : (r.setFunc n f).contexts = r.contexts := rfl
@[simp] theorem Run.setFunc_cores (r : Run) (n : Nat) (f : Func → Func) : (r.setFunc n f).cores = r.cores := rfl
@[simp] theorem Run.setFunc_tiles (r : Run) (n : Nat) (f : Func → Func) : (r.setFunc n f).tiles = r.tiles := rfl
@[simp] theorem Run.setFunc_matrix (r : Run) (n : Nat) (f : Func → Func) : (r.setFunc n f).matrix = r.matrix := rfl
@[simp] theorem Run.setFunc_calls (r : Run) (n : Nat) (f : Func → Func) : (r.setFunc n f).calls = r.calls := rfl
@[simp] theorem Run.setFunc_svcQueues (r : Run) (n : Nat) (f : Func → Func) : (r.setFunc n f).svcQueues = r.svcQueues := rfl
@[simp] theorem Run.setFunc_faultQueues (r : Run) (n : Nat) (f : Func → Func) : (r.setFunc n f).faultQueues = r.faultQueues := rfl
@[simp] theorem Run.setFunc_deficits (r : Run) (n : Nat) (f : Func → Func) : (r.setFunc n f).deficits = r.deficits := rfl
@[simp] theorem Run.setFunc_taken (r : Run) (n : Nat) (f : Func → Func) : (r.setFunc n f).taken = r.taken := rfl
@[simp] theorem Run.setFunc_order (r : Run) (n : Nat) (f : Func → Func) : (r.setFunc n f).order = r.order := rfl
@[simp] theorem Run.setFunc_digestReports (r : Run) (n : Nat) (f : Func → Func) : (r.setFunc n f).digestReports = r.digestReports := rfl
@[simp] theorem Run.setFunc_unreachable (r : Run) (n : Nat) (f : Func → Func) : (r.setFunc n f).unreachable = r.unreachable := rfl
@[simp] theorem Run.setFunc_floods (r : Run) (n : Nat) (f : Func → Func) : (r.setFunc n f).floods = r.floods := rfl
@[simp] theorem Run.setFunc_messages (r : Run) (n : Nat) (f : Func → Func) : (r.setFunc n f).messages = r.messages := rfl
@[simp] theorem Run.setFunc_epoch (r : Run) (n : Nat) (f : Func → Func) : (r.setFunc n f).epoch = r.epoch := rfl
@[simp] theorem Run.setFunc_period (r : Run) (n : Nat) (f : Func → Func) : (r.setFunc n f).period = r.period := rfl
@[simp] theorem Run.setFunc_expired (r : Run) (n : Nat) (f : Func → Func) : (r.setFunc n f).expired = r.expired := rfl
@[simp] theorem Run.setFunc_owner (r : Run) (n : Nat) (f : Func → Func) : (r.setFunc n f).owner = r.owner := rfl
@[simp] theorem Run.setFunc_partLogs (r : Run) (n : Nat) (f : Func → Func) : (r.setFunc n f).partLogs = r.partLogs := rfl
@[simp] theorem Run.setFunc_reports (r : Run) (n : Nat) (f : Func → Func) : (r.setFunc n f).reports = r.reports := rfl
@[simp] theorem Run.setFunc_reportLost (r : Run) (n : Nat) (f : Func → Func) : (r.setFunc n f).reportLost = r.reportLost := rfl
@[simp] theorem Run.setFunc_errLogs (r : Run) (n : Nat) (f : Func → Func) : (r.setFunc n f).errLogs = r.errLogs := rfl
@[simp] theorem Run.setFunc_errLost (r : Run) (n : Nat) (f : Func → Func) : (r.setFunc n f).errLost = r.errLost := rfl
@[simp] theorem Run.setFunc_dropLog (r : Run) (n : Nat) (f : Func → Func) : (r.setFunc n f).dropLog = r.dropLog := rfl
@[simp] theorem Run.setFunc_dropLost (r : Run) (n : Nat) (f : Func → Func) : (r.setFunc n f).dropLost = r.dropLost := rfl
@[simp] theorem Run.setFunc_mbcmd (r : Run) (n : Nat) (f : Func → Func) : (r.setFunc n f).mbcmd = r.mbcmd := rfl
@[simp] theorem Run.setFunc_mbstat (r : Run) (n : Nat) (f : Func → Func) : (r.setFunc n f).mbstat = r.mbstat := rfl
@[simp] theorem Run.setFunc_mbdata (r : Run) (n : Nat) (f : Func → Func) : (r.setFunc n f).mbdata = r.mbdata := rfl
@[simp] theorem Run.setFunc_replies (r : Run) (n : Nat) (f : Func → Func) : (r.setFunc n f).replies = r.replies := rfl
@[simp] theorem Run.setFunc_free (r : Run) (n : Nat) (f : Func → Func) : (r.setFunc n f).free = r.free := rfl

@[simp] theorem Run.setQueueIf_mem (r : Run) (n q : Nat) (f : QueueIf → QueueIf) : (r.setQueueIf n q f).mem = r.mem := rfl
@[simp] theorem Run.setQueueIf_capTags (r : Run) (n q : Nat) (f : QueueIf → QueueIf) : (r.setQueueIf n q f).capTags = r.capTags := rfl
@[simp] theorem Run.setQueueIf_poison (r : Run) (n q : Nat) (f : QueueIf → QueueIf) : (r.setQueueIf n q f).poison = r.poison := rfl
@[simp] theorem Run.setQueueIf_hostMem (r : Run) (n q : Nat) (f : QueueIf → QueueIf) : (r.setQueueIf n q f).hostMem = r.hostMem := rfl
@[simp] theorem Run.setQueueIf_peerMem (r : Run) (n q : Nat) (f : QueueIf → QueueIf) : (r.setQueueIf n q f).peerMem = r.peerMem := rfl
@[simp] theorem Run.setQueueIf_spad (r : Run) (n q : Nat) (f : QueueIf → QueueIf) : (r.setQueueIf n q f).spad = r.spad := rfl
@[simp] theorem Run.setQueueIf_crews (r : Run) (n q : Nat) (f : QueueIf → QueueIf) : (r.setQueueIf n q f).crews = r.crews := rfl
@[simp] theorem Run.setQueueIf_blocks (r : Run) (n q : Nat) (f : QueueIf → QueueIf) : (r.setQueueIf n q f).blocks = r.blocks := rfl
@[simp] theorem Run.setQueueIf_grids (r : Run) (n q : Nat) (f : QueueIf → QueueIf) : (r.setQueueIf n q f).grids = r.grids := rfl
@[simp] theorem Run.setQueueIf_contexts (r : Run) (n q : Nat) (f : QueueIf → QueueIf) : (r.setQueueIf n q f).contexts = r.contexts := rfl
@[simp] theorem Run.setQueueIf_cores (r : Run) (n q : Nat) (f : QueueIf → QueueIf) : (r.setQueueIf n q f).cores = r.cores := rfl
@[simp] theorem Run.setQueueIf_tiles (r : Run) (n q : Nat) (f : QueueIf → QueueIf) : (r.setQueueIf n q f).tiles = r.tiles := rfl
@[simp] theorem Run.setQueueIf_matrix (r : Run) (n q : Nat) (f : QueueIf → QueueIf) : (r.setQueueIf n q f).matrix = r.matrix := rfl
@[simp] theorem Run.setQueueIf_calls (r : Run) (n q : Nat) (f : QueueIf → QueueIf) : (r.setQueueIf n q f).calls = r.calls := rfl
@[simp] theorem Run.setQueueIf_svcQueues (r : Run) (n q : Nat) (f : QueueIf → QueueIf) : (r.setQueueIf n q f).svcQueues = r.svcQueues := rfl
@[simp] theorem Run.setQueueIf_faultQueues (r : Run) (n q : Nat) (f : QueueIf → QueueIf) : (r.setQueueIf n q f).faultQueues = r.faultQueues := rfl
@[simp] theorem Run.setQueueIf_deficits (r : Run) (n q : Nat) (f : QueueIf → QueueIf) : (r.setQueueIf n q f).deficits = r.deficits := rfl
@[simp] theorem Run.setQueueIf_taken (r : Run) (n q : Nat) (f : QueueIf → QueueIf) : (r.setQueueIf n q f).taken = r.taken := rfl
@[simp] theorem Run.setQueueIf_order (r : Run) (n q : Nat) (f : QueueIf → QueueIf) : (r.setQueueIf n q f).order = r.order := rfl
@[simp] theorem Run.setQueueIf_digestReports (r : Run) (n q : Nat) (f : QueueIf → QueueIf) : (r.setQueueIf n q f).digestReports = r.digestReports := rfl
@[simp] theorem Run.setQueueIf_unreachable (r : Run) (n q : Nat) (f : QueueIf → QueueIf) : (r.setQueueIf n q f).unreachable = r.unreachable := rfl
@[simp] theorem Run.setQueueIf_floods (r : Run) (n q : Nat) (f : QueueIf → QueueIf) : (r.setQueueIf n q f).floods = r.floods := rfl
@[simp] theorem Run.setQueueIf_messages (r : Run) (n q : Nat) (f : QueueIf → QueueIf) : (r.setQueueIf n q f).messages = r.messages := rfl
@[simp] theorem Run.setQueueIf_epoch (r : Run) (n q : Nat) (f : QueueIf → QueueIf) : (r.setQueueIf n q f).epoch = r.epoch := rfl
@[simp] theorem Run.setQueueIf_period (r : Run) (n q : Nat) (f : QueueIf → QueueIf) : (r.setQueueIf n q f).period = r.period := rfl
@[simp] theorem Run.setQueueIf_expired (r : Run) (n q : Nat) (f : QueueIf → QueueIf) : (r.setQueueIf n q f).expired = r.expired := rfl
@[simp] theorem Run.setQueueIf_owner (r : Run) (n q : Nat) (f : QueueIf → QueueIf) : (r.setQueueIf n q f).owner = r.owner := rfl
@[simp] theorem Run.setQueueIf_partLogs (r : Run) (n q : Nat) (f : QueueIf → QueueIf) : (r.setQueueIf n q f).partLogs = r.partLogs := rfl
@[simp] theorem Run.setQueueIf_reports (r : Run) (n q : Nat) (f : QueueIf → QueueIf) : (r.setQueueIf n q f).reports = r.reports := rfl
@[simp] theorem Run.setQueueIf_reportLost (r : Run) (n q : Nat) (f : QueueIf → QueueIf) : (r.setQueueIf n q f).reportLost = r.reportLost := rfl
@[simp] theorem Run.setQueueIf_errLogs (r : Run) (n q : Nat) (f : QueueIf → QueueIf) : (r.setQueueIf n q f).errLogs = r.errLogs := rfl
@[simp] theorem Run.setQueueIf_errLost (r : Run) (n q : Nat) (f : QueueIf → QueueIf) : (r.setQueueIf n q f).errLost = r.errLost := rfl
@[simp] theorem Run.setQueueIf_dropLog (r : Run) (n q : Nat) (f : QueueIf → QueueIf) : (r.setQueueIf n q f).dropLog = r.dropLog := rfl
@[simp] theorem Run.setQueueIf_dropLost (r : Run) (n q : Nat) (f : QueueIf → QueueIf) : (r.setQueueIf n q f).dropLost = r.dropLost := rfl
@[simp] theorem Run.setQueueIf_mbcmd (r : Run) (n q : Nat) (f : QueueIf → QueueIf) : (r.setQueueIf n q f).mbcmd = r.mbcmd := rfl
@[simp] theorem Run.setQueueIf_mbstat (r : Run) (n q : Nat) (f : QueueIf → QueueIf) : (r.setQueueIf n q f).mbstat = r.mbstat := rfl
@[simp] theorem Run.setQueueIf_mbdata (r : Run) (n q : Nat) (f : QueueIf → QueueIf) : (r.setQueueIf n q f).mbdata = r.mbdata := rfl
@[simp] theorem Run.setQueueIf_replies (r : Run) (n q : Nat) (f : QueueIf → QueueIf) : (r.setQueueIf n q f).replies = r.replies := rfl
@[simp] theorem Run.setQueueIf_free (r : Run) (n q : Nat) (f : QueueIf → QueueIf) : (r.setQueueIf n q f).free = r.free := rfl

@[simp] theorem Run.warp_mem (r : Run) (c w : Nat) (f : Warp → Warp) : (r.warp c w f).mem = r.mem := rfl
@[simp] theorem Run.warp_capTags (r : Run) (c w : Nat) (f : Warp → Warp) : (r.warp c w f).capTags = r.capTags := rfl
@[simp] theorem Run.warp_poison (r : Run) (c w : Nat) (f : Warp → Warp) : (r.warp c w f).poison = r.poison := rfl
@[simp] theorem Run.warp_hostMem (r : Run) (c w : Nat) (f : Warp → Warp) : (r.warp c w f).hostMem = r.hostMem := rfl
@[simp] theorem Run.warp_peerMem (r : Run) (c w : Nat) (f : Warp → Warp) : (r.warp c w f).peerMem = r.peerMem := rfl
@[simp] theorem Run.warp_spad (r : Run) (c w : Nat) (f : Warp → Warp) : (r.warp c w f).spad = r.spad := rfl
@[simp] theorem Run.warp_blocks (r : Run) (c w : Nat) (f : Warp → Warp) : (r.warp c w f).blocks = r.blocks := rfl
@[simp] theorem Run.warp_grids (r : Run) (c w : Nat) (f : Warp → Warp) : (r.warp c w f).grids = r.grids := rfl
@[simp] theorem Run.warp_contexts (r : Run) (c w : Nat) (f : Warp → Warp) : (r.warp c w f).contexts = r.contexts := rfl
@[simp] theorem Run.warp_cores (r : Run) (c w : Nat) (f : Warp → Warp) : (r.warp c w f).cores = r.cores := rfl
@[simp] theorem Run.warp_tiles (r : Run) (c w : Nat) (f : Warp → Warp) : (r.warp c w f).tiles = r.tiles := rfl
@[simp] theorem Run.warp_matrix (r : Run) (c w : Nat) (f : Warp → Warp) : (r.warp c w f).matrix = r.matrix := rfl
@[simp] theorem Run.warp_funcs (r : Run) (c w : Nat) (f : Warp → Warp) : (r.warp c w f).funcs = r.funcs := rfl
@[simp] theorem Run.warp_calls (r : Run) (c w : Nat) (f : Warp → Warp) : (r.warp c w f).calls = r.calls := rfl
@[simp] theorem Run.warp_svcQueues (r : Run) (c w : Nat) (f : Warp → Warp) : (r.warp c w f).svcQueues = r.svcQueues := rfl
@[simp] theorem Run.warp_faultQueues (r : Run) (c w : Nat) (f : Warp → Warp) : (r.warp c w f).faultQueues = r.faultQueues := rfl
@[simp] theorem Run.warp_deficits (r : Run) (c w : Nat) (f : Warp → Warp) : (r.warp c w f).deficits = r.deficits := rfl
@[simp] theorem Run.warp_taken (r : Run) (c w : Nat) (f : Warp → Warp) : (r.warp c w f).taken = r.taken := rfl
@[simp] theorem Run.warp_order (r : Run) (c w : Nat) (f : Warp → Warp) : (r.warp c w f).order = r.order := rfl
@[simp] theorem Run.warp_digestReports (r : Run) (c w : Nat) (f : Warp → Warp) : (r.warp c w f).digestReports = r.digestReports := rfl
@[simp] theorem Run.warp_unreachable (r : Run) (c w : Nat) (f : Warp → Warp) : (r.warp c w f).unreachable = r.unreachable := rfl
@[simp] theorem Run.warp_floods (r : Run) (c w : Nat) (f : Warp → Warp) : (r.warp c w f).floods = r.floods := rfl
@[simp] theorem Run.warp_messages (r : Run) (c w : Nat) (f : Warp → Warp) : (r.warp c w f).messages = r.messages := rfl
@[simp] theorem Run.warp_epoch (r : Run) (c w : Nat) (f : Warp → Warp) : (r.warp c w f).epoch = r.epoch := rfl
@[simp] theorem Run.warp_period (r : Run) (c w : Nat) (f : Warp → Warp) : (r.warp c w f).period = r.period := rfl
@[simp] theorem Run.warp_expired (r : Run) (c w : Nat) (f : Warp → Warp) : (r.warp c w f).expired = r.expired := rfl
@[simp] theorem Run.warp_owner (r : Run) (c w : Nat) (f : Warp → Warp) : (r.warp c w f).owner = r.owner := rfl
@[simp] theorem Run.warp_partLogs (r : Run) (c w : Nat) (f : Warp → Warp) : (r.warp c w f).partLogs = r.partLogs := rfl
@[simp] theorem Run.warp_reports (r : Run) (c w : Nat) (f : Warp → Warp) : (r.warp c w f).reports = r.reports := rfl
@[simp] theorem Run.warp_reportLost (r : Run) (c w : Nat) (f : Warp → Warp) : (r.warp c w f).reportLost = r.reportLost := rfl
@[simp] theorem Run.warp_errLogs (r : Run) (c w : Nat) (f : Warp → Warp) : (r.warp c w f).errLogs = r.errLogs := rfl
@[simp] theorem Run.warp_errLost (r : Run) (c w : Nat) (f : Warp → Warp) : (r.warp c w f).errLost = r.errLost := rfl
@[simp] theorem Run.warp_dropLog (r : Run) (c w : Nat) (f : Warp → Warp) : (r.warp c w f).dropLog = r.dropLog := rfl
@[simp] theorem Run.warp_dropLost (r : Run) (c w : Nat) (f : Warp → Warp) : (r.warp c w f).dropLost = r.dropLost := rfl
@[simp] theorem Run.warp_mbcmd (r : Run) (c w : Nat) (f : Warp → Warp) : (r.warp c w f).mbcmd = r.mbcmd := rfl
@[simp] theorem Run.warp_mbstat (r : Run) (c w : Nat) (f : Warp → Warp) : (r.warp c w f).mbstat = r.mbstat := rfl
@[simp] theorem Run.warp_mbdata (r : Run) (c w : Nat) (f : Warp → Warp) : (r.warp c w f).mbdata = r.mbdata := rfl
@[simp] theorem Run.warp_replies (r : Run) (c w : Nat) (f : Warp → Warp) : (r.warp c w f).replies = r.replies := rfl
@[simp] theorem Run.warp_free (r : Run) (c w : Nat) (f : Warp → Warp) : (r.warp c w f).free = r.free := rfl

@[simp] theorem Run.slice_mem (r : Run) (c : Nat) (f : ASlice → ASlice) : (r.slice c f).mem = r.mem := rfl
@[simp] theorem Run.slice_capTags (r : Run) (c : Nat) (f : ASlice → ASlice) : (r.slice c f).capTags = r.capTags := rfl
@[simp] theorem Run.slice_poison (r : Run) (c : Nat) (f : ASlice → ASlice) : (r.slice c f).poison = r.poison := rfl
@[simp] theorem Run.slice_hostMem (r : Run) (c : Nat) (f : ASlice → ASlice) : (r.slice c f).hostMem = r.hostMem := rfl
@[simp] theorem Run.slice_peerMem (r : Run) (c : Nat) (f : ASlice → ASlice) : (r.slice c f).peerMem = r.peerMem := rfl
@[simp] theorem Run.slice_spad (r : Run) (c : Nat) (f : ASlice → ASlice) : (r.slice c f).spad = r.spad := rfl
@[simp] theorem Run.slice_blocks (r : Run) (c : Nat) (f : ASlice → ASlice) : (r.slice c f).blocks = r.blocks := rfl
@[simp] theorem Run.slice_grids (r : Run) (c : Nat) (f : ASlice → ASlice) : (r.slice c f).grids = r.grids := rfl
@[simp] theorem Run.slice_contexts (r : Run) (c : Nat) (f : ASlice → ASlice) : (r.slice c f).contexts = r.contexts := rfl
@[simp] theorem Run.slice_cores (r : Run) (c : Nat) (f : ASlice → ASlice) : (r.slice c f).cores = r.cores := rfl
@[simp] theorem Run.slice_tiles (r : Run) (c : Nat) (f : ASlice → ASlice) : (r.slice c f).tiles = r.tiles := rfl
@[simp] theorem Run.slice_matrix (r : Run) (c : Nat) (f : ASlice → ASlice) : (r.slice c f).matrix = r.matrix := rfl
@[simp] theorem Run.slice_funcs (r : Run) (c : Nat) (f : ASlice → ASlice) : (r.slice c f).funcs = r.funcs := rfl
@[simp] theorem Run.slice_calls (r : Run) (c : Nat) (f : ASlice → ASlice) : (r.slice c f).calls = r.calls := rfl
@[simp] theorem Run.slice_svcQueues (r : Run) (c : Nat) (f : ASlice → ASlice) : (r.slice c f).svcQueues = r.svcQueues := rfl
@[simp] theorem Run.slice_faultQueues (r : Run) (c : Nat) (f : ASlice → ASlice) : (r.slice c f).faultQueues = r.faultQueues := rfl
@[simp] theorem Run.slice_deficits (r : Run) (c : Nat) (f : ASlice → ASlice) : (r.slice c f).deficits = r.deficits := rfl
@[simp] theorem Run.slice_taken (r : Run) (c : Nat) (f : ASlice → ASlice) : (r.slice c f).taken = r.taken := rfl
@[simp] theorem Run.slice_order (r : Run) (c : Nat) (f : ASlice → ASlice) : (r.slice c f).order = r.order := rfl
@[simp] theorem Run.slice_digestReports (r : Run) (c : Nat) (f : ASlice → ASlice) : (r.slice c f).digestReports = r.digestReports := rfl
@[simp] theorem Run.slice_unreachable (r : Run) (c : Nat) (f : ASlice → ASlice) : (r.slice c f).unreachable = r.unreachable := rfl
@[simp] theorem Run.slice_floods (r : Run) (c : Nat) (f : ASlice → ASlice) : (r.slice c f).floods = r.floods := rfl
@[simp] theorem Run.slice_messages (r : Run) (c : Nat) (f : ASlice → ASlice) : (r.slice c f).messages = r.messages := rfl
@[simp] theorem Run.slice_epoch (r : Run) (c : Nat) (f : ASlice → ASlice) : (r.slice c f).epoch = r.epoch := rfl
@[simp] theorem Run.slice_period (r : Run) (c : Nat) (f : ASlice → ASlice) : (r.slice c f).period = r.period := rfl
@[simp] theorem Run.slice_expired (r : Run) (c : Nat) (f : ASlice → ASlice) : (r.slice c f).expired = r.expired := rfl
@[simp] theorem Run.slice_owner (r : Run) (c : Nat) (f : ASlice → ASlice) : (r.slice c f).owner = r.owner := rfl
@[simp] theorem Run.slice_partLogs (r : Run) (c : Nat) (f : ASlice → ASlice) : (r.slice c f).partLogs = r.partLogs := rfl
@[simp] theorem Run.slice_reports (r : Run) (c : Nat) (f : ASlice → ASlice) : (r.slice c f).reports = r.reports := rfl
@[simp] theorem Run.slice_reportLost (r : Run) (c : Nat) (f : ASlice → ASlice) : (r.slice c f).reportLost = r.reportLost := rfl
@[simp] theorem Run.slice_errLogs (r : Run) (c : Nat) (f : ASlice → ASlice) : (r.slice c f).errLogs = r.errLogs := rfl
@[simp] theorem Run.slice_errLost (r : Run) (c : Nat) (f : ASlice → ASlice) : (r.slice c f).errLost = r.errLost := rfl
@[simp] theorem Run.slice_dropLog (r : Run) (c : Nat) (f : ASlice → ASlice) : (r.slice c f).dropLog = r.dropLog := rfl
@[simp] theorem Run.slice_dropLost (r : Run) (c : Nat) (f : ASlice → ASlice) : (r.slice c f).dropLost = r.dropLost := rfl
@[simp] theorem Run.slice_mbcmd (r : Run) (c : Nat) (f : ASlice → ASlice) : (r.slice c f).mbcmd = r.mbcmd := rfl
@[simp] theorem Run.slice_mbstat (r : Run) (c : Nat) (f : ASlice → ASlice) : (r.slice c f).mbstat = r.mbstat := rfl
@[simp] theorem Run.slice_mbdata (r : Run) (c : Nat) (f : ASlice → ASlice) : (r.slice c f).mbdata = r.mbdata := rfl
@[simp] theorem Run.slice_replies (r : Run) (c : Nat) (f : ASlice → ASlice) : (r.slice c f).replies = r.replies := rfl
@[simp] theorem Run.slice_free (r : Run) (c : Nat) (f : ASlice → ASlice) : (r.slice c f).free = r.free := rfl

/-! ## Fields of a warp that an update leaves alone -/

@[simp] theorem Warp.setV_batches (w : Warp) (l n : Nat) (x : Word) : (w.setV l n x).batches = w.batches := rfl
@[simp] theorem Warp.setV_exited (w : Warp) (l n : Nat) (x : Word) : (w.setV l n x).exited = w.exited := rfl
@[simp] theorem Warp.setV_preds (w : Warp) (l n : Nat) (x : Word) : (w.setV l n x).preds = w.preds := rfl
@[simp] theorem Warp.setV_lnks (w : Warp) (l n : Nat) (x : Word) : (w.setV l n x).lnks = w.lnks := rfl
@[simp] theorem Warp.setV_afls (w : Warp) (l n : Nat) (x : Word) : (w.setV l n x).afls = w.afls := rfl
@[simp] theorem Warp.setV_arms (w : Warp) (l n : Nat) (x : Word) : (w.setV l n x).arms = w.arms := rfl
@[simp] theorem Warp.setV_uregs (w : Warp) (l n : Nat) (x : Word) : (w.setV l n x).uregs = w.uregs := rfl
@[simp] theorem Warp.setV_utags (w : Warp) (l n : Nat) (x : Word) : (w.setV l n x).utags = w.utags := rfl
@[simp] theorem Warp.setV_wb (w : Warp) (l n : Nat) (x : Word) : (w.setV l n x).wb = w.wb := rfl
@[simp] theorem Warp.setV_base (w : Warp) (l n : Nat) (x : Word) : (w.setV l n x).base = w.base := rfl
@[simp] theorem Warp.setV_gran (w : Warp) (l n : Nat) (x : Word) : (w.setV l n x).gran = w.gran := rfl
@[simp] theorem Warp.setV_xpend (w : Warp) (l n : Nat) (x : Word) : (w.setV l n x).xpend = w.xpend := rfl
@[simp] theorem Warp.setV_ops (w : Warp) (l n : Nat) (x : Word) : (w.setV l n x).ops = w.ops := rfl
@[simp] theorem Warp.setV_windows (w : Warp) (l n : Nat) (x : Word) : (w.setV l n x).windows = w.windows := rfl
@[simp] theorem Warp.setV_ords (w : Warp) (l n : Nat) (x : Word) : (w.setV l n x).ords = w.ords := rfl
@[simp] theorem Warp.setV_hsave (w : Warp) (l n : Nat) (x : Word) : (w.setV l n x).hsave = w.hsave := rfl
@[simp] theorem Warp.setV_divrec (w : Warp) (l n : Nat) (x : Word) : (w.setV l n x).divrec = w.divrec := rfl
@[simp] theorem Warp.setV_hostrec (w : Warp) (l n : Nat) (x : Word) : (w.setV l n x).hostrec = w.hostrec := rfl
@[simp] theorem Warp.setV_quad (w : Warp) (l n : Nat) (x : Word) : (w.setV l n x).quad = w.quad := rfl
@[simp] theorem Warp.setV_ended (w : Warp) (l n : Nat) (x : Word) : (w.setV l n x).ended = w.ended := rfl

@[simp] theorem Warp.setU_batches (w : Warp) (n : Nat) (x : Word) : (w.setU n x).batches = w.batches := rfl
@[simp] theorem Warp.setU_exited (w : Warp) (n : Nat) (x : Word) : (w.setU n x).exited = w.exited := rfl
@[simp] theorem Warp.setU_vregs (w : Warp) (n : Nat) (x : Word) : (w.setU n x).vregs = w.vregs := rfl
@[simp] theorem Warp.setU_preds (w : Warp) (n : Nat) (x : Word) : (w.setU n x).preds = w.preds := rfl
@[simp] theorem Warp.setU_lnks (w : Warp) (n : Nat) (x : Word) : (w.setU n x).lnks = w.lnks := rfl
@[simp] theorem Warp.setU_afls (w : Warp) (n : Nat) (x : Word) : (w.setU n x).afls = w.afls := rfl
@[simp] theorem Warp.setU_arms (w : Warp) (n : Nat) (x : Word) : (w.setU n x).arms = w.arms := rfl
@[simp] theorem Warp.setU_wb (w : Warp) (n : Nat) (x : Word) : (w.setU n x).wb = w.wb := rfl
@[simp] theorem Warp.setU_base (w : Warp) (n : Nat) (x : Word) : (w.setU n x).base = w.base := rfl
@[simp] theorem Warp.setU_gran (w : Warp) (n : Nat) (x : Word) : (w.setU n x).gran = w.gran := rfl
@[simp] theorem Warp.setU_xpend (w : Warp) (n : Nat) (x : Word) : (w.setU n x).xpend = w.xpend := rfl
@[simp] theorem Warp.setU_ops (w : Warp) (n : Nat) (x : Word) : (w.setU n x).ops = w.ops := rfl
@[simp] theorem Warp.setU_windows (w : Warp) (n : Nat) (x : Word) : (w.setU n x).windows = w.windows := rfl
@[simp] theorem Warp.setU_ords (w : Warp) (n : Nat) (x : Word) : (w.setU n x).ords = w.ords := rfl
@[simp] theorem Warp.setU_hsave (w : Warp) (n : Nat) (x : Word) : (w.setU n x).hsave = w.hsave := rfl
@[simp] theorem Warp.setU_divrec (w : Warp) (n : Nat) (x : Word) : (w.setU n x).divrec = w.divrec := rfl
@[simp] theorem Warp.setU_hostrec (w : Warp) (n : Nat) (x : Word) : (w.setU n x).hostrec = w.hostrec := rfl
@[simp] theorem Warp.setU_quad (w : Warp) (n : Nat) (x : Word) : (w.setU n x).quad = w.quad := rfl
@[simp] theorem Warp.setU_ended (w : Warp) (n : Nat) (x : Word) : (w.setU n x).ended = w.ended := rfl

@[simp] theorem Warp.setLnk_batches (w : Warp) (l : Nat) (x : Word) : (w.setLnk l x).batches = w.batches := rfl
@[simp] theorem Warp.setLnk_exited (w : Warp) (l : Nat) (x : Word) : (w.setLnk l x).exited = w.exited := rfl
@[simp] theorem Warp.setLnk_vregs (w : Warp) (l : Nat) (x : Word) : (w.setLnk l x).vregs = w.vregs := rfl
@[simp] theorem Warp.setLnk_preds (w : Warp) (l : Nat) (x : Word) : (w.setLnk l x).preds = w.preds := rfl
@[simp] theorem Warp.setLnk_afls (w : Warp) (l : Nat) (x : Word) : (w.setLnk l x).afls = w.afls := rfl
@[simp] theorem Warp.setLnk_arms (w : Warp) (l : Nat) (x : Word) : (w.setLnk l x).arms = w.arms := rfl
@[simp] theorem Warp.setLnk_uregs (w : Warp) (l : Nat) (x : Word) : (w.setLnk l x).uregs = w.uregs := rfl
@[simp] theorem Warp.setLnk_utags (w : Warp) (l : Nat) (x : Word) : (w.setLnk l x).utags = w.utags := rfl
@[simp] theorem Warp.setLnk_wb (w : Warp) (l : Nat) (x : Word) : (w.setLnk l x).wb = w.wb := rfl
@[simp] theorem Warp.setLnk_base (w : Warp) (l : Nat) (x : Word) : (w.setLnk l x).base = w.base := rfl
@[simp] theorem Warp.setLnk_gran (w : Warp) (l : Nat) (x : Word) : (w.setLnk l x).gran = w.gran := rfl
@[simp] theorem Warp.setLnk_xpend (w : Warp) (l : Nat) (x : Word) : (w.setLnk l x).xpend = w.xpend := rfl
@[simp] theorem Warp.setLnk_ops (w : Warp) (l : Nat) (x : Word) : (w.setLnk l x).ops = w.ops := rfl
@[simp] theorem Warp.setLnk_windows (w : Warp) (l : Nat) (x : Word) : (w.setLnk l x).windows = w.windows := rfl
@[simp] theorem Warp.setLnk_ords (w : Warp) (l : Nat) (x : Word) : (w.setLnk l x).ords = w.ords := rfl
@[simp] theorem Warp.setLnk_hsave (w : Warp) (l : Nat) (x : Word) : (w.setLnk l x).hsave = w.hsave := rfl
@[simp] theorem Warp.setLnk_divrec (w : Warp) (l : Nat) (x : Word) : (w.setLnk l x).divrec = w.divrec := rfl
@[simp] theorem Warp.setLnk_hostrec (w : Warp) (l : Nat) (x : Word) : (w.setLnk l x).hostrec = w.hostrec := rfl
@[simp] theorem Warp.setLnk_quad (w : Warp) (l : Nat) (x : Word) : (w.setLnk l x).quad = w.quad := rfl
@[simp] theorem Warp.setLnk_ended (w : Warp) (l : Nat) (x : Word) : (w.setLnk l x).ended = w.ended := rfl

@[simp] theorem Warp.replaceBatch_exited (w : Warp) (l : Nat) (bs : List Batch) : (w.replaceBatch l bs).exited = w.exited := rfl
@[simp] theorem Warp.replaceBatch_vregs (w : Warp) (l : Nat) (bs : List Batch) : (w.replaceBatch l bs).vregs = w.vregs := rfl
@[simp] theorem Warp.replaceBatch_preds (w : Warp) (l : Nat) (bs : List Batch) : (w.replaceBatch l bs).preds = w.preds := rfl
@[simp] theorem Warp.replaceBatch_lnks (w : Warp) (l : Nat) (bs : List Batch) : (w.replaceBatch l bs).lnks = w.lnks := rfl
@[simp] theorem Warp.replaceBatch_afls (w : Warp) (l : Nat) (bs : List Batch) : (w.replaceBatch l bs).afls = w.afls := rfl
@[simp] theorem Warp.replaceBatch_arms (w : Warp) (l : Nat) (bs : List Batch) : (w.replaceBatch l bs).arms = w.arms := rfl
@[simp] theorem Warp.replaceBatch_uregs (w : Warp) (l : Nat) (bs : List Batch) : (w.replaceBatch l bs).uregs = w.uregs := rfl
@[simp] theorem Warp.replaceBatch_utags (w : Warp) (l : Nat) (bs : List Batch) : (w.replaceBatch l bs).utags = w.utags := rfl
@[simp] theorem Warp.replaceBatch_wb (w : Warp) (l : Nat) (bs : List Batch) : (w.replaceBatch l bs).wb = w.wb := rfl
@[simp] theorem Warp.replaceBatch_base (w : Warp) (l : Nat) (bs : List Batch) : (w.replaceBatch l bs).base = w.base := rfl
@[simp] theorem Warp.replaceBatch_gran (w : Warp) (l : Nat) (bs : List Batch) : (w.replaceBatch l bs).gran = w.gran := rfl
@[simp] theorem Warp.replaceBatch_xpend (w : Warp) (l : Nat) (bs : List Batch) : (w.replaceBatch l bs).xpend = w.xpend := rfl
@[simp] theorem Warp.replaceBatch_ops (w : Warp) (l : Nat) (bs : List Batch) : (w.replaceBatch l bs).ops = w.ops := rfl
@[simp] theorem Warp.replaceBatch_windows (w : Warp) (l : Nat) (bs : List Batch) : (w.replaceBatch l bs).windows = w.windows := rfl
@[simp] theorem Warp.replaceBatch_ords (w : Warp) (l : Nat) (bs : List Batch) : (w.replaceBatch l bs).ords = w.ords := rfl
@[simp] theorem Warp.replaceBatch_hsave (w : Warp) (l : Nat) (bs : List Batch) : (w.replaceBatch l bs).hsave = w.hsave := rfl
@[simp] theorem Warp.replaceBatch_divrec (w : Warp) (l : Nat) (bs : List Batch) : (w.replaceBatch l bs).divrec = w.divrec := rfl
@[simp] theorem Warp.replaceBatch_hostrec (w : Warp) (l : Nat) (bs : List Batch) : (w.replaceBatch l bs).hostrec = w.hostrec := rfl
@[simp] theorem Warp.replaceBatch_quad (w : Warp) (l : Nat) (bs : List Batch) : (w.replaceBatch l bs).quad = w.quad := rfl
@[simp] theorem Warp.replaceBatch_ended (w : Warp) (l : Nat) (bs : List Batch) : (w.replaceBatch l bs).ended = w.ended := rfl

@[simp] theorem Warp.setPredMask_batches (w : Warp) (n : Nat) (m v : Mask) : (w.setPredMask n m v).batches = w.batches := by
  unfold Warp.setPredMask
  split <;> rfl
@[simp] theorem Warp.setPredMask_exited (w : Warp) (n : Nat) (m v : Mask) : (w.setPredMask n m v).exited = w.exited := by
  unfold Warp.setPredMask
  split <;> rfl
@[simp] theorem Warp.setPredMask_vregs (w : Warp) (n : Nat) (m v : Mask) : (w.setPredMask n m v).vregs = w.vregs := by
  unfold Warp.setPredMask
  split <;> rfl
@[simp] theorem Warp.setPredMask_lnks (w : Warp) (n : Nat) (m v : Mask) : (w.setPredMask n m v).lnks = w.lnks := by
  unfold Warp.setPredMask
  split <;> rfl
@[simp] theorem Warp.setPredMask_afls (w : Warp) (n : Nat) (m v : Mask) : (w.setPredMask n m v).afls = w.afls := by
  unfold Warp.setPredMask
  split <;> rfl
@[simp] theorem Warp.setPredMask_arms (w : Warp) (n : Nat) (m v : Mask) : (w.setPredMask n m v).arms = w.arms := by
  unfold Warp.setPredMask
  split <;> rfl
@[simp] theorem Warp.setPredMask_uregs (w : Warp) (n : Nat) (m v : Mask) : (w.setPredMask n m v).uregs = w.uregs := by
  unfold Warp.setPredMask
  split <;> rfl
@[simp] theorem Warp.setPredMask_utags (w : Warp) (n : Nat) (m v : Mask) : (w.setPredMask n m v).utags = w.utags := by
  unfold Warp.setPredMask
  split <;> rfl
@[simp] theorem Warp.setPredMask_wb (w : Warp) (n : Nat) (m v : Mask) : (w.setPredMask n m v).wb = w.wb := by
  unfold Warp.setPredMask
  split <;> rfl
@[simp] theorem Warp.setPredMask_base (w : Warp) (n : Nat) (m v : Mask) : (w.setPredMask n m v).base = w.base := by
  unfold Warp.setPredMask
  split <;> rfl
@[simp] theorem Warp.setPredMask_gran (w : Warp) (n : Nat) (m v : Mask) : (w.setPredMask n m v).gran = w.gran := by
  unfold Warp.setPredMask
  split <;> rfl
@[simp] theorem Warp.setPredMask_xpend (w : Warp) (n : Nat) (m v : Mask) : (w.setPredMask n m v).xpend = w.xpend := by
  unfold Warp.setPredMask
  split <;> rfl
@[simp] theorem Warp.setPredMask_ops (w : Warp) (n : Nat) (m v : Mask) : (w.setPredMask n m v).ops = w.ops := by
  unfold Warp.setPredMask
  split <;> rfl
@[simp] theorem Warp.setPredMask_windows (w : Warp) (n : Nat) (m v : Mask) : (w.setPredMask n m v).windows = w.windows := by
  unfold Warp.setPredMask
  split <;> rfl
@[simp] theorem Warp.setPredMask_ords (w : Warp) (n : Nat) (m v : Mask) : (w.setPredMask n m v).ords = w.ords := by
  unfold Warp.setPredMask
  split <;> rfl
@[simp] theorem Warp.setPredMask_hsave (w : Warp) (n : Nat) (m v : Mask) : (w.setPredMask n m v).hsave = w.hsave := by
  unfold Warp.setPredMask
  split <;> rfl
@[simp] theorem Warp.setPredMask_divrec (w : Warp) (n : Nat) (m v : Mask) : (w.setPredMask n m v).divrec = w.divrec := by
  unfold Warp.setPredMask
  split <;> rfl
@[simp] theorem Warp.setPredMask_hostrec (w : Warp) (n : Nat) (m v : Mask) : (w.setPredMask n m v).hostrec = w.hostrec := by
  unfold Warp.setPredMask
  split <;> rfl
@[simp] theorem Warp.setPredMask_quad (w : Warp) (n : Nat) (m v : Mask) : (w.setPredMask n m v).quad = w.quad := by
  unfold Warp.setPredMask
  split <;> rfl
@[simp] theorem Warp.setPredMask_ended (w : Warp) (n : Nat) (m v : Mask) : (w.setPredMask n m v).ended = w.ended := by
  unfold Warp.setPredMask
  split <;> rfl

@[simp] theorem Warp.raise_batches (w : Warp) (l : Nat) (fl : Afl) : (w.raise l fl).batches = w.batches := by
  unfold Warp.raise
  split <;> rfl
@[simp] theorem Warp.raise_exited (w : Warp) (l : Nat) (fl : Afl) : (w.raise l fl).exited = w.exited := by
  unfold Warp.raise
  split <;> rfl
@[simp] theorem Warp.raise_vregs (w : Warp) (l : Nat) (fl : Afl) : (w.raise l fl).vregs = w.vregs := by
  unfold Warp.raise
  split <;> rfl
@[simp] theorem Warp.raise_preds (w : Warp) (l : Nat) (fl : Afl) : (w.raise l fl).preds = w.preds := by
  unfold Warp.raise
  split <;> rfl
@[simp] theorem Warp.raise_lnks (w : Warp) (l : Nat) (fl : Afl) : (w.raise l fl).lnks = w.lnks := by
  unfold Warp.raise
  split <;> rfl
@[simp] theorem Warp.raise_arms (w : Warp) (l : Nat) (fl : Afl) : (w.raise l fl).arms = w.arms := by
  unfold Warp.raise
  split <;> rfl
@[simp] theorem Warp.raise_uregs (w : Warp) (l : Nat) (fl : Afl) : (w.raise l fl).uregs = w.uregs := by
  unfold Warp.raise
  split <;> rfl
@[simp] theorem Warp.raise_utags (w : Warp) (l : Nat) (fl : Afl) : (w.raise l fl).utags = w.utags := by
  unfold Warp.raise
  split <;> rfl
@[simp] theorem Warp.raise_wb (w : Warp) (l : Nat) (fl : Afl) : (w.raise l fl).wb = w.wb := by
  unfold Warp.raise
  split <;> rfl
@[simp] theorem Warp.raise_base (w : Warp) (l : Nat) (fl : Afl) : (w.raise l fl).base = w.base := by
  unfold Warp.raise
  split <;> rfl
@[simp] theorem Warp.raise_gran (w : Warp) (l : Nat) (fl : Afl) : (w.raise l fl).gran = w.gran := by
  unfold Warp.raise
  split <;> rfl
@[simp] theorem Warp.raise_xpend (w : Warp) (l : Nat) (fl : Afl) : (w.raise l fl).xpend = w.xpend := by
  unfold Warp.raise
  split <;> rfl
@[simp] theorem Warp.raise_ops (w : Warp) (l : Nat) (fl : Afl) : (w.raise l fl).ops = w.ops := by
  unfold Warp.raise
  split <;> rfl
@[simp] theorem Warp.raise_windows (w : Warp) (l : Nat) (fl : Afl) : (w.raise l fl).windows = w.windows := by
  unfold Warp.raise
  split <;> rfl
@[simp] theorem Warp.raise_ords (w : Warp) (l : Nat) (fl : Afl) : (w.raise l fl).ords = w.ords := by
  unfold Warp.raise
  split <;> rfl
@[simp] theorem Warp.raise_hsave (w : Warp) (l : Nat) (fl : Afl) : (w.raise l fl).hsave = w.hsave := by
  unfold Warp.raise
  split <;> rfl
@[simp] theorem Warp.raise_divrec (w : Warp) (l : Nat) (fl : Afl) : (w.raise l fl).divrec = w.divrec := by
  unfold Warp.raise
  split <;> rfl
@[simp] theorem Warp.raise_hostrec (w : Warp) (l : Nat) (fl : Afl) : (w.raise l fl).hostrec = w.hostrec := by
  unfold Warp.raise
  split <;> rfl
@[simp] theorem Warp.raise_quad (w : Warp) (l : Nat) (fl : Afl) : (w.raise l fl).quad = w.quad := by
  unfold Warp.raise
  split <;> rfl
@[simp] theorem Warp.raise_ended (w : Warp) (l : Nat) (fl : Afl) : (w.raise l fl).ended = w.ended := by
  unfold Warp.raise
  split <;> rfl

/-! ## Fields of an address slice that a register write leaves alone -/

@[simp] theorem ASlice.setG_pc (s : ASlice) (n x : Nat) : (s.setG n x).pc = s.pc := by
  unfold ASlice.setG
  split <;> rfl
@[simp] theorem ASlice.setG_hints (s : ASlice) (n x : Nat) : (s.setG n x).hints = s.hints := by
  unfold ASlice.setG
  split <;> rfl
@[simp] theorem ASlice.setG_wait (s : ASlice) (n x : Nat) : (s.setG n x).wait = s.wait := by
  unfold ASlice.setG
  split <;> rfl
@[simp] theorem ASlice.setG_ops (s : ASlice) (n x : Nat) : (s.setG n x).ops = s.ops := by
  unfold ASlice.setG
  split <;> rfl
@[simp] theorem ASlice.setG_windows (s : ASlice) (n x : Nat) : (s.setG n x).windows = s.windows := by
  unfold ASlice.setG
  split <;> rfl
@[simp] theorem ASlice.setG_seqno (s : ASlice) (n x : Nat) : (s.setG n x).seqno = s.seqno := by
  unfold ASlice.setG
  split <;> rfl
@[simp] theorem ASlice.setG_copies (s : ASlice) (n x : Nat) : (s.setG n x).copies = s.copies := by
  unfold ASlice.setG
  split <;> rfl
@[simp] theorem ASlice.setG_ord (s : ASlice) (n x : Nat) : (s.setG n x).ord = s.ord := by
  unfold ASlice.setG
  split <;> rfl
@[simp] theorem ASlice.setG_resv (s : ASlice) (n x : Nat) : (s.setG n x).resv = s.resv := by
  unfold ASlice.setG
  split <;> rfl
@[simp] theorem ASlice.setG_hsave (s : ASlice) (n x : Nat) : (s.setG n x).hsave = s.hsave := by
  unfold ASlice.setG
  split <;> rfl
@[simp] theorem ASlice.setG_hostrec (s : ASlice) (n x : Nat) : (s.setG n x).hostrec = s.hostrec := by
  unfold ASlice.setG
  split <;> rfl
@[simp] theorem ASlice.setG_yielded (s : ASlice) (n x : Nat) : (s.setG n x).yielded = s.yielded := by
  unfold ASlice.setG
  split <;> rfl
@[simp] theorem ASlice.setG_ended (s : ASlice) (n x : Nat) : (s.setG n x).ended = s.ended := by
  unfold ASlice.setG
  split <;> rfl

/-! ## What a changed object reads as -/

theorem Run.get?_crew_self (r : Run) (c : Nat) (f : Crew → Crew) :
    Assoc.get? (r.crew c f).crews c = (Assoc.get? r.crews c).map f := Assoc.get?_modify_self _ _ _

@[simp] theorem Run.get?_crew_ne (r : Run) {c k : Nat} (f : Crew → Crew) (h : c ≠ k) :
    Assoc.get? (r.crew c f).crews k = Assoc.get? r.crews k := Assoc.get?_modify_ne _ _ h

theorem Run.get?_block_self (r : Run) (b : Nat) (f : Block → Block) :
    Assoc.get? (r.block b f).blocks b = (Assoc.get? r.blocks b).map f := Assoc.get?_modify_self _ _ _

@[simp] theorem Run.get?_block_ne (r : Run) {b k : Nat} (f : Block → Block) (h : b ≠ k) :
    Assoc.get? (r.block b f).blocks k = Assoc.get? r.blocks k := Assoc.get?_modify_ne _ _ h

theorem Run.get?_grid_self (r : Run) (g : Nat) (f : Grid → Grid) :
    Assoc.get? (r.grid g f).grids g = (Assoc.get? r.grids g).map f := Assoc.get?_modify_self _ _ _

@[simp] theorem Run.get?_grid_ne (r : Run) {g k : Nat} (f : Grid → Grid) (h : g ≠ k) :
    Assoc.get? (r.grid g f).grids k = Assoc.get? r.grids k := Assoc.get?_modify_ne _ _ h

@[simp] theorem Run.coreSt_core_self (r : Run) (k : Nat) (f : CoreSt → CoreSt) : (r.core k f).coreSt k = f (r.coreSt k) := by
  simp [Run.coreSt, Run.core]

@[simp] theorem Run.coreSt_core_ne (r : Run) {k j : Nat} (f : CoreSt → CoreSt) (h : k ≠ j) :
    (r.core k f).coreSt j = r.coreSt j := by
  simp [Run.coreSt, Run.core, h]

@[simp] theorem Run.tileSt_tile_self (r : Run) (t : Nat) (f : TileSt → TileSt) : (r.tile t f).tileSt t = f (r.tileSt t) := by
  simp [Run.tileSt, Run.tile]

@[simp] theorem Run.tileSt_tile_ne (r : Run) {t j : Nat} (f : TileSt → TileSt) (h : t ≠ j) :
    (r.tile t f).tileSt j = r.tileSt j := by
  simp [Run.tileSt, Run.tile, h]

@[simp] theorem Run.func_setFunc_self (r : Run) (n : Nat) (f : Func → Func) : (r.setFunc n f).func n = f (r.func n) := by
  simp [Run.func, Run.setFunc]

@[simp] theorem Run.func_setFunc_ne (r : Run) {n k : Nat} (f : Func → Func) (h : n ≠ k) :
    (r.setFunc n f).func k = r.func k := by
  simp [Run.func, Run.setFunc, h]

@[simp] theorem Run.queueIf_setQueueIf_self (r : Run) (n q : Nat) (f : QueueIf → QueueIf) :
    (r.setQueueIf n q f).queueIf n q = f (r.queueIf n q) := by
  simp [Run.queueIf, Run.setQueueIf]

/-! ## Registers read after a write -/

@[simp] theorem Warp.v_setV_self (w : Warp) (l n : Nat) (x : Word) : (w.setV l n x).v l n = x := by
  simp [Warp.v, Warp.setV]

theorem Warp.v_setV_ne (w : Warp) {l n k j : Nat} (x : Word) (h : 32 * n + l ≠ 32 * j + k) :
    (w.setV l n x).v k j = w.v k j := by
  simp [Warp.v, Warp.setV, h]

@[simp] theorem Warp.u_setU_self (w : Warp) (n : Nat) (x : Word) : (w.setU n x).u n = x := by
  simp [Warp.u, Warp.setU]

@[simp] theorem Warp.u_setU_ne (w : Warp) {n j : Nat} (x : Word) (h : n ≠ j) : (w.setU n x).u j = w.u j := by
  simp [Warp.u, Warp.setU, h]

@[simp] theorem Warp.lnk_setLnk_self (w : Warp) (l : Nat) (x : Word) : (w.setLnk l x).lnk l = x := by
  simp [Warp.lnk, Warp.setLnk]

@[simp] theorem Warp.lnk_setLnk_ne (w : Warp) {l j : Nat} (x : Word) (h : l ≠ j) : (w.setLnk l x).lnk j = w.lnk j := by
  simp [Warp.lnk, Warp.setLnk, h]

/-- AFL is sticky: a lane's flags after some are raised are the old ones and these (R24). -/
@[simp] theorem Warp.afl_raise_self (w : Warp) (l : Nat) (fl : Afl) : (w.raise l fl).afl l = w.afl l ||| fl := by
  unfold Warp.raise
  split
  · rename_i h
    simp [h]
  · simp [Warp.afl]

@[simp] theorem Warp.afl_raise_ne (w : Warp) {l j : Nat} (fl : Afl) (h : l ≠ j) : (w.raise l fl).afl j = w.afl j := by
  unfold Warp.raise
  split
  · rfl
  · simp [Warp.afl, h]

/-- g0 reads as zero whatever is written (R21). -/
@[simp] theorem ASlice.g_zero (s : ASlice) : s.g 0 = 0 := rfl

@[simp] theorem ASlice.setG_zero (s : ASlice) (x : Nat) : s.setG 0 x = s := rfl

@[simp] theorem ASlice.g_setG_self (s : ASlice) {n : Nat} (x : Nat) (h : n ≠ 0) : (s.setG n x).g n = BitVec.ofNat 64 x := by
  simp [ASlice.g, ASlice.setG, h]

@[simp] theorem ASlice.g_setG_ne (s : ASlice) {n j : Nat} (x : Nat) (h : n ≠ j) : (s.setG n x).g j = s.g j := by
  unfold ASlice.setG
  split
  · rfl
  · simp [ASlice.g, h]

/-! ## Places in the list of warps -/

theorem getElem?_setAt_self {α : Type} (xs : List α) (n : Nat) (y : α) (h : n < xs.length) : (setAt xs n y)[n]? = some y := by
  induction xs generalizing n with
  | nil => exact absurd h (Nat.not_lt_zero n)
  | cons x xs ih =>
    cases n with
    | zero => rfl
    | succ n => simpa [setAt] using ih n (by simpa using h)

theorem getElem?_setAt_ne {α : Type} (xs : List α) {n k : Nat} (y : α) (h : n ≠ k) : (setAt xs n y)[k]? = xs[k]? := by
  induction xs generalizing n k with
  | nil => rfl
  | cons x xs ih =>
    cases n with
    | zero =>
      cases k with
      | zero => exact absurd rfl h
      | succ k => rfl
    | succ n =>
      cases k with
      | zero => rfl
      | succ k => simpa [setAt] using ih (n := n) (k := k) (by omega)

theorem Run.warp?_warp_self (r : Run) (c w : Nat) (f : Warp → Warp) : (r.warp c w f).warp? c w = (r.warp? c w).map f := by
  unfold Run.warp? Run.warp
  rw [Run.get?_crew_self]
  cases h : Assoc.get? r.crews c with
  | none => rfl
  | some x =>
    cases hw : x.warps[w]? with
    | none => simp [hw]
    | some y =>
      have hl : w < x.warps.length := (List.getElem?_eq_some_iff.mp hw).1
      simp [hw, getElem?_setAt_self _ _ _ hl]

end Sys2Proof.Machine
end

