-- ==== Sys2Proof/Laws/Issue.lean ====
section
/-! SUPPORT. What issuing a word, taking a turn and an event can do: one law for each shared operation of a step. -/

namespace Sys2Proof.Machine

/-! ## Compute words -/

/-- With nothing in the way a word that follows no failed one is judged by its own checks and effect. -/
theorem check_clear {d : WordDef} {e : Env} (h : Clear d e) : d.check e = d.body e := by
  have hb : ((d.uses e).vr ++ (d.uses e).vw).any (fun n => decide (e.w.count ≤ n)) = false := by
    rw [List.any_eq_false]
    intro n hn
    simpa using h.bound n hn
  unfold WordDef.check
  simp only [h.free, h.awaits, h.legal, h.lookahead, hb, Bool.or_false, Bool.not_true, Bool.false_eq_true, if_false]
  cases hp : d.pops e with
  | none => simp [h.waits, h.intact]
  | some q =>
    obtain ⟨x, hx⟩ := h.entry q hp
    simp [hx, h.waits, h.intact]

/-- With nothing in the way a word whose own checks pass takes effect. -/
theorem judge_clear {d : WordDef} {e : Env} {f : Flow} (h : Clear d e) (hb : d.body e = .ok f)
    (hn : f.next.MayGo e) : d.judge e = .ok f := by
  unfold WordDef.judge
  rw [check_clear h, hb]
  have ht : (f.next.trapsAfter && outstanding e.w.windows e.w.ops e.b.lanes) = false := by
    simpa [Env.settled] using hn.trap
  have hl : (f.next.leaves && behindPop e.w.windows e.w.ops e.b.lanes) = false := by simpa using hn.leave
  simp [h.faultless, ht, hl]

/-- A word after which its batch goes on in order. -/
theorem mayGo_seq {n : Next} {e : Env} (ht : n.trapsAfter = false) (hl : n.leaves = false) : n.MayGo e :=
  ⟨fun h => absurd (ht.symm.trans h) Bool.false_ne_true, fun h => absurd (hl.symm.trans h) Bool.false_ne_true⟩

/-- A word of the batch that has the turn answers the state that its run gives. -/
theorem issue_issuer {d : WordDef} {s : State} {e : Env} (hp : Issuer s e) : issue d s = .next (s.after (d.run e)) := by
  unfold issue
  rw [hp.1]
  simp only [hp.2]
  rfl

/-- A clear word whose checks pass takes effect and its batch goes on. -/
theorem issue_clear {d : WordDef} {s : State} {e : Env} {f : Flow} (hp : Issuer s e) (hc : Clear d e)
    (hn : f.next.MayGo e) (hb : d.body e = .ok f) : issue d s = .next (s.after (afterWord e d f)) := by
  rw [issue_issuer hp]
  unfold WordDef.run
  rw [judge_clear hc hb hn]

/-- A clear word whose own checks fail with a trap that comes at the word takes it, when no word that it follows is outstanding. -/
theorem issue_trap {d : WordDef} {s : State} {e : Env} {t : Trapping} (hp : Issuer s e) (hc : Clear d e)
    (hb : d.body e = .error (.trap t)) (ht : t.code ≠ tcHostPage) (hs : e.settled) (hl : d.mayBeLate e t = false) :
    issue d s = .next (s.after (takeTrap e e.r { e.b with wait := .none } e.b.pc t)) := by
  rw [issue_issuer hp]
  have hj : d.judge e = .error (.trap t) := by
    unfold WordDef.judge
    unfold Env.settled at hs
    rw [check_clear hc, hb]
    simp [hs]
  unfold WordDef.run
  rw [hj]
  simp [WordDef.trap, hl, WordDef.trapNow, hc.faultless, ht]

/-- Issuing answers only a next state, or the fault that no party has the turn. -/
theorem issue_cases (d : WordDef) (s : State) :
    (∃ e, Issuer s e ∧ issue d s = .next (s.after (d.run e))) ∨ issue d s = .fault .noParty := by
  unfold issue
  split
  · rename_i c w l ht
    split
    · rename_i e he
      have hk : e.cid = c ∧ e.wi = w ∧ e.lead = l := by
        unfold env? at he
        simp only [Option.bind_eq_bind, Option.bind_eq_some_iff, Option.pure_def, Option.some.injEq] at he
        obtain ⟨_, _, _, _, _, _, _, _, _, _, rfl⟩ := he
        exact ⟨rfl, rfl, rfl⟩
      obtain ⟨rfl, rfl, rfl⟩ := hk
      exact .inl ⟨e, ⟨ht, he⟩, rfl⟩
    · exact .inr rfl
  · exact .inr rfl

/-! ## Address-slice words -/

/-- With nothing in the way a word of the slice that follows no failed one is judged by its own checks and effect. -/
theorem sliceCheck_clear {d : SliceDef} {e : SEnv} (h : SliceClear d e) : d.check e = d.body e := by
  unfold SliceDef.check
  have hh : (!d.hint && (e.hints.bad || (!d.imm && e.hints.imm?))) = false := by
    rcases h.hints with hh | ⟨hb, hi | hi⟩
    · simp [hh]
    · simp [hb, hi]
    · simp [hb, hi]
  simp [h.free, h.awaits, hh, h.legal, h.lookahead, h.waits, h.intact]

/-- With nothing in the way a word of the slice whose own checks pass takes effect. -/
theorem sliceJudge_clear {d : SliceDef} {e : SEnv} {f : SFlow} (h : SliceClear d e) (hb : d.body e = .ok f)
    (hn : f.next.trapsAfter = true → e.settled) : d.judge e = .ok f := by
  unfold SliceDef.judge
  rw [sliceCheck_clear h, hb]
  cases ht : f.next.trapsAfter with
  | false => simp [h.faultless, ht]
  | true =>
    have := hn ht
    unfold SEnv.settled at this
    simp [h.faultless, this]

theorem issueSlice_issuer {d : SliceDef} {s : State} {e : SEnv} (hp : SliceIssuer s e) :
    issueSlice d s = .next (s.after (d.run e)) := by
  unfold issueSlice
  rw [hp.1]
  simp only [hp.2]
  rfl

theorem issueSlice_clear {d : SliceDef} {s : State} {e : SEnv} {f : SFlow} (hp : SliceIssuer s e) (hc : SliceClear d e)
    (hn : f.next.trapsAfter = true → e.settled) (hb : d.body e = .ok f) : issueSlice d s = .next (s.after (afterSliceWord e d f)) := by
  rw [issueSlice_issuer hp]
  unfold SliceDef.run
  rw [sliceJudge_clear hc hb hn]

/-- A word that both slices share is issued as the slice's that has the turn. -/
theorem issueEither_batch {d : WordDef} {a : SliceDef} {s : State} {e : Env} (hp : Issuer s e) :
    issueEither d a s = issue d s := by
  unfold issueEither
  rw [hp.1]

theorem issueEither_slice {d : WordDef} {a : SliceDef} {s : State} {e : SEnv} (hp : SliceIssuer s e) :
    issueEither d a s = issueSlice a s := by
  unfold issueEither
  rw [hp.1]

/-! ## Events -/

theorem happen_event {s : State} {h : Happening} (ht : s.turn = .event h) (f : EvArgs → Run) :
    happen s f = .next (s.after (f h.args)) := by
  unfold happen
  rw [ht]
  rfl

theorem happenAll_event {s : State} {h : Happening} (ht : s.turn = .event h) (f : EvArgs → Mgmt × Run) :
    happenAll s f = .next { s.after (f h.args).2 with mgmt := (f h.args).1 } := by
  unfold happenAll
  rw [ht]
  rfl

end Sys2Proof.Machine
end

