-- ==== Sys2Proof/Laws/After.lean ====
section
/-! SUPPORT. What comes after a word leaves alone: one law for each operation that a word's effect and the frame around it use. -/

namespace Sys2Proof.Machine

/-! ## The issuer's objects -/

theorem Issuer.objects {s : State} {e : Env} (h : Issuer s e) :
    e.r = s.run ∧ e.m = s.mgmt ∧ Assoc.get? e.r.crews e.cid = some e.crew ∧ e.crew.warps[e.wi]? = some e.w := by
  have h := h.2
  unfold env? at h
  simp only [Option.bind_eq_bind, Option.bind_eq_some_iff, Option.pure_def, Option.some.injEq] at h
  obtain ⟨c, hc, w, hw, b, hb, bl, hbl, g, hg, he⟩ := h
  have h1 : c = e.crew := congrArg Env.crew he
  have h2 : w = e.w := congrArg Env.w he
  have h3 : s.run = e.r := congrArg Env.r he
  rw [h1] at hc hw
  rw [h2] at hw
  exact ⟨h3.symm, (congrArg Env.m he).symm, h3 ▸ hc, hw⟩

theorem Issuer.block {s : State} {e : Env} (h : Issuer s e) : Assoc.get? e.r.blocks e.crew.block = some e.blk := by
  have h := h.2
  unfold env? at h
  simp only [Option.bind_eq_bind, Option.bind_eq_some_iff, Option.pure_def, Option.some.injEq] at h
  obtain ⟨c, hc, w, hw, b, hb, bl, hbl, g, hg, he⟩ := h
  have h1 : c = e.crew := congrArg Env.crew he
  have h2 : bl = e.blk := congrArg Env.blk he
  have h3 : s.run = e.r := congrArg Env.r he
  rw [h1, h2] at hbl
  exact h3 ▸ hbl

theorem SliceIssuer.block {s : State} {e : SEnv} (h : SliceIssuer s e) : Assoc.get? e.r.blocks e.crew.block = some e.blk := by
  have h := h.2
  unfold senv? at h
  simp only [Option.bind_eq_bind, Option.bind_eq_some_iff, Option.pure_def, Option.some.injEq] at h
  obtain ⟨c, hc, bl, hbl, g, hg, he⟩ := h
  have h1 : c = e.crew := congrArg SEnv.crew he
  have h2 : bl = e.blk := congrArg SEnv.blk he
  have h3 : s.run = e.r := congrArg SEnv.r he
  rw [h1, h2] at hbl
  exact h3 ▸ hbl

theorem SliceIssuer.objects {s : State} {e : SEnv} (h : SliceIssuer s e) :
    e.r = s.run ∧ e.m = s.mgmt ∧ Assoc.get? e.r.crews e.cid = some e.crew ∧ e.crew.aslice = e.s := by
  have h := h.2
  unfold senv? at h
  simp only [Option.bind_eq_bind, Option.bind_eq_some_iff, Option.pure_def, Option.some.injEq] at h
  obtain ⟨c, hc, bl, hbl, g, hg, he⟩ := h
  have h1 : c = e.crew := congrArg SEnv.crew he
  have h3 : s.run = e.r := congrArg SEnv.r he
  rw [h1] at hc
  exact ⟨h3.symm, (congrArg SEnv.m he).symm, h3 ▸ hc, h1 ▸ congrArg SEnv.s he⟩

/-! ## Lists -/

theorem setAt_setAt {α : Type} (xs : List α) (n : Nat) (x y : α) : setAt (setAt xs n x) n y = setAt xs n y := by
  induction xs generalizing n with
  | nil => rfl
  | cons z xs ih =>
    cases n with
    | zero => rfl
    | succ n => simp [setAt, ih]

/-! ## A warp changed -/

/-- The crew after its warp has changed. -/
theorem Run.get?_warp (r : Run) {c w : Nat} {x : Crew} {y : Warp} (f : Warp → Warp) (hx : Assoc.get? r.crews c = some x)
    (hy : x.warps[w]? = some y) :
    Assoc.get? (r.warp c w f).crews c = some { x with warps := setAt x.warps w (f y) } := by
  unfold Run.warp
  rw [Run.get?_crew_self, hx]
  simp [hy]

@[simp] theorem Run.get?_warp_ne (r : Run) {c k : Nat} (w : Nat) (f : Warp → Warp) (h : c ≠ k) :
    Assoc.get? (r.warp c w f).crews k = Assoc.get? r.crews k := Run.get?_crew_ne _ _ h

/-- Memory reads as before where the memories themselves, and each crew's and block's own, are as before. -/
theorem SameMemory.of_crews {r t : Run} (h : { t with crews := r.crews, tiles := r.tiles, cores := r.cores } = r)
    (hc : ∀ c, (Assoc.get? t.crews c).map (fun x => (x.pad, x.lanes)) = (Assoc.get? r.crews c).map (fun x => (x.pad, x.lanes))) :
    SameMemory r t := by
  intro p
  have hb : t.blocks = r.blocks := (congrArg Run.blocks h : _)
  have hs : t.spad = r.spad := (congrArg Run.spad h : _)
  have hm : t.mem = r.mem := (congrArg Run.mem h : _)
  have hh : t.hostMem = r.hostMem := (congrArg Run.hostMem h : _)
  have hp : t.peerMem = r.peerMem := (congrArg Run.peerMem h : _)
  cases p with
  | pad c o =>
    have := hc c
    unfold rawByte
    dsimp only
    cases h1 : Assoc.get? t.crews c <;> cases h2 : Assoc.get? r.crews c <;> simp_all
  | lane c o =>
    have := hc c
    unfold rawByte
    dsimp only
    cases h1 : Assoc.get? t.crews c <;> cases h2 : Assoc.get? r.crews c <;> simp_all
  | clu b o => unfold rawByte; rw [hb]
  | spad k => unfold rawByte; rw [hs]
  | dev a => unfold rawByte; rw [hm]
  | host a => unfold rawByte; rw [hh]
  | peer a => unfold rawByte; rw [hp]

/-! ## Words that act on their own warp -/

@[simp] theorem Crew.popped_pad (c : Crew) (q : Option Nat) : (c.popped q).pad = c.pad := by cases q <;> rfl
@[simp] theorem Crew.popped_lanes (c : Crew) (q : Option Nat) : (c.popped q).lanes = c.lanes := by cases q <;> rfl
@[simp] theorem Crew.popped_warps (c : Crew) (q : Option Nat) : (c.popped q).warps = c.warps := by cases q <;> rfl

theorem Run.get?_popQueue (r : Run) {c : Nat} {x : Crew} (q : Option Nat) (hx : Assoc.get? r.crews c = some x) :
    Assoc.get? (popQueue r c q).crews c = some (x.popped q) := by
  cases q with
  | none => exact hx
  | some q =>
    unfold popQueue
    rw [Run.get?_crew_self, hx]
    rfl

/-- The parts of OnlyWarp but memory give it whole. -/
theorem OnlyWarp.of {e : Env} {pop : Option Nat} {keeps : Warp → Warp → Prop} {t : Run}
    (hx : Assoc.get? e.r.crews e.cid = some e.crew)
    (rest : { t with crews := e.r.crews, tiles := e.r.tiles, cores := e.r.cores } = e.r)
    (others : ∀ c, c ≠ e.cid → Assoc.get? t.crews c = Assoc.get? e.r.crews c)
    (own : ∃ w, Assoc.get? t.crews e.cid = some { e.crew.popped pop with warps := setAt e.crew.warps e.wi w } ∧ keeps e.w w)
    (tile : t.tileSt e.tile = { e.r.tileSt e.tile with thrCount := (t.tileSt e.tile).thrCount })
    (otherTiles : ∀ k, k ≠ e.tile → t.tileSt k = e.r.tileSt k)
    (core : t.coreSt e.crew.core = { e.r.coreSt e.crew.core with running := (t.coreSt e.crew.core).running })
    (otherCores : ∀ k, k ≠ e.crew.core → t.coreSt k = e.r.coreSt k) : OnlyWarp e pop keeps t := by
  refine ⟨SameMemory.of_crews rest fun c => ?_, rest, others, own, tile, otherTiles, core, otherCores⟩
  by_cases h : c = e.cid
  · subst h
    obtain ⟨w, hw, -⟩ := own
    rw [hw, hx]
    simp
  · rw [others c h]

/-- A change of the issuing warp, after a pop. -/
theorem OnlyWarp.start {e : Env} {keeps : Warp → Warp → Prop} {f : Warp → Warp} (pop : Option Nat)
    (hx : Assoc.get? e.r.crews e.cid = some e.crew) (hy : e.crew.warps[e.wi]? = some e.w) (hk : keeps e.w (f e.w)) :
    OnlyWarp e pop keeps ((popQueue e.r e.cid pop).warp e.cid e.wi f) := by
  have h1 := Run.get?_popQueue e.r pop hx
  refine OnlyWarp.of hx ?_ ?_ ⟨f e.w, ?_, hk⟩ ?_ ?_ ?_ ?_
  · cases pop <;> rfl
  · intro c hc
    rw [Run.get?_warp_ne _ _ _ (Ne.symm hc)]
    cases pop with
    | none => rfl
    | some q => exact Run.get?_crew_ne _ _ (Ne.symm hc)
  · rw [Run.get?_warp _ f h1 (by simpa using hy)]
    simp
  · cases pop <;> rfl
  · intro k _
    cases pop <;> rfl
  · cases pop <;> rfl
  · intro k _
    cases pop <;> rfl

/-- A further change of the issuing warp. -/
theorem OnlyWarp.warp {e : Env} {pop : Option Nat} {K L : Warp → Warp → Prop} {t : Run} (h : OnlyWarp e pop K t) {g : Warp → Warp}
    (hx : Assoc.get? e.r.crews e.cid = some e.crew) (hy : e.crew.warps[e.wi]? = some e.w) (hg : ∀ w, K e.w w → L e.w (g w)) :
    OnlyWarp e pop L (t.warp e.cid e.wi g) := by
  obtain ⟨w, hw, hk⟩ := h.own
  have hl : e.wi < e.crew.warps.length := (List.getElem?_eq_some_iff.mp hy).1
  refine OnlyWarp.of hx h.rest ?_ ⟨g w, ?_, hg w hk⟩ h.tile h.otherTiles h.core h.otherCores
  · intro c hc
    rw [Run.get?_warp_ne _ _ _ (Ne.symm hc), h.others c hc]
  · rw [Run.get?_warp _ g hw (getElem?_setAt_self _ _ _ hl)]
    simp [setAt_setAt]

/-- The quadrant's batch is no longer the one it issues. -/
theorem OnlyWarp.stopRunning {e : Env} {pop : Option Nat} {K : Warp → Warp → Prop} {t : Run} (h : OnlyWarp e pop K t)
    (hx : Assoc.get? e.r.crews e.cid = some e.crew) (q : Nat) : OnlyWarp e pop K (stopRunning t e.crew.core q) := by
  refine OnlyWarp.of hx h.rest h.others h.own h.tile h.otherTiles ?_ ?_
  · have := h.core
    unfold Machine.stopRunning
    rw [Run.coreSt_core_self, this]
  · intro k hk
    unfold Machine.stopRunning
    rw [Run.coreSt_core_ne _ _ (Ne.symm hk), h.otherCores k hk]

/-- Events of flags counted. -/
theorem OnlyWarp.countEvents {e : Env} {pop : Option Nat} {K : Warp → Warp → Prop} {t : Run} (h : OnlyWarp e pop K t)
    (hx : Assoc.get? e.r.crews e.cid = some e.crew) (cls n : Nat) : OnlyWarp e pop K (countEvents t e.tile e.ctx cls n) := by
  unfold Machine.countEvents
  split
  · exact h
  · refine OnlyWarp.of hx h.rest h.others h.own ?_ ?_ h.core h.otherCores
    · have := h.tile
      rw [Run.tileSt_tile_self, this]
    · intro k hk
      rw [Run.tileSt_tile_ne _ _ (Ne.symm hk), h.otherTiles k hk]

theorem OnlyWarp.countFlags {e : Env} {pop : Option Nat} {K : Warp → Warp → Prop} {t : Run} (h : OnlyWarp e pop K t)
    (hx : Assoc.get? e.r.crews e.cid = some e.crew) (fs : List (Nat × Afl)) : OnlyWarp e pop K (countFlags t e.tile e.ctx fs) := by
  unfold Machine.countFlags
  split
  · exact h
  · simp only [List.foldl_cons, List.foldl_nil]
    exact ((((((h.countEvents hx _ _).countEvents hx _ _).countEvents hx _ _).countEvents hx _ _).countEvents hx _ _).countEvents hx
      _ _)

/-- A word whose batch goes on to the next word leaves alone what its own effect does. -/
theorem OnlyWarp.seq {e : Env} {d : WordDef} {pop : Option Nat} {K : Warp → Warp → Prop} {t : Run} {op : Nat}
    (h : OnlyWarp e pop K t) (hx : Assoc.get? e.r.crews e.cid = some e.crew) (hy : e.crew.warps[e.wi]? = some e.w)
    (hK : ∀ w bs ws, K e.w w → K e.w { w with batches := bs, windows := ws }) :
    OnlyWarp e pop K (afterWord e d (does t (op := op))) := by
  have h1 : ∀ g : Warp → Warp, (∀ w, ∃ bs ws, g w = { w with batches := bs, windows := ws }) →
      OnlyWarp e pop K (t.warp e.cid e.wi g) := fun g hg =>
    h.warp hx hy fun w hw => by
      obtain ⟨bs, ws, he⟩ := hg w
      rw [he]
      exact hK w bs ws hw
  unfold afterWord does
  dsimp only
  split
  · exact (h1 _ fun w => ⟨_, _, rfl⟩).stopRunning hx _
  · exact h1 _ fun w => ⟨_, _, rfl⟩

/-- A list of active lanes names none that is not. -/
theorem Env.lanes_active {e : Env} {l : Nat} (h : l ∈ e.lanes) : l < 32 ∧ e.active.getLsbD l = true := by
  unfold Env.lanes lanesOf at h
  simpa using h

/-- A branch whose targets no check refuses. -/
theorem checkJumps_good {e : Env} {reg : Bool} {ts : List (Nat × Word)} (h : ∀ p ∈ ts, goodTarget e p.2) :
    checkJumps e reg ts = .ok ts := by
  unfold checkJumps
  dsimp only
  rw [List.find?_eq_none.mpr]
  intro p hp
  obtain ⟨h1, h2⟩ := h p hp
  simp [h1, inImage, h2]

/-- Outside a handler there is nothing to settle. -/
theorem settleHandler_none {w : Warp} (h : w.hsave = none) : settleHandler w = w := by
  unfold settleHandler
  rw [h]

/-! ## Frames of the issuing warp -/

theorem LaneFrame.refl (lanes : Mask) (dst : List Nat) (w : Warp) : LaneFrame lanes dst w w :=
  ⟨rfl, fun _ _ _ _ => rfl, fun _ h => h, fun _ h _ => h, fun _ _ => rfl, fun _ => BitVec.or_self⟩

theorem LaneFrame.moved {lanes : Mask} {dst : List Nat} {w x : Warp} (h : LaneFrame lanes dst w x) (bs : List Batch)
    (ws : List Window) : LaneFrame lanes dst w { x with batches := bs, windows := ws } :=
  ⟨h.rest, h.regs, h.errs, h.kept, h.flags, h.sticky⟩

/-- Of the words that hold an error, one less. -/
theorem Warp.mem_without {w : Warp} {c x : Cell} : x ∈ w.without c ↔ x ∈ w.bad ∧ x ≠ c := by
  simp [Warp.without]

theorem LaneFrame.setV {lanes : Mask} {dst : List Nat} {w x : Warp} (h : LaneFrame lanes dst w x) {l n : Nat} (hl : l < 32)
    (ha : lanes.getLsbD l = true) (hn : n ∈ dst) (y : Word) : LaneFrame lanes dst w (x.setV l n y) := by
  refine ⟨h.rest, fun k j hk hj => ?_, fun c hc => h.errs c (Warp.mem_without.mp hc).1,
    fun c hc hd => Warp.mem_without.mpr ⟨h.kept c hc hd, fun he => ?_⟩, h.flags, h.sticky⟩
  rotate_left
  · rcases hd l n he with hf | hf
    · exact absurd (ha.symm.trans hf) (by decide)
    · exact hf hn
  rw [Warp.v_setV_ne]
  · exact h.regs k j hk hj
  · intro he
    have h1 : l = k := by omega
    have h2 : n = j := by omega
    subst h1 h2
    rcases hj with hj | hj
    · rw [ha] at hj
      exact absurd hj (by decide)
    · exact hj hn

theorem LaneFrame.setVW {lanes : Mask} {w x : Warp} {wide : Bool} {d l : Nat} (h : LaneFrame lanes (pair wide d) w x)
    (hl : l < 32) (ha : lanes.getLsbD l = true) (y : Nat) : LaneFrame lanes (pair wide d) w (x.setVW wide l d y) := by
  cases wide with
  | false => exact h.setV hl ha (by simp [pair]) _
  | true => exact (h.setV hl ha (by simp [pair]) _).setV hl ha (by simp [pair]) _

theorem LaneFrame.raise {lanes : Mask} {dst : List Nat} {w x : Warp} (h : LaneFrame lanes dst w x) {l : Nat}
    (ha : lanes.getLsbD l = true) (fl : Afl) : LaneFrame lanes dst w (x.raise l fl) := by
  have hr : { x.raise l fl with vregs := w.vregs, afls := w.afls, batches := w.batches, windows := w.windows, bad := w.bad } =
      { x with vregs := w.vregs, afls := w.afls, batches := w.batches, windows := w.windows, bad := w.bad } := by
    unfold Warp.raise
    split <;> rfl
  have hb : (x.raise l fl).bad = x.bad := by
    unfold Warp.raise
    split <;> rfl
  refine ⟨hr.trans h.rest, fun k j hk hj => ?_, fun c hc => h.errs c (hb ▸ hc), fun c hc hd => hb ▸ h.kept c hc hd, fun k hk => ?_, fun k => ?_⟩
  · have := h.regs k j hk hj
    unfold Warp.v at *
    rwa [Warp.raise_vregs]
  · by_cases hlk : l = k
    · subst hlk
      rw [ha] at hk
      exact absurd hk (by decide)
    · rw [Warp.afl_raise_ne _ _ hlk]
      exact h.flags k hk
  · by_cases hlk : l = k
    · subst hlk
      rw [Warp.afl_raise_self]
      have := h.sticky l
      rw [BitVec.or_assoc, BitVec.or_comm fl, ← BitVec.or_assoc, this]
    · rw [Warp.afl_raise_ne _ _ hlk]
      exact h.sticky k

theorem PredFrame.refl (lanes : Mask) (pd : Nat) (w : Warp) : PredFrame lanes pd w w :=
  ⟨rfl, fun _ h => h, fun _ h _ => h, fun _ _ _ => rfl, fun _ _ => rfl, fun _ => BitVec.or_self⟩

theorem PredFrame.moved {lanes : Mask} {pd : Nat} {w x : Warp} (h : PredFrame lanes pd w x) (bs : List Batch)
    (ws : List Window) : PredFrame lanes pd w { x with batches := bs, windows := ws } :=
  ⟨h.rest, h.errs, h.kept, h.preds, h.flags, h.sticky⟩

theorem PredFrame.setPredMask {lanes : Mask} {pd : Nat} {w x : Warp} (h : PredFrame lanes pd w x) (v : Mask) :
    PredFrame lanes pd w (x.setPredMask pd lanes v) := by
  unfold Warp.setPredMask
  split
  · exact h
  · rename_i h0
    refine ⟨h.rest, fun c hc => h.errs c ?_, fun c hc hd => ?_, fun l n hn => ?_, h.flags, h.sticky⟩
    · dsimp only at hc
      split at hc
      · exact (Warp.mem_without.mp hc).1
      · exact hc
    · dsimp only
      split
      · exact Warp.mem_without.mpr ⟨h.kept c hc hd, hd⟩
      · exact h.kept c hc hd
    rw [← h.preds l n hn]
    unfold Warp.p Warp.predMask
    by_cases hz : n = 0
    · rw [if_pos hz, if_pos hz]
    · rw [if_neg hz, if_neg hz]
      by_cases he : n = pd
      · subst he
        have hl : lanes.getLsbD l = false := by
          rcases hn with hn | hn | hn
          · exact hn
          · exact absurd rfl hn
          · exact absurd hn hz
        simp only [rdReg_wrReg_self, BitVec.getLsbD_or, BitVec.getLsbD_and, BitVec.getLsbD_not, hl]
        by_cases hb : l < 32
        · simp [hb]
        · simp [hb, BitVec.getLsbD_of_ge _ _ (Nat.not_lt.mp hb)]
      · dsimp only
        rw [rdReg_wrReg_ne _ _ (Ne.symm he)]

theorem PredFrame.raise {lanes : Mask} {pd : Nat} {w x : Warp} (h : PredFrame lanes pd w x) {l : Nat}
    (ha : lanes.getLsbD l = true) (fl : Afl) : PredFrame lanes pd w (x.raise l fl) := by
  have hr : { x.raise l fl with preds := w.preds, afls := w.afls, batches := w.batches, windows := w.windows, bad := w.bad } =
      { x with preds := w.preds, afls := w.afls, batches := w.batches, windows := w.windows, bad := w.bad } := by
    unfold Warp.raise
    split <;> rfl
  have hb : (x.raise l fl).bad = x.bad := by
    unfold Warp.raise
    split <;> rfl
  refine ⟨hr.trans h.rest, fun c hc => h.errs c (hb ▸ hc), fun c hc hd => hb ▸ h.kept c hc hd, fun k j hj => ?_, fun k hk => ?_, fun k => ?_⟩
  · have := h.preds k j hj
    unfold Warp.p Warp.predMask at *
    rwa [Warp.raise_preds]
  · by_cases hlk : l = k
    · subst hlk
      rw [ha] at hk
      exact absurd hk (by decide)
    · rw [Warp.afl_raise_ne _ _ hlk]
      exact h.flags k hk
  · by_cases hlk : l = k
    · subst hlk
      rw [Warp.afl_raise_self]
      have := h.sticky l
      rw [BitVec.or_assoc, BitVec.or_comm fl, ← BitVec.or_assoc, this]
    · rw [Warp.afl_raise_ne _ _ hlk]
      exact h.sticky k

theorem UniFrame.refl (dst : List Nat) (w : Warp) : UniFrame dst w w :=
  ⟨rfl, fun _ h => h, fun _ h _ => h, fun _ _ => rfl, fun _ _ _ => rfl⟩

theorem UniFrame.moved {dst : List Nat} {w x : Warp} (h : UniFrame dst w x) (bs : List Batch) (ws : List Window) :
    UniFrame dst w { x with batches := bs, windows := ws } :=
  ⟨h.rest, h.errs, h.kept, h.regs, h.tags⟩

theorem UniFrame.setU {dst : List Nat} {w x : Warp} (h : UniFrame dst w x) {n : Nat} (hn : n ∈ dst) (y : Word) :
    UniFrame dst w (x.setU n y) := by
  refine ⟨h.rest, fun c hc => h.errs c (Warp.mem_without.mp hc).1,
    fun c hc hd => Warp.mem_without.mpr ⟨h.kept c hc hd, hd n hn⟩, fun k hk => ?_, fun k hk hd => ?_⟩
  · rw [Warp.u_setU_ne _ _ (fun he : n = k => hk (he ▸ hn))]
    exact h.regs k hk
  · rw [← h.tags k hk hd]
    have hne : n / 4 ≠ k := fun he => hd (List.mem_map.mpr ⟨n, hn, he⟩)
    have h1 : ((1#96) <<< (n / 4)).getLsbD k = false := by
      rw [BitVec.getLsbD_shiftLeft, BitVec.getLsbD_one]
      by_cases hlt : k < n / 4
      · simp [hlt]
      · have : k - n / 4 ≠ 0 := by omega
        simp [this]
    unfold Warp.setU
    dsimp only
    rw [BitVec.getLsbD_and, BitVec.getLsbD_not, h1]
    simp [hk]

theorem UniFrame.setUW {w x : Warp} {wide : Bool} {n : Nat} (h : UniFrame (pair wide n) w x) (y : Nat) :
    UniFrame (pair wide n) w (x.setUW wide n y) := by
  cases wide with
  | false => exact h.setU (by simp [pair]) _
  | true => exact (h.setU (by simp [pair]) _).setU (by simp [pair]) _

/-! ## Words of the slice that act on its own registers -/

/-- Going on changes where the slice stands, and nothing else. -/
theorem ASlice.onward_eq (s : ASlice) (ps : List Pass) (pc : Word) (h : Hints) : ∃ pc' h' w ws qs,
    s.onward ps pc h = { s with pc := pc', hints := h', wait := w, windows := ws, replay := qs } := by
  cases ps with
  | nil => exact ⟨_, _, _, s.windows, s.replay, rfl⟩
  | cons p ps => exact ⟨_, _, _, _, _, rfl⟩

/-- A word of the slice that goes on, after a change of the slice itself. -/
theorem OnlySlice.seq {e : SEnv} {d : SliceDef} {K : ASlice → ASlice → Prop} {f : ASlice → ASlice} {op : Nat}
    (hx : Assoc.get? e.r.crews e.cid = some e.crew) (hy : e.crew.aslice = e.s)
    (hK : ∀ pc h w ws ps, K e.s { f e.s with pc := pc, hints := h, wait := w, windows := ws, replay := ps }) :
    OnlySlice e K (afterSliceWord e d (sliceDoes (e.r.slice e.cid f) (op := op))) := by
  have h1 : ∀ g : ASlice → ASlice, Assoc.get? ((e.r.slice e.cid f).slice e.cid g).crews e.cid =
      some { e.crew with aslice := g (f e.s) } := by
    intro g
    unfold Run.slice
    rw [Run.get?_crew_self, Run.get?_crew_self, hx, ← hy]
    rfl
  have h2 : ∀ (g : ASlice → ASlice) c, c ≠ e.cid →
      Assoc.get? ((e.r.slice e.cid f).slice e.cid g).crews c = Assoc.get? e.r.crews c := by
    intro g c hc
    unfold Run.slice
    rw [Run.get?_crew_ne _ _ (Ne.symm hc), Run.get?_crew_ne _ _ (Ne.symm hc)]
  unfold afterSliceWord sliceDoes
  dsimp only
  unfold goSlice
  refine ⟨SameMemory.of_crews rfl fun c => ?_, rfl, h2 _, ⟨_, h1 _, ?_⟩⟩
  · by_cases h : c = e.cid
    · subst h
      rw [h1, hx]
      rfl
    · rw [h2 _ c h]
  · obtain ⟨_, _, _, _, _, ho⟩ := ASlice.onward_eq (sliceTick e d ⟨e.r.slice e.cid f, .seq, op⟩ (f e.s)) e.s.replay (e.s.pc + 4) {}
    rw [ho]
    unfold sliceTick
    exact hK _ _ _ _ _

theorem GFrame.setG (n : Nat) (x : Nat) (s : ASlice) (pc : Word) (h : Hints) (w : Wait) (ws : List Window)
    (ps : List Pass) : GFrame [n] s { s.setG n x with pc := pc, hints := h, wait := w, windows := ws, replay := ps } := by
  unfold ASlice.setG
  split
  · exact ⟨rfl, fun _ h => h, fun _ h _ => h, fun _ _ => rfl, fun _ _ _ => rfl⟩
  · rename_i h0
    refine ⟨rfl, fun k hk => (List.mem_filter.mp hk).1, fun k hk hd => List.mem_filter.mpr ⟨hk, ?_⟩, fun k hk => ?_, fun k hk hd => ?_⟩
    · simpa using hd
    · unfold ASlice.g
      split
      · rfl
      · rename_i hz
        have : n ≠ k := by
          rcases hk with hk | hk
          · exact fun he => hk (he ▸ List.mem_singleton.mpr rfl)
          · exact absurd hk hz
        exact rdReg_wrReg_ne _ _ this
    · have hne : n / 2 ≠ k := fun he => hd (by simp [he])
      have h1 : ((1#32) <<< (n / 2)).getLsbD k = false := by
        rw [BitVec.getLsbD_shiftLeft, BitVec.getLsbD_one]
        by_cases hlt : k < n / 2
        · simp [hlt]
        · have : k - n / 2 ≠ 0 := by omega
          simp [this]
      dsimp only
      rw [BitVec.getLsbD_and, BitVec.getLsbD_not, h1]
      simp [hk]

end Sys2Proof.Machine
end

