-- ==== Sys2Proof/Machine/Assemble.lean ====
section
/-! DEFINITION. What the assembler spas makes of a kernel: its shape and limits (R80, R424), its rings (R423), immediates and the
hints they need (R77, R79, R422), the sources it refuses (R81), and the code object (R82, R83). No step of the machine uses this file:
the objects it makes are what a launch reads (log 48). -/

namespace Sys2Proof.Machine

/-! ## Directives (R80) -/

/-- The kinds of queue (R17). -/
inductive QKind where
  | uniform | vector | feedback
deriving DecidableEq, Repr, Inhabited

/-- The kind of a port (R17). -/
def QKind.ofPort (q : Nat) : QKind := if q < 8 then .uniform else if q < 12 then .vector else .feedback

/-- `.fslot`: format, kind and format of the scale, and its options with their defaults. -/
structure FslotSrc where
  fmt : Nat
  sckind : Nat := 0
  scfmt : Nat := 0
  rnd : Nat := 0
  sat : Nat := 0
  off : Nat := 0
  win : Int := 0
deriving DecidableEq, Repr, Inhabited

/-- The format slot of a `.fslot` (R45). -/
def FslotSrc.slot (s : FslotSrc) : Nat :=
  s.fmt + 2 ^ 4 * s.sckind + 2 ^ 6 * s.scfmt + 2 ^ 8 * s.rnd + 2 ^ 10 * s.sat + 2 ^ 16 * wrap 16 s.win + 2 ^ 32 * s.off

/-- The limits of `.fslot` (R80). -/
def FslotSrc.ok (s : FslotSrc) : Bool :=
  decide (s.fmt ≤ 8) && decide (s.sckind ≤ 3) && decide (s.scfmt ≤ 2) && decide (s.rnd ≤ 3) && decide (s.sat ≤ 1) &&
  decide (s.off < 2 ^ 32) && decide (-32768 ≤ s.win) && decide (s.win ≤ 32767)

/-- A kernel of a source: its directives, a shape directive being absent where it is omitted, and its two images with the
offsets of their entries. -/
structure KernelSrc where
  name : List Byte := []
  crew : Option Nat := none
  span : Option Nat := none
  regs : Option Nat := none
  lane : Option Nat := none
  pad : Option Nat := none
  cluster : Option Nat := none
  /-- port, kind and depth -/
  queues : List (Nat × QKind × Nat) := []
  /-- slots and bytes of a slot, in the order of the directives -/
  rings : List (Nat × Nat) := []
  fslots : List (Nat × FslotSrc) := []
  bounds : List (Nat × BoundEntry) := []
  /-- `.uwin`, coded as USWIN codes it (R149) -/
  uwin : Nat := 0
  cimg : List Word
  aimg : List Word
  centry : Nat := 0
  aentry : Nat := 0
deriving DecidableEq, Repr, Inhabited

/-! ## Rings (R423) -/

/-- The first multiple of n that is not below x. -/
def alignUp (n x : Nat) : Nat := (x + n - 1) / n * n

/-- A ring placed from a pad offset on: its header, its arrival words, and its slots at the next multiple of 256. -/
def placeRing (at_ slots slotsz : Nat) : RingDecl :=
  { hdr := at_, awarr := at_ + 64, data := alignUp 256 (at_ + 64 + 16 * slots), slots := slots, slotsz := slotsz }

/-- Where the slots of a ring end. -/
def RingDecl.endAt (d : RingDecl) : Nat := d.data + d.slots * d.slotsz

/-- Rings placed in order, each from the first multiple of 64 after the one before. -/
def placeRings : Nat → List (Nat × Nat) → List RingDecl
  | _, [] => []
  | at_, (slots, sz) :: rs =>
    let d := placeRing at_ slots sz
    d :: placeRings (alignUp 64 d.endAt) rs

/-- PAD of a kernel: the end of the last ring's slots, or the `.pad` value. -/
def padOf (pad : Nat) (ds : List RingDecl) : Nat := (ds.getLast?.map RingDecl.endAt).getD pad

/-! ## The kernel of a source (R80, R424) -/

/-- The kernel that a source describes: an omitted shape directive has its default. -/
def KernelSrc.kernel (s : KernelSrc) : Kernel :=
  let rings := placeRings (s.pad.getD 0) s.rings
  { cimg := s.cimg, aimg := s.aimg, centry := s.centry, aentry := s.aentry,
    qdepth := (List.range 16).map (fun q => ((s.queues.find? (fun d => d.1 == q)).map (fun d => d.2.2)).getD 0),
    rings := rings, crew := s.crew.getD 32, span := s.span.getD 1, regs := s.regs.getD 64, lane := s.lane.getD 0,
    pad := padOf (s.pad.getD 0) rings, cluster := s.cluster.getD 0 }

/-- The limits of `.ring` (R80). -/
def ringSrcOk (d : Nat × Nat) : Bool :=
  decide (1 ≤ d.1) && decide (d.1 ≤ 64) && d.2 % 256 == 0 && decide (256 ≤ d.2) && decide (d.2 ≤ 2 ^ 18)

/-- The limits of `.queue` (R80, R17). -/
def queueSrcOk (d : Nat × QKind × Nat) : Bool :=
  decide (d.1 < 16) && d.2.1 == QKind.ofPort d.1 && decide (1 ≤ d.2.2) && decide (d.2.2 ≤ maxDepth d.1)

/-- Whether every directive keeps its limits, the images can be an object's (R83), and the pad with the rings and the export is at
most 2 MiB (R423). -/
def KernelSrc.ok (s : KernelSrc) : Bool :=
  let k := s.kernel
  k.shapeOk && s.pad.getD 0 % 64 == 0 && decide ((k.needs 0).pad ≤ 2 ^ 21) && s.queues.all queueSrcOk &&
  decide (s.rings.length ≤ 8) && s.rings.all ringSrcOk && s.fslots.all (fun f => decide (f.1 < 8) && f.2.ok) &&
  s.bounds.all (fun b => decide (b.1 < 16) && decide (b.2.action ≤ 3) && decide (b.2.eclass ≤ 7)) && decide (s.uwin ≤ 3) &&
  s.cimg != [] && s.aimg != [] && s.centry % 4 == 0 && decide (s.centry < 4 * s.cimg.length) &&
  s.aentry % 4 == 0 && decide (s.aentry < 4 * s.aimg.length)

/-! ## The code object (R82, R83) -/

/-- Bytes padded with zeros to a length. -/
def padded (n : Nat) (bs : List Byte) : List Byte := bs ++ List.replicate (n - bs.length) 0

/-- Bytes padded with zeros to a multiple of 256. -/
def chunk (bs : List Byte) : List Byte := padded (alignUp 256 bs.length) bs

/-- The bytes of an image (R57). -/
def imageBytes (ws : List Word) : List Byte := ws.flatMap (fun w => toBytes 4 w.toNat)

/-- A ring declaration of a descriptor. -/
def RingDecl.bytes (d : RingDecl) : List Byte :=
  toBytes 4 d.hdr ++ toBytes 4 d.data ++ toBytes 4 d.awarr ++ toBytes 2 d.slots ++ toBytes 2 (d.slotsz / 256)

/-- An entry of the bound table (R53). -/
def BoundEntry.bytes (b : BoundEntry) : List Byte :=
  toBytes 4 b.lo ++ toBytes 4 b.hi ++ toBytes 1 b.action ++ toBytes 1 b.eclass ++ toBytes 6 0

/-- The template of kernel KIDX: a launch record that holds the shape and the format slots, then the bound table (R83, R305). -/
def KernelSrc.template (s : KernelSrc) (kidx : Nat) : List Byte :=
  let k := s.kernel
  let slot (n : Nat) : Nat := ((s.fslots.find? (fun f => f.1 == n)).map (fun f => f.2.slot)).getD 0
  let bound (n : Nat) : BoundEntry := ((s.bounds.find? (fun b => b.1 == n)).map Prod.snd).getD {}
  padded 256 (padded 128 (toBytes 2 1 ++ toBytes 2 0 ++ toBytes 2 kidx ++ toBytes 1 k.span ++ toBytes 1 k.regs ++
      toBytes 2 k.crew ++ toBytes 2 0 ++ toBytes 4 k.lane ++ toBytes 4 k.pad ++ toBytes 4 k.cluster) ++
    (List.range 8).flatMap (fun n => toBytes 8 (slot n))) ++
  (List.range 16).flatMap (fun n => (bound n).bytes)

/-- The descriptor of a kernel whose compute image, address image and template stand at these offsets. -/
def KernelSrc.descriptor (s : KernelSrc) (c a lrt : Nat) : List Byte :=
  let k := s.kernel
  let decl := (List.range 16).foldl (fun n q => if k.qdepth.getD q 0 = 0 then n else n + 2 ^ q) 0
  toBytes 4 c ++ toBytes 4 (4 * s.cimg.length) ++ toBytes 4 a ++ toBytes 4 (4 * s.aimg.length) ++ toBytes 4 s.centry ++
  toBytes 4 s.aentry ++ toBytes 2 decl ++ toBytes 1 k.rings.length ++ toBytes 1 s.uwin ++ k.qdepth.flatMap (toBytes 1) ++
  toBytes 4 lrt ++ toBytes 2 k.crew ++ toBytes 1 k.span ++ toBytes 1 k.regs ++ toBytes 4 k.lane ++ toBytes 4 k.pad ++
  toBytes 4 k.cluster ++ padded 128 (k.rings.flatMap RingDecl.bytes) ++ padded 64 (s.name.take 64)

/-- The kernel table and what it points to, from kernel KIDX on, whose parts begin at an offset of the object. -/
def objectParts : List KernelSrc → Nat → Nat → List Byte × List Byte
  | [], _, _ => ([], [])
  | s :: ss, kidx, at_ =>
    let c := chunk (imageBytes s.cimg)
    let a := chunk (imageBytes s.aimg)
    let aAt := at_ + c.length
    let t := aAt + a.length
    let rest := objectParts ss (kidx + 1) (t + 512)
    (s.descriptor at_ aAt t ++ rest.1, c ++ a ++ s.template kidx ++ rest.2)

/-- The code object of a module with its constant image: none where spas refuses a kernel, or the number of kernels. The table
follows the header, and the constant image comes last (log 48). -/
def codeObject (ks : List KernelSrc) (const : List Byte) : Option (List Byte) :=
  if ks = [] ∨ 4096 < ks.length ∨ ks.any (fun s => !s.ok) then none
  else
    let p := objectParts ks 0 (256 + 256 * ks.length)
    let ci := 256 + p.1.length + p.2.length
    some (padded 256 (toBytes 4 0x4C4F4331 ++ toBytes 2 1 ++ toBytes 2 ks.length ++ toBytes 4 256 ++ toBytes 4 (ci + const.length) ++
      toBytes 4 (if const = [] then 0 else ci) ++ toBytes 4 const.length) ++ p.1 ++ p.2 ++ const)

/-! ## Immediates (R422) -/

/-- An immediate as it is written: a decimal number m * 10^e, an integer, or a bit pattern. -/
inductive Literal where
  | float (neg : Bool) (m : Nat) (e : Int)
  | int (x : Int)
  | raw (w : Word)
deriving DecidableEq, Repr, Inhabited

/-- How an immediate is encoded: in the short field, by HIMM, or by HIMMX and HIMM (R68, R69). -/
inductive ImmForm where
  | short (f : Nat)
  | himm (imm : Nat)
  | himmx (immx imm : Nat)
deriving DecidableEq, Repr, Inhabited

/-- The hints that an immediate needs. -/
def ImmForm.hints : ImmForm → Hints
  | .short _ => {}
  | .himm i => { himm := some i }
  | .himmx x i => { himmx := some x, himm := some i }

/-- The 32-bit operand that the device reads (R68, R69). -/
def ImmForm.value (k : ImmKind) : ImmForm → Nat
  | .short f => shortImm k f
  | x => x.hints.immValue

/-- A 32-bit pattern by HIMM where its sign extension gives it, by HIMMX and HIMM otherwise. -/
def patternForm (w : Nat) : ImmForm :=
  if sextTo 32 20 (w % 2 ^ 20) = w then .himm (w % 2 ^ 20) else .himmx (w / 2 ^ 20) (w % 2 ^ 20)

/-- The short field of an integer, if it holds it. -/
def shortForm (x : Int) : Option ImmForm := if -64 ≤ x ∧ x ≤ 63 then some (.short (wrap 7 x)) else none

/-- The quotient num / den on an operand of a floating format: refused where the format has no such value. copies is 1, or 65537
for a packed operand. -/
def floatForm (f : FFmt) (copies : Nat) (neg : Bool) (num den : Nat) : Option ImmForm :=
  let short := if num % den = 0 then shortForm (signed neg (num / den)) else none
  match short with
  | some x => some x
  | none =>
    let q := f.roundQuot .ieee .rne neg num den 0
    if q.2 = flNone then some (patternForm (q.1 * copies)) else none

/-- The number that a literal writes, as a sign and a quotient. -/
def Literal.number : Literal → Bool × Nat × Nat
  | .float neg m e => (neg, m * 10 ^ e.toNat, 10 ^ (-e).toNat)
  | .int x => (decide (x < 0), x.natAbs, 1)
  | .raw w => (false, w.toNat, 1)

/-- How spas encodes a literal on an operand of a kind, whose integers lie in [lo, hi]. -/
def Literal.form (k : ImmKind) (lo hi : Int) (l : Literal) : Option ImmForm :=
  let (neg, num, den) := l.number
  match l, k with
  | .raw w, _ => some (patternForm w.toNat)
  | .float _ _ _, .int => none
  | .int x, .int =>
    if x < lo ∨ hi < x then none
    else match shortForm x with
      | some f => some f
      | none => some (patternForm (wrap 32 x))
  | _, .f32 => floatForm fp32 1 neg num den
  | _, .packed f => floatForm f 65537 neg num den

/-! ## Modifiers and the hints of a line (R77, R79) -/

/-- A modifier that HMOD encodes where the instruction has no field of its own for it (R79). -/
inductive Modifier where
  | rnd (c : Nat) | sat | w64 | n32
  /-- `.s8`, `.n8`, `.s16`, `.n16`: size code and sign -/
  | sub (sz sgn : Nat)
  | ord (c : Nat) | scope (c : Nat)
  /-- `.ss`, `.su`, `.us`, `.uu` of DP4A (R103): whether A and B are unsigned -/
  | bytes (ua ub : Bool)
  /-- a sign written on operand A or B -/
  | negA | absA | negB | absB
deriving DecidableEq, Repr, Inhabited

/-- A modifier put into an HMOD payload (R70). -/
def Modifier.onto (x : Modifier) (o : OpHmod) : OpHmod := match x with
  | .rnd c => { o with rnd := c }
  | .sat => { o with sat := 1 }
  | .w64 => { o with w64 := 1 }
  | .n32 => { o with n := 1 }
  | .sub sz sgn => { o with sz := sz, sgn := sgn }
  | .ord c => { o with ord := c }
  | .scope c => { o with scope := c }
  | .bytes ua ub => { o with n := b2n ua, sz := b2n (ua != ub), sgn := b2n (ua && !ub) }
  | .negA => { o with nega := 1 }
  | .absA => { o with absa := 1 }
  | .negB => { o with negb := 1 }
  | .absB => { o with absb := 1 }

/-- The hint words that spas places before an instruction, in the order of R77. -/
def Hints.spelled (h : Hints) : List Instr :=
  (h.hxb.map Instr.hxb).toList ++ (h.hadr.map Instr.hadr).toList ++ (h.hmod.map Instr.hmod).toList ++
  (h.himmx.map (fun x => Instr.himmx ⟨0, x⟩)).toList ++ (h.himm.map (fun x => Instr.himm ⟨0, x⟩)).toList

/-- What spdis prints: each instruction with the hints that it folds into it. HGRD, HKEEP and HPRI stand on lines of their own. -/
def foldHints : Hints → List Instr → List (Hints × Instr)
  | _, [] => []
  | h, .hxb o :: is => foldHints { h with hxb := some o } is
  | h, .hadr o :: is => foldHints { h with hadr := some o } is
  | h, .hmod o :: is => foldHints { h with hmod := some o } is
  | h, .himmx o :: is => foldHints { h with himmx := some o.immx } is
  | h, .himm o :: is => foldHints { h with himm := some o.imm } is
  | h, .hgrd o :: is => ({}, .hgrd o) :: foldHints h is
  | h, .hkeep o :: is => ({}, .hkeep o) :: foldHints h is
  | h, .hpri o :: is => ({}, .hpri o) :: foldHints h is
  | h, i :: is => (h, i) :: foldHints {} is

/-! ## Sources that spas refuses (R81) -/

/-- The issuer that a word of a source is judged for: the first warp of a crew of the kernel, all its registers held, under
`.uwin`. -/
def KernelSrc.specimen (s : KernelSrc) : Env :=
  let k := s.kernel
  let w := { startWarp k [] with wb := s.uwin }
  { m := {}, r := {}, cid := 0, wi := 0, lead := 0, crew := startCrew k 0 0 0 0 [], w := w, b := { lanes := allLanes, pc := 0 },
    blk := { grid := 0 }, g := { ctx := 0 }, k := k }

/-- The same of its address slice. -/
def KernelSrc.sliceSpecimen (s : KernelSrc) : SEnv :=
  let e := s.specimen
  { m := e.m, r := e.r, cid := 0, crew := e.crew, s := e.crew.aslice, blk := e.blk, g := e.g, k := e.k }

/-- Whether a word steers a batch and is no hint: the path on which hazards are refused ends there. -/
def leavesPath (w : Word) (steers : Bool) : Bool := steers && opMajor w.toNat != 0x52

/-- Whether spas refuses the words of a compute slice: one that does not accept what it is given, a hint at the end of the image, or
a lookahead hazard on a path without branches. The environment carries the hints and the windows. -/
def refuseCompute : List Word → Env → Bool
  | [], _ => false
  | x :: xs, e =>
    let hint := opMajor x.toNat == 0x52
    match (fetchWord .compute [x] 0).word with
    | none => true
    | some d =>
      let hints := match d.body e with
        | .ok { next := .keeps _ h, .. } => h
        | _ => {}
      let ws := match d.la with
        | some la => addWindow (tick e.w.windows allLanes) allLanes la 0 ((d.window.map (fun f => f e)).getD (d.uses e))
        | none => tick e.w.windows allLanes
      (decode .compute x.toNat).toOption.isNone || !d.legal e || (hint && xs == []) ||
      hazard e.w.windows allLanes (d.uses e) ||
      refuseCompute xs { e with b := { e.b with hints := if hint then hints else {} },
                                w := { e.w with windows := if leavesPath x d.steers then [] else ws } }

/-- The same of an address slice (R74). -/
def refuseAddress : List Word → SEnv → Bool
  | [], _ => false
  | x :: xs, e =>
    match (fetchWord .address [x] 0).sliceWord with
    | none => true
    | some d =>
      let hints := match d.body e with
        | .ok { next := .keeps h, .. } => h
        | _ => {}
      let ws := match d.la with
        | some la => addWindow (tick e.s.windows 1#32) 1#32 la 0 (d.uses e)
        | none => tick e.s.windows 1#32
      (decode .address x.toNat).toOption.isNone || (!d.hint && (e.hints.bad || (!d.imm && e.hints.imm?))) || !d.legal e ||
      (d.hint && xs == []) || hazard e.s.windows 1#32 (d.uses e) ||
      refuseAddress xs { e with s := { e.s with hints := if d.hint then hints else {},
                                                windows := if leavesPath x d.steers then [] else ws } }

/-- The PCs of an image at which a run begins: its start and the word after each B = 1 (R58). -/
def runStarts (img : List Word) : List Nat :=
  0 :: (List.range img.length).filterMap (fun n =>
    if (img.getD n 0).toNat / 2 ^ 31 = 1 ∧ n + 1 < img.length then some (4 * (n + 1)) else none)

/-- Whether spas refuses the words of a source: a run too long, a branch without `!`, a hint that dangles, a word that does not accept
what it is given, or a hazard (R81). -/
def KernelSrc.refused (s : KernelSrc) : Bool :=
  (runStarts s.cimg).any (fun pc => (offender s.cimg 24 pc []).isSome) ||
  refuseCompute s.cimg s.specimen || refuseAddress s.aimg s.sliceSpecimen

/-- What spas emits of a module, none where it refuses it (R80, R81). -/
def assemble (ks : List KernelSrc) (const : List Byte) : Option (List Byte) :=
  if ks.any KernelSrc.refused then none else codeObject ks const

end Sys2Proof.Machine
end

