-- ==== Sys2Proof/Laws/Assemble.lean ====
section
/-! SUPPORT. What the assembler's placements and encodings give back: a pattern is read as it was written (R422), hints fold back into
their instruction (R77), and placed rings keep R83 and lie apart (R423). -/

namespace Sys2Proof.Machine

/-- A pattern is read unchanged (R68, R422). -/
theorem read_patternForm (k : ImmKind) (w : Nat) : (patternForm w).value k = w := by
  unfold patternForm
  split
  · assumption
  · show w / 2 ^ 20 * 2 ^ 20 + w % 2 ^ 20 = w
    exact Nat.div_add_mod' w _

/-- The hints that spas spells before HXB to HIMM fold back, and nothing else is printed for them (R77). -/
theorem fold_spelled (h : Hints) (is : List Instr) (hk : h.hkeep = none) (hp : h.hpri = none) (hb : h.bad = false) :
    foldHints {} (h.spelled ++ is) = foldHints h is := by
  obtain ⟨a, b, c, d, e, _, _, _⟩ := h
  cases hk; cases hp; cases hb
  cases a <;> cases b <;> cases c <;> cases d <;> cases e <;> rfl

theorem alignUp_dvd (n x : Nat) : alignUp n x % n = 0 := Nat.mul_mod_left _ _

theorem le_alignUp {n : Nat} (h : 0 < n) (x : Nat) : x ≤ alignUp n x := by
  unfold alignUp
  have := Nat.div_add_mod' (x + n - 1) n
  have := Nat.mod_lt (x + n - 1) h
  omega

/-- A ring placed at a multiple of 64 keeps the limits of R83 in a pad that reaches its end. -/
theorem placeRing_ok {at_ slots sz pad : Nat} (ha : at_ % 64 = 0) (hr : ringSrcOk (slots, sz) = true)
    (hp : (placeRing at_ slots sz).endAt ≤ pad) : (placeRing at_ slots sz).ok pad = true := by
  have hd := le_alignUp (n := 256) (by decide) (at_ + 64 + 16 * slots)
  have hm := alignUp_dvd 256 (at_ + 64 + 16 * slots)
  simp only [ringSrcOk, Bool.and_eq_true, decide_eq_true_eq, beq_iff_eq] at hr
  simp only [RingDecl.endAt, placeRing] at hp
  have hle : alignUp 256 (at_ + 64 + 16 * slots) ≤ pad := Nat.le_trans (Nat.le_add_right _ _) hp
  simp only [RingDecl.ok, RingDecl.regions, placeRing, List.all_cons, List.all_nil, Bool.and_eq_true, decide_eq_true_eq,
    beq_iff_eq, and_true]
  refine ⟨⟨⟨⟨⟨⟨⟨decide_eq_true hr.1.1.1.1, decide_eq_true hr.1.1.1.2⟩, decide_eq_true hr.1.2⟩, decide_eq_true hr.2⟩, ha⟩, hm⟩, ?_⟩,
    ?_, ?_, hp⟩ <;> omega

/-- PAD of a kernel with a ring does not depend on `.pad` otherwise. -/
theorem padOf_cons (a b : Nat) (d : RingDecl) (ds : List RingDecl) : padOf a (d :: ds) = padOf b (d :: ds) := by
  unfold padOf
  rw [List.getLast?_cons]
  rfl

/-- Every region of rings placed from an offset on begins there or above. -/
theorem placeRings_above (rs : List (Nat × Nat)) : ∀ at_, ∀ d ∈ placeRings at_ rs, ∀ p ∈ d.regions, at_ ≤ p.1 := by
  induction rs with
  | nil => intro _ d hd; cases hd
  | cons x xs ih =>
    intro at_ d hd p hp
    have h1 := le_alignUp (n := 256) (by decide) (at_ + 64 + 16 * x.1)
    rcases List.mem_cons.mp hd with rfl | hd
    · simp only [RingDecl.regions, placeRing, List.mem_cons, List.not_mem_nil, or_false] at hp
      rcases hp with rfl | rfl | rfl <;> simp only <;> omega
    · have h2 := le_alignUp (n := 64) (by decide) (placeRing at_ x.1 x.2).endAt
      have h3 := ih _ d hd p hp
      have h4 : (placeRing at_ x.1 x.2).data ≤ (placeRing at_ x.1 x.2).endAt := Nat.le_add_right _ _
      simp only [placeRing] at h4 h2 h3
      omega

/-- Rings placed by R423 lie apart. -/
theorem placeRings_apart (rs : List (Nat × Nat)) : ∀ at_, ringsApart (placeRings at_ rs) = true := by
  induction rs with
  | nil => intro _; rfl
  | cons x xs ih =>
    intro at_
    show (_ && ringsApart (placeRings _ xs)) = true
    rw [ih, Bool.and_true, List.all_eq_true]
    intro d hd
    have ha := placeRings_above xs _ d hd
    have h1 := le_alignUp (n := 256) (by decide) (at_ + 64 + 16 * x.1)
    have h2 := le_alignUp (n := 64) (by decide) (placeRing at_ x.1 x.2).endAt
    have h4 : (placeRing at_ x.1 x.2).data ≤ (placeRing at_ x.1 x.2).endAt := Nat.le_add_right _ _
    rw [Bool.not_eq_true', overlap, List.any_eq_false]
    intro p hp
    rw [Bool.not_eq_true, List.any_eq_false]
    intro q hq
    have h3 := ha q hq
    simp only [RingDecl.regions, placeRing, List.mem_cons, List.not_mem_nil, or_false] at hp
    simp only [placeRing, RingDecl.endAt] at h4 h2 h3
    rw [Bool.and_eq_true, decide_eq_true_eq, decide_eq_true_eq, not_and]
    intro hlt
    rcases hp with rfl | rfl | rfl <;> simp only at hlt ⊢ <;> omega

/-- Rings placed from a multiple of 64 keep R83 in the pad that they give the kernel (R423). -/
theorem placeRings_ok (rs : List (Nat × Nat)) : ∀ at_ pad, at_ % 64 = 0 → rs.all ringSrcOk = true →
    padOf at_ (placeRings at_ rs) ≤ pad → (placeRings at_ rs).all (fun d => d.ok pad) = true ∧ at_ ≤ pad := by
  induction rs with
  | nil => intro at_ pad _ _ hp; exact ⟨rfl, hp⟩
  | cons x xs ih =>
    intro at_ pad ha hr hp
    rw [List.all_cons, Bool.and_eq_true] at hr
    have h1 := le_alignUp (n := 256) (by decide) (at_ + 64 + 16 * x.1)
    have h4 : (placeRing at_ x.1 x.2).data ≤ (placeRing at_ x.1 x.2).endAt := Nat.le_add_right _ _
    have hdat : at_ ≤ (placeRing at_ x.1 x.2).data := by simp only [placeRing]; omega
    cases xs with
    | nil =>
      have he : (placeRing at_ x.1 x.2).endAt ≤ pad := hp
      refine ⟨?_, by omega⟩
      show (RingDecl.ok _ pad && true) = true
      rw [placeRing_ok ha hr.1 he]; rfl
    | cons y ys =>
      have h2 := le_alignUp (n := 64) (by decide) (placeRing at_ x.1 x.2).endAt
      have ht := ih (alignUp 64 (placeRing at_ x.1 x.2).endAt) pad (alignUp_dvd _ _) hr.2
        (by rw [placeRings, padOf_cons _ at_]; exact hp)
      refine ⟨?_, by omega⟩
      show (RingDecl.ok _ pad && _) = true
      rw [placeRing_ok ha hr.1 (by omega), Bool.true_and]
      exact ht.1

end Sys2Proof.Machine
end

