-- ==== Sys2Proof/Laws/Calls.lean ====
section
/-! SUPPORT. How an arm that is a service call is brought to the call's own operation: a call with a poisoned parameter block is
answered FAULT (R370, R372), any other by what the operation leaves. -/

namespace Sys2Proof.Machine

theorem exec_poisoned {i : Instr} {n : Nat} {a : EvArgs} {e : CallEnv} {s : State} {f : Run → CallEnv → EvArgs → Run × Served}
    (hx : exec i s = serve n f s) (ht : s.turn = .event { kind := i, args := a }) (he : callEnv s.mgmt s.run a.op = some e)
    (hv : servable s.run e n = true) (hp : e.c.poisoned = true) :
    exec i s = .next (s.after (settleServed e (s.run, .done stFault 0 0))) := by
  rw [hx]; unfold serve; rw [happen_event ht]; dsimp only
  rw [he]; dsimp only
  rw [hv, hp]; rfl

theorem serves_of {i : Instr} {n : Nat} {a : EvArgs} {e : CallEnv} {r : Run} {f : Run → CallEnv → EvArgs → Run × Served}
    {x : Run × Served} (hn : serviceNum i = some n) (hx : ∀ s, exec i s = serve n f s) (hf : f r e a = x) : Serves i a e r x := by
  intro s k hk ht hr he hv hp
  rw [hn] at hk; cases hk
  rw [hx]; unfold serve; rw [happen_event ht]; dsimp only
  rw [hr, he]; dsimp only
  rw [hv, hp, hf]; rfl

end Sys2Proof.Machine
end

