-- ==== Sys2Proof/Laws/Memory.lean ====
section
/-! SUPPORT. Laws of memory at places: a byte written reads back, every other byte and all but memory stay, and the canonical form is
kept. -/

namespace Sys2Proof.Machine

/-! ## Places -/

theorem Place.add_add (p : Place) (i j : Nat) : (p.add i).add j = p.add (i + j) := by
  cases p <;> simp [Place.add, Nat.add_assoc]

@[simp] theorem Place.add_zero (p : Place) : p.add 0 = p := by cases p <;> rfl

theorem Place.add_inj (p : Place) {i j : Nat} (h : p.add i = p.add j) : i = j := by
  cases p <;> simp [Place.add] at h <;> exact h

/-! ## What a run shows of its warps, slices and intervals -/

/-- Two runs with the same warps and slices, and whose blocks have the same intervals open. -/
structure SameParties (r t : Run) : Prop where
  warps : ∀ c w, t.warp? c w = r.warp? c w
  slices : ∀ c, t.slice? c = r.slice? c
  intervals : ∀ b, (Assoc.get? t.blocks b).map (·.closedInterval) = (Assoc.get? r.blocks b).map (·.closedInterval)

theorem SameParties.refl (r : Run) : SameParties r r := ⟨fun _ _ => rfl, fun _ => rfl, fun _ => rfl⟩

theorem SameParties.trans {a b c : Run} (h : SameParties a b) (g : SameParties b c) : SameParties a c :=
  ⟨fun x y => (g.warps x y).trans (h.warps x y), fun x => (g.slices x).trans (h.slices x),
    fun x => (g.intervals x).trans (h.intervals x)⟩

theorem SameMemory.refl (r : Run) : SameMemory r r := fun _ => rfl

theorem SameMemory.trans {a b c : Run} (h : SameMemory a b) (g : SameMemory b c) : SameMemory a c :=
  fun p => (g p).trans (h p)

/-- A change of a crew that keeps its warps and its slice. -/
theorem SameParties.crew (r : Run) (c : Nat) (f : Crew → Crew) (hw : ∀ x, (f x).warps = x.warps)
    (hs : ∀ x, (f x).aslice = x.aslice) : SameParties r (r.crew c f) := by
  refine ⟨fun k w => ?_, fun k => ?_, fun _ => rfl⟩
  · unfold Run.warp?
    by_cases h : c = k
    · subst h
      rw [Run.get?_crew_self]
      cases Assoc.get? r.crews c with
      | none => rfl
      | some x => simp [hw]
    · rw [Run.get?_crew_ne _ _ h]
  · unfold Run.slice?
    by_cases h : c = k
    · subst h
      rw [Run.get?_crew_self]
      cases Assoc.get? r.crews c with
      | none => rfl
      | some x => simp [hs]
    · rw [Run.get?_crew_ne _ _ h]

/-- A change of a block that keeps its interval. -/
theorem SameParties.block (r : Run) (b : Nat) (f : Block → Block) (hf : ∀ x, (f x).closedInterval = x.closedInterval) :
    SameParties r (r.block b f) := by
  refine ⟨fun _ _ => rfl, fun _ => rfl, fun k => ?_⟩
  by_cases h : b = k
  · subst h
    rw [Run.get?_block_self]
    cases Assoc.get? r.blocks b with
    | none => rfl
    | some x => simp [hf]
  · rw [Run.get?_block_ne _ _ h]

/-- A change of a block that keeps its cluster memory. -/
theorem SameMemory.block (r : Run) (b : Nat) (f : Block → Block) (hf : ∀ x, (f x).cluster = x.cluster) :
    SameMemory r (r.block b f) := by
  intro p
  cases p with
  | clu k o =>
    unfold rawByte
    dsimp only
    by_cases h : b = k
    · subst h
      rw [Run.get?_block_self]
      cases Assoc.get? r.blocks b with
      | none => rfl
      | some x => simp [hf]
    · rw [Run.get?_block_ne _ _ h]
  | _ => rfl

/-- A change of a crew that keeps its pad and lane slices. -/
theorem SameMemory.crew (r : Run) (c : Nat) (f : Crew → Crew) (hp : ∀ x, (f x).pad = x.pad) (hl : ∀ x, (f x).lanes = x.lanes) :
    SameMemory r (r.crew c f) := by
  intro p
  cases p with
  | pad k o =>
    unfold rawByte
    dsimp only
    by_cases h : c = k
    · subst h
      rw [Run.get?_crew_self]
      cases Assoc.get? r.crews c with
      | none => rfl
      | some x => simp [hp]
    · rw [Run.get?_crew_ne _ _ h]
  | lane k o =>
    unfold rawByte
    dsimp only
    by_cases h : c = k
    · subst h
      rw [Run.get?_crew_self]
      cases Assoc.get? r.crews c with
      | none => rfl
      | some x => simp [hl]
    · rw [Run.get?_crew_ne _ _ h]
  | _ => rfl

theorem SameMemory.warp (r : Run) (c w : Nat) (f : Warp → Warp) : SameMemory r (r.warp c w f) := by
  unfold Run.warp
  apply SameMemory.crew <;> (intro x; split <;> rfl)

theorem SameMemory.slice (r : Run) (c : Nat) (f : ASlice → ASlice) : SameMemory r (r.slice c f) := by
  unfold Run.slice
  exact SameMemory.crew _ _ _ (fun _ => rfl) (fun _ => rfl)

/-- Another warp, or a slice, while a warp changes. -/
theorem Run.warp?_warp_ne (r : Run) {c w k j : Nat} (f : Warp → Warp) (h : c ≠ k ∨ w ≠ j) :
    (r.warp c w f).warp? k j = r.warp? k j := by
  unfold Run.warp? Run.warp
  by_cases hk : c = k
  · subst hk
    have hj : w ≠ j := by
      rcases h with h | h
      · exact absurd rfl h
      · exact h
    rw [Run.get?_crew_self]
    cases Assoc.get? r.crews c with
    | none => rfl
    | some x =>
      dsimp only [Option.map, Option.bind]
      split
      · exact getElem?_setAt_ne _ _ hj
      · rfl
  · rw [Run.get?_crew_ne _ _ hk]

@[simp] theorem Run.slice?_warp (r : Run) (c w k : Nat) (f : Warp → Warp) : (r.warp c w f).slice? k = r.slice? k := by
  unfold Run.slice? Run.warp
  by_cases hk : c = k
  · subst hk
    rw [Run.get?_crew_self]
    cases Assoc.get? r.crews c with
    | none => rfl
    | some x =>
      dsimp only [Option.map]
      split <;> rfl
  · rw [Run.get?_crew_ne _ _ hk]

@[simp] theorem Run.warp?_slice (r : Run) (c k j : Nat) (f : ASlice → ASlice) : (r.slice c f).warp? k j = r.warp? k j := by
  unfold Run.warp? Run.slice
  by_cases hk : c = k
  · subst hk
    rw [Run.get?_crew_self]
    cases Assoc.get? r.crews c <;> rfl
  · rw [Run.get?_crew_ne _ _ hk]

theorem Run.slice?_slice_self (r : Run) (c : Nat) (f : ASlice → ASlice) : (r.slice c f).slice? c = (r.slice? c).map f := by
  unfold Run.slice? Run.slice
  rw [Run.get?_crew_self]
  cases Assoc.get? r.crews c <;> rfl

theorem Run.slice?_slice_ne (r : Run) {c k : Nat} (f : ASlice → ASlice) (h : c ≠ k) : (r.slice c f).slice? k = r.slice? k := by
  unfold Run.slice? Run.slice
  rw [Run.get?_crew_ne _ _ h]

/-! ## One byte written -/

/-- Whether a place lies in a memory that is there: a pad or lane slice of a crew, a cluster of a block. -/
def Place.there (r : Run) : Place → Prop
  | .pad c _ => (Assoc.get? r.crews c).isSome = true
  | .lane c _ => (Assoc.get? r.crews c).isSome = true
  | .clu b _ => (Assoc.get? r.blocks b).isSome = true
  | _ => True

theorem rawByte_rawStore_self (r : Run) (p : Place) (b : Byte) (h : p.there r) : rawByte (rawStore r p b) p = b := by
  cases p with
  | pad c o =>
    obtain ⟨x, hx⟩ := Option.isSome_iff_exists.mp h
    simp [rawByte, rawStore, Assoc.get?_modify_self, hx]
  | lane c o =>
    obtain ⟨x, hx⟩ := Option.isSome_iff_exists.mp h
    simp [rawByte, rawStore, Assoc.get?_modify_self, hx]
  | clu k o =>
    obtain ⟨x, hx⟩ := Option.isSome_iff_exists.mp h
    simp [rawByte, rawStore, Assoc.get?_modify_self, hx]
  | _ => simp [rawByte, rawStore]

theorem rawByte_rawStore_ne (r : Run) {p q : Place} (b : Byte) (h : p ≠ q) : rawByte (rawStore r p b) q = rawByte r q := by
  cases p with
  | pad c o =>
    cases q with
    | pad k a =>
      by_cases hk : c = k
      · subst hk
        have ho : o ≠ a := fun he => h (he ▸ rfl)
        simp only [rawByte, rawStore, Assoc.get?_modify_self]
        cases Assoc.get? r.crews c <;> simp [ho]
      · simp [rawByte, rawStore, hk]
    | lane k a =>
      by_cases hk : c = k
      · subst hk
        simp only [rawByte, rawStore, Assoc.get?_modify_self]
        cases Assoc.get? r.crews c <;> rfl
      · simp [rawByte, rawStore, hk]
    | _ => rfl
  | lane c o =>
    cases q with
    | lane k a =>
      by_cases hk : c = k
      · subst hk
        have ho : o ≠ a := fun he => h (he ▸ rfl)
        simp only [rawByte, rawStore, Assoc.get?_modify_self]
        cases Assoc.get? r.crews c <;> simp [ho]
      · simp [rawByte, rawStore, hk]
    | pad k a =>
      by_cases hk : c = k
      · subst hk
        simp only [rawByte, rawStore, Assoc.get?_modify_self]
        cases Assoc.get? r.crews c <;> rfl
      · simp [rawByte, rawStore, hk]
    | _ => rfl
  | clu c o =>
    cases q with
    | clu k a =>
      by_cases hk : c = k
      · subst hk
        have ho : o ≠ a := fun he => h (he ▸ rfl)
        simp only [rawByte, rawStore, Assoc.get?_modify_self]
        cases Assoc.get? r.blocks c <;> simp [ho]
      · simp [rawByte, rawStore, hk]
    | _ => rfl
  | spad o =>
    cases q with
    | spad a => exact Mem.byte_setByte_ne _ _ (fun he => h (he ▸ rfl))
    | _ => rfl
  | dev o =>
    cases q with
    | dev a => exact Mem.byte_setByte_ne _ _ (fun he => h (he ▸ rfl))
    | _ => rfl
  | host o =>
    cases q with
    | host a => exact Mem.byte_setByte_ne _ _ (fun he => h (he ▸ rfl))
    | _ => rfl
  | peer o =>
    cases q with
    | peer a => exact Mem.byte_setByte_ne _ _ (fun he => h (he ▸ rfl))
    | _ => rfl

theorem SameParties.rawStore (r : Run) (p : Place) (b : Byte) : SameParties r (rawStore r p b) := by
  cases p with
  | pad c o => exact SameParties.crew r c _ (fun _ => rfl) (fun _ => rfl)
  | lane c o => exact SameParties.crew r c _ (fun _ => rfl) (fun _ => rfl)
  | clu k o => exact SameParties.block r k _ (fun _ => rfl)
  | _ => exact ⟨fun _ _ => rfl, fun _ => rfl, fun _ => rfl⟩

theorem Place.there_rawStore {r : Run} {q : Place} (p : Place) (b : Byte) (h : q.there r) : q.there (rawStore r p b) := by
  have hm : ∀ {α : Type} (m : Assoc α) (k n : Nat) (f : α → α), (Assoc.get? m n).isSome = true →
      (Assoc.get? (Assoc.modify m k f) n).isSome = true := by
    intro α m k n f hs
    by_cases hk : k = n
    · subst hk
      rw [Assoc.get?_modify_self]
      simpa using hs
    · rwa [Assoc.get?_modify_ne _ _ hk]
  cases p <;> cases q <;> first | exact h | exact hm _ _ _ _ h

/-! ## Several bytes written -/

theorem rawByte_rawStores_out (r : Run) {p q : Place} (bs : List Byte) (h : ∀ i < bs.length, q ≠ p.add i) :
    rawByte (rawStores r p bs) q = rawByte r q := by
  induction bs generalizing r p with
  | nil => rfl
  | cons b bs ih =>
    have h0 : p ≠ q := by
      have := h 0 (by simp)
      rw [Place.add_zero] at this
      exact Ne.symm this
    rw [rawStores, ih, rawByte_rawStore_ne _ _ h0]
    intro i hi
    rw [Place.add_add, Nat.add_comm]
    exact h (i + 1) (by simpa using hi)

theorem rawByte_rawStores_in (r : Run) (p : Place) (bs : List Byte) (i : Nat) (hp : p.there r) (h : i < bs.length) :
    rawByte (rawStores r p bs) (p.add i) = bs[i] := by
  induction bs generalizing r p i with
  | nil => exact absurd h (Nat.not_lt_zero i)
  | cons b bs ih =>
    have ht : (p.add 1).there (rawStore r p b) := Place.there_rawStore p b (by cases p <;> exact hp)
    cases i with
    | zero =>
      rw [rawStores, rawByte_rawStores_out]
      · rw [Place.add_zero, rawByte_rawStore_self _ _ _ hp]
        rfl
      · intro i _
        rw [Place.add_add]
        intro he
        have := p.add_inj he
        omega
    | succ i =>
      have := ih (rawStore r p b) (p.add 1) i ht (by simpa using h)
      rw [Place.add_add, Nat.add_comm] at this
      rw [rawStores, this]
      rfl

theorem SameParties.rawStores (r : Run) (p : Place) (bs : List Byte) : SameParties r (rawStores r p bs) := by
  induction bs generalizing r p with
  | nil => exact .refl r
  | cons b bs ih => exact (SameParties.rawStore r p b).trans (ih _ _)

/-! ## Stores of a block whose interval is open (R397, R398) -/

/-- No closed interval holds the stores of a block. -/
def OpenBlock (r : Run) (blk : Nat) : Prop := ∀ b, Assoc.get? r.blocks blk = some b → b.closedInterval = false

theorem OpenBlock.of {r t : Run} {blk : Nat} (h : OpenBlock r blk) (g : SameParties r t) : OpenBlock t blk := by
  intro b hb
  have := g.intervals blk
  rw [hb] at this
  cases hr : Assoc.get? r.blocks blk with
  | none => rw [hr] at this; cases this
  | some x =>
    rw [hr] at this
    have hx := h x hr
    simp only [Option.map, Option.some.injEq] at this
    exact this.trans hx

/-- Nothing happens where an interval that is not closed is opened. -/
theorem openInterval_open {r : Run} {blk : Nat} (h : OpenBlock r blk) : openInterval r blk = r := by
  unfold openInterval
  split
  · rfl
  · rename_i b hb
    rw [h b hb]
    rfl

theorem SameMemory.markShadow (r : Run) (p : Place) : SameMemory r (markShadow r p) := by
  unfold Machine.markShadow
  split
  · exact .refl r
  · exact SameMemory.block r _ _ (fun x => by split <;> rfl)

theorem SameParties.markShadow (r : Run) (p : Place) : SameParties r (markShadow r p) := by
  unfold Machine.markShadow
  split
  · exact .refl r
  · exact SameParties.block r _ _ (fun x => by split <;> rfl)

theorem SameMemory.clearPoison (r : Run) (p : Place) (n : Nat) : SameMemory r (clearPoison r p n) := by
  unfold Machine.clearPoison
  split
  · exact .refl r
  · intro q
    cases q <;> rfl

theorem SameParties.clearPoison (r : Run) (p : Place) (n : Nat) : SameParties r (clearPoison r p n) := by
  unfold Machine.clearPoison
  split
  · exact .refl r
  · exact ⟨fun _ _ => rfl, fun _ => rfl, fun _ => rfl⟩

/-- A store of a block that holds none: the bytes written where they belong, after marks that are no memory. -/
theorem storeBytes_open {r : Run} {blk : Nat} (p : Place) (bs : List Byte) (h : OpenBlock r blk) :
    ∃ x, SameMemory r x ∧ SameParties r x ∧ storeBytes r blk p bs = rawStores x p bs := by
  let x := clearPoison (Machine.markShadow r p) p bs.length
  have hp : SameParties r x := (SameParties.markShadow r p).trans (SameParties.clearPoison _ p bs.length)
  have hm : SameMemory r x := (SameMemory.markShadow r p).trans (SameMemory.clearPoison _ p bs.length)
  have ho := h.of hp
  refine ⟨x, hm, hp, ?_⟩
  have hs : ∀ a, p = .dev a → storeBytes r blk p bs = rawStores x p bs := by
    intro a ha
    subst ha
    show (if holdsStores (if _ then openInterval x blk else x) blk = true then _ else _) = _
    have h1 : ∀ c : Prop, ∀ [Decidable c], (if c then openInterval x blk else x) = x := by
      intro c _
      rw [openInterval_open ho]
      exact ite_self x
    rw [h1]
    have h2 : holdsStores x blk = false := by
      unfold holdsStores
      split
      · rename_i b hb
        exact ho b hb
      · rfl
    rw [h2]
    rfl
  cases p with
  | dev a => exact hs a rfl
  | _ => rfl

theorem toBytes_length (n x : Nat) : (toBytes n x).length = n := by
  induction n generalizing x with
  | zero => rfl
  | succ n ih => simp [toBytes, ih]

/-- Byte i of a number, least significant first (R4). -/
theorem toBytes_getElem (n x i : Nat) (h : i < (toBytes n x).length) : (toBytes n x)[i] = BitVec.ofNat 8 (x / 256 ^ i) := by
  induction n generalizing x i with
  | zero => exact absurd h (Nat.not_lt_zero i)
  | succ n ih =>
    cases i with
    | zero =>
      apply BitVec.eq_of_toNat_eq
      simp [toBytes]
    | succ i =>
      have := ih (x / 256) i (by simpa [toBytes] using h)
      simp only [toBytes, List.getElem_cons_succ, this]
      rw [Nat.div_div_eq_div_mul, Nat.pow_succ, Nat.mul_comm]

theorem rawByte_storeNum_out {r : Run} {blk : Nat} {p q : Place} (n x : Nat) (h : OpenBlock r blk)
    (hq : ∀ i < n, q ≠ p.add i) : rawByte (storeNum r blk p n x) q = rawByte r q := by
  obtain ⟨y, hm, -, he⟩ := storeBytes_open p (toBytes n x) h
  unfold storeNum
  rw [he, rawByte_rawStores_out _ _ (by rwa [toBytes_length])]
  exact hm q

theorem rawByte_storeNum_in {r : Run} {blk : Nat} {p : Place} (n x i : Nat) (h : OpenBlock r blk) (hp : p.there r) (hi : i < n) :
    rawByte (storeNum r blk p n x) (p.add i) = BitVec.ofNat 8 (x / 256 ^ i) := by
  obtain ⟨y, -, hs, he⟩ := storeBytes_open p (toBytes n x) h
  have hy : p.there y := by
    have hc : ∀ c, (Assoc.get? y.crews c).isSome = (Assoc.get? r.crews c).isSome := by
      intro c
      have := hs.slices c
      unfold Run.slice? at this
      have := congrArg Option.isSome this
      simpa using this
    have hb : ∀ b, (Assoc.get? y.blocks b).isSome = (Assoc.get? r.blocks b).isSome := by
      intro b
      have := congrArg Option.isSome (hs.intervals b)
      simpa using this
    cases p with
    | pad c o => exact (hc c).trans hp
    | lane c o => exact (hc c).trans hp
    | clu b o => exact (hb b).trans hp
    | _ => trivial
  have hl : i < (toBytes n x).length := by rwa [toBytes_length]
  unfold storeNum
  rw [he, rawByte_rawStores_in _ _ _ _ hy hl, toBytes_getElem]

theorem SameParties.storeNum {r : Run} {blk : Nat} (p : Place) (n x : Nat) (h : OpenBlock r blk) :
    SameParties r (storeNum r blk p n x) := by
  obtain ⟨y, -, hp, he⟩ := storeBytes_open p (toBytes n x) h
  unfold Machine.storeNum
  rw [he]
  exact hp.trans (SameParties.rawStores _ _ _)

/-! ## Accesses where a page may have synonyms (R259) -/

/-- Where every page shows the same, a load reads the bytes as they stand and changes nothing. -/
theorem synLoad_agrees {r : Run} {blk c t : Nat} {g : Option Nat} {p : Place} {n : Nat} (h : r.Agrees c t g p n) :
    synLoad r blk c t g p n = (loadNum r blk p n, r) := by
  unfold synLoad
  cases g with
  | none => rfl
  | some g =>
    dsimp only
    rw [if_pos (h g rfl)]

/-- A load spends a free value at most, and marks what its page has now shown. -/
theorem synLoad_frame (r : Run) (blk c t : Nat) (g : Option Nat) (p : Place) (n : Nat) :
    ∃ k ss, (synLoad r blk c t g p n).2 = { r with free := k, stales := ss } := by
  unfold synLoad
  cases g with
  | none => exact ⟨r.free, r.stales, rfl⟩
  | some g =>
    by_cases h : r.clashes c t g p n = []
    · dsimp only
      rw [if_pos h]
      exact ⟨r.free, r.stales, rfl⟩
    · dsimp only
      rw [if_neg h]
      exact ⟨r.free + 1, _, rfl⟩

/-- A store where a page may have synonyms is a store of n bytes, of the value itself where every page shows the same, after a change
of the free counter alone and before one of what pages still show. -/
theorem synStore_eq (r : Run) (blk c t : Nat) (g : Option Nat) (cls : OpClass) (p : Place) (n x : Nat) :
    ∃ r' y ss, (∃ k, r' = { r with free := k }) ∧ (r.Agrees c t g p n → y = x) ∧
      synStore r blk c t g cls p n x = { storeNum r' blk p n y with stales := ss } := by
  unfold synStore
  cases g with
  | none => exact ⟨r, x, _, ⟨r.free, rfl⟩, fun _ => rfl, rfl⟩
  | some g =>
    by_cases h : r.clashes c t g p n = []
    · dsimp only
      simp only [h, if_true]
      exact ⟨r, x, _, ⟨r.free, rfl⟩, fun _ => rfl, rfl⟩
    · dsimp only
      simp only [h, if_false]
      exact ⟨_, _, _, ⟨r.free + 1, rfl⟩, fun ha => absurd (ha g rfl) h, rfl⟩

theorem SameMemory.free (r : Run) (k : Nat) : SameMemory r { r with free := k } := by
  intro p
  cases p <;> rfl

theorem SameParties.free (r : Run) (k : Nat) : SameParties r { r with free := k } := ⟨fun _ _ => rfl, fun _ => rfl, fun _ => rfl⟩

theorem SameMemory.stales (r : Run) (ss : List Stale) : SameMemory r { r with stales := ss } := by
  intro p
  cases p <;> rfl

theorem SameParties.stales (r : Run) (ss : List Stale) : SameParties r { r with stales := ss } :=
  ⟨fun _ _ => rfl, fun _ => rfl, fun _ => rfl⟩

theorem SameParties.synStore {r : Run} {blk : Nat} (c t : Nat) (g : Option Nat) (cls : OpClass) (p : Place) (n x : Nat)
    (h : OpenBlock r blk) : SameParties r (synStore r blk c t g cls p n x) := by
  obtain ⟨_, y, ss, ⟨k, rfl⟩, -, he⟩ := synStore_eq r blk c t g cls p n x
  rw [he]
  exact ((SameParties.free r k).trans (SameParties.storeNum p n y (h.of (SameParties.free r k)))).trans (SameParties.stales _ _)

theorem rawByte_synStore_out {r : Run} {blk : Nat} (c t : Nat) (g : Option Nat) (cls : OpClass) {p q : Place} (n x : Nat)
    (h : OpenBlock r blk) (hq : ∀ i < n, q ≠ p.add i) : rawByte (synStore r blk c t g cls p n x) q = rawByte r q := by
  obtain ⟨_, y, ss, ⟨k, rfl⟩, -, he⟩ := synStore_eq r blk c t g cls p n x
  rw [he, SameMemory.stales _ ss q, rawByte_storeNum_out n y (h.of (SameParties.free r k)) hq]
  exact SameMemory.free r k q

theorem rawByte_synStore_in {r : Run} {blk c t : Nat} {g : Option Nat} (cls : OpClass) {p : Place} (n x i : Nat)
    (h : OpenBlock r blk) (ha : r.Agrees c t g p n) (hp : p.there r) (hi : i < n) :
    rawByte (synStore r blk c t g cls p n x) (p.add i) = BitVec.ofNat 8 (x / 256 ^ i) := by
  obtain ⟨_, y, ss, ⟨k, rfl⟩, hy, he⟩ := synStore_eq r blk c t g cls p n x
  have hp' : p.there { r with free := k } := by
    cases p with
    | pad c o => exact hp
    | lane c o => exact hp
    | clu b o => exact hp
    | _ => trivial
  rw [he, SameMemory.stales _ ss, rawByte_storeNum_in n y i (h.of (SameParties.free r k)) hp' hi, hy ha]

end Sys2Proof.Machine
end

