-- ==== Sys2Proof/Laws/Partitions.lean ====
section
/-! SUPPORT. What base camp's operations do to the tags and shares of partitions: which keep them, and why the commands that change
them keep them sound (R376, R418). -/

namespace Sys2Proof.Machine

/-- The tags of the partitions, each with its share. -/
def Mgmt.shares (m : Mgmt) : List (Nat × Nat) := m.parts.map (fun p => (p.1, p.2.share))

theorem sorted_shares (l : Assoc Part) : Assoc.sorted l = Assoc.sorted (l.map (fun (p : Nat × Part) => (p.1, p.2.share))) := by
  induction l with
  | nil => rfl
  | cons p l ih =>
    cases l with
    | nil => rfl
    | cons q l => simp only [List.map_cons, Assoc.sorted] at ih ⊢; rw [ih]

theorem Mgmt.shareSum_eq (m : Mgmt) : m.shareSum = ((Mgmt.shares m).map (·.2)).sum := by simp [Mgmt.shareSum, Mgmt.shares, Function.comp_def]

theorem Mgmt.sound_of_shares {m m' : Mgmt} (h : Mgmt.shares m' = Mgmt.shares m) (hs : m.sound = true) : m'.sound = true := by
  unfold Mgmt.sound Mgmt.tagsRise at *
  rw [Mgmt.shareSum_eq, sorted_shares] at *
  unfold Mgmt.shares at *
  rw [h]; exact hs

theorem shares_set {l : Assoc Part} {k : Nat} {p q : Part} (h : Assoc.sorted l = true) (hg : Assoc.get? l k = some p) (hq : q.share = p.share) :
    (Assoc.set l k q).map (fun (p : Nat × Part) => (p.1, p.2.share)) = l.map (fun (p : Nat × Part) => (p.1, p.2.share)) := by
  induction l with
  | nil => cases hg
  | cons x l ih =>
    obtain ⟨j, u⟩ := x
    have hp := Assoc.sorted_cons.mp h
    rw [Assoc.get?_cons] at hg
    simp only [Assoc.set]
    split
    · rename_i hj; subst hj; rw [if_pos rfl] at hg; cases hg; simp [hq]
    · rename_i hj; rw [if_neg hj] at hg
      have : ¬ k < j := by
        intro hlt
        have : ∀ {l : Assoc Part} {k p}, Assoc.get? l k = some p → (k, p) ∈ l := by
          intro l; induction l with
          | nil => intro k p h; cases h
          | cons y l ih => 
            intro k p h; rw [Assoc.get?_cons (j := y.1) (v := y.2)] at h; split at h
            · cases h; subst_vars; exact List.mem_cons_self
            · exact List.mem_cons_of_mem _ (ih h)
        have := hp.1 _ (this hg); dsimp only at this; omega
      rw [if_neg this]; simp [ih hp.2 hg]

theorem shares_modify {l : Assoc Part} {k : Nat} {f : Part → Part} (h : Assoc.sorted l = true) (hf : ∀ p, (f p).share = p.share) :
    (Assoc.modify l k f).map (fun (p : Nat × Part) => (p.1, p.2.share)) = l.map (fun (p : Nat × Part) => (p.1, p.2.share)) := by
  unfold Assoc.modify; split
  · rfl
  · rename_i hg; exact shares_set h hg (hf _)

/-- A change that keeps the tags and shares of partitions listed once each. -/
def KeepsShares (m m' : Mgmt) : Prop := Assoc.sorted m.parts = true → Mgmt.shares m' = Mgmt.shares m

theorem KeepsShares.refl (m : Mgmt) : KeepsShares m m := fun _ => rfl

theorem KeepsShares.eq {m m' : Mgmt} (h : m'.parts = m.parts) : KeepsShares m m' := fun _ => by unfold Mgmt.shares; rw [h]

theorem KeepsShares.trans {a b c : Mgmt} (h : KeepsShares a b) (g : KeepsShares b c) : KeepsShares a c := fun hs => by
  have h1 := h hs
  have : Assoc.sorted b.parts = true := by rw [sorted_shares] at hs ⊢; unfold Mgmt.shares at h1; rw [h1]; exact hs
  exact (g this).trans h1

theorem KeepsShares.part (m : Mgmt) (t : Nat) (f : Part → Part) (hf : ∀ p, (f p).share = p.share) : KeepsShares m (m.part t f) := fun hs => shares_modify hs hf

theorem KeepsShares.sound {m m' : Mgmt} (h : KeepsShares m m') (hs : m.sound = true) : m'.sound = true := by
  refine Mgmt.sound_of_shares (h ?_) hs
  unfold Mgmt.sound at hs; rw [Bool.and_eq_true] at hs; exact hs.1

theorem keepsShares_extendHx (m : Mgmt) (n a b) : KeepsShares m (m.extendHx n a b) := .eq rfl

theorem keepsShares_extendPx (m : Mgmt) (t n a b) : KeepsShares m (m.extendPx t n a b) := (KeepsShares.part m t _ (by intro p; rfl)).trans (.eq rfl)

theorem keepsShares_newConfig (m : Mgmt) (r) : KeepsShares m (newConfig m r).1 := .eq rfl

theorem keepsShares_tile (m : Mgmt) (t f) : KeepsShares m (m.tile t f) := .eq rfl

theorem keepsShares_foldl {α} (xs : List α) (f : Mgmt → α → Mgmt) (h : ∀ m a, KeepsShares m (f m a)) (m : Mgmt) : KeepsShares m (xs.foldl f m) := by
  induction xs generalizing m with
  | nil => exact .refl m
  | cons x xs ih => exact (h m x).trans (ih _)

theorem keepsShares_settleClocks (m : Mgmt) (ts) : KeepsShares m (settleClocks m ts) := keepsShares_foldl _ _ (fun m t => keepsShares_tile m t _) m

theorem keepsShares_newShape (m : Mgmt) (r t) : KeepsShares m (newShape m r t).1 := (KeepsShares.part m t _ (by intro p; rfl)).trans (keepsShares_newConfig _ _)

theorem keepsShares_tdiError (m : Mgmt) (t) : KeepsShares m (m.tdiError t) := KeepsShares.part m t _ (by intro p; split <;> rfl)

theorem keepsShares_setTdi (m : Mgmt) (t n) : KeepsShares m (m.setTdi t n) := KeepsShares.part m t _ (by intro p; split <;> rfl)

theorem keepsShares_scrubPart (m : Mgmt) (t) : KeepsShares m (scrubPart m t) := by unfold scrubPart; split; exact .refl _; exact .eq rfl

theorem keepsShares_beginPack (m : Mgmt) (r t k) : KeepsShares m (beginPack m r t k).1 := KeepsShares.part m t _ (by intro p; rfl)

theorem keepsShares_ruinPart (m : Mgmt) (r t) : KeepsShares m (ruinPart m r t).1 := keepsShares_scrubPart _ _

theorem keepsShares_rewriteMem (m : Mgmt) (r t p k) : KeepsShares m (rewriteMem m r t p k).1 := by
  unfold rewriteMem; dsimp only
  exact (KeepsShares.eq (m' := _) rfl).trans (KeepsShares.part _ t _ (by intro p; rfl))

theorem keepsShares_routed (m : Mgmt) : KeepsShares m m.routed := .eq rfl

theorem keepsShares_resetVf (m : Mgmt) (r f) : KeepsShares m (resetVf m r f).1 := by
  unfold resetVf
  split
  · exact .refl _
  · split
    · exact KeepsShares.part _ _ _ (by intro p; rfl)
    · dsimp only; split
      · exact (keepsShares_tdiError _ _).trans (keepsShares_ruinPart _ _ _)
      · exact .refl _

theorem keepsShares_repairTile (m : Mgmt) (r t p u) : KeepsShares m (repairTile m r t p u).1 := by
  unfold repairTile; dsimp only; split
  · exact (keepsShares_tdiError _ _).trans (keepsShares_ruinPart _ _ _)
  · split
    · exact keepsShares_beginPack _ _ _ _
    · split
      · exact keepsShares_beginPack _ _ _ _
      · exact (keepsShares_tdiError _ _).trans (keepsShares_ruinPart _ _ _)

theorem keepsShares_failTile (m : Mgmt) (r t u) : KeepsShares m (failTile m r t u).1 := by
  unfold failTile; dsimp only; split
  · exact keepsShares_tile _ _ _
  · split
    · exact keepsShares_tile _ _ _
    · exact (keepsShares_tile _ _ _).trans (keepsShares_repairTile _ _ _ _ _)

theorem keepsShares_replaceCore (m : Mgmt) (r t c) : KeepsShares m (replaceCore m r t c).1 := by
  unfold replaceCore; dsimp only; split
  · exact keepsShares_failTile _ _ _ _
  · split
    · exact .refl _
    · exact (keepsShares_tile _ _ _).trans (keepsShares_newConfig _ _)

theorem keepsShares_dropFrom (m : Mgmt) (r t p c sp) : KeepsShares m (dropFrom m r t p c sp).1 := by
  unfold dropFrom; split
  · exact keepsShares_beginPack _ _ _ _
  · split <;> exact .eq rfl

theorem keepsShares_dropChannel (m : Mgmt) (r c sp) : KeepsShares m (dropChannel m r c sp).1 := by
  unfold dropChannel; split
  · refine KeepsShares.trans ?_ (keepsShares_newConfig _ r)
    exact .eq rfl
  · split
    · exact KeepsShares.part _ _ _ (by intro p; rfl)
    · exact keepsShares_dropFrom _ _ _ _ _ _

theorem keepsShares_packNext (m : Mgmt) (r t) : KeepsShares m (packNext m r t).1 := by
  unfold packNext; split
  · exact .refl _
  · split
    · exact keepsShares_repairTile _ _ _ _ _
    · exact (KeepsShares.part _ _ _ (by intro p; rfl)).trans (keepsShares_dropFrom _ _ _ _ _ _)
    · split
      · exact (KeepsShares.part _ _ _ (by intro p; rfl)).trans (keepsShares_resetVf _ _ _)
      · exact .refl _

theorem keepsShares_finishPack (m : Mgmt) (r t) : KeepsShares m (finishPack m r t).1 := by
  unfold finishPack; split
  · exact .refl _
  · split
    · exact .refl _
    · split
      · exact .refl _
      · have h1 : ∀ p k x y z, KeepsShares m (newShape (settleClocks (rewriteMem m x t p k).1 y).routed z t).1 := fun p k x y z =>
          (((keepsShares_rewriteMem _ _ _ _ _).trans (keepsShares_settleClocks _ _)).trans (keepsShares_routed _)).trans
            (keepsShares_newShape _ _ _)
        dsimp only
        generalize hn : newShape _ _ t = n
        have h2 : KeepsShares m n.1 := by
          rw [← hn]
          exact h1 _ _ _ _ _
        have h3 : ∀ c : Prop, ∀ [Decidable c], ∀ a b, KeepsShares m (if c then n.1 else n.1.extendPx t 1 a b) := by
          intro c _ a b
          split
          · exact h2
          · exact h2.trans (keepsShares_extendPx _ _ _ _ _)
        have h4 := fun c [Decidable c] a b => (h3 c a b).trans
          (KeepsShares.part _ t (fun p => { p with stopped := false, pack := none }) (by intro p; rfl))
        exact (h4 _ _ _).trans (keepsShares_packNext _ _ _)

theorem keepsShares_lockInterface (m : Mgmt) (r f x n) : KeepsShares m (lockInterface m r f x n).1 := by
  unfold lockInterface; split
  · exact .refl _
  · split
    · exact .refl _
    · exact (KeepsShares.part _ _ _ (by intro p; rfl)).trans (keepsShares_extendPx _ _ _ _ _)

theorem keepsShares_vendorDefined (m : Mgmt) (r f p n) : KeepsShares m (vendorDefined m r f p n).1 := by
  unfold vendorDefined
  repeat' split
  all_goals first | exact .refl _ | exact keepsShares_setTdi _ _ _

theorem keepsShares_ideViolation (m : Mgmt) (r f p) : KeepsShares m (ideViolation m r f p).1 := by
  unfold ideViolation
  repeat' split
  all_goals first | exact .refl _ | exact (keepsShares_tdiError _ _).trans (keepsShares_ruinPart _ _ _)

theorem keepsShares_characterised (m : Mgmt) (r t) : KeepsShares m (characterised m r t).1 := by
  unfold characterised; dsimp only; split
  · exact keepsShares_tile _ _ _
  · split
    · exact keepsShares_tile _ _ _
    · exact (keepsShares_tile _ _ _).trans (keepsShares_newShape _ _ _)

theorem keepsShares_lowerCeilings (m : Mgmt) (r ts n) : KeepsShares m (lowerCeilings m r ts n).1 :=
  (keepsShares_foldl ts _ (fun m t => keepsShares_tile m t _) m).trans ((keepsShares_settleClocks _ _).trans (keepsShares_newConfig _ _))

theorem keepsShares_holdEnvelope (m : Mgmt) (r n k) : KeepsShares m (holdEnvelope m r n k).1 := by
  unfold holdEnvelope; dsimp only
  refine KeepsShares.trans ?_ ((keepsShares_settleClocks _ _).trans (keepsShares_newConfig _ _))
  intro _; simp [Mgmt.shares, Function.comp_def]

theorem keepsShares_retrain (m : Mgmt) (r t) : KeepsShares m (retrain m r t).1 := by
  unfold retrain; dsimp only; split
  · exact (keepsShares_tile _ _ _).trans (keepsShares_failTile _ _ _ _)
  · exact keepsShares_tile _ _ _

theorem coldMgmt_parts (m : Mgmt) : (coldMgmt m).parts = [] := rfl

theorem keepsShares_foldPairs {α} (xs : List α) (f : Mgmt × Run → α → Mgmt × Run) (h : ∀ x a, KeepsShares x.1 (f x a).1) (x : Mgmt × Run) : KeepsShares x.1 (xs.foldl f x).1 := by
  induction xs generalizing x with
  | nil => exact .refl _
  | cons a xs ih => exact (h x a).trans (ih _)

theorem measuredBoot_eq (m : Mgmt) (r) : ∃ x : Mgmt × Run, x.1.parts = m.parts ∧ measuredBoot m r =
    newConfig ((List.range 96).foldl (fun (x : Mgmt × Run) _ => bootImage x.1 x.2 3) x).1 ((List.range 96).foldl (fun (x : Mgmt × Run) _ => bootImage x.1 x.2 3) x).2 := by
  unfold measuredBoot
  generalize List.range 96 = l
  refine ⟨bootImage (bootImage (m.extendHx 0 (measure (m.image.getD (Config.record r.draw.1))) (m.image.getD (Config.record r.draw.1))) r.draw.2 1).1 (bootImage (m.extendHx 0 (measure (m.image.getD (Config.record r.draw.1))) (m.image.getD (Config.record r.draw.1))) r.draw.2 1).2 2, rfl, rfl⟩

theorem keepsShares_measuredBoot (m : Mgmt) (r) : KeepsShares m (measuredBoot m r).1 := by
  have h : ∀ x : Mgmt × Run, KeepsShares x.1 ((List.range 96).foldl (fun (x : Mgmt × Run) _ => bootImage x.1 x.2 3) x).1 := by
    generalize List.range 96 = l
    exact fun x => keepsShares_foldPairs _ _ (fun x _ => KeepsShares.eq (m' := (bootImage x.1 x.2 3).1) rfl) x
  obtain ⟨x, hx, he⟩ := measuredBoot_eq m r
  rw [he]
  exact ((KeepsShares.eq hx).trans (h x)).trans (keepsShares_newConfig _ _)

theorem resetChip_sound (m : Mgmt) (r g b) : (resetChip m r g b).1.sound = true := by
  unfold resetChip; dsimp only; split
  · exact (keepsShares_measuredBoot _ _).sound rfl
  · rfl

/-- What a command leaves is sound when it finds it so. -/
def KeepsSound (m : Mgmt) (d : Done) : Prop := m.sound = true → d.2.1.sound = true

theorem keepsSound_status (m r n) : KeepsSound m (.status m r n) := id

theorem mailboxStep_sound (m r a mine) (f g : Mgmt → Run → Nat → Nat → Done) (hf : ∀ r t w, KeepsSound m (f m r t w)) (hg : ∀ r t w, KeepsSound m (g m r t w))
    (h : m.sound = true) : (mailboxStep m r a mine f g).1.sound = true := by
  unfold mailboxStep mailboxAnswer
  dsimp only
  split
  · split
    · dsimp only; split
      · exact h
      · exact hg _ _ _ h
    · exact h
  · split
    · dsimp only; split
      · exact h
      · exact hf _ _ _ h
    · exact h

theorem keepsSound_withPart (f : Mgmt → Run → Nat → Part → Nat → Done) (m : Mgmt) (hf : ∀ r t p w, KeepsSound m (f m r t p w)) (r t w) : KeepsSound m (withPart f m r t w) := by
  unfold withPart; split
  · exact id
  · exact hf _ _ _ _

theorem keepsSound_of {m : Mgmt} {d : Done} (h : KeepsShares m d.2.1) : KeepsSound m d := h.sound

theorem keepsSound_beginCommand (m r t x w k) : KeepsSound m (beginCommand m r t x w k) := by
  unfold beginCommand; split
  · exact id
  · split
    · exact id
    · exact keepsSound_of (keepsShares_beginPack _ _ _ _)

theorem keepsSound_packAgain (f : Mgmt → Run → Nat → Part → Nat → Done) (m : Mgmt) (hf : ∀ r t p w, KeepsSound m (f m r t p w)) (r t w) : KeepsSound m (packAgain f m r t w) := by
  unfold packAgain; split
  · split
    · split
      · exact keepsSound_of (keepsShares_finishPack _ _ _)
      · exact id
    · exact keepsSound_withPart f m hf _ _ _
  · exact keepsSound_withPart f m hf _ _ _

theorem share_sum_erase (l : Assoc Part) (k : Nat) : ((Assoc.erase l k).map (fun p => p.2.share)).sum ≤ (l.map (fun p => p.2.share)).sum := by
  unfold Assoc.erase
  induction l with
  | nil => exact Nat.le_refl _
  | cons p l ih =>
    simp only [List.filter_cons]; split <;> simp only [List.map_cons, List.sum_cons] <;> omega

theorem share_sum_set (l : Assoc Part) (k : Nat) (q : Part) (hs : Assoc.sorted l = true) : ((Assoc.set l k q).map (fun p => p.2.share)).sum =
    ((l.filter (fun p => p.1 != k)).map (fun p => p.2.share)).sum + q.share := by
  induction l with
  | nil => simp [Assoc.set]
  | cons x l ih =>
    obtain ⟨j, u⟩ := x
    have hp := Assoc.sorted_cons.mp hs
    have hn : ∀ n, n ≤ j → (l.filter (fun p => p.1 != n)) = l := by
      intro n hn; rw [List.filter_eq_self]; intro p hp'; have := hp.1 p hp'; simp only [bne_iff_ne]; dsimp only at this; omega
    simp only [Assoc.set]
    split
    · rename_i h; subst h; simp [hn j (by omega)]; omega
    · split
      · rename_i h1 h2; simp [hn k (by omega), h1]; omega
      · rename_i h1 h2; simp [h1, ih hp.2]; omega

theorem Mgmt.sound_of {m' : Mgmt} (hp : m'.tagsRise = true) (hn : m'.shareSum ≤ 256) : m'.sound = true := by
  unfold Mgmt.sound; simp [hp, hn]

theorem Mgmt.sound_parts {m : Mgmt} (h : m.sound = true) : Assoc.sorted m.parts = true ∧ m.shareSum ≤ 256 := by
  unfold Mgmt.sound Mgmt.tagsRise at h; simpa using h

theorem keepsSound_create (m r t w) : KeepsSound m (commandCreate m r t w) := by
  intro h
  unfold commandCreate; dsimp only
  split
  · exact h
  · rename_i hr
    split
    · exact h
    · have hsum : sharesBut m t + (readCreation r).share ≤ 256 := by
        unfold createRefusal firstStatus at hr
        rw [Option.map_eq_none_iff, List.find?_eq_none] at hr
        have := hr (decide (256 < sharesBut m t + (readCreation r).share), 4) (by simp)
        simpa using this
      dsimp only
      unfold createPart
      dsimp only
      refine KeepsShares.sound ((KeepsShares.trans (keepsShares_extendPx _ t 0 _ _) (keepsShares_settleClocks _ _)).trans
        ((keepsShares_routed _).trans (keepsShares_newConfig _ _))) ?_
      refine Mgmt.sound_of ?_ ?_
      · exact Assoc.sorted_set _ _ (Mgmt.sound_parts h).1
      · unfold Mgmt.shareSum; dsimp only; rw [share_sum_set _ _ _ (Mgmt.sound_parts h).1]; exact hsum

theorem keepsSound_destroy (m r t p w) : KeepsSound m (commandDestroy m r t p w) := by
  intro h
  unfold commandDestroy; dsimp only; split
  · exact h
  · dsimp only
    have h1 := (keepsShares_scrubPart m t).sound h
    refine KeepsShares.sound ((keepsShares_routed _).trans (keepsShares_newConfig _ _)) ?_
    refine Mgmt.sound_of ?_ ?_
    · exact Assoc.sorted_erase _ (Mgmt.sound_parts h1).1
    · exact Nat.le_trans (share_sum_erase _ _) (Mgmt.sound_parts h1).2

theorem share_sum_modify (l : Assoc Part) (k x : Nat) (hs : Assoc.sorted l = true) :
    ((Assoc.modify l k (fun p => { p with share := x })).map (fun p => p.2.share)).sum ≤
    ((l.filter (fun p => p.1 != k)).map (fun p => p.2.share)).sum + x := by
  unfold Assoc.modify; split
  · rename_i h
    have : l.filter (fun p => p.1 != k) = l := by
      rw [List.filter_eq_self]; intro p hp
      have aux : ∀ {l : Assoc Part}, Assoc.get? l k = none → ∀ p ∈ l, p.1 ≠ k := by
        intro l; induction l with
        | nil => intro _ p hp; cases hp
        | cons y l ih =>
          intro h p hp; rw [Assoc.get?_cons (j := y.1) (v := y.2)] at h; split at h
          · cases h
          · rcases List.mem_cons.mp hp with rfl | hp
            · assumption
            · exact ih h p hp
      simpa using aux h p hp
    rw [this]; omega
  · exact Nat.le_of_eq (share_sum_set _ _ _ hs)

theorem keepsSound_setShare (m r t p w) : KeepsSound m (commandSetShare m r t p w) := by
  intro h
  unfold commandSetShare; dsimp only; split
  · exact h
  · rename_i hr
    have hsum : sharesBut m t + bits w 23 16 ≤ 256 := by
      unfold firstStatus at hr
      rw [Option.map_eq_none_iff, List.find?_eq_none] at hr
      have := hr (decide (256 < sharesBut m t + bits w 23 16), 4) (by simp)
      simpa using this
    refine Mgmt.sound_of ?_ ?_
    · exact Assoc.sorted_modify _ _ (Mgmt.sound_parts h).1
    · exact Nat.le_trans (share_sum_modify _ _ _ (Mgmt.sound_parts h).1) hsum

theorem keepsSound_setCaps (m r t p w) : KeepsSound m (commandSetCaps m r t p w) := by
  unfold commandSetCaps; split
  · exact id
  · exact keepsSound_of ((KeepsShares.part m t _ (by intro p; rfl)).trans ((keepsShares_settleClocks _ _).trans (keepsShares_newConfig _ _)))

/-- An outcome from a sound state that is a next state is a sound one. -/
def StaysSound (s : State) (o : Outcome) : Prop := s.mgmt.sound = true → ∀ t, o = .next t → t.mgmt.sound = true

theorem staysSound_issue (d s) : StaysSound s (issue d s) := by
  intro h t ht; rcases issue_cases d s with ⟨e, _, he⟩ | he
  · rw [he] at ht; cases ht; exact h
  · rw [he] at ht; cases ht

theorem staysSound_issueSlice (d s) : StaysSound s (issueSlice d s) := by
  intro h t ht; unfold issueSlice at ht; repeat' split at ht
  all_goals first | (cases ht; exact h) | cases ht

theorem staysSound_issueEither (d a s) : StaysSound s (issueEither d a s) := by
  unfold issueEither; split
  · exact staysSound_issueSlice _ _
  · exact staysSound_issue _ _

theorem staysSound_happen (s f) : StaysSound s (happen s f) := by
  intro h t ht; unfold happen at ht; split at ht <;> cases ht; exact h

theorem staysSound_happenAll (s) (f : EvArgs → Mgmt × Run) (hf : ∀ a, s.mgmt.sound = true → (f a).1.sound = true) : StaysSound s (happenAll s f) := by
  intro h t ht; unfold happenAll at ht; split at ht <;> cases ht; exact hf _ h

theorem staysSound_mailbox (s c) (f : Mgmt → Run → Nat → Nat → Done) (hf : ∀ r t w, KeepsSound s.mgmt (f s.mgmt r t w)) : StaysSound s (mailbox s c f) :=
  staysSound_happenAll _ _ (fun _ h => mailboxStep_sound _ _ _ _ _ _ hf hf h)

theorem staysSound_packCommand (s c) (f : Mgmt → Run → Nat → Part → Nat → Done) (hf : ∀ r t p w, KeepsSound s.mgmt (f s.mgmt r t p w)) : StaysSound s (packCommand s c f) :=
  staysSound_happenAll _ _ (fun _ h => mailboxStep_sound _ _ _ _ _ _ (keepsSound_withPart f _ hf) (keepsSound_packAgain f _ hf) h)

end Sys2Proof.Machine
end

