-- ==== Sys2Proof/Laws/Stores.lean ====
section
/-! SUPPORT. What loads and stores leave: the places of the lanes of an access, the bytes a store writes, and that nothing else of the
run differs (R159 to R163, R202). -/

namespace Sys2Proof.Machine

theorem Issuer.openBlock {s : State} {e : Env} (hp : Issuer s e) (h : e.blk.closedInterval = false) : OpenBlock e.r e.crew.block := by
  intro b hb; rw [hp.block] at hb; cases hb; exact h

theorem SliceIssuer.openBlock {s : State} {e : SEnv} (hp : SliceIssuer s e) (h : e.blk.closedInterval = false) : OpenBlock e.r e.crew.block := by
  intro b hb; rw [hp.block] at hb; cases hb; exact h

theorem addOp_eq {s : State} {e : Env} (hp : Issuer s e) (cls data) : ∃ n, addOp e e.r cls data = (n, e.r.warp e.cid e.wi (fun w => { w with ops := w.ops ++ [⟨n, cls, false, data⟩] })) := by
  obtain ⟨-, -, hx, hy⟩ := hp.objects
  unfold addOp pushOp
  have : ((Assoc.get? e.r.crews e.cid).bind (fun c => c.warps[e.wi]?)) = some e.w := by rw [hx]; exact hy
  rw [this]
  exact ⟨_, rfl⟩

theorem lanePlaces_mem {es : List (Nat × Except AccFault Place)} {ps : List (Nat × Place)} (h : lanePlaces es = .ok ps) {x : Nat × Place} (hx : x ∈ ps) : (x.1, Except.ok x.2) ∈ es := by
  unfold lanePlaces at h
  split at h
  · cases h
  · cases h
  · split at h <;> cases h
    simp only [List.mem_filterMap] at hx
    obtain ⟨y, hy, he⟩ := hx
    split at he
    · rename_i z hz; cases he; obtain ⟨a, b⟩ := y; cases hz; exact hy
    · cases he

theorem accessPlaces_mem {e : Env} {a sp n need} {ps} (h : accessPlaces e a sp n need = .ok ps) {x : Nat × Place} (hx : x ∈ ps) :
    x.1 ∈ e.lanes ∧ lanePlace e sp x.1 (effAddr e a sp x.1) n n need = .ok x.2 := by
  unfold accessPlaces at h
  split at h
  · cases h
  · rename_i qs hq
    have : ps = qs := by
      dsimp only at h
      split at h
      · cases h; rfl
      · cases h
    subst this
    have := lanePlaces_mem hq hx
    simp only [List.mem_map, Prod.mk.injEq] at this
    obtain ⟨l, hl, h1, h2⟩ := this
    subst h1
    exact ⟨hl, h2⟩

theorem LaneFrame.setAll {w0 : Warp} {lanes : Mask} {dst : List Nat} (ws : List (Nat × Nat × Word)) (w : Warp) (hw : LaneFrame lanes dst w0 w)
    (h : ∀ x ∈ ws, x.1 < 32 ∧ lanes.getLsbD x.1 = true ∧ x.2.1 ∈ dst) : LaneFrame lanes dst w0 (w.setAll ws) := by
  unfold Warp.setAll
  induction ws generalizing w with
  | nil => exact hw
  | cons x ws ih =>
    obtain ⟨h1, h2, h3⟩ := h x List.mem_cons_self
    exact ih _ (hw.setV h1 h2 h3 _) (fun y hy => h y (List.mem_cons_of_mem _ hy))

/-- The loads of an access spend free values and mark what pages have shown, and no more (R157, R259). -/
theorem loadLanes_frame (e : Env) (o : OpM) (n : Nat) (ps : List (Nat × Place)) (r : Run) (ws : List (Nat × Nat × Word)) :
    ∃ k ss, (ps.foldl (loadLane e o n) (r, ws)).1 = { r with free := k, stales := ss } := by
  induction ps generalizing r ws with
  | nil => exact ⟨r.free, r.stales, rfl⟩
  | cons p ps ih =>
    obtain ⟨k, ss, h⟩ := synLoad_frame r e.crew.block e.cid (laneParty e.wi p.1) (e.page o.sp (effAddr e o.a o.sp p.1)) p.2 n
    obtain ⟨k', ss', h'⟩ := ih (loadLane e o n (r, ws) p).1 (loadLane e o n (r, ws) p).2
    refine ⟨k', ss', h'.trans ?_⟩
    simp only [loadLane, h]

/-- Each lane writes its own group and no other register. -/
theorem loadLanes_writes (e : Env) (o : OpM) (n : Nat) (ps : List (Nat × Place)) (r : Run) (ws : List (Nat × Nat × Word))
    {x : Nat × Nat × Word} (hx : x ∈ (ps.foldl (loadLane e o n) (r, ws)).2) :
    x ∈ ws ∨ ∃ p ∈ ps, x.1 = p.1 ∧ x.2.1 ∈ vRegs o.d (groupSize o.w) := by
  induction ps generalizing r ws with
  | nil => exact .inl hx
  | cons p ps ih =>
    rcases ih _ _ hx with h | ⟨q, hq, h⟩
    · simp only [List.mem_append] at h
      rcases h with h | h
      · exact .inl h
      · unfold groupWrites at h
        simp only [List.mem_map, List.mem_range] at h
        obtain ⟨i, hi, rfl⟩ := h
        exact .inr ⟨p, List.mem_cons_self, rfl, List.mem_map.mpr ⟨i, List.mem_range.mpr hi, rfl⟩⟩
    · exact .inr ⟨q, List.mem_cons_of_mem _ hq, h⟩

/-- Outside global memory no page has synonyms: every lane reads the bytes as they stand. -/
theorem loadLanes_local {e : Env} {o : OpM} (n : Nat) (hs : o.sp < 4) (ps : List (Nat × Place)) (r : Run)
    (ws : List (Nat × Nat × Word)) :
    ps.foldl (loadLane e o n) (r, ws) = (r, ws ++ ps.flatMap (fun p =>
      groupWrites p.1 o.d (groupSize o.w) (loadExtend e o.w n (loadNum r e.crew.block p.2 n)))) := by
  induction ps generalizing ws with
  | nil => simp
  | cons p ps ih =>
    have hl : loadLane e o n (r, ws) p =
        (r, ws ++ groupWrites p.1 o.d (groupSize o.w) (loadExtend e o.w n (loadNum r e.crew.block p.2 n))) := by
      unfold loadLane Env.page synonymPage
      rw [if_pos hs]
      rfl
    rw [List.foldl_cons, hl, ih]
    simp

/-- A run in which only the warp of the environment may differ, and only in what issuing and completing a store may change of it. -/
structure Keeps (e : Env) (t : Run) : Prop where
  own : ∃ w, t.warp? e.cid e.wi = some w ∧ { w with ops := e.w.ops, ords := e.w.ords, batches := e.w.batches, windows := e.w.windows } = e.w
  warps : ∀ c w, c ≠ e.cid ∨ w ≠ e.wi → t.warp? c w = e.r.warp? c w
  slices : ∀ c, t.slice? c = e.r.slice? c
  op : OpenBlock t e.crew.block

theorem Keeps.parties {e : Env} {r t : Run} (h : Keeps e r) (g : SameParties r t) : Keeps e t :=
  ⟨by rw [g.warps]; exact h.own, fun c w hc => (g.warps c w).trans (h.warps c w hc), fun c => (g.slices c).trans (h.slices c), h.op.of g⟩

theorem Keeps.warp {e : Env} {r : Run} (h : Keeps e r) (f : Warp → Warp) (hf : ∀ w : Warp, { w with ops := e.w.ops, ords := e.w.ords, batches := e.w.batches, windows := e.w.windows } = e.w →
   { f w with ops := e.w.ops, ords := e.w.ords, batches := e.w.batches, windows := e.w.windows } = e.w) : Keeps e (r.warp e.cid e.wi f) := by
  obtain ⟨w, hw, hk⟩ := h.own
  refine ⟨⟨f w, ?_, hf w hk⟩, fun c v hc => ?_, fun c => ?_, h.op⟩
  · rw [Run.warp?_warp_self, hw]; rfl
  · rw [Run.warp?_warp_ne, h.warps c v hc]; rcases hc with hc | hc
    · exact .inl (Ne.symm hc)
    · exact .inr (Ne.symm hc)
  · rw [Run.slice?_warp, h.slices]

theorem Keeps.start {s : State} {e : Env} (hp : Issuer s e) (hb : e.blk.closedInterval = false) : Keeps e e.r := by
  obtain ⟨-, -, hx, hy⟩ := hp.objects
  refine ⟨⟨e.w, ?_, rfl⟩, fun _ _ _ => rfl, fun _ => rfl, Issuer.openBlock hp hb⟩
  unfold Run.warp?; rw [hx]; exact hy

theorem foldWrites_keeps {e : Env} {r : Run} (h : Keeps e r) (l ts) : Keeps e (foldWrites e r l ts) ∧ SameMemory r (foldWrites e r l ts) := by
  unfold foldWrites; split
  · exact ⟨h, .refl _⟩
  · induction ts generalizing r with
    | nil => exact ⟨h, .refl _⟩
    | cons t ts ih =>
      simp only [List.foldl_cons]
      refine ⟨(ih ?_).1, SameMemory.trans ?_ (ih ?_).2⟩
      · exact (h.parties (SameParties.block r _ _ (by intro x; rfl))).warp _ (by intro w hw; exact hw)
      · exact (SameMemory.block r _ _ (by intro x; rfl)).trans (SameMemory.warp _ _ _ _)
      · exact (h.parties (SameParties.block r _ _ (by intro x; rfl))).warp _ (by intro w hw; exact hw)

theorem storeLane_keeps {e : Env} {o : OpM} {n : Nat} {r : Run} (h : Keeps e r) (x : Nat × Place) :
    Keeps e (storeLane e o n r x) ∧ ∀ p, (∀ i < n, p ≠ x.2.add i) → rawByte (storeLane e o n r x) p = rawByte r p := by
  unfold storeLane; dsimp only
  have h1 := h.parties (SameParties.synStore e.cid (laneParty e.wi x.1) (e.page o.sp (effAddr e o.a o.sp x.1)) .stg x.2 n
    (e.w.group x.1 o.d (groupSize o.w) % 2 ^ (8 * n)) h.op)
  refine ⟨(foldWrites_keeps h1 _ _).1, fun p hp => ?_⟩
  rw [(foldWrites_keeps h1 _ _).2 p]
  exact rawByte_synStore_out _ _ _ _ _ _ h.op hp

theorem storeLanes_keep {e : Env} {o : OpM} {n : Nat} (ps : List (Nat × Place)) {r : Run} (h : Keeps e r) :
    Keeps e (ps.foldl (storeLane e o n) r) ∧ ∀ p, (∀ x ∈ ps, ∀ i < n, p ≠ x.2.add i) → rawByte (ps.foldl (storeLane e o n) r) p = rawByte r p := by
  induction ps generalizing r with
  | nil => exact ⟨h, fun _ _ => rfl⟩
  | cons x ps ih =>
    have h1 := storeLane_keeps (o := o) (n := n) h x
    have h2 := ih h1.1
    refine ⟨h2.1, fun p hp => ?_⟩
    rw [List.foldl_cons, h2.2 p (fun y hy => hp y (List.mem_cons_of_mem _ hy)), h1.2 p (hp x List.mem_cons_self)]

theorem SameMemory.stopRunning (x : Run) (c q) : SameMemory x (stopRunning x c q) := by intro p; cases p <;> rfl

theorem afterWord_keeps {e : Env} {d : WordDef} {r : Run} {op : Nat} (h : Keeps e r) :
    Keeps e (afterWord e d (does r (op := op))) ∧ SameMemory r (afterWord e d (does r (op := op))) := by
  have h1 : ∀ g : Warp → Warp, (∀ w, ∃ bs ws, g w = { w with batches := bs, windows := ws }) → Keeps e (r.warp e.cid e.wi g) := by
    intro g hg
    refine h.warp g fun w hw => ?_
    obtain ⟨bs, ws, he⟩ := hg w
    rw [he]; exact hw
  unfold afterWord does; dsimp only; split
  · refine ⟨(h1 _ fun w => ⟨_, _, rfl⟩).parties ⟨fun _ _ => rfl, fun _ => rfl, fun _ => rfl⟩, SameMemory.trans (SameMemory.warp _ _ _ _) (SameMemory.stopRunning _ _ _)⟩
  · exact ⟨h1 _ fun w => ⟨_, _, rfl⟩, SameMemory.warp r _ _ _⟩

theorem wSt_body {s : State} {e : Env} {o ps} (hp : Issuer s e) (hb : e.blk.closedInterval = false) (h1 : accessPlaces e o.a o.sp (accessBytes e o.w) needWr = .ok ps) :
    ∃ r, (wSt o).body e = .ok (does r) ∧ Keeps e r ∧ SameMemory (ps.foldl (storeLane e o (accessBytes e o.w)) e.r) r := by
  have ho := Issuer.openBlock hp hb
  have hf : openFor e.r e.crew.block ps = e.r := by unfold openFor; rw [openInterval_open ho]; exact ite_self _
  have hs := (storeLanes_keep (o := o) (n := accessBytes e o.w) ps (Keeps.start hp hb)).1
  refine ⟨_, by simp only [wSt, h1, hf, openInterval_open ho, ite_self]; rfl, ?_⟩
  split
  · exact ⟨hs, .refl _⟩
  · unfold addOp pushOp; split
    · exact ⟨hs, .refl _⟩
    · exact ⟨hs.warp _ (by intro w hw; exact hw), SameMemory.warp _ _ _ _⟩

theorem byte_of_mod (i n v : Nat) (h : i < n) : BitVec.ofNat 8 (v % 2 ^ (8 * n) / 256 ^ i) = BitVec.ofNat 8 (v / 256 ^ i) := by
  apply BitVec.eq_of_toNat_eq
  simp only [BitVec.toNat_ofNat]
  have h2 : (2 : Nat) ^ (8 * n) = 256 ^ i * (256 * 256 ^ (n - i - 1)) := by
    rw [Nat.pow_mul, ← Nat.pow_succ', ← Nat.pow_add]; congr 1; omega
  rw [h2, Nat.mod_mul_right_div_self]
  show _ % 256 = _ % 256
  rw [Nat.mod_mul_right_mod]

/-- An access that no pack-up holds lies where the page tables say (R390). -/
theorem globalPlace_ok {m r tile ctx va need acc p} (h : globalPlace m r tile ctx va need acc = .ok p) :
    pagePlace m r tile ctx va need acc = .ok p := by
  unfold globalPlace at h
  split at h
  · rename_i hp; split at h <;> cases h; exact hp
  · exact h

theorem localPlace_ok {m p q} (h : localPlace m p = .ok q) : q = p := by unfold localPlace at h; split at h <;> cases h; rfl

theorem globalPlace_there {m r tile ctx va need p} (x : Run) (h : globalPlace m r tile ctx va need = .ok p) : p.there x := by
  replace h := globalPlace_ok h
  unfold pagePlace at h
  repeat' split at h
  all_goals first | cases h | skip
  · exact trivial
  · rename_i hs; unfold stage2 at hs
    dsimp only at hs
    repeat' split at hs
    all_goals first | cases hs; exact trivial | cases hs

theorem lanePlace_there {s : State} {e : Env} (hp : Issuer s e) {sp l ea n al need p} (h : lanePlace e sp l ea n al need = .ok p) : p.there e.r := by
  obtain ⟨-, -, hx, -⟩ := hp.objects
  unfold lanePlace at h
  split at h
  · cases h
  · split at h
    · split at h
      · cases localPlace_ok h
        unfold spacePlace; split
        · show Option.isSome _ = true; rw [hx]; rfl
        · show Option.isSome _ = true; rw [hx]; rfl
        · show Option.isSome _ = true; rw [hp.block]; rfl
        · exact trivial
      · cases h
    · exact globalPlace_there _ h

/-- A run in which only the slice of the environment may differ, and only in what issuing and completing a store may change of it. -/
structure KeepsS (e : SEnv) (t : Run) : Prop where
  own : ∃ x, t.slice? e.cid = some x ∧ { x with ord := e.s.ord, pc := e.s.pc, hints := e.s.hints, wait := e.s.wait, windows := e.s.windows, replay := e.s.replay } = e.s
  slices : ∀ c, c ≠ e.cid → t.slice? c = e.r.slice? c
  warps : ∀ c w, t.warp? c w = e.r.warp? c w
  op : OpenBlock t e.crew.block

theorem KeepsS.parties {e : SEnv} {r t : Run} (h : KeepsS e r) (g : SameParties r t) : KeepsS e t :=
  ⟨by rw [g.slices]; exact h.own, fun c hc => (g.slices c).trans (h.slices c hc), fun c w => (g.warps c w).trans (h.warps c w), h.op.of g⟩

theorem KeepsS.slice {e : SEnv} {r : Run} (h : KeepsS e r) (f : ASlice → ASlice) (hf : ∀ x : ASlice, { x with ord := e.s.ord, pc := e.s.pc, hints := e.s.hints, wait := e.s.wait, windows := e.s.windows, replay := e.s.replay } = e.s →
   { f x with ord := e.s.ord, pc := e.s.pc, hints := e.s.hints, wait := e.s.wait, windows := e.s.windows, replay := e.s.replay } = e.s) : KeepsS e (r.slice e.cid f) := by
  obtain ⟨w, hw, hk⟩ := h.own
  refine ⟨⟨f w, ?_, hf w hk⟩, fun c hc => ?_, fun c v => ?_, h.op⟩
  · rw [Run.slice?_slice_self, hw]; rfl
  · rw [Run.slice?_slice_ne _ _ (Ne.symm hc), h.slices c hc]
  · rw [Run.warp?_slice, h.warps]

theorem foldSlice_keeps {e : SEnv} {r : Run} (h : KeepsS e r) (ts) : KeepsS e (foldSlice e r ts) ∧ SameMemory r (foldSlice e r ts) := by
  unfold foldSlice; split
  · exact ⟨h, .refl _⟩
  · induction ts generalizing r with
    | nil => exact ⟨h, .refl _⟩
    | cons t ts ih =>
      simp only [List.foldl_cons]
      refine ⟨(ih ?_).1, SameMemory.trans ?_ (ih ?_).2⟩
      · exact (h.parties (SameParties.block r _ _ (by intro x; rfl))).slice _ (by intro w hw; exact hw)
      · exact (SameMemory.block r _ _ (by intro x; rfl)).trans (SameMemory.slice _ _ _)
      · exact (h.parties (SameParties.block r _ _ (by intro x; rfl))).slice _ (by intro w hw; exact hw)

end Sys2Proof.Machine
end

