-- ==== Sys2Proof/Laws/Traps.lean ====
section
/-! SUPPORT. What taking a trap does to the warp that takes it, by where its class goes. -/

namespace Sys2Proof.Machine

/-- Raising cause 2 touches no crew. -/
theorem raiseStop_crews (m : Mgmt) (r : Run) (c : Nat) (p : Option Nat) : (raiseStop m r c p).crews = r.crews := by
  have h1 : ∀ (r : Run) (fn v : Nat), (sendMsix r fn v).crews = r.crews := by
    intro r fn v
    unfold sendMsix
    dsimp only
    repeat' split
    all_goals rfl
  have h2 : ∀ (r : Run) (fn q : Nat), (raiseCause r fn q 2).crews = r.crews := by
    intro r fn q
    unfold raiseCause
    dsimp only
    repeat' split
    · rfl
    · rfl
    · rfl
    · unfold sendCause
      rw [h1]
      rfl
  unfold raiseStop
  split
  · exact h2 _ _ _
  · rfl

/-- A warp is there in a run where its crew is. -/
theorem Run.warp?_of {r : Run} {c w : Nat} {x : Crew} {y : Warp} (h : Assoc.get? r.crews c = some x) (hy : x.warps[w]? = some y) :
    r.warp? c w = some y := by
  unfold Run.warp?
  rw [h]
  exact hy

/-- A warp after it has changed. -/
theorem Run.warp?_warp {r : Run} {c w : Nat} {y : Warp} (f : Warp → Warp) (h : r.warp? c w = some y) :
    (r.warp c w f).warp? c w = some (f y) := by
  unfold Run.warp? at *
  cases hx : Assoc.get? r.crews c with
  | none => rw [hx] at h; cases h
  | some x =>
    rw [hx] at h
    rw [Run.get?_warp r f hx h]
    exact getElem?_setAt_self _ _ _ (List.getElem?_eq_some_iff.mp h).1

/-- A change of a crew that leaves its warps. -/
theorem Run.warp?_crew (r : Run) (c w : Nat) (f : Crew → Crew) (h : ∀ x, (f x).warps = x.warps) :
    (r.crew c f).warp? c w = r.warp? c w := by
  unfold Run.warp?
  rw [Run.get?_crew_self]
  cases Assoc.get? r.crews c <;> simp [h]

/-- A trap that is no memory error and no matrix operation's, whose class goes to the host, parks the batch and keeps the record
(R329). -/
theorem deliverTrap_host {e : Env} {r : Run} {restart : Batch} {origin : Word} {t : Trapping} {w : Warp} (hm : t.mop = none)
    (ht : t.code ≠ tcEcc) (hr : t.reg = false) (hd : dispOf e.g t.code e.w.hsave.isSome = .host) (hw : r.warp? e.cid e.wi = some w) :
    (deliverTrap e r restart origin t).warp? e.cid e.wi = some { w.replaceBatch e.lead [restart] with
      hostrec := some { code := t.code, pc := restart.pc, origin := origin, mask := t.mask, addr := BitVec.ofNat 64 t.addr,
                        info0 := BitVec.ofNat 32 t.info0, info1 := BitVec.ofNat 32 t.info1, nested := e.w.hsave.isSome,
                        skip := skipCount restart.replay, redo := redoMask restart.replay, afls := w.afls } } := by
  have h1 : ∀ r, rollbackDue r e.crew.block t = false := fun r => by simp [rollbackDue, ht]
  have h2 : ∀ r, noteEcc r e.crew.block e.tile t = r := fun r => by simp [noteEcc, ht]
  unfold deliverTrap
  simp only [hm, h1, h2, hd, hr, Bool.false_eq_true, if_false]
  unfold Run.warp?
  rw [raiseStop_crews]
  refine Run.warp?_warp (fun w => { w.replaceBatch e.lead [restart] with
    hostrec := some { code := t.code, pc := restart.pc, origin := origin, mask := t.mask, addr := BitVec.ofNat 64 t.addr,
                      info0 := BitVec.ofNat 32 t.info0, info1 := BitVec.ofNat 32 t.info1, nested := e.w.hsave.isSome,
                      skip := skipCount restart.replay, redo := redoMask restart.replay, afls := w.afls } }) ?_
  rw [Run.warp?_crew]
  · exact hw
  · exact fun _ => rfl

/-- The same of a trap at a word that its quadrant issues. -/
theorem takeTrap_host {e : Env} {r : Run} {restart : Batch} {origin : Word} {t : Trapping} {w : Warp} (hm : t.mop = none)
    (ht : t.code ≠ tcEcc) (hr : t.reg = false) (hd : dispOf e.g t.code e.w.hsave.isSome = .host) (hw : r.warp? e.cid e.wi = some w) :
    (takeTrap e r restart origin t).warp? e.cid e.wi = some { w.replaceBatch e.lead [restart] with
      hostrec := some { code := t.code, pc := restart.pc, origin := origin, mask := t.mask, addr := BitVec.ofNat 64 t.addr,
                        info0 := BitVec.ofNat 32 t.info0, info1 := BitVec.ofNat 32 t.info1, nested := e.w.hsave.isSome,
                        skip := skipCount restart.replay, redo := redoMask restart.replay, afls := w.afls } } :=
  deliverTrap_host hm ht hr hd hw

/-- A trap that is no memory error and no matrix operation's, whose class goes to the handler, enters it (R325). -/
theorem takeTrap_handler {e : Env} {r : Run} {restart : Batch} {origin : Word} {t : Trapping} (hm : t.mop = none)
    (ht : t.code ≠ tcEcc) (hr : t.reg = false) (hd : dispOf e.g t.code e.w.hsave.isSome = .handler) :
    takeTrap e r restart origin t = (stopRunning r e.crew.core e.w.quad).warp e.cid e.wi (fun w =>
      enterHandler w e.g.chand e.lead restart
        { code := t.code, pc := restart.pc, origin := origin, mask := t.mask, addr := BitVec.ofNat 64 t.addr,
          info0 := BitVec.ofNat 32 t.info0, info1 := BitVec.ofNat 32 t.info1, nested := e.w.hsave.isSome,
          skip := skipCount restart.replay, redo := redoMask restart.replay }) := by
  have h1 : ∀ r, rollbackDue r e.crew.block t = false := fun r => by simp [rollbackDue, ht]
  have h2 : ∀ r, noteEcc r e.crew.block e.tile t = r := fun r => by simp [noteEcc, ht]
  unfold takeTrap deliverTrap
  simp only [hm, h1, h2, hd, hr, Bool.false_eq_true, if_false]

/-! ## Registers written in a row -/

/-- Uniform registers written in a row are all that changes, with the tags of their quads and their errors. -/
theorem Warp.setUs_eq (w : Warp) (n : Nat) (xs : List Word) :
    w.setUs n xs = { w with uregs := (w.setUs n xs).uregs, utags := (w.setUs n xs).utags, bad := (w.setUs n xs).bad } := by
  induction xs generalizing w n with
  | nil => rfl
  | cons x xs ih =>
    unfold Warp.setUs
    rw [ih (w.setU n x) (n + 1)]
    rfl

theorem Warp.u_setUs_out (w : Warp) {n k : Nat} (xs : List Word) (h : k < n ∨ n + xs.length ≤ k) : (w.setUs n xs).u k = w.u k := by
  induction xs generalizing w n with
  | nil => rfl
  | cons x xs ih =>
    unfold Warp.setUs
    simp only [List.length_cons] at h
    rw [ih (w.setU n x) (by omega), Warp.u_setU_ne _ _ (by omega)]

theorem Warp.u_setUs_in (w : Warp) (n : Nat) (xs : List Word) {i : Nat} (h : i < xs.length) : (w.setUs n xs).u (n + i) = xs[i] := by
  induction xs generalizing w n i with
  | nil => cases h
  | cons x xs ih =>
    unfold Warp.setUs
    cases i with
    | zero => rw [Warp.u_setUs_out _ _ (by omega)]; exact Warp.u_setU_self _ _ _
    | succ i =>
      have := ih (w.setU n x) (n + 1) (i := i) (Nat.lt_of_succ_lt_succ h)
      rw [show n + (i + 1) = n + 1 + i by omega, this]
      rfl

/-- LNKs of some lanes written. -/
theorem Warp.setLnks_eq (w : Warp) (f : Nat → Word) (ls : List Nat) :
    ls.foldl (fun w l => w.setLnk l (f l)) w =
      { w with lnks := (ls.foldl (fun w l => w.setLnk l (f l)) w).lnks, bad := (ls.foldl (fun w l => w.setLnk l (f l)) w).bad } := by
  induction ls generalizing w with
  | nil => rfl
  | cons l ls ih =>
    rw [List.foldl_cons, ih (w.setLnk l (f l))]
    rfl

theorem Warp.lnk_setLnks (w : Warp) (f : Nat → Word) (ls : List Nat) (k : Nat) :
    (ls.foldl (fun w l => w.setLnk l (f l)) w).lnk k = if k ∈ ls then f k else w.lnk k := by
  induction ls generalizing w with
  | nil => rfl
  | cons l ls ih =>
    rw [List.foldl_cons, ih]
    by_cases h : k ∈ ls
    · simp [h]
    · by_cases hk : l = k
      · subst hk; simp
      · have : k ≠ l := Ne.symm hk
        simp [h, hk, this]

/-! ## Masks and lanes -/

theorem maskOf_lanesOf (m : Mask) : maskOf (lanesOf m) = m := by
  have key : ∀ (ls : List Nat) (a : Mask), (∀ l ∈ ls, l < 32) → ∀ i, i < 32 →
      (ls.foldl (fun m l => m ||| (1#32 <<< l)) a).getLsbD i = (a.getLsbD i || decide (i ∈ ls)) := by
    intro ls
    induction ls with
    | nil => intro a _ i _; simp
    | cons l ls ih =>
      intro a h i hi
      rw [List.foldl_cons, ih _ (fun k hk => h k (List.mem_cons_of_mem _ hk)) i hi]
      have hl := h l List.mem_cons_self
      have : (1#32 <<< l).getLsbD i = decide (i = l) := by
        rw [BitVec.getLsbD_shiftLeft, BitVec.getLsbD_one]
        by_cases h1 : i < l
        · have : i ≠ l := by omega
          simp [h1, this]
        · by_cases h2 : i = l
          · subst h2; simp [hi]
          · have : i - l ≠ 0 := by omega
            simp [h2, this]
      rw [BitVec.getLsbD_or, this]
      by_cases h2 : i = l <;> simp [h2]
  apply BitVec.eq_of_getLsbD_eq
  intro i hi
  unfold maskOf
  rw [key _ _ (fun l hl => by unfold lanesOf at hl; simp at hl; exact hl.1) i hi]
  unfold lanesOf
  simp [hi]

theorem mem_lanesOf {m : Mask} {l : Nat} : l ∈ lanesOf m ↔ l < 32 ∧ m.getLsbD l = true := by
  unfold lanesOf
  simp

end Sys2Proof.Machine
end

