-- ==== Sys2Proof/Laws/Words.lean ====
section
/-! SUPPORT. Where the arms lead: a decoded compute word is one of the compute definitions and a decoded slice word one of the slice
definitions, and at an issuer exec of it is the shared issue; where a merged batch stands (R58, R135, R227). -/

namespace Sys2Proof.Machine

/-- A batch put among others is part of one that stands where it does (R135). -/
theorem mergeInto_there (ready : Batch → Bool) (b : Batch) (l : List Batch) :
    ∃ x ∈ mergeInto ready b l, x.lanes &&& b.lanes = b.lanes ∧ x.pc = b.pc := by
  induction l with
  | nil => exact ⟨b, List.mem_singleton.mpr rfl, BitVec.and_self, rfl⟩
  | cons x xs ih =>
    unfold mergeInto
    split
    · rename_i hm
      refine ⟨_, List.mem_cons_self, ?_, ?_⟩
      · show (x.lanes ||| b.lanes) &&& b.lanes = b.lanes
        ext i
        simp
        cases x.lanes[i] <;> simp
      · simp only [Batch.mergesWith, Bool.and_eq_true, beq_iff_eq] at hm
        exact hm.2.1.1.1.1.2
    · obtain ⟨y, hy, h⟩ := ih
      exact ⟨y, List.mem_cons_of_mem _ hy, h⟩

theorem eraseDups_const (x : Word) (n : Nat) : (List.replicate (n+1) x).eraseDups = [x] := by
  rw [List.replicate_succ, List.eraseDups_cons]
  have : (List.replicate n x).filter (fun b => !b == x) = [] := by
    rw [List.filter_eq_nil_iff]; intro a ha; rw [(List.mem_replicate.mp ha).2]; simp
  rw [this]; rfl

theorem happen_next {s : State} {h : Happening} (ht : s.turn = .event h) (f) : ∃ t, happen s f = .next t := ⟨_, happen_event ht f⟩

theorem happenAll_next {s : State} {h : Happening} (ht : s.turn = .event h) (f) : ∃ t, happenAll s f = .next t := ⟨_, happenAll_event ht f⟩

theorem ifZero_ok {z : Bool} {i j : Instr} (h : ifZero z i = .ok j) : j = i := by unfold ifZero at h; split at h <;> cases h; rfl

theorem ifHint_ok {z : Bool} {i j : Instr} (h : ifHint z i = .ok j) : j = i := by unfold ifHint at h; split at h <;> cases h; rfl

theorem ok_decodeMinor25 {w : Nat} {i : Instr} (h : decodeMinor25 w = .ok i) : (wordDef i).isSome = true := by
  unfold decodeMinor25 at h; split at h <;> first | (cases h; done) | (cases h; rfl) | (cases ifZero_ok h; rfl) | (cases ifHint_ok h; rfl) | (split at h <;> first | (cases h; done) | (cases h; rfl) | (cases ifZero_ok h; rfl) | (split at h <;> first | (cases h; done) | (cases h; rfl) | (cases ifZero_ok h; rfl)))

theorem ok_decodeMinor26 {w : Nat} {i : Instr} (h : decodeMinor26 w = .ok i) : (wordDef i).isSome = true := by
  unfold decodeMinor26 at h; split at h <;> first | (cases h; done) | (cases h; rfl) | (cases ifZero_ok h; rfl) | (cases ifHint_ok h; rfl) | (split at h <;> first | (cases h; done) | (cases h; rfl) | (cases ifZero_ok h; rfl) | (split at h <;> first | (cases h; done) | (cases h; rfl) | (cases ifZero_ok h; rfl)))

theorem ok_decodeMinor2E {w : Nat} {i : Instr} (h : decodeMinor2E w = .ok i) : (wordDef i).isSome = true := by
  unfold decodeMinor2E at h; split at h <;> first | (cases h; done) | (cases h; rfl) | (cases ifZero_ok h; rfl) | (cases ifHint_ok h; rfl) | (split at h <;> first | (cases h; done) | (cases h; rfl) | (cases ifZero_ok h; rfl) | (split at h <;> first | (cases h; done) | (cases h; rfl) | (cases ifZero_ok h; rfl)))

theorem ok_decodeMinor43 {w : Nat} {i : Instr} (h : decodeMinor43 w = .ok i) : (wordDef i).isSome = true := by
  unfold decodeMinor43 at h; split at h <;> first | (cases h; done) | (cases h; rfl) | (cases ifZero_ok h; rfl) | (cases ifHint_ok h; rfl) | (split at h <;> first | (cases h; done) | (cases h; rfl) | (cases ifZero_ok h; rfl) | (split at h <;> first | (cases h; done) | (cases h; rfl) | (cases ifZero_ok h; rfl)))

theorem ok_decodeMinor44 {w : Nat} {i : Instr} (h : decodeMinor44 w = .ok i) : (wordDef i).isSome = true := by
  unfold decodeMinor44 at h; split at h <;> first | (cases h; done) | (cases h; rfl) | (cases ifZero_ok h; rfl) | (cases ifHint_ok h; rfl) | (split at h <;> first | (cases h; done) | (cases h; rfl) | (cases ifZero_ok h; rfl) | (split at h <;> first | (cases h; done) | (cases h; rfl) | (cases ifZero_ok h; rfl)))

theorem ok_decodeMinor45 {w : Nat} {i : Instr} (h : decodeMinor45 w = .ok i) : (wordDef i).isSome = true := by
  unfold decodeMinor45 at h; split at h <;> first | (cases h; done) | (cases h; rfl) | (cases ifZero_ok h; rfl) | (cases ifHint_ok h; rfl) | (split at h <;> first | (cases h; done) | (cases h; rfl) | (cases ifZero_ok h; rfl) | (split at h <;> first | (cases h; done) | (cases h; rfl) | (cases ifZero_ok h; rfl)))

theorem ok_decodeMinor46 {w : Nat} {i : Instr} (h : decodeMinor46 w = .ok i) : (wordDef i).isSome = true := by
  unfold decodeMinor46 at h; split at h <;> first | (cases h; done) | (cases h; rfl) | (cases ifZero_ok h; rfl) | (cases ifHint_ok h; rfl) | (split at h <;> first | (cases h; done) | (cases h; rfl) | (cases ifZero_ok h; rfl) | (split at h <;> first | (cases h; done) | (cases h; rfl) | (cases ifZero_ok h; rfl)))

theorem ok_decodeMinor47 {w : Nat} {i : Instr} (h : decodeMinor47 w = .ok i) : (wordDef i).isSome = true := by
  unfold decodeMinor47 at h; split at h <;> first | (cases h; done) | (cases h; rfl) | (cases ifZero_ok h; rfl) | (cases ifHint_ok h; rfl) | (split at h <;> first | (cases h; done) | (cases h; rfl) | (cases ifZero_ok h; rfl) | (split at h <;> first | (cases h; done) | (cases h; rfl) | (cases ifZero_ok h; rfl)))

theorem ok_decodeMinor48 {w : Nat} {i : Instr} (h : decodeMinor48 w = .ok i) : (wordDef i).isSome = true := by
  unfold decodeMinor48 at h; split at h <;> first | (cases h; done) | (cases h; rfl) | (cases ifZero_ok h; rfl) | (cases ifHint_ok h; rfl) | (split at h <;> first | (cases h; done) | (cases h; rfl) | (cases ifZero_ok h; rfl) | (split at h <;> first | (cases h; done) | (cases h; rfl) | (cases ifZero_ok h; rfl)))

theorem ok_decodeMinor48Address {w : Nat} {i : Instr} (h : decodeMinor48Address w = .ok i) : (sliceDef i).isSome = true := by
  unfold decodeMinor48Address at h; split at h <;> first | (cases h; done) | (cases h; rfl) | (cases ifZero_ok h; rfl) | (cases ifHint_ok h; rfl) | (split at h <;> first | (cases h; done) | (cases h; rfl) | (cases ifZero_ok h; rfl) | (split at h <;> first | (cases h; done) | (cases h; rfl) | (cases ifZero_ok h; rfl)))

theorem ok_decodeMinor49 {w : Nat} {i : Instr} (h : decodeMinor49 w = .ok i) : (wordDef i).isSome = true := by
  unfold decodeMinor49 at h; split at h <;> first | (cases h; done) | (cases h; rfl) | (cases ifZero_ok h; rfl) | (cases ifHint_ok h; rfl) | (split at h <;> first | (cases h; done) | (cases h; rfl) | (cases ifZero_ok h; rfl) | (split at h <;> first | (cases h; done) | (cases h; rfl) | (cases ifZero_ok h; rfl)))

theorem ok_decodeMinor49Address {w : Nat} {i : Instr} (h : decodeMinor49Address w = .ok i) : (sliceDef i).isSome = true := by
  unfold decodeMinor49Address at h; split at h <;> first | (cases h; done) | (cases h; rfl) | (cases ifZero_ok h; rfl) | (cases ifHint_ok h; rfl) | (split at h <;> first | (cases h; done) | (cases h; rfl) | (cases ifZero_ok h; rfl) | (split at h <;> first | (cases h; done) | (cases h; rfl) | (cases ifZero_ok h; rfl)))

theorem ok_decodeMinor4A {w : Nat} {i : Instr} (h : decodeMinor4A w = .ok i) : (wordDef i).isSome = true := by
  unfold decodeMinor4A at h; split at h <;> first | (cases h; done) | (cases h; rfl) | (cases ifZero_ok h; rfl) | (cases ifHint_ok h; rfl) | (split at h <;> first | (cases h; done) | (cases h; rfl) | (cases ifZero_ok h; rfl) | (split at h <;> first | (cases h; done) | (cases h; rfl) | (cases ifZero_ok h; rfl)))

theorem ok_decodeMinor4AAddress {w : Nat} {i : Instr} (h : decodeMinor4AAddress w = .ok i) : (sliceDef i).isSome = true := by
  unfold decodeMinor4AAddress at h; split at h <;> first | (cases h; done) | (cases h; rfl) | (cases ifZero_ok h; rfl) | (cases ifHint_ok h; rfl) | (split at h <;> first | (cases h; done) | (cases h; rfl) | (cases ifZero_ok h; rfl) | (split at h <;> first | (cases h; done) | (cases h; rfl) | (cases ifZero_ok h; rfl)))

theorem ok_decodeMinor51 {w : Nat} {i : Instr} (h : decodeMinor51 w = .ok i) : (wordDef i).isSome = true := by
  unfold decodeMinor51 at h; split at h <;> first | (cases h; done) | (cases h; rfl) | (cases ifZero_ok h; rfl) | (cases ifHint_ok h; rfl) | (split at h <;> first | (cases h; done) | (cases h; rfl) | (cases ifZero_ok h; rfl) | (split at h <;> first | (cases h; done) | (cases h; rfl) | (cases ifZero_ok h; rfl)))

theorem ok_decodeMinor52 {w : Nat} {i : Instr} (h : decodeMinor52 w = .ok i) : (wordDef i).isSome = true := by
  unfold decodeMinor52 at h; split at h <;> first | (cases h; done) | (cases h; rfl) | (cases ifZero_ok h; rfl) | (cases ifHint_ok h; rfl) | (split at h <;> first | (cases h; done) | (cases h; rfl) | (cases ifZero_ok h; rfl) | (split at h <;> first | (cases h; done) | (cases h; rfl) | (cases ifZero_ok h; rfl)))

theorem ok_decodeMinor53 {w : Nat} {i : Instr} (h : decodeMinor53 w = .ok i) : (wordDef i).isSome = true := by
  unfold decodeMinor53 at h; split at h <;> first | (cases h; done) | (cases h; rfl) | (cases ifZero_ok h; rfl) | (cases ifHint_ok h; rfl) | (split at h <;> first | (cases h; done) | (cases h; rfl) | (cases ifZero_ok h; rfl) | (split at h <;> first | (cases h; done) | (cases h; rfl) | (cases ifZero_ok h; rfl)))

theorem ok_decodeMinor54 {w : Nat} {i : Instr} (h : decodeMinor54 w = .ok i) : (wordDef i).isSome = true := by
  unfold decodeMinor54 at h; split at h <;> first | (cases h; done) | (cases h; rfl) | (cases ifZero_ok h; rfl) | (cases ifHint_ok h; rfl) | (split at h <;> first | (cases h; done) | (cases h; rfl) | (cases ifZero_ok h; rfl) | (split at h <;> first | (cases h; done) | (cases h; rfl) | (cases ifZero_ok h; rfl)))

theorem ok_decodeMinor55 {w : Nat} {i : Instr} (h : decodeMinor55 w = .ok i) : (wordDef i).isSome = true := by
  unfold decodeMinor55 at h; split at h <;> first | (cases h; done) | (cases h; rfl) | (cases ifZero_ok h; rfl) | (cases ifHint_ok h; rfl) | (split at h <;> first | (cases h; done) | (cases h; rfl) | (cases ifZero_ok h; rfl) | (split at h <;> first | (cases h; done) | (cases h; rfl) | (cases ifZero_ok h; rfl)))

theorem ok_decodeMinor57 {w : Nat} {i : Instr} (h : decodeMinor57 w = .ok i) : (wordDef i).isSome = true := by
  unfold decodeMinor57 at h; split at h <;> first | (cases h; done) | (cases h; rfl) | (cases ifZero_ok h; rfl) | (cases ifHint_ok h; rfl) | (split at h <;> first | (cases h; done) | (cases h; rfl) | (cases ifZero_ok h; rfl) | (split at h <;> first | (cases h; done) | (cases h; rfl) | (cases ifZero_ok h; rfl)))

theorem ok_decodeMinor60 {w : Nat} {i : Instr} (h : decodeMinor60 w = .ok i) : (sliceDef i).isSome = true := by
  unfold decodeMinor60 at h; split at h <;> first | (cases h; done) | (cases h; rfl) | (cases ifZero_ok h; rfl) | (cases ifHint_ok h; rfl) | (split at h <;> first | (cases h; done) | (cases h; rfl) | (cases ifZero_ok h; rfl) | (split at h <;> first | (cases h; done) | (cases h; rfl) | (cases ifZero_ok h; rfl)))

theorem ok_decodeMinor61 {w : Nat} {i : Instr} (h : decodeMinor61 w = .ok i) : (sliceDef i).isSome = true := by
  unfold decodeMinor61 at h; split at h <;> first | (cases h; done) | (cases h; rfl) | (cases ifZero_ok h; rfl) | (cases ifHint_ok h; rfl) | (split at h <;> first | (cases h; done) | (cases h; rfl) | (cases ifZero_ok h; rfl) | (split at h <;> first | (cases h; done) | (cases h; rfl) | (cases ifZero_ok h; rfl)))

theorem ok_decodeMinor68 {w : Nat} {i : Instr} (h : decodeMinor68 w = .ok i) : (sliceDef i).isSome = true := by
  unfold decodeMinor68 at h; split at h <;> first | (cases h; done) | (cases h; rfl) | (cases ifZero_ok h; rfl) | (cases ifHint_ok h; rfl) | (split at h <;> first | (cases h; done) | (cases h; rfl) | (cases ifZero_ok h; rfl) | (split at h <;> first | (cases h; done) | (cases h; rfl) | (cases ifZero_ok h; rfl)))

theorem ok_decodeMinor69 {w : Nat} {i : Instr} (h : decodeMinor69 w = .ok i) : (sliceDef i).isSome = true := by
  unfold decodeMinor69 at h; split at h <;> first | (cases h; done) | (cases h; rfl) | (cases ifZero_ok h; rfl) | (cases ifHint_ok h; rfl) | (split at h <;> first | (cases h; done) | (cases h; rfl) | (cases ifZero_ok h; rfl) | (split at h <;> first | (cases h; done) | (cases h; rfl) | (cases ifZero_ok h; rfl)))

theorem ok_decodeMinor6A {w : Nat} {i : Instr} (h : decodeMinor6A w = .ok i) : (sliceDef i).isSome = true := by
  unfold decodeMinor6A at h; split at h <;> first | (cases h; done) | (cases h; rfl) | (cases ifZero_ok h; rfl) | (cases ifHint_ok h; rfl) | (split at h <;> first | (cases h; done) | (cases h; rfl) | (cases ifZero_ok h; rfl) | (split at h <;> first | (cases h; done) | (cases h; rfl) | (cases ifZero_ok h; rfl)))

theorem ok_decodeMinor6B {w : Nat} {i : Instr} (h : decodeMinor6B w = .ok i) : (sliceDef i).isSome = true := by
  unfold decodeMinor6B at h; split at h <;> first | (cases h; done) | (cases h; rfl) | (cases ifZero_ok h; rfl) | (cases ifHint_ok h; rfl) | (split at h <;> first | (cases h; done) | (cases h; rfl) | (cases ifZero_ok h; rfl) | (split at h <;> first | (cases h; done) | (cases h; rfl) | (cases ifZero_ok h; rfl)))

theorem ok_decodeMinor6C {w : Nat} {i : Instr} (h : decodeMinor6C w = .ok i) : (sliceDef i).isSome = true := by
  unfold decodeMinor6C at h; split at h <;> first | (cases h; done) | (cases h; rfl) | (cases ifZero_ok h; rfl) | (cases ifHint_ok h; rfl) | (split at h <;> first | (cases h; done) | (cases h; rfl) | (cases ifZero_ok h; rfl) | (split at h <;> first | (cases h; done) | (cases h; rfl) | (cases ifZero_ok h; rfl)))

theorem ok_decodeMinor6D {w : Nat} {i : Instr} (h : decodeMinor6D w = .ok i) : (sliceDef i).isSome = true := by
  unfold decodeMinor6D at h; split at h <;> first | (cases h; done) | (cases h; rfl) | (cases ifZero_ok h; rfl) | (cases ifHint_ok h; rfl) | (split at h <;> first | (cases h; done) | (cases h; rfl) | (cases ifZero_ok h; rfl) | (split at h <;> first | (cases h; done) | (cases h; rfl) | (cases ifZero_ok h; rfl)))

theorem ok_decodeMinor6F {w : Nat} {i : Instr} (h : decodeMinor6F w = .ok i) : (sliceDef i).isSome = true := by
  unfold decodeMinor6F at h; split at h <;> first | (cases h; done) | (cases h; rfl) | (cases ifZero_ok h; rfl) | (cases ifHint_ok h; rfl) | (split at h <;> first | (cases h; done) | (cases h; rfl) | (cases ifZero_ok h; rfl) | (split at h <;> first | (cases h; done) | (cases h; rfl) | (cases ifZero_ok h; rfl)))

theorem ok_decodeHintAddress {w : Nat} {i : Instr} (h : decodeHintAddress w = .ok i) : (sliceDef i).isSome = true := by
  unfold decodeHintAddress at h
  split at h
  · rename_i he; unfold decodeMinor52 at h; rw [he] at h; cases h; rfl
  · rename_i he; unfold decodeMinor52 at h; rw [he] at h; cases ifHint_ok h; rfl
  all_goals cases h

theorem decode_compute_word {w : Nat} {i : Instr} (h : decode .compute w = .ok i) : (wordDef i).isSome = true := by
  unfold decode at h; split at h
  · cases h
  · split at h
    · cases h
    · dsimp only at h
      unfold decodeCompute at h; split at h <;> first | (cases h; done) | (cases h; rfl) | (cases ifZero_ok h; rfl) | (split at h <;> cases h <;> rfl) | solve_by_elim [ok_decodeMinor25, ok_decodeMinor26, ok_decodeMinor2E, ok_decodeMinor43, ok_decodeMinor44, ok_decodeMinor45, ok_decodeMinor46, ok_decodeMinor47, ok_decodeMinor48, ok_decodeMinor49, ok_decodeMinor4A, ok_decodeMinor51, ok_decodeMinor52, ok_decodeMinor53, ok_decodeMinor54, ok_decodeMinor55, ok_decodeMinor57]

theorem decode_address_word {w : Nat} {i : Instr} (h : decode .address w = .ok i) : (sliceDef i).isSome = true := by
  unfold decode at h; split at h
  · cases h
  · split at h
    · cases h
    · dsimp only at h
      unfold decodeAddress at h; split at h <;> first | (cases h; done) | (cases h; rfl) | (cases ifZero_ok h; rfl) | solve_by_elim [ok_decodeHintAddress, ok_decodeMinor48Address, ok_decodeMinor49Address, ok_decodeMinor4AAddress, ok_decodeMinor60, ok_decodeMinor61, ok_decodeMinor68, ok_decodeMinor69, ok_decodeMinor6A, ok_decodeMinor6B, ok_decodeMinor6C, ok_decodeMinor6D, ok_decodeMinor6F]

set_option maxHeartbeats 4000000 in
theorem exec_word {i : Instr} {d : WordDef} {s : State} {e : Env} (hd : wordDef i = some d) (hp : Issuer s e) : exec i s = issue d s := by
  cases i <;> cases hd <;> first | rfl | exact issueEither_batch hp

set_option maxHeartbeats 4000000 in
theorem exec_sliceWord {i : Instr} {d : SliceDef} {s : State} {e : SEnv} (hd : sliceDef i = some d) (hp : SliceIssuer s e) : exec i s = issueSlice d s := by
  cases i <;> cases hd <;> first | rfl | exact issueEither_slice hp

theorem fetchWord_decodes {sl img pc i} (h : fetchWord sl img pc = .instr i) : ∃ w, decode sl w = .ok i := by
  unfold fetchWord at h; split at h
  · cases h
  · split at h
    · rename_i hd; cases h; exact ⟨_, hd⟩
    · cases h
    · cases h

end Sys2Proof.Machine
end

