-- ==== Sys2Proof/Tests/Slice0.lean ====
section
/-! SUPPORT. Tests: ill-formed terms that WellFormed refuses, words written out from the encoding tables of the spec, single steps whose
results the spec gives, and states that meet the hypotheses of the obligations. -/

-- One declaration after another: declarations that wait for one another would each hold a thread.
set_option Elab.async false

namespace Sys2Proof.Tests

open Sys2Proof Sys2Proof.Machine

/-! ## A small state -/

/-- The machine with one resident crew of one warp, whose slice sl has the turn at a word, each memory of the crew 4,096 bytes long; the
kernel, the warp, the address slice and the run can be changed. -/
def world (sl : Slice) (w : Nat) (fk : Kernel → Kernel := id) (fw : Warp → Warp := id) (fa : ASlice → ASlice := id)
    (fr : Run → Run := id) : State :=
  let s := State.reset.withFetchWord 32 nopWord
  let x := BitVec.ofNat 32 w
  let nop := BitVec.ofNat 32 nopWord
  let gnop := BitVec.ofNat 32 gnopWord
  let k : Kernel := { pad := 4096, lane := 4096, cluster := 4096,
                      cimg := if sl = .compute then [x, nop] else [nop], aimg := if sl = .address then [x, gnop] else [gnop] }
  let r := s.run.grid 0 (fun g => { g with kernels := [(0, fk k)] })
  let r := (r.warp 0 0 fw).slice 0 fa
  { s with run := fr r, turn := if sl = .compute then .batch 0 0 0 else .slice 0 }

/-- The same with the word of an instruction. -/
def at_ (i : Instr) (fk : Kernel → Kernel := id) (fw : Warp → Warp := id) (fa : ASlice → ASlice := id) (fr : Run → Run := id) : State :=
  world i.slice ((encode i).getD 0) fk fw fa fr

/-- The batch that has the turn, as it sees the machine. -/
def batchOf (s : State) : Option Env :=
  match s.turn with
  | .batch c w l => env? s.mgmt s.run c w l
  | _ => none

/-- The address slice that has the turn. -/
def sliceOf (s : State) : Option SEnv :=
  match s.turn with
  | .slice c => senv? s.mgmt s.run c
  | _ => none

/-- Whether nothing stops a word before its own checks. -/
def clearB (d : WordDef) (e : Env) : Bool :=
  !e.b.wait.blocks && !mustAwait e.w.windows e.w.ops e.b.lanes && !behindFault e.w.windows e.w.ops e.b.lanes && d.legal e && !hazard e.w.windows e.b.lanes (d.uses e) &&
  ((d.uses e).vr ++ (d.uses e).vw).all (fun n => decide (n < e.w.count)) &&
  (match d.pops e with
    | none => true
    | some q => match (e.crew.queue q).head with
      | .entry _ => true
      | _ => false) &&
  (e.badRead (d.uses e)).isNone && !d.waits e

/-- Whether nothing stops an address-slice word before its own checks. -/
def sliceClearB (d : SliceDef) (e : SEnv) : Bool :=
  !e.s.wait.blocks && !mustAwait e.s.windows e.s.ops 1#32 && !behindFault e.s.windows e.s.ops 1#32 &&
  (d.hint || (!e.hints.bad && (d.imm || !e.hints.imm?))) && d.legal e && !hazard e.s.windows 1#32 (d.uses e) &&
  !e.badRead (d.uses e) && !d.waits e

/-- Whether an instruction is the one that the batch with the turn fetches, nothing stops it, and a condition holds. -/
def ready (i : Instr) (s : State) (p : Env → Bool := fun _ => true) : Bool :=
  match batchOf s, wordDef i with
  | some e, some d => decide (batchInstr s e.cid e.wi e.lead = some i) && clearB d e && !outstanding e.w.windows e.w.ops e.b.lanes && p e
  | _, _ => false

/-- The same for the address slice. -/
def sliceReady (i : Instr) (s : State) (p : SEnv → Bool := fun _ => true) : Bool :=
  match sliceOf s, sliceDef i with
  | some e, some d => decide (sliceInstr s e.cid = some i) && sliceClearB d e && !outstanding e.s.windows e.s.ops 1#32 && p e
  | _, _ => false

/-- What a ready word gives: the premises of its completion statement. -/
theorem ready_spec {i : Instr} {s : State} {p : Env → Bool} (h : ready i s p = true) :
    ∃ e d, wordDef i = some d ∧ Issuer s e ∧ Clear d e ∧ e.settled ∧ p e = true := by
  unfold ready at h
  split at h
  · rename_i e d he hd
    simp only [Bool.and_eq_true, Bool.not_eq_true'] at h
    obtain ⟨⟨⟨-, hc⟩, hs⟩, hp⟩ := h
    refine ⟨e, d, hd, ?_, ?_, hs, hp⟩
    · unfold batchOf at he
      split at he
      · rename_i c w l ht
        have hk : e.cid = c ∧ e.wi = w ∧ e.lead = l := by
          unfold env? at he
          simp only [Option.bind_eq_bind, Option.bind_eq_some_iff, Option.pure_def, Option.some.injEq] at he
          obtain ⟨_, _, _, _, _, _, _, _, _, _, rfl⟩ := he
          exact ⟨rfl, rfl, rfl⟩
        obtain ⟨rfl, rfl, rfl⟩ := hk
        exact ⟨ht, he⟩
      · cases he
    · unfold clearB at hc
      simp only [Bool.and_eq_true, Bool.not_eq_true', List.all_eq_true, decide_eq_true_eq, Option.isNone_iff_eq_none] at hc
      obtain ⟨⟨⟨⟨⟨⟨⟨⟨h1, h2⟩, h0⟩, h3⟩, h4⟩, h5⟩, h6⟩, h8⟩, h7⟩ := hc
      refine ⟨h1, h2, h0, h3, h4, h5, h8, fun q hq => ?_, h7⟩
      rw [hq] at h6
      dsimp only at h6
      split at h6
      · exact ⟨_, ‹_›⟩
      · cases h6
  · cases h

theorem sliceReady_spec {i : Instr} {s : State} {p : SEnv → Bool} (h : sliceReady i s p = true) :
    ∃ e d, sliceDef i = some d ∧ SliceIssuer s e ∧ SliceClear d e ∧ e.settled ∧ p e = true := by
  unfold sliceReady at h
  split at h
  · rename_i e d he hd
    simp only [Bool.and_eq_true, Bool.not_eq_true'] at h
    obtain ⟨⟨⟨-, hc⟩, hs⟩, hp⟩ := h
    refine ⟨e, d, hd, ?_, ?_, hs, hp⟩
    · unfold sliceOf at he
      split at he
      · rename_i c ht
        have hk : e.cid = c := by
          unfold senv? at he
          simp only [Option.bind_eq_bind, Option.bind_eq_some_iff, Option.pure_def, Option.some.injEq] at he
          obtain ⟨_, _, _, _, _, _, rfl⟩ := he
          rfl
        subst hk
        exact ⟨ht, he⟩
      · cases he
    · unfold sliceClearB at hc
      simp only [Bool.and_eq_true, Bool.not_eq_true', Bool.or_eq_true] at hc
      obtain ⟨⟨⟨⟨⟨⟨⟨h1, h2⟩, h0⟩, h3⟩, h4⟩, h5⟩, h6⟩, h7⟩ := hc
      exact ⟨h1, h2, h0, h3, h4, h5, h6, h7⟩
  · cases h

/-! ## Ill-formed terms: each field one past what its bits hold (R65, R73) -/

theorem test_ill_formed_1 : [
    { (default : OpV) with bd := 2 }.wf, { (default : OpV) with fm := 4 }.wf, { (default : OpV) with d := 256 }.wf,
    { (default : OpV) with a := 128 }.wf, { (default : OpV) with b := 128 }.wf, { (default : OpVU) with bd := 2 }.wf,
    { (default : OpVU) with fm := 4 }.wf, { (default : OpVU) with d := 256 }.wf, { (default : OpVU) with a := 128 }.wf,
    { (default : OpSetLnk) with bd := 2 }.wf, { (default : OpSetLnk) with fm := 4 }.wf,
    { (default : OpSetLnk) with a := 128 }.wf, { (default : OpCV) with bd := 2 }.wf, { (default : OpCV) with fm := 4 }.wf,
    { (default : OpCV) with d := 256 }.wf, { (default : OpCV) with a := 128 }.wf, { (default : OpCV) with slot := 8 }.wf,
    { (default : OpP) with bd := 2 }.wf, { (default : OpP) with fm := 4 }.wf, { (default : OpP) with pd := 32 }.wf,
    { (default : OpP) with cc := 8 }.wf, { (default : OpP) with a := 128 }.wf, { (default : OpP) with b := 128 }.wf,
    { (default : OpFclass) with bd := 2 }.wf, { (default : OpFclass) with pd := 32 }.wf,
    { (default : OpFclass) with a := 128 }.wf, { (default : OpFclass) with mask := 128 }.wf,
    { (default : OpPL) with bd := 2 }.wf, { (default : OpPL) with lop := 8 }.wf, { (default : OpPL) with pd := 128 }.wf,
    { (default : OpPL) with pa := 128 }.wf, { (default : OpPL) with pb := 128 }.wf, { (default : OpCM) with bd := 2 }.wf,
    { (default : OpCM) with ps := 128 }.wf, { (default : OpCM) with n := 2 }.wf, { (default : OpCM) with d := 256 }.wf,
    { (default : OpCM) with a := 256 }.wf, { (default : OpSH) with bd := 2 }.wf, { (default : OpSH) with md := 4 }.wf,
    { (default : OpSH) with d := 256 }.wf, { (default : OpSH) with a := 128 }.wf, { (default : OpSH) with b := 128 }.wf,
    { (default : OpVote) with bd := 2 }.wf, { (default : OpVote) with d := 32 }.wf, { (default : OpVote) with a := 128 }.wf,
    { (default : OpVote) with seg := 8 }.wf, { (default : OpBallot) with bd := 2 }.wf, { (default : OpBallot) with d := 256 }.wf,
    { (default : OpBallot) with a := 128 }.wf, { (default : OpBallot) with seg := 8 }.wf,
    { (default : OpRedux) with bd := 2 }.wf, { (default : OpRedux) with op := 8 }.wf, { (default : OpRedux) with d := 256 }.wf,
    { (default : OpRedux) with a := 128 }.wf, { (default : OpRedux) with seg := 8 }.wf, { (default : OpSR) with bd := 2 }.wf,
    { (default : OpSR) with d := 256 }.wf, { (default : OpSR) with code := 128 }.wf, { (default : OpVgeti) with bd := 2 }.wf,
    { (default : OpVgeti) with fm := 4 }.wf].any id = false := by decide +kernel

theorem test_ill_formed_2 : [
    { (default : OpVgeti) with d := 256 }.wf, { (default : OpVgeti) with b := 128 }.wf, { (default : OpVputi) with bd := 2 }.wf,
    { (default : OpVputi) with fm := 4 }.wf, { (default : OpVputi) with a := 128 }.wf, { (default : OpVputi) with b := 128 }.wf,
    { (default : OpM) with bd := 2 }.wf, { (default : OpM) with la := 16 }.wf, { (default : OpM) with sp := 8 }.wf,
    { (default : OpM) with w := 4 }.wf, { (default : OpM) with d := 256 }.wf, { (default : OpM) with a := 128 }.wf,
    { (default : OpAT) with bd := 2 }.wf, { (default : OpAT) with la := 16 }.wf, { (default : OpAT) with sp := 4 }.wf,
    { (default : OpAT) with aop := 16 }.wf, { (default : OpAT) with d := 128 }.wf, { (default : OpAT) with a := 128 }.wf,
    { (default : OpQpop) with bd := 2 }.wf, { (default : OpQpop) with la := 16 }.wf, { (default : OpQpop) with d := 256 }.wf,
    { (default : OpQpop) with q := 16 }.wf, { (default : OpQU) with bd := 2 }.wf, { (default : OpQU) with la := 16 }.wf,
    { (default : OpQU) with sd := 128 }.wf, { (default : OpQU) with q := 16 }.wf, { (default : OpQpush) with bd := 2 }.wf,
    { (default : OpQpush) with la := 16 }.wf, { (default : OpQpush) with reg := 256 }.wf,
    { (default : OpQpush) with q := 16 }.wf, { (default : OpQpush) with k := 2 }.wf, { (default : OpQdrop) with bd := 2 }.wf,
    { (default : OpQdrop) with la := 16 }.wf, { (default : OpQdrop) with n := 64 }.wf, { (default : OpQdrop) with q := 16 }.wf,
    { (default : OpRingD) with bd := 2 }.wf, { (default : OpRingD) with la := 16 }.wf, { (default : OpRingD) with sd := 128 }.wf,
    { (default : OpRingD) with sh := 128 }.wf, { (default : OpRrel) with bd := 2 }.wf, { (default : OpRrel) with la := 16 }.wf,
    { (default : OpRrel) with sh := 128 }.wf, { (default : OpWaitc) with bd := 2 }.wf, { (default : OpWaitc) with cls := 8 }.wf,
    { (default : OpWaitc) with n := 64 }.wf, { (default : OpCntrd) with bd := 2 }.wf, { (default : OpCntrd) with sd := 128 }.wf,
    { (default : OpCntrd) with cls := 8 }.wf, { (default : OpGather) with bd := 2 }.wf,
    { (default : OpGather) with la := 16 }.wf, { (default : OpGather) with ix := 256 }.wf,
    { (default : OpGather) with sb := 128 }.wf, { (default : OpCreduce) with bd := 2 }.wf,
    { (default : OpCreduce) with la := 16 }.wf, { (default : OpCreduce) with opr := 16 }.wf,
    { (default : OpCreduce) with sb := 128 }.wf, { (default : OpMsign) with bd := 2 }.wf,
    { (default : OpMsign) with la := 16 }.wf, { (default : OpMsign) with cv := 16 }.wf, { (default : OpMsign) with sb := 128 }.wf].any id = false := by decide +kernel

theorem test_ill_formed_3 : [
    { (default : OpMsign) with set := 32 }.wf, { (default : OpMclr) with bd := 2 }.wf, { (default : OpMclr) with la := 16 }.wf,
    { (default : OpMclr) with sb := 128 }.wf, { (default : OpMstat) with bd := 2 }.wf, { (default : OpMstat) with la := 16 }.wf,
    { (default : OpMstat) with sd := 128 }.wf, { (default : OpMstat) with sel := 32 }.wf, { (default : OpBare) with bd := 2 }.wf,
    { (default : OpBarn) with bd := 2 }.wf, { (default : OpBarn) with team := 16 }.wf, { (default : OpFence) with bd := 2 }.wf,
    { (default : OpFence) with kind := 4 }.wf, { (default : OpFence) with scope := 8 }.wf,
    { (default : OpArrive) with bd := 2 }.wf, { (default : OpArrive) with la := 16 }.wf,
    { (default : OpArrive) with cnt := 256 }.wf, { (default : OpArrive) with sa := 128 }.wf,
    { (default : OpAwait) with bd := 2 }.wf, { (default : OpAwait) with sg := 128 }.wf,
    { (default : OpAwait) with sa := 128 }.wf, { (default : OpTeam) with bd := 2 }.wf, { (default : OpTeam) with la := 16 }.wf,
    { (default : OpTeam) with team := 16 }.wf, { (default : OpTrigger) with bd := 2 }.wf,
    { (default : OpTrigger) with la := 16 }.wf, { (default : OpMwait) with bd := 2 }.wf,
    { (default : OpMwait) with sv := 128 }.wf, { (default : OpMwait) with sa := 128 }.wf, { (default : OpPair) with bd := 2 }.wf,
    { (default : OpPair) with la := 16 }.wf, { (default : OpPair) with sd := 128 }.wf, { (default : OpPair) with sa := 128 }.wf,
    { (default : OpGPair) with bd := 2 }.wf, { (default : OpGPair) with la := 16 }.wf, { (default : OpGPair) with sd := 64 }.wf,
    { (default : OpGPair) with sa := 64 }.wf, { (default : OpUiwait) with bd := 2 }.wf,
    { (default : OpUiwait) with sd := 128 }.wf, { (default : OpUiack) with bd := 2 }.wf,
    { (default : OpUiack) with la := 16 }.wf, { (default : OpUiack) with sd := 128 }.wf,
    { (default : OpLookout) with bd := 2 }.wf, { (default : OpLookout) with as := 2 }.wf,
    { (default : OpLookout) with sa := 128 }.wf, { (default : OpSvc) with bd := 2 }.wf, { (default : OpSvc) with n := 64 }.wf,
    { (default : OpSvc) with sa := 128 }.wf, { (default : OpGSvc) with bd := 2 }.wf, { (default : OpGSvc) with n := 64 }.wf,
    { (default : OpGSvc) with sa := 64 }.wf, { (default : OpBrc) with ps := 128 }.wf, { (default : OpBrc) with n := 2 }.wf,
    { (default : OpBrc) with off := 65536 }.wf, { (default : OpJump) with off := 2097152 }.wf,
    { (default : OpJmpr) with d := 256 }.wf, { (default : OpHimm) with bd := 2 }.wf,
    { (default : OpHimm) with imm := 1048576 }.wf, { (default : OpHimmx) with bd := 2 }.wf,
    { (default : OpHimmx) with immx := 4096 }.wf].any id = false := by decide +kernel

theorem test_ill_formed_4 : [
    { (default : OpHmod) with bd := 2 }.wf, { (default : OpHmod) with rnd := 4 }.wf, { (default : OpHmod) with sat := 2 }.wf,
    { (default : OpHmod) with w64 := 2 }.wf, { (default : OpHmod) with n := 2 }.wf, { (default : OpHmod) with sz := 4 }.wf,
    { (default : OpHmod) with sgn := 2 }.wf, { (default : OpHmod) with nega := 2 }.wf, { (default : OpHmod) with absa := 2 }.wf,
    { (default : OpHmod) with negb := 2 }.wf, { (default : OpHmod) with absb := 2 }.wf, { (default : OpHmod) with ord := 4 }.wf,
    { (default : OpHmod) with scope := 8 }.wf, { (default : OpHgrd) with bd := 2 }.wf,
    { (default : OpHgrd) with pred := 128 }.wf, { (default : OpHgrd) with neg := 2 }.wf, { (default : OpHxb) with bd := 2 }.wf,
    { (default : OpHxb) with xa := 2 }.wf, { (default : OpHxb) with xb := 2 }.wf, { (default : OpHadr) with bd := 2 }.wf,
    { (default : OpHadr) with sb := 128 }.wf, { (default : OpHadr) with off := 8192 }.wf,
    { (default : OpHkeep) with bd := 2 }.wf, { (default : OpHkeep) with k1 := 256 }.wf,
    { (default : OpHkeep) with k2 := 256 }.wf, { (default : OpHkeep) with v1 := 2 }.wf, { (default : OpHkeep) with v2 := 2 }.wf,
    { (default : OpHpri) with bd := 2 }.wf, { (default : OpHpri) with nudge := 4 }.wf, { (default : OpU) with bd := 2 }.wf,
    { (default : OpU) with sd := 128 }.wf, { (default : OpU) with sa := 128 }.wf, { (default : OpU) with sb := 128 }.wf,
    { (default : OpUmov) with bd := 2 }.wf, { (default : OpUmov) with sd := 128 }.wf, { (default : OpUmov) with sa := 128 }.wf,
    { (default : OpUI) with bd := 2 }.wf, { (default : OpUI) with sd := 128 }.wf, { (default : OpUI) with imm := 16384 }.wf,
    { (default : OpUC) with bd := 2 }.wf, { (default : OpUC) with cc := 8 }.wf, { (default : OpUC) with sd := 128 }.wf,
    { (default : OpUC) with sa := 128 }.wf, { (default : OpUC) with sb := 128 }.wf, { (default : OpCode) with bd := 2 }.wf,
    { (default : OpCode) with code := 65536 }.wf, { (default : OpBkpt) with bd := 2 }.wf,
    { (default : OpBkpt) with snap := 2 }.wf, { (default : OpBkpt) with code := 65536 }.wf,
    { (default : OpXacq) with bd := 2 }.wf, { (default : OpXacq) with n := 8 }.wf, { (default : OpFork) with bd := 2 }.wf,
    { (default : OpFork) with sd := 128 }.wf, { (default : OpFork) with sa := 128 }.wf, { (default : OpJoin) with bd := 2 }.wf,
    { (default : OpJoin) with sa := 128 }.wf, { (default : OpUswin) with bd := 2 }.wf, { (default : OpUswin) with wb := 4 }.wf,
    { (default : OpAflclr) with bd := 2 }.wf, { (default : OpAflclr) with mask := 256 }.wf].any id = false := by decide +kernel

theorem test_ill_formed_5 : [
    { (default : OpGA) with bd := 2 }.wf, { (default : OpGA) with gd := 64 }.wf, { (default : OpGA) with ga := 64 }.wf,
    { (default : OpGA) with gb := 64 }.wf, { (default : OpGI) with bd := 2 }.wf, { (default : OpGI) with gd := 64 }.wf,
    { (default : OpGI) with ga := 64 }.wf, { (default : OpGI) with imm := 512 }.wf, { (default : OpGM) with bd := 2 }.wf,
    { (default : OpGM) with gd := 64 }.wf, { (default : OpGM) with sh := 4 }.wf, { (default : OpGM) with imm := 65536 }.wf,
    { (default : OpGL) with bd := 2 }.wf, { (default : OpGL) with la := 16 }.wf, { (default : OpGL) with sp := 8 }.wf,
    { (default : OpGL) with w := 4 }.wf, { (default : OpGL) with gd := 64 }.wf, { (default : OpGL) with ga := 64 }.wf,
    { (default : OpGL) with sgn := 2 }.wf, { (default : OpGldq) with bd := 2 }.wf, { (default : OpGldq) with la := 16 }.wf,
    { (default : OpGldq) with sp := 8 }.wf, { (default : OpGldq) with w := 4 }.wf, { (default : OpGldq) with q := 8 }.wf,
    { (default : OpGldq) with ga := 64 }.wf, { (default : OpGldqv) with bd := 2 }.wf, { (default : OpGldqv) with la := 16 }.wf,
    { (default : OpGldqv) with sp := 8 }.wf, { (default : OpGldqv) with q := 4 }.wf, { (default : OpGldqv) with ga := 64 }.wf,
    { (default : OpGldqv) with gb := 64 }.wf, { (default : OpGQ) with bd := 2 }.wf, { (default : OpGQ) with gd := 64 }.wf,
    { (default : OpGQ) with q := 16 }.wf, { (default : OpGqclose) with bd := 2 }.wf, { (default : OpGqclose) with q := 16 }.wf,
    { (default : OpGB) with bd := 2 }.wf, { (default : OpGB) with ga := 64 }.wf, { (default : OpGB) with off := 32768 }.wf,
    { (default : OpGJ) with bd := 2 }.wf, { (default : OpGJ) with off := 4194304 }.wf, { (default : OpGret) with bd := 2 }.wf,
    { (default : OpGret) with ga := 64 }.wf, { (default : OpCstart) with bd := 2 }.wf, { (default : OpCstart) with gd := 64 }.wf,
    { (default : OpCstart) with gh := 64 }.wf, { (default : OpCstart) with gc := 64 }.wf,
    { (default : OpCwait) with bd := 2 }.wf, { (default : OpCwait) with ga := 64 }.wf, { (default : OpCquery) with bd := 2 }.wf,
    { (default : OpCquery) with gd := 64 }.wf, { (default : OpCquery) with ga := 64 }.wf, { (default : OpGR) with bd := 2 }.wf,
    { (default : OpGR) with gd := 64 }.wf, { (default : OpGR) with gh := 64 }.wf, { (default : OpRarm) with bd := 2 }.wf,
    { (default : OpRarm) with gd := 64 }.wf, { (default : OpRarm) with gh := 64 }.wf, { (default : OpRarm) with gb := 64 }.wf,
    { (default : OpGarrive) with bd := 2 }.wf].any id = false := by decide +kernel

theorem test_ill_formed_6 : [
    { (default : OpGarrive) with cnt := 256 }.wf, { (default : OpGarrive) with ga := 64 }.wf,
    { (default : OpGmwait) with bd := 2 }.wf, { (default : OpGmwait) with ga := 64 }.wf,
    { (default : OpGmwait) with gv := 64 }.wf, { (default : OpGmwait) with w := 2 }.wf,
    { (default : OpGmwait) with acq := 2 }.wf, { (default : OpGmwait) with scope := 8 }.wf,
    { (default : OpGatom) with bd := 2 }.wf, { (default : OpGatom) with la := 16 }.wf, { (default : OpGatom) with aop := 16 }.wf,
    { (default : OpGatom) with gd := 64 }.wf, { (default : OpGatom) with ga := 64 }.wf, { (default : OpGatom) with sp := 4 }.wf,
    { (default : OpGatom) with w := 2 }.wf, { (default : OpGsread) with bd := 2 }.wf, { (default : OpGsread) with gd := 64 }.wf,
    { (default : OpGsread) with code := 128 }.wf, { (default : OpGwaitc) with bd := 2 }.wf,
    { (default : OpGwaitc) with cls := 2 }.wf, { (default : OpGwaitc) with n := 64 }.wf].any id = false := by decide +kernel

/-- The two forms of XFER are told apart by FM, and by the queue that FM 3 names (R71). -/
theorem test_ill_formed_xfer : [(Instr.bcast default).wf, (Instr.bcast { (default : OpV) with fm := 3, b := 8 }).wf,
    (Instr.lanex { (default : OpV) with fm := 1 }).wf, (Instr.lanex { (default : OpV) with fm := 2 }).wf].any id = false := by decide

/-! ## Words written out bit by bit from the encoding tables (R65, R71, R73, and each family's own rule) -/

/-- Whether a word decodes to an instruction, or is refused for a reason. -/
def reads (sl : Slice) (w : Nat) (i : Instr) : Bool := match decode sl w with
  | .ok j => decide (j = i)
  | .error _ => false
def refuses (sl : Slice) (w : Nat) (f : DecodeError) : Bool := match decode sl w with
  | .ok _ => false
  | .error g => decide (g = f)

/-- Formats V, SH, VU, CV, L, SR, P, PL, CM and XFER: B, major, then the fields of the format. -/
theorem test_words_vector :
    reads .compute 0b1_0001101_00_00000011_0000001_0000010 (.iadd ⟨1, 0, 3, 1, 2⟩) = true ∧
    reads .compute 0b0_0000100_10_11111111_1111111_1000000 (.ffma ⟨0, 2, 255, 127, 64⟩) = true ∧
    reads .compute 0b0_0101101_11_00000100_0000101_0000110 (.shfl ⟨0, 3, 4, 5, 6⟩) = true ∧
    reads .compute 0b1_0100101_01_00000111_0001000_0000100 (.popc ⟨1, 1, 7, 8⟩) = true ∧
    reads .compute 0b0_0100110_00_00001001_0001010_011_0010 (.unpack8 ⟨0, 0, 9, 10, 3⟩) = true ∧
    reads .compute 0b0_0101110_011_00001011_0001100_010_000 (.ballot ⟨0, 11, 12, 2⟩) = true ∧
    reads .compute 0b0_0101111_010_00001101_0001110_001_000 (.redux ⟨0, 2, 13, 14, 1⟩) = true ∧
    reads .compute 0b0_0110000_00_00001111_0000000_0001101 (.sread ⟨0, 15, 13⟩) = true ∧
    reads .compute 0b0_0100111_10_00101_100_0000110_1111111 (.fcmp ⟨0, 2, 5, 4, 6, 127⟩) = true ∧
    reads .compute 0b0_0101011_010_0000001_0000010_0000011 (.plop ⟨0, 2, 1, 2, 3⟩) = true ∧
    reads .compute 0b0_0101100_0000101_1_00000110_00000111 (.cmov ⟨0, 5, 1, 6, 7⟩) = true ∧
    reads .compute 0b0_0110001_01_00000001_0000010_0000011 (.bcast ⟨0, 1, 1, 2, 3⟩) = true ∧
    reads .compute 0b0_0110001_00_00000001_0000010_0000011 (.lanex ⟨0, 0, 1, 2, 3⟩) = true := by
  decide +kernel

/-- Formats M, AT and E. -/
theorem test_words_memory :
    reads .compute 0b0_1000001_0010_101_01_00001110_0010000 (.st ⟨0, 2, 5, 1, 14, 16⟩) = true ∧
    reads .compute 0b0_1000010_0000_11_1001_0010010_0010100 (.atom ⟨0, 0, 3, 9, 18, 20⟩) = true ∧
    reads .compute 0b0_1000011_0000_0101_00_000101_0011_0000 (.qdrop ⟨0, 0, 5, 3⟩) = true ∧
    reads .compute 0b0_1000100_0000_0001_000000000_0000111 (.rrel ⟨0, 0, 7⟩) = true ∧
    reads .compute 0b0_1000101_0000_0000_0000000_010_000101 (.waitc ⟨0, 2, 5⟩) = true ∧
    reads .compute 0b0_1000101_0000_0011_0110_00000_0001000 (.creduce ⟨0, 0, 6, 8⟩) = true ∧
    reads .compute 0b1_1000110_0000_0000_0011_0000100_10000 (.msign ⟨1, 0, 3, 4, 16⟩) = true ∧
    reads .compute 0b0_1000111_0000_0010_0000000000_01_0_100 (.fence ⟨0, 1, 4⟩) = true ∧
    reads .compute 0b0_1000111_0000_0011_00001001_0_0000101 (.arrive ⟨0, 0, 9, 5⟩) = true ∧
    reads .compute 0b0_1001000_0000_0100_00000000_1_0000110 (.lookout ⟨0, 1, 6⟩) = true ∧
    reads .compute 0b0_1001001_0000_0000_001100_000_0010000 (.svc ⟨0, 12, 16⟩) = true ∧
    reads .compute 0b0_1001010_0000_0000_00_0000100_0001000 (.capld ⟨0, 0, 4, 8⟩) = true ∧
    reads .address 0b0_1001000_0000_0000_00_0000100_0001000 (.uipostAslice ⟨0, 0, 4, 8⟩) = true := by
  decide +kernel

/-- Formats C, J, H, U, UI, UC and S. -/
theorem test_words_control :
    reads .compute 0b1_1010000_0000010_1_1111111111111100 (.brc ⟨2, 1, 0xFFFC⟩) = true ∧
    reads .compute 0b1_1010001_001_000000000000000000101 (.call ⟨5⟩) = true ∧
    reads .compute 0b1_1010001_011_0000000000000_00001001 (.jmpr ⟨9⟩) = true ∧
    reads .compute 0b0_1010010_0011_0000011_1_000000000000 (.hgrd ⟨0, 3, 1⟩) = true ∧
    reads .compute 0b0_1010010_0101_0000100_1111111111100 (.hadr ⟨0, 4, 0x1FFC⟩) = true ∧
    reads .compute 0b0_1010100_001_0000001_0000010_0000011 (.ushr ⟨0, 1, 2, 3⟩) = true ∧
    reads .compute 0b0_1010101_111_0000101_11111111111111 (.umovi ⟨0, 5, 0x3FFF⟩) = true ∧
    reads .compute 0b0_1010110_010_0000001_0000010_0000011 (.ucmp ⟨0, 2, 1, 2, 3⟩) = true ∧
    reads .compute 0b0_1010111_0011_1_000_0000000000001001 (.bkpt ⟨0, 1, 9⟩) = true ∧
    reads .compute 0b0_1010111_0110_0000011_0000100_000000 (.fork ⟨0, 3, 4⟩) = true := by
  decide +kernel

/-- The majors of the address slice. -/
theorem test_words_slice :
    reads .address 0b0_1100000_1110_000001_000010_000011_00 (.gslt ⟨0, 1, 2, 3⟩) = true ∧
    reads .address 0b0_1100001_000_000001_000010_111111111 (.gaddi ⟨0, 1, 2, 0x1FF⟩) = true ∧
    reads .address 0b0_1100010_000001_10_1000000000000000 (.gmovi ⟨0, 1, 2, 0x8000⟩) = true ∧
    reads .address 0b0_1100100_0001_100_11_000010_000011_1_00 (.gld ⟨0, 1, 4, 3, 2, 3, 1⟩) = true ∧
    reads .address 0b0_1100110_0000_001_00_010_000011_000000 (.gldq ⟨0, 0, 1, 0, 2, 3⟩) = true ∧
    reads .address 0b0_1100111_0000_001_01_000010_000011_000 (.gldqv ⟨0, 0, 1, 1, 2, 3⟩) = true ∧
    reads .address 0b0_1101000_010_000010_1100_00000000000 (.gqtry ⟨0, 2, 12⟩) = true ∧
    reads .address 0b1_1101001_101_000010_111111111111100 (.gblez ⟨1, 2, 0x7FFC⟩) = true ∧
    reads .address 0b1_1101010_10_000011_0000000000000000 (.gret ⟨1, 3⟩) = true ∧
    reads .address 0b0_1101011_00_000001_000010_000011_0000 (.cstart ⟨0, 1, 2, 3⟩) = true ∧
    reads .address 0b0_1101100_01_000001_000010_000011_0000 (.rarm ⟨0, 1, 2, 3⟩) = true ∧
    reads .address 0b0_1101101_10_000001_000010_1_1_00000_011 (.gmwait ⟨0, 1, 2, 1, 1, 3⟩) = true ∧
    reads .address 0b0_1101110_0000_1001_000010_000100_11_1_0 (.gatom ⟨0, 0, 9, 2, 4, 3, 1⟩) = true ∧
    reads .address 0b0_1101111_010_000001_00000000_0001101 (.gsread ⟨0, 1, 13⟩) = true := by
  decide +kernel

/-- Bits shown as 0 that are not, and codes that no row has: Illegal Instruction (R66). -/
theorem test_words_refused :
    refuses .compute 0b0_0110000_01_00001111_0000000_0001101 .illegal = true ∧
    refuses .compute 0b0_1000011_0000_0110_0000000000000000 .illegal = true ∧
    refuses .compute 0b0_1010111_1011_00000000000000000000 .illegal = true ∧
    refuses .address 0b0_1100000_0000_000001_000010_000011_01 .illegal = true := by
  decide +kernel

/-! ## States that meet the hypotheses of the obligations -/

/-- A uniform register, a vector register of every lane, or a g register set. -/
def withU (n x : Nat) (w : Warp) : Warp := w.setU n (BitVec.ofNat 32 x)
def withV (n x : Nat) (w : Warp) : Warp := (List.range 32).foldl (fun w l => w.setV l n (BitVec.ofNat 32 x)) w
def withG (n x : Nat) (s : ASlice) : ASlice := s.setG n x

/-- The warp's batches with no lane active. -/
def unguarded (w : Warp) : Warp := { w with batches := w.batches.map (fun b => { b with guard := 0#32 }) }

/-- The crew's queues: 0 to 3 declared, with two entries each. -/
def withQueues (r : Run) : Run :=
  r.crew 0 (fun c => { c with queues := List.replicate 16 { depth := 4, entries := [.uni 7, .uni 8] } })

/-- A partition whose first 2 MiB are mapped, and a context whose addresses below 2 MiB are partition addresses with every right; those of
the next 2 MiB are the same bytes as PROT pages, the page after them is that of 0x8000, and those from 6 MiB on are again the first
2 MiB, as accumulator pages. -/
def mapped (prot : Bool) (s : State) : State :=
  let entry (m : Mem) (p : Nat × Nat) : Mem := Mem.write m 8 p.1 p.2
  let m := [(0x1000, 0x2001), (0x2000, 0x3001), (0x3000, 0x4001), (0x4000, 0x2F), (0x4008, 0xAF), (0x4010, 0x5001),
    (0x5000, 0x800F), (0x4018, 0x12F)].foldl entry s.run.mem
  { s with
    mgmt := { s.mgmt with parts := s.mgmt.parts.map (fun (p : Nat × Part) => (p.1, { p.2 with s2limit := 2 ^ 21, s2 := [1] })) }
    run := { s.run with mem := m, contexts := s.run.contexts.map (fun (c : Nat × Context) => (c.1, { c.2 with s1root := 0x1000, prot := prot })) } }

/-- Nothing stops these words, their fields all zero, in the small state: the premises that every completion statement and frame has. -/
theorem witness_clear_words :
    ([.fadd default, .fsub default, .fmul default, .ffma default, .fmin default, .fmax default, .hadd2 default, .hmul2 default,
     .hfma2 default, .badd2 default, .bmul2 default, .bfma2 default, .iadd default, .isub default, .imul default,
     .imad default, .imulh default, .imin default, .imax default, .iminn default, .imaxn default, .and default, .or default,
     .xor default, .andn default, .shl default, .shr default, .sar default, .funl default, .prmt default, .dp4a default,
     .bsubs default, .bminu default, .nlutl default, .nluth default, .prevb default, .mov default, .not default,
     .ineg default, .iabs default, .popc default, .clz default, .ctz default, .brev default, .sext8 default, .sext16 default,
     .bswap default, .setlnk default, .fneg default, .fabs default, .frcp default, .frsq default, .fsqrt default,
     .fexp2 default, .flog2 default, .fsin default, .fcos default, .ftanh default, .ffloor default, .fceil default,
     .ftrunc default, .frint default, .cvtif default, .cvtnf default, .cvtfi default, .cvtfn default, .cvthfl default,
     .cvthfh default, .cvtbfl default, .cvtbfh default, .pack4 default, .pack2 default, .unpack8 default, .unpack16 default,
     .scale default, .fcmp default, .icmp default, .icmpn default, .fclass default, .plop default, .cmov default,
     .shfl default, .voteAll default, .voteAny default, .voteEq default, .ballot default, .redux default, .sread default,
     .lanex default, .ld default, .st default, .atom default, .rawait default, .rrel default, .rstat default, .waitc default,
     .cntrd default, .gather default, .creduce default, .msign default, .mclr default, .mstat default, .bar default,
     .barn default, .fence default, .tjoin default, .tleave default, .gridwait default, .trigger default, .mwait default,
     .uipost default, .lookout default, .svc default, .capld default, .capst default, .capnarrow default, .capchk default,
     .brc default, .jmp default, .call default, .jmpr default, .himm default, .himmx default, .hmod default, .hgrd default,
     .hxb default, .hadr default, .hkeep default, .hpri default, .uadd default, .usub default, .umul default, .umulh default,
     .uand default, .uor default, .uxor default, .uandn default, .ushl default, .ushr default, .usar default, .umin default,
     .umax default, .uminn default, .umaxn default, .umov default, .uaddi default, .uandi default, .uori default,
     .uxori default, .ushli default, .ushri default, .usari default, .umovi default, .ucmp default, .nop default,
     .trapfence default, .trap default, .bkpt default, .xrel default, .fork default, .join default, .uswin default,
     .yield default, .aflclr default, .ret, .exit] : List Instr).all (fun i => ready i (at_ i)) = true := by
  decide +kernel

theorem witness_clear_slice_words :
    ([.uipostAslice default, .svcAslice default, .capldAslice default, .capstAslice default, .capnarrowAslice default,
     .capchkAslice default, .gadd default, .gsub default, .gmul default, .gmulh default, .gand default, .gor default,
     .gxor default, .gshl default, .gshr default, .gsar default, .gmin default, .gmax default, .gminn default, .gmaxn default,
     .gslt default, .gsltn default, .gaddi default, .gandi default, .gori default, .gxori default, .gshli default,
     .gshri default, .gsari default, .gslti default, .gmovi default, .gmovk default, .gbeqz default, .gbnez default,
     .gbltz default, .gbgez default, .gbgtz default, .gblez default, .gjmp default, .gcall default, .gret default,
     .gexit default, .cstart default, .cwait default, .cquery default, .rfree default, .rarm default, .rpeek default,
     .gfence default, .gmwait default, .gatom default, .gtrap default, .gwaitc default, .gyield default, .gnop] : List Instr).all
      (fun i => sliceReady i (at_ i)) = true := by
  decide +kernel

/-- Whether a check passes. -/
def ok {α ε : Type} : Except ε α → Bool
  | .ok _ => true
  | .error _ => false

/-- The state with tile 0 out of reduced service (R416). -/
def served (s : State) : State := { s with mgmt := { s.mgmt with tiles := [(0, { reduced := false })] } }

/-- ConversionWordsComplete: slots of FP8, BF16 and FP32, each with no scale. -/
theorem witness_conversions :
    let grid (n : Nat) (r : Run) : Run := r.grid 0 (fun g => { g with fslots := [n] })
    ready (.pack4 default) (served (at_ (.pack4 default) (fr := grid 3)))
      (fun e => ok (cvtFormat e 0 byteFormat) && ok (cvtScale e (e.g.fslot 0))) = true ∧
    ready (.unpack16 default) (at_ (.unpack16 default) (fr := grid 1))
      (fun e => ok (cvtFormat e 0 halfFormat) && ok (cvtScale e (e.g.fslot 0))) = true ∧
    ready (.scale default) (at_ (.scale default) (fr := grid 0))
      (fun e => ok (cvtFormat e 0 (fun f => f == .fp32)) && ok (cvtScale e (e.g.fslot 0)) && !(e.g.bounds.getD 0 {}).bad) = true := by
  decide +kernel

/-- LaneWordsComplete: BCAST by a uniform register, VGETI and VPUTI by one. -/
theorem witness_lanes :
    ready (.bcast ⟨1, 1, 3, 1, 2⟩) (at_ (.bcast ⟨1, 1, 3, 1, 2⟩)) = true ∧ ready (.vgeti ⟨1, 1, 3, 2⟩) (at_ (.vgeti ⟨1, 1, 3, 2⟩)) = true ∧
    ready (.vputi ⟨1, 1, 3, 2⟩) (at_ (.vputi ⟨1, 1, 3, 2⟩)) = true := by
  decide +kernel

/-- ControlWordsComplete and BranchWordsFrame: branches to the next word, a return to word 0, the end of every thread, a diverted batch
that returns. -/
theorem witness_control :
    let near (e : Env) (t : Word) : Bool := t.toNat % 4 == 0 && decide (t.toNat < 4 * e.k.cimg.length) && t != returnMark
    ready (.brc ⟨0, 0, 0⟩) (at_ (.brc ⟨0, 0, 0⟩)) (fun e => near e (branchTarget e.b.pc 16 0)) = true ∧
    ready (.jmp default) (at_ (.jmp default)) (fun e => near e (branchTarget e.b.pc 21 0) && e.w.hsave.isNone) = true ∧
    ready .ret (at_ .ret) (fun e => e.lanes.all (fun l => near e (e.w.lnk l))) = true ∧
    ready (.jmpr default) (at_ (.jmpr default)) (fun e => e.lanes.all (fun l => near e (e.w.v l 0))) = true ∧
    ready .exit (at_ .exit) (fun e => endsWarp e && counter e.w.ops .mx == 0) = true ∧
    ready .exit (at_ .exit (fw := unguarded)) (fun e => !endsWarp e) = true ∧
    ready .uiret (at_ .uiret (fw := fun w => { w with divrec := w.batches.head? })
      (fr := fun r => r.block 0 (fun b => { b with ui := { b.ui with lookout := some (0, 0) } }))) (fun e => e.w.divrec.isSome) = true := by
  decide +kernel

/-- SystemWordsComplete: the conditions of TRAPFENCE, BKPT, XACQ and JOIN. -/
theorem witness_system :
    ready (.trapfence default) (at_ (.trapfence default))
      (fun e => e.w.arms &&& e.active == 0#32 && e.lanes.all (fun l => e.w.afl l &&& e.g.temask == 0#8)) = true ∧
    ready (.bkpt default) (at_ (.bkpt default)) (fun e => e.active != 0#32) = true ∧
    ready (.xacq ⟨1, 6⟩) (at_ (.xacq ⟨1, 6⟩)) (fun e => e.b.wait != .pass && decide (64 ≤ e.w.base) && e.w.gran == 0 && e.w.xpend.isNone &&
      (e.r.coreSt e.crew.core).xacq == [] && decide (granUsed e.r e.crew.core + 6 ≤ poolSize e.m e.crew.core)) = true ∧
    ready (.join default) (at_ (.join default)) (fun e => e.w.quad128 (e.w.uIdx 0) == 0) = true ∧
    ready (.join default) (mapped false (at_ (.join default) (fw := withU 0 0x8000)))
      (fun e => e.w.quad128 (e.w.uIdx 0) != 0 && !isProt e.r e.ctx && match watchPlace e (e.w.quad128 (e.w.uIdx 0)) 8 with
        | .ok p => !poisonedSpan e.r p 8 && loadNum e.r e.crew.block p 8 == 0
        | .error _ => false) = true := by
  decide +kernel

/-- MemoryWordsComplete, LoadFrame, StoreFrame and StoreWrites: the lane slice, the pad and global memory. -/
theorem witness_memory :
    ready (.ld ⟨1, 0, 0, 0, 3, 1⟩) (at_ (.ld ⟨1, 0, 0, 0, 3, 1⟩) (fw := withV 1 4092))
      (fun e => !e.blk.closedInterval && match accessPlaces e 1 0 4 needRd with
        | .ok ps => (poisonStop e.r ps 4).isNone
        | .error _ => false) = true ∧
    ready (.ld ⟨1, 2, 4, 1, 4, 0⟩) (mapped false (at_ (.ld ⟨1, 2, 4, 1, 4, 0⟩) (fw := withV 0 0x8000)))
      (fun e => match accessPlaces e 0 4 8 needRd with
        | .ok ps => (poisonStop e.r ps 8).isNone
        | .error _ => false) = true ∧
    ready (.st ⟨1, 0, 1, 2, 4, 0⟩) (at_ (.st ⟨1, 0, 1, 2, 4, 0⟩)) (fun e => ok (accessPlaces e 0 1 16 needWr)) = true ∧
    ready (.st ⟨1, 0, 4, 0, 4, 0⟩) (mapped false (at_ (.st ⟨1, 0, 4, 0, 4, 0⟩) (fw := withV 0 0x8000)))
      (fun e => ok (accessPlaces e 0 4 4 needWr) && !e.blk.closedInterval) = true ∧
    ready (.atom ⟨1, 0, 0, 0, 3, 1⟩) (at_ (.atom ⟨1, 0, 0, 0, 3, 1⟩))
      (fun e => match accessPlaces e 1 1 4 needAt with
        | .ok ps => (poisonStop e.r ps 4).isNone
        | .error _ => false) = true := by
  decide +kernel

/-- Lane 0 alone is active. -/
def oneLane (w : Warp) : Warp := { w with batches := w.batches.map (fun b => { b with guard := 1#32 }) }

/-- No store of the agent through another page is still to be seen there. -/
def agrees (r : Run) (crew party : Nat) (page : Option Nat) (p : Place) (n : Nat) : Bool := match page with
  | some g => (r.clashes crew party g p n).isEmpty
  | none => true

/-- StoreWrites and SliceStoreFrame: a page reached with another page's store behind it, seen by another agent only. -/
theorem witness_store_writes :
    let behind (r : Run) : Run := { r with stales := [{ crew := 0, party := 7, at_ := 0, page := 9, key := Place.key (.dev 0x8000), old := 1 }] }
    ready (.st ⟨1, 0, 4, 0, 4, 0⟩) (mapped false (at_ (.st ⟨1, 0, 4, 0, 4, 0⟩) (fw := fun w => withV 0 0x8000 (oneLane w)) (fr := behind)))
      (fun e => !e.blk.closedInterval && match accessPlaces e 0 4 4 needWr with
        | .ok [(l, p)] => agrees e.r e.cid (laneParty e.wi l) (e.page 4 (effAddr e 0 4 l)) p 4
        | _ => false) = true ∧
    sliceReady (.gst ⟨1, 0, 4, 1, 4, 5, 0⟩) (mapped false (at_ (.gst ⟨1, 0, 4, 1, 4, 5, 0⟩) (fa := withG 5 0x8000) (fr := behind)))
      (fun e => !e.blk.closedInterval && match sliceAccess e 4 (e.addr 4 5) (glBytes 1) needWr with
        | .ok p => agrees e.r e.cid sliceParty (synonymPage e.m e.r e.ctx 4 (e.addr 4 5)) p (glBytes 1)
        | _ => false) = true := by
  decide +kernel

/-- A ring header at offset 64 of the pad: 2 slots of 256 bytes, the arrival words at 512, of which slot 0 is full. -/
def ringMem (r : Run) : Run :=
  r.crew 0 (fun c => { c with pad := Mem.write (Mem.writeBytes c.pad 64 (toBytes 4 2 ++ toBytes 4 256 ++ toBytes 4 1024 ++ toBytes 4 512)) 4 524 2 })

/-- The same ring with slot 1 to be armed next, which is free. -/
def ringFree (r : Run) : Run := (ringMem r).crew 0 (fun c => { c with pad := Mem.write c.pad 1 66 1 })

/-- QueueWordsComplete: queues with entries, a ring with a full slot. -/
theorem witness_queues :
    ([.qpop ⟨1, 0, 4, 1⟩, .qpops ⟨1, 0, 4, 1⟩, .qpeek ⟨1, 0, 4, 1⟩, .qstat ⟨1, 0, 4, 1⟩, .qdrop ⟨1, 0, 1, 1⟩, .qpush ⟨1, 0, 4, 12, 0⟩] : List Instr).all
      (fun i => ready i (at_ i (fr := withQueues))) = true ∧
    ([.qpop ⟨1, 1, 4, 1⟩, .qpops ⟨1, 15, 4, 1⟩, .qpeek ⟨1, 1, 4, 1⟩] : List Instr).all
      (fun i => ready i (at_ i (fr := fun r => r.crew 0 (fun c => { c with queues := List.replicate 16 { depth := 4 } }))) (fun e => match popOf e i with
        | some (q, _, _, _, la) => (e.crew.queue q).head == .wait && la != 0 && withinFault e.w.windows e.w.ops e.b.lanes
        | none => false)) = true ∧
    ([.rawait ⟨1, 0, 4, 0⟩, .rstat ⟨1, 0, 4, 0⟩] : List Instr).all
      (fun i => ready i (at_ i (fw := withU 0 64) (fr := ringMem)) (fun e => ok (ringOf e 0))) = true ∧
    ready (.rrel ⟨1, 0, 0⟩) (at_ (.rrel ⟨1, 0, 0⟩) (fw := withU 0 64) (fr := ringMem)) (fun e => match ringOf e 0 with
      | .ok h => h.state e.r e.crew.block e.cid h.ridx == 2
      | .error _ => false) = true := by
  decide +kernel

/-- EngineWordsComplete: WAITC, GATHER of 4 bytes a lane, CREDUCE of one word, MSIGN and MCLR. -/
theorem witness_engine :
    ready (.waitc default) (at_ (.waitc default)) (fun e => counter e.w.ops (clsOf 0) == 0) = true ∧
    ready (.gather ⟨1, 0, 0, 4⟩) (mapped false (at_ (.gather ⟨1, 0, 0, 4⟩) (fw := fun w => withU 6 0x8000 (withU 5 4 w))))
      (fun e => ok (lanePlaces (e.lanes.map (fun l => (l, gatherPlace e 0 4 0x8000 l))))) = true ∧
    ready (.creduce ⟨1, 0, 0, 4⟩) (at_ (.creduce ⟨1, 0, 0, 4⟩) (fw := withU 6 1)) (fun e => (creduceFault e ⟨1, 0, 0, 4⟩ 0 0 1 0).isNone) = true ∧
    ready (.msign ⟨1, 0, 0, 4, 16⟩) (at_ (.msign ⟨1, 0, 0, 4, 16⟩)) (fun e => e.b.wait == .none && e.active != 0#32 &&
      (List.range 3).all (fun i => (recordFault e.k (signOff e ⟨1, 0, 0, 4, 16⟩ i)).isNone) && sameOrder e ⟨1, 0, 0, 4, 16⟩ &&
      e.active &&& ~~~rdReg (setMembers e.r e.blk 16) e.wkey == 0#32 && resigning e ⟨1, 0, 0, 4, 16⟩ != e.active) = true ∧
    ready (.msign ⟨1, 0, 0, 4, 16⟩) (at_ (.msign ⟨1, 0, 0, 4, 16⟩) (fw := unguarded)) (fun e => e.b.wait == .none && e.active == 0#32) = true ∧
    ready (.msign ⟨1, 0, 0, 4, 16⟩) (at_ (.msign ⟨1, 0, 0, 4, 16⟩) (fw := fun w => { w with batches := w.batches.map (fun b => { b with wait := .pass }) }))
      (fun e => e.b.wait == .pass) = true ∧
    ready (.mclr ⟨1, 0, 4⟩) (mapped false (at_ (.mclr ⟨1, 0, 4⟩) (fr := fun r => r.block 0 (fun b =>
        { b with cluster := Mem.writeBytes [] 0 (toBytes 8 0x608000 ++ toBytes 8 0 ++ toBytes 4 1 ++ toBytes 4 1 ++ toBytes 4 0xFFFF ++ toBytes 8 (2 ^ 64 - 1) ++ List.replicate 28 0) }))))
      (fun e => (recordFault e.k (e.un 4)).isNone && (accOf (loadBytes e.r e.crew.block (.clu e.crew.block (e.un 4)) 64)).base == 0x608000 &&
        ok (checkAcc e.m e.r e.tile e.g (accOf (loadBytes e.r e.crew.block (.clu e.crew.block (e.un 4)) 64)) (needRd + needWr))) = true := by
  decide +kernel

/-- SynchronisationWordsComplete: barriers before and after, an arrival word in the pad, a watched word. -/
theorem witness_synchronisation :
    let pass (w : Warp) : Warp := { w with batches := w.batches.map (fun b => { b with wait := .pass }) }
    ready (.bar default) (at_ (.bar default)) (fun e => !(e.b.wait == .pass || e.active == 0#32)) = true ∧
    ready (.bar default) (at_ (.bar default) (fw := pass)) (fun e => e.b.wait == .pass) = true ∧
    ready (.barn default) (at_ (.barn default) (fr := fun r => r.block 0 (fun b => { b with teams := [(0, allLanes)] })))
      (fun e => outsiders e 0 == 0#32 && !(e.b.wait == .pass || e.active == 0#32)) = true ∧
    ready (.arrive ⟨1, 0, 1, 4⟩) (at_ (.arrive ⟨1, 0, 1, 4⟩) (fw := withU 4 16)) (fun e => ok (arrivalPlace e.k e.cid e.crew.block (e.un 4))) = true ∧
    ready (.await ⟨1, 4, 5⟩) (at_ (.await ⟨1, 4, 5⟩) (fw := withU 4 9)) (fun e => ok (arrivalPlace e.k e.cid e.crew.block (e.un 5))) = true ∧
    ready (.mwait ⟨1, 4, 6⟩) (mapped false (at_ (.mwait ⟨1, 4, 6⟩) (fw := withU 6 0x8000)))
      (fun e => e.b.wait != .pass && ok (watchPlace e (e.w.u64 6) 4)) = true ∧
    ready (.mwait ⟨1, 4, 6⟩) (at_ (.mwait ⟨1, 4, 6⟩) (fw := pass)) (fun e => e.b.wait == .pass) = true := by
  decide +kernel

/-- InterruptWordsComplete: the words of the lookout warp, and a call. -/
theorem witness_interrupts :
    let look (r : Run) : Run := r.block 0 (fun b => { b with ui := { b.ui with lookout := some (0, 0) } })
    ([.uiwait ⟨1, 4⟩, .uiack ⟨1, 0, 4⟩, .uimask ⟨1, 0, 4, 6⟩] : List Instr).all (fun i => ready i (at_ i (fr := look))) = true ∧
    ready (.lookout ⟨1, 1, 4⟩) (at_ (.lookout ⟨1, 1, 4⟩)) (fun e => e.un 4 % 4 == 0) = true ∧
    ready (.svc ⟨1, 0, 4⟩) (at_ (.svc ⟨1, 0, 4⟩)) (fun e => e.b.wait != .pass &&
      match beginCall e.r e.k e.g e.cid e.crew.block (some (e.wi, e.lead)) 0 (e.un 4) with
        | .ok (some _) => true
        | _ => false) = true := by
  decide +kernel

/-- CapabilityWordsComplete and CapchkSummary: a PROT page, and a tagged quad that CAPNARROW narrows. -/
theorem witness_capabilities :
    let cap (w : Warp) : Warp := w.setCap 4 (0x8000 + 127 * 2 ^ 57 + 0x100 * 2 ^ 64 + 64 * 2 ^ 104) true
    ready (.capld ⟨1, 0, 4, 8⟩) (mapped true (at_ (.capld ⟨1, 0, 4, 8⟩) (fw := withU 8 0x208000)))
      (fun e => ok (capLoad e.m e.r e.crew.block e.tile e.ctx (e.w.u64 8))) = true ∧
    ready (.capst ⟨1, 0, 4, 8⟩) (mapped true (at_ (.capst ⟨1, 0, 4, 8⟩) (fw := withU 8 0x208000)))
      (fun e => ok (capStore e.m e.r e.crew.block e.tile e.ctx (e.w.u64 8) (e.w.quad128 4) (e.w.utag 4))) = true ∧
    ready (.capnarrow ⟨1, 0, 4, 8⟩) (mapped true (at_ (.capnarrow ⟨1, 0, 4, 8⟩) (fw := fun w => withU 10 0x100 (withU 8 0x8000 (cap w)))))
      (fun e => isProt e.r e.ctx && (narrowCap e.ctx (e.w.utag 4) (e.w.quad128 4) (e.w.quad128 8)).isSome) = true ∧
    ready (.capchk ⟨1, 0, 4, 8⟩) (mapped true (at_ (.capchk ⟨1, 0, 4, 8⟩))) (fun e => isProt e.r e.ctx) = true := by
  decide +kernel

/-- SliceArithmeticWordsComplete needs no more; SliceControlWordsComplete: a branch taken and not, jumps to the next word, the two
returns, an end with nothing in flight. -/
theorem witness_slice_control :
    let inside (e : SEnv) (t : Nat) : Bool := decide (t < 4 * e.k.aimg.length)
    sliceReady (.gbeqz default) (at_ (.gbeqz default)) (fun e => e.s.gn 0 == 0 && inside e (sliceTarget e.s.pc 15 0)) = true ∧
    sliceReady (.gbnez default) (at_ (.gbnez default)) (fun e => e.s.gn 0 == 0) = true ∧
    sliceReady (.gjmp default) (at_ (.gjmp default)) (fun e => inside e (sliceTarget e.s.pc 22 0)) = true ∧
    sliceReady (.gcall default) (at_ (.gcall default)) (fun e => inside e (sliceTarget e.s.pc 22 0)) = true ∧
    sliceReady (.gret ⟨1, 4⟩) (at_ (.gret ⟨1, 4⟩)) (fun e => e.s.hsave.isNone && e.s.gn 4 % 4 == 0 && inside e (e.s.gn 4)) = true ∧
    sliceReady (.gret ⟨1, 4⟩) (at_ (.gret ⟨1, 4⟩) (fa := fun s => { withG 4 0xFFFFFFFC s with hsave := some default }))
      (fun e => e.s.gn 4 == returnMark.toNat && e.s.hsave.isSome) = true ∧
    sliceReady (.gexit default) (at_ (.gexit default)) (fun e => e.s.copies == [] && counter e.s.ops .gld == 0) = true := by
  decide +kernel

/-- Whether an access of n bytes passes its checks and finds no poison. -/
def whole {ε : Type} (e : SEnv) (x : Except ε Place) (n : Nat) : Bool := match x with
  | .ok p => !poisonedSpan e.r p n
  | .error _ => false

/-- SliceMemoryWordsComplete and SliceStoreFrame: the pad, global memory, queues. -/
theorem witness_slice_memory :
    sliceReady (.gld ⟨1, 0, 1, 0, 4, 5, 0⟩) (at_ (.gld ⟨1, 0, 1, 0, 4, 5, 0⟩)) (fun e => whole e (sliceAccess e 1 (e.addr 1 5) (glBytes 0) needRd) (glBytes 0)) = true ∧
    sliceReady (.gst ⟨1, 0, 4, 1, 4, 5, 0⟩) (mapped false (at_ (.gst ⟨1, 0, 4, 1, 4, 5, 0⟩) (fa := withG 5 0x8000)))
      (fun e => ok (sliceAccess e 4 (e.addr 4 5) (glBytes 1) needWr) && !e.blk.closedInterval) = true ∧
    sliceReady (.gldq ⟨1, 0, 1, 0, 1, 5⟩) (at_ (.gldq ⟨1, 0, 1, 0, 1, 5⟩) (fr := withQueues))
      (fun e => whole e (sliceAccess e 1 (e.addr 1 5) (glBytes 0) needRd) (glBytes 0)) = true ∧
    sliceReady (.gldqv ⟨1, 0, 1, 0, 5, 6⟩) (at_ (.gldqv ⟨1, 0, 1, 0, 5, 6⟩) (fr := withQueues)) (fun e => match elementPlaces e ⟨1, 0, 1, 0, 5, 6⟩ with
      | .ok ps => (elementPoison e ⟨1, 0, 1, 0, 5, 6⟩ ps).isNone
      | .error _ => false) = true ∧
    sliceReady (.gatom ⟨1, 0, 0, 4, 5, 0, 0⟩) (at_ (.gatom ⟨1, 0, 0, 4, 5, 0, 0⟩)) (fun e => whole e (sliceAccess e 1 (e.addr 1 5) 4 needAt) 4) = true ∧
    ([.gqpush ⟨1, 4, 1⟩, .gqclose ⟨1, 1⟩, .gqstat ⟨1, 4, 1⟩] : List Instr).all (fun i => sliceReady i (at_ i (fr := withQueues))) = true ∧
    ([.gqpop ⟨1, 4, 12⟩, .gqtry ⟨1, 4, 12⟩] : List Instr).all (fun i => sliceReady i (at_ i (fr := withQueues))
      (fun e => (e.crew.queue 12).head == .entry (.uni 7))) = true ∧
    sliceReady (.gqtry ⟨1, 4, 12⟩) (at_ (.gqtry ⟨1, 4, 12⟩) (fr := fun r => r.crew 0 (fun c => { c with queues := List.replicate 16 { depth := 4 } })))
      (fun e => (e.crew.queue 12).head == .wait) = true ∧
    sliceReady (.gqtry ⟨1, 4, 12⟩) (at_ (.gqtry ⟨1, 4, 12⟩) (fr := fun r => r.crew 0 (fun c =>
      { c with queues := List.replicate 16 { depth := 4, closed := true } }))) (fun e => (e.crew.queue 12).head == .orphan) = true := by
  decide +kernel

/-- SliceEngineWordsComplete: a copy from the pad, its tag, a ring, an arrival word, a watched word. -/
theorem witness_slice_engine :
    sliceReady (.cstart ⟨1, 3, 4, 5⟩) (at_ (.cstart ⟨1, 3, 4, 5⟩) (fa := withG 5 (64 + 128 * 2 ^ 32))) (fun e => (cstartFault e (e.s.gn 4) (e.s.gn 5)).isNone) = true ∧
    ([.rfree ⟨1, 3, 4⟩, .rarm ⟨1, 3, 4, 5⟩] : List Instr).all (fun i => sliceReady i (at_ i (fa := fun s => withG 5 256 (withG 4 64 s)) (fr := ringFree))
      (fun e => match sliceRing e 4 with
        | .ok h => h.state e.r e.crew.block e.cid h.widx == 0 && decide (e.s.gn 5 ≤ h.slotsz)
        | .error _ => false)) = true ∧
    sliceReady (.rpeek ⟨1, 3, 4⟩) (at_ (.rpeek ⟨1, 3, 4⟩) (fa := withG 4 64) (fr := ringMem)) (fun e => ok (sliceRing e 4)) = true ∧
    sliceReady (.cwait default) (at_ (.cwait default)) (fun e => (tagged e.s (e.s.gn 0 % 65536)).isNone) = true ∧
    sliceReady (.garrive ⟨1, 1, 5⟩) (at_ (.garrive ⟨1, 1, 5⟩)) (fun e => ok (arrivalPlace e.k e.cid e.crew.block (e.s.gn 5))) = true ∧
    sliceReady (.gmwait ⟨1, 5, 6, 0, 0, 0⟩) (mapped false (at_ (.gmwait ⟨1, 5, 6, 0, 0, 0⟩) (fa := withG 5 0x8000)))
      (fun e => e.s.wait != .pass && e.s.gn 5 % 4 == 0 && ok (globalPlace e.m e.r e.tile e.ctx (e.s.gn 5) needRd)) = true ∧
    sliceReady (.gmwait ⟨1, 5, 6, 0, 0, 0⟩) (at_ (.gmwait ⟨1, 5, 6, 0, 0, 0⟩) (fa := fun s => { s with wait := .pass }))
      (fun e => e.s.wait == .pass) = true ∧
    sliceReady (.gwaitc default) (at_ (.gwaitc default)) (fun e => e.s.copies.length == 0) = true := by
  decide +kernel

/-- SliceSystemWordsComplete and the capability words of the slice. -/
theorem witness_slice_system :
    sliceReady (.gsread ⟨1, 4, 0x0D⟩) (at_ (.gsread ⟨1, 4, 0x0D⟩)) = true ∧
    sliceReady (.svcAslice ⟨1, 0, 4⟩) (at_ (.svcAslice ⟨1, 0, 4⟩)) (fun e => e.s.wait != .pass &&
      match beginCall e.r e.k e.g e.cid e.crew.block none 0 (e.s.gn 4) with
        | .ok (some _) => true
        | _ => false) = true ∧
    sliceReady (.capldAslice ⟨1, 0, 4, 8⟩) (mapped true (at_ (.capldAslice ⟨1, 0, 4, 8⟩) (fa := withG 8 0x208000)))
      (fun e => ok (capLoad e.m e.r e.crew.block e.tile e.ctx (e.s.gn 8))) = true ∧
    sliceReady (.capstAslice ⟨1, 0, 4, 8⟩) (mapped true (at_ (.capstAslice ⟨1, 0, 4, 8⟩) (fa := withG 8 0x208000)))
      (fun e => ok (capStore e.m e.r e.crew.block e.tile e.ctx (e.s.gn 8) (e.s.pair128 4) (e.s.tag 4))) = true ∧
    sliceReady (.capnarrowAslice ⟨1, 0, 4, 8⟩) (mapped true (at_ (.capnarrowAslice ⟨1, 0, 4, 8⟩)
        (fa := fun s => withG 9 0x100 (withG 8 0x8000 (s.setCap 4 (0x8000 + 0x100 * 2 ^ 64 + 64 * 2 ^ 104) true)))))
      (fun e => isProt e.r e.ctx && (narrowCap e.ctx (e.s.tag 4) (e.s.pair128 4) (e.s.pair128 8)).isSome) = true ∧
    sliceReady (.capchkAslice ⟨1, 0, 4, 8⟩) (mapped true (at_ (.capchkAslice ⟨1, 0, 4, 8⟩))) (fun e => isProt e.r e.ctx) = true := by
  decide +kernel

/-! ## Events -/

/-- The small machine with memory mapped, and its context's pool. -/
def run0 : Run := (mapped false (at_ (.nop default) (fr := withQueues))).run.context 64 (fun c => { c with hplen := 2 ^ 22 })
def mgmt0 : Mgmt := (mapped false (at_ (.nop default))).mgmt

/-- The run with one outstanding operation of the warp, or of the slice. -/
def opWarp (c : OpClass) (x : OpData) : Run := run0.warp 0 0 (fun w => { w with ops := [{ id := 1, cls := c, data := x }] })
def opSlice (c : OpClass) (x : OpData) : Run := run0.slice 0 (fun s => { s with ops := [{ id := 1, cls := c, data := x }] })

/-- CompletionEventsHappen: an operation of each class is outstanding. -/
theorem witness_completions :
    [(OpClass.ldg, OpData.vregs []), (.stg, .none), (.at, .atom [] []), (.gt, .gather 4 0 []), (.cl, .creduce 0 0 1 0 allLanes 0 0)].all
      (fun p => (warpOp (opWarp p.1 p.2) 0 0 1 p.1).map (·.data) == some p.2) = true ∧
    [(OpClass.none, OpData.greg 1 2), (.gld, .greg 1 2), (.gld, .cap 4 1 true), (.gld, .fillUni 0 5), (.gld, .fillVec 8 [])].all
      (fun p => (sliceOp (opSlice p.1 p.2) 0 1 p.1).map (·.data) == some p.2) = true ∧
    (Assoc.get? run0.crews 0).any (fun c => c.warps[0]?.any (fun w => (w.batch? 0).isSome)) = true := by
  decide +kernel

/-- A second block that waits for core 0, a third of a task in the deque of core 1, and a grid with blocks left. -/
def busy : Run :=
  let r := run0.grid 0 (fun g => { g with nbx := 4 })
  let k := ((Assoc.get? r.grids 0).bind (fun g => Assoc.get? g.kernels 0)).getD {}
  let r := makeBlock r { grid := 0, lin := 1 } k 0 [] [0]
  let r := makeBlock r { grid := 0, isTask := true } k 0 [] [1]
  r.core 1 (fun c => { c with deque := [2] })

/-- A waiter that is there and next. -/
def waits (r : Run) (w : Option Waiter) : Bool := match w with
  | some w => isNext mgmt0 r w
  | none => false

/-- SchedulingEventsHappen: an idle quadrant with a winner, a lookout batch that is diverted, a request for granules, a block that
waits for core 0, a grid with blocks left and one that replays, a task to steal, crews whose saves are due and done. -/
theorem witness_scheduling :
    let look := run0.block 0 (fun b => { b with ui := { b.ui with lookout := some (0, 0), async := some 0#32, pending := 1, mask := 1 } })
    let saved := run0.crew 0 (fun c => { c with status := .saved })
    let saving := run0.crew 0 (fun c => { c with status := .saving })
    let asked := run0.core 0 (fun k => { k with xacq := [(0, 0, 0, 1)] })
    (chooseWinner (contenders mgmt0 run0 0 0)).1.isSome = true ∧ Assoc.has (run0.coreSt 0).running 0 = false ∧
    (run0.coreSt 0).freed.contains 0 = false ∧
    (match env? mgmt0 look 0 0 0, winner mgmt0 look 0 0 with
      | some e, some w => w.same e && mayDivert w && e.w.quad == 0
      | _, _ => false) = true ∧
    granUsed asked 0 + 1 ≤ poolSize mgmt0 0 ∧
    waits busy ((Assoc.get? busy.blocks 1).bind (blockWaiter mgmt0 busy 1)) = true ∧
    (Assoc.get? busy.grids 0).any (fun g => g.redo == [] && (nextCores mgmt0 busy g).isSome && !betterGrid mgmt0 busy 0 g) = true ∧
    (Assoc.get? (busy.grid 0 (fun g => { g with redo := [(0, 0, 0, 0)] })).grids 0).any (fun g => g.redo != []) = true ∧
    (stealPick mgmt0 busy 2).isSome = true ∧ mayStealFor mgmt0 busy 2 = true ∧
    (Assoc.get? saving.crews 0).any (fun x => x.status == .saving && drained saving 0 x) = true ∧
    (Assoc.get? saved.crews 0).any (fun x => waits saved ((savedWaiters mgmt0 saved 0 x).find? (fun w => w.crews == [(0, 3)]))) = true := by
  decide +kernel

/-- A 1 by 1 product over K = 1 of FP16 elements in cluster memory, its accumulator at 0x8000, with a piece of one element. -/
def product (acc : Nat) : MatrixOp :=
  let shape := toBytes 8 0 ++ toBytes 8 64 ++ toBytes 4 1 ++ toBytes 4 1 ++ List.replicate 40 0
  { block := 0, shapeA := shape, shapeB := shape, desc := toBytes 8 acc ++ toBytes 8 0 ++ toBytes 4 1 ++ toBytes 4 1 ++ List.replicate 40 0xFF
    cut := true, parts := [0], pieces := [{ crew := 0, i0 := 0, i1 := 1, j0 := 0, j1 := 1 }] }
def withMatrix (x : MatrixOp) : Run := { run0.grid 0 (fun g => { g with fslots := [1] }) with matrix := [(0, x)] }

/-- EngineEventsHappen: a piece that is staged whole, a product whose pieces have all finished, a readout, a fault at an operand that is
poisoned, an MCLR. -/
theorem witness_matrix :
    let staged := (withMatrix (product 0x8000)).core 0 (fun c => { c with stage := some { op := 0, piece := 0, crew := 0, upto := 1 } })
    let done := { product 0x8000 with pieces := [{ crew := 0, i0 := 0, i1 := 1, j0 := 0, j1 := 1, k0 := 1 }] }
    let out := withMatrix { product 0x8000 with readout := true }
    let clear := opWarp .mx (.mclr (toBytes 8 0x8000 ++ List.replicate 56 0) [])
    (staged.coreSt 0).stage.any (fun s => (Assoc.get? staged.matrix s.op).any (fun op => s.whole op)) = true ∧
    (done.cut && !done.readout && done.pieces.all (fun p => p.finished done)) = true ∧
    (readyReadout out 0).any (fun x => ok (readElements mgmt0 out (matrixAsker (opTile out x.1) 0) x.2.2 x.2.1 x.1)) = true ∧
    (nextFault mgmt0 { withMatrix (product 0x8000) with poison := [Place.key (.clu 0 0) / 8] } 0 0).any (fun x => x.2.1 != tcHostPage) = true ∧
    (warpOp clear 0 0 1 .mx).isSome = true ∧ earlierDone clear 0 0 1 (accOf (toBytes 8 0x8000 ++ List.replicate 56 0)) false = true := by
  decide +kernel

/-- An element of 16 bytes from pad offset 128 to pad offset 256, the last, and the run whose slice has a copy of it outstanding. -/
def withCopy (flags : Nat) (c : Copy) : Run :=
  (run0.crew 0 (fun c => { c with pad := Mem.writeBytes c.pad 64 (toBytes 16 128 ++ toBytes 16 256 ++ toBytes 4 16 ++ toBytes 2 0 ++ toBytes 2 flags ++ toBytes 24 0) })).slice 0
    (fun s => { s with copies := [c] })

/-- EngineEventsHappen: a copy at an element that passes its checks, one at an element that does not, bytes that arrive, and the end. -/
theorem witness_copies :
    let c : Copy := { tag := 0, elem := 64 }
    let e? (r : Run) (p : SEnv → Copy → Bool) : Bool := match copyEnv mgmt0 r 0 0 with
      | some (e, c) => p e c
      | none => false
    let reach (bad : Bool) (e : SEnv) (c : Copy) : Bool := match readElement e c with
      | .ok (bs, tags) => (elementFault e c (elementOf bs) tags).isSome == bad
      | .error _ => false
    e? (withCopy 0x2500 c) (reach false) = true ∧ e? (withCopy 0x1D00 c) (reach true) = true ∧
    (let r := withCopy 0x2500 { c with snapshot := some (toBytes 16 128 ++ toBytes 16 256 ++ toBytes 4 16 ++ toBytes 2 0 ++ toBytes 2 0x2500 ++ toBytes 24 0) }
     e? r (fun e c =>
       let x := elementOf (c.snapshot.getD [])
       let start : Moved := { run := spendKept r (copyAsker e c), n := c.prefixLen, ahead := c.ahead }
       !c.finished && e.crew.status != .ended && x.total == 16 && (deliver e x (copyAsker e c) 0 16 16 start start).2.isNone)) = true ∧
    e? (withCopy 0x2500 { c with snapshot := some (toBytes 16 128 ++ toBytes 16 256 ++ toBytes 4 16 ++ toBytes 2 0 ++ toBytes 2 0x2500 ++ toBytes 24 0),
                                 elem := 0, prefixLen := 16 }) (fun _ c => c.finished) = true := by
  decide +kernel

/-- The run whose function 1 has queue 0 enabled for PASID 5, with one packet of a type announced, and a sound launch record at
0x9000 whose code object is at 0x10000. -/
def withPacket (ty addr value : Nat) : Run :=
  let object := toBytes 4 0x4C4F4331 ++ toBytes 2 1 ++ toBytes 2 1 ++ toBytes 4 256 ++ toBytes 4 1024
  let kernel := toBytes 4 512 ++ toBytes 4 8 ++ toBytes 4 576 ++ toBytes 4 8 ++ toBytes 32 0 ++ toBytes 2 32 ++ toBytes 1 1 ++ toBytes 1 64
  let images := [(0x10200, nopWord), (0x10204, nopWord), (0x10240, gnopWord), (0x10244, gnopWord)]
  let record := toBytes 2 1 ++ toBytes 4 0 ++ toBytes 1 1 ++ toBytes 1 64 ++ toBytes 2 32 ++ toBytes 14 0 ++ toBytes 4 1 ++ toBytes 2 1 ++
    toBytes 2 1 ++ toBytes 16 0x10000 ++ toBytes 48 0 ++ toBytes 16 0x9100
  let m := [(0x10000, object), (0x10100, kernel), (0x9000, record)].foldl (fun m p => Mem.writeBytes m p.1 p.2) run0.mem
  let m := images.foldl (fun m p => Mem.write m 4 p.1 p.2) (Mem.write m 4 0x90C0 7)
  let packet := toBytes 1 ty ++ toBytes 3 0 ++ toBytes 4 5 ++ toBytes 8 9 ++ toBytes 16 addr ++ toBytes 8 value
  let r : Run := { run0.context 64 (fun c => { c with pasid := 5 }) with
    mem := m, hostMem := Mem.writeBytes [] (hostKey 5 0x1000) packet }
  r.setQueueIf 1 0 (fun x => { x with en := true, qlog := 4, clog := 4, qpasid := 5, qbase := 0x1000, tail := 1 })

/-- FORK with its record at offset 128 of the pad, of kernel 0 of the code object at 0x10000, its join word at 0x8000 or none. -/
def forking (join : Nat) (fr : Run → Run := id) : State :=
  let s := mapped false (at_ (.fork ⟨1, 3, 4⟩) (fw := withU 4 128) (fr := fun r => (r.grid 0 (fun g => { g with code := 0x10000 })).crew 0 (fun c =>
    { c with pad := Mem.writeBytes c.pad 128 (List.replicate 16 0 ++ toBytes 16 join ++ List.replicate 32 0) })))
  { s with run := fr { s.run with mem := (withPacket 1 0 0).mem } }

/-- Whether FORK's record is good, and a condition holds. -/
def forkReady (s : State) (p : Env → Bool) : Bool :=
  ready (.fork ⟨1, 3, 4⟩) s (fun e => let bs := e.record ⟨1, 3, 4⟩
    e.un 4 % 64 == 0 && decide (e.un 4 + 64 ≤ e.k.pad) && taskRecordOk (isProt e.r e.ctx) bs && (taskKernel e.m e.r e.g bs).isSome &&
      !taskCapFault e bs && p e)

/-- SystemWordsComplete: a FORK with no join word, with one, in a block that executes again, and onto a full deque. -/
theorem witness_fork :
    forkReady (forking 0) (fun e => !e.blk.replay && decide ((e.r.coreSt e.crew.core).deque.length < 64) &&
      (joinAddr false (recField (e.record ⟨1, 3, 4⟩) 16 16)).isNone) = true ∧
    forkReady (forking 0x8000) (fun e => joinAddr false (recField (e.record ⟨1, 3, 4⟩) 16 16) == some 0x8000 &&
      ok (addJoin e (openInterval e.r e.crew.block) 0x8000 1)) = true ∧
    forkReady (forking 0 (fun r => r.block 0 (fun b => { b with replay := true }))) (fun e => e.blk.replay) = true ∧
    forkReady (forking 0 (fun r => r.core 0 (fun c => { c with deque := List.range 64 })))
      (fun e => !e.blk.replay && decide (64 ≤ (e.r.coreSt e.crew.core).deque.length)) = true := by
  decide +kernel

/-- Whether the packet is the next of the queue, and accepted. -/
def accepted (ty addr value : Nat) : Bool :=
  let r := withPacket ty addr value
  match nextPacket mgmt0 r 1 0 with
  | some bs => pktType bs == ty && judgePacket mgmt0 r 1 0 bs == .accept 64 && !fenced r 1 0 bs
  | none => false

/-- QueueEventsHappen: notify writes, packets of each type accepted, a launch accepted, one refused, a wait that ends, a signal sent,
a moderated cause, a masked vector. -/
theorem witness_queue_events :
    (let x := (withPacket 1 0x9000 0).queueIf 1 0
     x.en = true ∧ 5 < 2 ^ x.qlog ∧ 2 ^ x.qlog ≤ 16) ∧
    (accepted 1 0x9000 0 && accepted 2 0x8000 1 && accepted 3 0x8000 1 && accepted 4 0 3) = true ∧
    (let r := withPacket 1 0x9000 0
     launchMiss mgmt0 r 64 0x9000 = none ∧ (acceptLaunch mgmt0 (takeFromRing r 1 0).2 64 0x9000 { queue := 64, level := 0 }).1 = 0) ∧
    (let r := withPacket 1 0x9001 0
     (nextPacket mgmt0 r 1 0).map (judgePacket mgmt0 r 1 0) = some (.accept 64)) ∧
    (let r := withPacket 1 (2 ^ 40) 0
     (nextPacket mgmt0 r 1 0).map (judgePacket mgmt0 r 1 0) = some (.refuse 0x13)) ∧
    (let r := withPacket 2 0x8000 0
     ctxOfPasid mgmt0 r 1 5 = some 64 ∧ hostMissAt mgmt0 r 64 0x8000 8 needRd = none ∧ hostMissAt mgmt0 r 64 0x8000 8 needWr = none ∧
     (readVa mgmt0 r 64 0x8000 8).map ofBytes = some 0) ∧
    (let x : QueueIf := { remap := [(3, 0x80001000#32)], pendings := [(3, 1#32)] }
     bits (rdReg x.remap 3).toNat 31 31 = 1 ∧ bits (rdReg x.remap 3).toNat 19 12 ≠ 0 ∧ rdReg x.pendings 3 ≠ 0 ∧ x.held = false) ∧
    (let r : Run := { run0 with expired := true }
     r.expired = true ∧ (1 : Nat) ≠ r.owner) := by
  decide +kernel

/-- A context descriptor at the partition address 0x6040 for context 1, in a function whose CTXBASE is 0x6000. -/
def withDesc (pasid : Nat) : Run :=
  { run0 with mem := Mem.writeBytes run0.mem 0x6040 (toBytes 8 0x1000 ++ toBytes 4 pasid ++ toBytes 28 0 ++ toBytes 8 65536) }.setFunc 1
    (fun f => { f with ctxbase := 0x6000 })

/-- ContextEventsHappen: a sound descriptor, one whose PASID is out of range, a live context, requests outstanding, an unmapped page. -/
theorem witness_context_events :
    (partOfFn mgmt0 1).map (·.1) = some 1 ∧ run0.owner = 0 ∧
    (let x := createErr mgmt0 (withDesc 7) 1 1 1 ((Assoc.get? mgmt0.parts 1).getD {})
     x.1 = 0 ∧ x.2.isSome = true) ∧
    createErr mgmt0 (withDesc (2 ^ 20)) 1 1 1 ((Assoc.get? mgmt0.parts 1).getD {}) = (1, none) ∧
    ((Assoc.get? run0.contexts 64).map (·.live)) = some true ∧
    bits (2 ^ 31) 27 26 = 0 ∧ bitOf (2 ^ 31) 31 = true ∧ bits (2 ^ 31 + 2 ^ 26) 27 26 = 1 ∧ bits (2 ^ 31 + 2 ^ 27) 27 26 = 2 ∧
    invalReady mgmt0 (run0.setFunc 1 (fun f => { f with invctl := 0x10000000 })) 1 = true ∧
    (((run0.tile 0 (fun t => { t with reqs := [{ tag := 3, ctx := 64, page := 9, need := 1 }] })).tileSt 0).reqs.find?
      (fun q => q.tag == 3 && !q.pri && !q.refused && !q.due)).map (fun q => (q.need, q.again)) = some (1, false) ∧
    (run0.func 1).priStopped = false ∧ hostHeld mgmt0 run0 1 = false ∧
    ((run0.setFunc 1 (fun f => { f with atsWaits := 2 })).func 1).atsWaits = 2 ∧
    mgmt0.allowsTag (peerTile 0) 4 (tileChan mgmt0 2 (peerTile 0)) 2 = false ∧
    ({ mgmt0 with routes := [(routeKey (peerTile 0) 4 0, 2)] } : Mgmt).allowsTag (peerTile 0) 4 (tileChan mgmt0 1 (peerTile 0)) 1 = true ∧
    (((run0.tile 0 (fun t => { t with reqs := [{ tag := 3, ctx := 64, page := 9, need := 1, pri := true }] })).tileSt 0).reqs.find?
      (fun q => q.tag == 3 && q.pri && !q.refused)).isSome = true ∧
    ((Assoc.get? run0.contexts 64).map (fun c => bits (rdReg c.thr 0).toNat 31 0)) = some 0 ∧
    stage2 mgmt0 run0 1 0x8000 = some (.dev 0x8000) ∧
    (({ run0 with calls := [(4, { part := 1, ctx := 0, crew := 0, num := 24, off := 0, block := [], proxy := some 2 })] } : Run).calls.find?
      (fun p => p.2.proxy == some 2 && fnOfCtx mgmt0 (p.2.part * 64 + p.2.ctx) == 1)).isSome = true := by
  decide +kernel

/-- DebugEventsHappen: a snapshot on its way to a tile, a register that a function presents, and not in recovery. -/
theorem witness_debug_events :
    (let r : Run := { run0 with floods := [(0, [0, 1])] }
     r.floods[0]? = some (0, [0, 1]) ∧ [0, 1].contains 1 = true ∧ (r.tileSt 1).snapped = false) ∧
    (let r : Run := { run0 with floods := [] }
     ((sampleClocks mgmt0 (r.sampleRefc 1) 1).tileSt 1).snapped = false) ∧
    presents mgmt0 1 0x100 = true ∧ presents { mgmt0 with recovery := true } 1 0x100 = false ∧ mgmt0.recovery = false ∧ (partOfFn mgmt0 1).isSome = true := by
  decide +kernel

/-- The run whose MBDATA holds these numbers of one byte from an offset. -/
def withMb (at_ : Nat) (bs : List Nat) : Run := putMb run0 at_ (bs.map (BitVec.ofNat 8))

/-- MailboxCommandsHappen: commands that are written as they should be, and one of a code that nothing has. -/
theorem witness_commanded : Commanded { value := 0x201 } { mgmt0 with booted := true } run0 1 ∧
    Commanded { value := 0x0E } { mgmt0 with booted := true } run0 14 where
  left := { booted := rfl, offered := .inl rfl, first := rfl, port := rfl, idle := by decide +kernel, code := rfl }
  right := { booted := rfl, offered := .inl rfl, first := rfl, port := rfl, idle := by decide +kernel, code := rfl }

/-- MailboxCommandsHappen: a creation record that is sound and one that is not, and a partition that nothing keeps from growing,
shrinking, and moving. -/
theorem witness_partition_commands :
    let m : Mgmt := { mgmt0 with booted := true }
    let p := (Assoc.get? m.parts 1).getD {}
    let cmd (v : Nat) (r : Run) : Run := r.commanded { value := v }
    let make (tile : Nat) : Creation := readCreation (cmd 0x201 (putMb (withMb 0 [1, tile]) 98 ([1, 2, 0, 0, 0, 0, 1, 0].map (BitVec.ofNat 8))))
    createRefusal m 2 (make 5) = none ∧ scrubbing m (make 5).tiles (make 5).pcs = false ∧ createRefusal m 2 (make 0) = some 2 ∧
    p.pack = none ∧ m.logFull = false ∧ Assoc.get? m.parts 3 = none ∧
    growRefusal m (cmd 0x103 (withMb 0 [1, 1])) 1 p = none ∧ scrubbing m [1] [] = false ∧
    shrinkRefusal m (cmd 0x104 (withMb 0 [1, 1])) 1 { p with tiles := [0, 1] } = none ∧
    compactRefusal m (cmd 0x105 (withMb 0 [1, 8])) 1 p = none := by
  decide +kernel

/-- MailboxCommandsHappen: a pack-up whose crews are saved, shares at the limit and past it, entries of logs, the last tile and the
last piece of firmware. -/
theorem witness_other_commands :
    let p := (Assoc.get? mgmt0.parts 1).getD {}
    let k : Pack := { kind := 1, tiles := [0, 1], pcset := [], affected := [0], command := true }
    packReady (run0.crew 0 (fun c => { c with status := .saved })) k = true ∧ ({ run0 with mbstat := 2 ^ 31 } : Run).mailboxBusy = true ∧
    bits 0xFF0106 23 16 = 255 ∧ sharesBut { mgmt0 with parts := [(1, p), (2, { share := 1 })] } 1 + 255 = 256 ∧
    256 < sharesBut { mgmt0 with parts := [(1, p), (2, { share := 2 })] } 1 + 255 ∧
    entryThere (bits 0x108 21 16) 0 = true ∧ bits (95 * 2 ^ 16 + 10) 22 16 = 95 ∧ 2048 * (bits (32767 * 2 ^ 16) 31 16 + 1) = 2 ^ 26 := by
  decide +kernel

/-- ModuleEventsHappen: a tile with an owner, spares, pseudo-channels held and not, a scrub under way, retrains, a function of a
running partition. -/
theorem witness_module_events :
    let held : Mgmt := { mgmt0 with parts := mgmt0.parts.map (fun (p : Nat × Part) => (p.1, { p.2 with pcset := [3, 4] })) }
    let scrub : Mgmt := { mgmt0 with channels := [(3, { state := 2 })] }
    (mgmt0.owner 0).map (·.1) = some 1 ∧ mgmt0.owner 5 = none ∧ (mgmt0.tileHw 0).spares = [22, 23] ∧
    (mgmt0.tileHw 0).cores.contains 4 = true ∧ (({ mgmt0 with tiles := [(0, { spares := [] })] } : Mgmt).tileHw 0).spares = [] ∧
    (held.parts.find? (fun p => p.2.pcset.contains 3)).map (fun p => (p.1, p.2.pack, p.2.pcset.length)) = some (1, none, 2) ∧
    (mgmt0.parts.find? (fun p => p.2.pcset.contains 3)).isNone = true ∧ (scrub.channel 3).state = 2 ∧
    (let m1 := mgmt0.tile 0 (fun x => { x with reduced := false })
     (m1.owner 0).map (fun p => m1.reducedPart p.2) = some false) ∧
    ((mgmt0.tile 0 (fun x => { x with retrains := x.retrains + 1 })).tileHw 0).retrains ≤ 8 ∧
    (partOfFn mgmt0 1).map (fun p => (p.1, p.2.stopped, p.2.tdi)) = some (1, false, 0) ∧
    mgmt0.standbyReady = false := by
  decide +kernel

/-- A pack-up of partition 1 that moves its only tile. -/
def packing0 : Mgmt :=
  { mgmt0 with parts := mgmt0.parts.map (fun (p : Nat × Part) =>
    (p.1, { p.2 with pack := some { kind := 3, tiles := [1], pcset := [], affected := [0] } })) }

/-- R390: during the pack-up an access of an agent, of the host and of a peer to the tile that moves is held, and without it none is. -/
theorem test_pack_up_holds :
    isHeld (globalPlace packing0 run0 0 64 0x8000 needRd) = true ∧
    (match globalPlace mgmt0 run0 0 64 0x8000 needRd with
      | .ok (.dev a) => hostHolder packing0 a == some 1 && hostHolder mgmt0 a == none
      | _ => false) = true ∧
    ppaHeld packing0 1 false 0 = true ∧ ppaHeld mgmt0 1 false 0 = false ∧ homeHeld mgmt0 run0 64 0x8000 = false ∧
    isHeld (localPlace packing0 (.spad (2 ^ 40 + 65536))) = true ∧ (packing0.owner 0).map (fun p => p.2.pack.isSome) = some true := by
  decide +kernel

/-- R390: what was held is performed in the order of arrival at the end, and nothing of another partition is. -/
theorem test_held_performed :
    let w (v : Nat) : EvArgs := { addr := 64, flag := true, data := [BitVec.ofNat 8 v] }
    let r := performHeld mgmt0 { run0 with arrivals := [⟨1, true, w 7⟩, ⟨2, true, w 9⟩, ⟨1, true, w 8⟩] } 1
    Mem.byte r.mem 64 = 8 ∧ r.arrivals.map (·.part) = [2] := by
  decide +kernel

/-- AttestationEventsHappen: the physical function and a virtual one answer; a measurement register; a partition unlocked, one
locked, one that runs without its stream. -/
theorem witness_attestation :
    answers mgmt0 0 = true ∧ answers mgmt0 1 = true ∧ (measurementBlock mgmt0 1 17 0).isSome = true ∧
    (partOfFn mgmt0 1).map (fun p => (p.1, p.2.tdi)) = some (1, 0) ∧
    (partOfFn (mgmt0.setTdi 1 1) 1).map (·.2.tdi) = some 1 ∧ (partOfFn (mgmt0.setTdi 1 2) 1).map (·.2.tdi) = some 2 ∧
    (run0.func 1).ideStreams.contains 0 = false := by
  decide +kernel

/-- A service call at the head of its partition's queue, with its arguments, as a unit sees it. -/
def withCall (num : Nat) (args : List Nat) (fr : Run → Run := id) (away remote : Bool := false)
    (fc : Call → Call := id) : Run :=
  { fr run0 with
    calls := [(4, fc { part := 1, ctx := 0, crew := 0, num := num, off := 0, block := toBytes 8 0 ++ args.flatMap (toBytes 8),
                       away := away, remote := remote })]
    svcQueues := [(1, [])]
    units := if away then [] else [4] }
def called (num : Nat) (args : List Nat) (p : Run → CallEnv → Bool) (fr : Run → Run := id)
    (away remote : Bool := false) (fc : Call → Call := id) : Bool :=
  let r := withCall num args fr away remote fc
  match callEnv mgmt0 r 4 with
  | some e => servable r e num && !e.c.poisoned && p r e
  | none => false
/-- Whether an address argument is good, and which it is. -/
def given (x : Except Nat Nat) (va : Nat) : Bool := match x with
  | .ok a => a == va
  | .error _ => false
/-- Whether a call may reach n bytes of its buffer at the address. -/
def reach (va n need : Nat) (r : Run) (e : CallEnv) : Bool :=
  (hostMissAt e.m r e.ctx va n need).isNone && match globalSpan e.m r 0 e.ctx va n need with
    | .ok ps => !ps.any (poisoned r)
    | .error _ => false

/-- PoisonedCallsFault: a call whose parameter block was poisoned is at the head of its queue. -/
theorem witness_poisoned :
    (let r := withCall 46 []
     let r : Run := { r with calls := r.calls.map (fun (p : Nat × Call) => (p.1, { p.2 with poisoned := true })) }
     (callEnv mgmt0 r 4).map (fun e => (servable r e 46, e.c.poisoned)) = some (true, true)) ∧
    serviceNum .ctxYield = some 46 := by
  decide +kernel

/-- MemoryCallsComplete: an allocation at 2 MiB, a mapped page, one that a GATHER still reads, a call whose effect is done, a capability
of the context's protected pages. -/
theorem witness_memory_calls :
    let own (r : Run) : Run := r.context 64 (fun c => { c with allocs := [(9, { va := 2 ^ 21, base := 2 ^ 20, pages := 2, attr := 2 ^ 15 })] })
    let quiet (r : Run) (e : CallEnv) (va n : Nat) : Bool := match leavesIn e.m r e.ctx va n with
      | some ls => !placesHeld (dropXlats (unmapRange e.m r e.ctx ls) (· == e.ctx) (va / 4096) n) (· == e.ctx) (va / 4096) n
      | none => false
    called 1 [2 ^ 21, 0] (fun r e => e.c.owed == none && given (e.addr r 0 0 useName) (2 ^ 21) &&
      ((((Assoc.get? r.contexts e.ctx).map (·.allocs)).getD []).find? (fun p => p.2.va == 2 ^ 21)).isSome &&
      (let t := (unmapRange e.m r e.ctx ((leavesIn e.m r e.ctx (2 ^ 21) 2).getD [])).context e.ctx (fun c => { c with allocs := Assoc.erase c.allocs 9 })
       !placesHeld (dropXlats { t with taken := t.taken.erase (e.c.part, 2 ^ 20, 2) } (· == e.ctx) 512 2) (· == e.ctx) 512 2)) own = true ∧
    called 3 [2 ^ 22, 0, 4096] (fun r e => e.c.owed == none && given (e.addr r 0 4096 useName) (2 ^ 22) && rangeOk (2 ^ 22) 4096 &&
      quiet r e (2 ^ 22) 1) = true ∧
    called 3 [2 ^ 22, 0, 4096] (fun r e => (leavesIn e.m r e.ctx (2 ^ 22) 1).isSome && !quiet r e (2 ^ 22) 1)
      (fun _ => opWarp .gt (.gather 4 0 [])) = true ∧
    called 4 [2 ^ 22, 0, 4096, 2 ^ 12] (fun r e => quiet r e (2 ^ 22) 1 && bits (e.arg 3) 14 14 == 0 && match leavesIn e.m r e.ctx (2 ^ 22) 1 with
      | some ls => !placesHeld (dropXlats (ls.foldl (fun r l => writePpa e.m r e.c.part l.1 (toBytes 8 (withRights l.2 (e.arg 3)))) r)
          (· == e.ctx) 1024 1) (· == e.ctx) 1024 1 && !(List.range 1).any (fun i => leafAt e.m r e.ctx (2 ^ 22 + 4096 * i) == .hole)
      | none => false) = true ∧
    called 3 [2 ^ 22, 0, 4096] (fun r e => e.c.owed == some 0 && !placesHeld r (· == e.ctx) e.c.range.1 e.c.range.2)
      (away := true) (fc := fun c => { c with owed := some 0, range := (1024, 1) }) = true ∧
    called 5 [2 ^ 21, 0] (fun r e => given (e.addr r 0 0 useName) (2 ^ 21)) = true ∧
    called 6 [0x8000, 0, 0x100, (64 + 1) * 2 ^ 57, 0x208000, 0] (fun r e => isProt r e.ctx &&
      mintable e.m r e.ctx 0x8000 0x100 65 && onProtPage e.m r e.ctx 0x208000 && reach 0x208000 16 needWr r e)
      (fun r => r.context 64 (fun c => { c with prot := true })) = true ∧
    called 7 [0x208000, 0, 64] (fun r e => given (e.addr r 0 64 useName) 0x208000 && reach 0x208000 64 0 r e) = true := by
  decide +kernel

/-- The addresses of a protected context's calls are capabilities (R370): one of its own, with LD, ST, REV and GLB. -/
theorem witness_capability_call :
    called 7 [0x208000 + 73 * 2 ^ 57, 64 + 64 * 2 ^ 40, 64] (fun r e => isProt r e.ctx && given (e.addr r 0 64 useName) 0x208000)
      (fun r => r.context 64 (fun c => { c with prot := true })) = true := by
  decide +kernel

/-- ContextCallsComplete: grids, events, queues, logs, records, a remote post, and CTX_YIELD with a crew waiting and with none. -/
theorem witness_context_calls :
    called 10 [0x9000, 0] (fun r e => !((Assoc.get? e.m.parts e.c.part).map (·.stopped)).getD false && given (e.addr r 0 256 useRead) 0x9000 &&
      (launchMiss e.m r e.ctx 0x9000).isNone && reachable e.m r e.ctx 0x9000 256 needRd &&
      (acceptLaunch e.m r e.ctx 0x9000 { queue := e.g.queue, level := e.crew.level, byCall := true }).1 == 0)
      (fun _ => withPacket 1 0x9000 0) = true ∧
    called 11 [0] (fun r e => (gridById r e.ctx 0).isSome && (gridNamed r e.ctx 0).isSome && (gridNamed r e.ctx 9).isNone) = true ∧
    called 17 [0, 0, 0xA000, 0] (fun r e => given (e.addr r 2 72 useWrite) 0xA000 && match gridById r e.ctx 0 with
      | some (_, g) => g.det != 0 && reach (g.detrec + 24) 72 needRd r e && reach 0xA000 72 needWr r e
      | none => false) (fun r => r.grid 0 (fun g => { g with det := 1, detrec := 0xB000 })) = true ∧
    called 14 [0x8000, 0, 5] (fun r e => given (e.addr r 0 8 useWrite) 0x8000 && reach 0x8000 8 needWr r e) = true ∧
    called 15 [0x8000, 0, 0] (fun r e => given (e.addr r 0 8 useRead) 0x8000 && reach 0x8000 8 needRd r e) = true ∧
    called 38 [0x8000, 0, 64] (fun r e => given (e.addr r 0 64 useRead) 0x8000 && reach 0x8000 64 needRd r e) = true ∧
    called 41 [0x9000, 0, 8] (fun r e => given (e.addr r 0 8 useWrite) 0x9000 && reach 0x9000 8 needWr r e) = true ∧
    called 42 [0] (fun _ e => (((Assoc.get? e.m.parts e.c.part).getD {}).tiles[0]?).isSome) = true ∧
    called 43 [0x8000, 0, 256] (fun r e => given (e.addr r 0 256 useWrite) 0x8000 && reach 0x8000 256 needWr r e) = true ∧
    called 23 [2] (fun r e => !r.unreachable.contains 2 && e.c.remote) (remote := true) = true ∧
    called 44 [] (fun _ e => !e.c.away) = true ∧
    called 46 [] (fun r e => e.c.owed == none && !(waiters e.m r).any (fun w => w.crews.any (fun c => c.2 == e.crew.core))) = true ∧
    called 46 [] (fun r e => e.c.owed == none && (waiters e.m r).any (fun w => w.crews.any (fun c => c.2 == e.crew.core)) &&
      !matrixNeeds r e.c.crew) (fun _ => busy) = true ∧
    called 46 [] (fun _ e => e.c.owed != none && e.crew.status == .resident) (away := true) (fc := fun c => { c with owed := some 0 }) = true := by
  decide +kernel

/-- ContextCallsComplete: the last index, and codes that are in range, of the user-interrupt calls. -/
theorem witness_vector_calls :
    called 18 [63, 0x010302] (fun _ e => decide (e.arg 0 ≤ 63) && decide (byteOf (e.arg 1) 0 ≤ 2) && decide (byteOf (e.arg 1) 1 ≤ 3) &&
      decide (byteOf (e.arg 1) 2 ≤ 1) && byteOf (e.arg 1) 3 == 0) = true ∧
    called 19 [63, 4] (fun _ e => decide (e.arg 0 ≤ 63) && decide (byteOf (e.arg 1) 0 ≤ 4) && byteOf (e.arg 1) 1 == 0) = true ∧
    called 21 [63, 3, 2 ^ 32 - 1] (fun _ e => decide (e.arg 0 ≤ 63) && decide (e.arg 1 ≤ 3) && decide (e.arg 2 < 2 ^ 32)) = true ∧
    called 22 [63] (fun r e => (Assoc.get? r.contexts e.ctx).isSome && decide (e.arg 0 ≤ 63)) = true := by
  decide +kernel

/-- HostCallsForwarded: FILE_SEEK's neighbour FILE_CLOSE names an open handle, and the proxy ring has room. -/
theorem witness_host_calls :
    called 27 [0x30002] (fun r e => let f := r.func (fnOfCtx e.m e.ctx)
      bits f.pxctl.toNat 31 31 == 1 && proxyLimits e && handleOk r (fnOfCtx e.m e.ctx) e.ctx 0x30002 &&
      checkSpans e r (proxySpans e) == .ok && !e.blk.replay &&
      !r.calls.any (fun p => p.2.proxy == some (f.pxCount % f.pxSize) && fnOfCtx e.m (p.2.part * 64 + p.2.ctx) == fnOfCtx e.m e.ctx))
      (fun r => r.setFunc 1 (fun f => { f with pxctl := 0x80040000, handleGen := 3, handles := [(2, 64)] })) = true := by
  decide +kernel

/-- A buffer within one page that can be reached can be read or written whole, whatever its length. -/
theorem reach_page {m : Mgmt} {r : Run} {ctx va n need : Nat} {p : Place} (h0 : 0 < n) (h1 : va % 4096 = 0) (h2 : n ≤ 4096)
    (hp : globalPlace m r 0 ctx va need = .ok p) :
    hostMissAt m r ctx va n need = none ∧ ∃ ps, globalSpan m r 0 ctx va n need = .ok ps := by
  have hv : va / 4096 * 4096 = va := by omega
  have hl : (va + n - 1) / 4096 = va / 4096 := by omega
  constructor
  · unfold hostMissAt pagesTouched
    rw [if_neg (by omega), hl, show va / 4096 + 1 - va / 4096 = 1 by omega]
    simp [List.range_succ, hv, hp]
  · unfold globalSpan spanOf
    rw [if_neg (by omega), hl, show va / 4096 - va / 4096 + 1 = 1 by omega]
    simp [List.range_succ, spanOf.go, hv, hp]

/-- ContextCallsComplete: a counter that the allow-list lets through, and room for a quote of whatever length its signature gives it. -/
theorem witness_free_calls :
    (let r := run0.setFunc 1 (fun f => { f with telallow := BitVec.allOnes 64 })
     ∀ item, allowsItem mgmt0 r 1 item = true) ∧
    called 40 [0x8000, 0, 0x9000, 0, 4096] (fun r e => decide (e.m = mgmt0) && e.ctx == 64 && e.c.part == 1 && decide (2944 ≤ e.arg 4) &&
      given (e.addr r 0 32 useRead) 0x8000 && given (e.addr r 2 4096 useWrite) 0x9000 && reach 0x8000 32 needRd r e) = true ∧
    (let r := (withCall 40 [0x8000, 0, 0x9000, 0, 4096]).draw.2
     ∀ nonce i, nonce.length = 32 → let q := quoteOf mgmt0 1 nonce i
      hostMissAt mgmt0 r 64 0x9000 q.length needWr = none ∧ ∃ ps, globalSpan mgmt0 r 0 64 0x9000 q.length needWr = .ok ps) := by
  refine ⟨fun item => ?_, by decide +kernel, fun nonce i hn => reach_page (p := .dev 0x9000) ?_ (by decide) ?_ ?_⟩
  · show (BitVec.allOnes 64).getLsbD (Config.itemGroup item % 64) = true
    rw [BitVec.getLsbD_allOnes]
    simp [Nat.mod_lt]
  · simp [quoteOf, hn, toBytes_length] <;> omega
  · have h : (Config.elapsed i).toNat % 1281 < 1281 := Nat.mod_lt _ (by decide)
    simp [quoteOf, hn, toBytes_length, show ((List.range 16).map (fun _ => 64)).sum = 1024 from rfl,
      show ((List.range 8).map (fun _ => 64)).sum = 512 from rfl]
    omega
  · have : (match globalPlace mgmt0 ((withCall 40 [0x8000, 0, 0x9000, 0, 4096]).draw).2 0 64 0x9000 needWr with
        | .ok p => p == .dev 0x9000
        | .error _ => false) = true := by decide +kernel
    split at this
    · rename_i h; rw [h]; simpa using this
    · cases this

/-! ## Room for an allocation, wherever the search begins -/

theorem firstFrom_some {n start j : Nat} {ok : Nat → Bool} (hj : j < n) (h : ok j = true) :
    ∃ i, firstFrom n start ok n = some i ∧ ok i = true := by
  have key : ∀ k, (∃ x < k, (start + x) % n = j) → ∃ i, firstFrom n start ok k = some i ∧ ok i = true := by
    intro k
    induction k with
    | zero => rintro ⟨x, hx, -⟩; omega
    | succ k ih =>
      rintro ⟨x, hx, hxj⟩
      unfold firstFrom
      split
      · exact ⟨_, rfl, ‹_›⟩
      · rename_i hn
        refine ih ⟨x, ?_, hxj⟩
        rcases Nat.lt_succ_iff_lt_or_eq.mp hx with hx | hx
        · exact hx
        · subst hx; rw [hxj] at hn; exact absurd h hn
  refine key n ⟨(j + n - start % n) % n, Nat.mod_lt _ (by omega), ?_⟩
  have hs : start % n < n := Nat.mod_lt _ (by omega)
  rw [Nat.add_mod, Nat.mod_mod, ← Nat.add_mod, Nat.add_mod]
  rw [← Nat.add_mod, ← Nat.mod_add_mod, show start % n + (j + n - start % n) = j + n by omega, Nat.add_mod_right, Nat.mod_eq_of_lt hj]

/-- The small machine whose 2 MiB are all zero, the context's root table at 0x1000. -/
def runZero : Run := { (mapped false (at_ (.nop default))).run with mem := [] }

/-- Every byte of the page at p reads as 0. -/
def Blank (r : Run) (p : Nat) : Prop := ∀ a, p ≤ a → a < p + 4096 → rawByte r (.dev a) = 0

theorem stage2_zero {r : Run} {a : Nat} (h : a < 2 ^ 21) : stage2 mgmt0 r 1 a = some (.dev a) := by
  have hb : bits a 40 21 = 0 := by unfold bits; omega
  unfold stage2
  rw [show Assoc.get? mgmt0.parts 1 = some { tag := 1, tiles := [0], share := 1, vf := 1, s2limit := 2 ^ 21, s2 := [1] } from by decide +kernel]
  simp only [hb]
  rw [if_neg (by omega)]
  simp [bits]
  omega

theorem entry_blank {r : Run} {p slot : Nat} (h : Blank r p) (hp : p ≤ slot) (hs : slot + 8 ≤ p + 4096) (hl : p + 4096 ≤ 2 ^ 21) :
    entryAt mgmt0 r 1 slot = 0 := by
  unfold entryAt readPpa
  rw [stage2_zero (by omega)]
  have : (List.range 8).map (fun i => rawByte r ((Place.dev slot).add i)) = List.replicate 8 0 := by
    rw [List.map_congr_left (g := fun _ => 0) (fun i hi => ?_)]
    · rfl
    · have := List.mem_range.mp hi
      exact h (slot + i) (by omega) (by omega)
  simp only [this]
  rfl

theorem rawByte_zeroPage {r : Run} {p a : Nat} (hp : p < 2 ^ 21) (h : p ≤ a) (ha : a < p + 4096) :
    rawByte (zeroPage mgmt0 r 1 p) (.dev a) = 0 := by
  unfold zeroPage
  rw [stage2_zero hp]
  show rdReg (n := 8) (Mem.zero r.mem p 4096) a = 0
  unfold rdReg Mem.zero
  induction r.mem with
  | nil => rfl
  | cons c m ih =>
    rw [List.filter_cons]
    split
    · rename_i hc
      rw [Assoc.get?_cons, if_neg (by rintro rfl; simp [h, ha] at hc)]
      exact ih
    · exact ih

theorem rawByte_writePpa {r : Run} {p a : Nat} {bs : List Byte} (hp : p + bs.length ≤ 2 ^ 21) (h : a < p ∨ p + bs.length ≤ a) :
    rawByte (writePpa mgmt0 r 1 p bs) (.dev a) = rawByte r (.dev a) := by
  induction bs generalizing r p with
  | nil => rfl
  | cons b bs ih =>
    simp only [List.length_cons] at hp h
    unfold writePpa
    rw [ih (by omega) (by omega), stage2_zero (by omega)]
    show rawByte (rawStore r (.dev p) b) (.dev a) = rawByte r (.dev a)
    refine rawByte_rawStore_ne r b (fun e => ?_)
    injection e
    omega

theorem slot_inside (t lvl va : Nat) : t ≤ slotOf t lvl va ∧ slotOf t lvl va + 8 ≤ t + 4096 := by
  have h : va / 2 ^ (12 + 9 * lvl) % 2 ^ 9 < 2 ^ 9 := Nat.mod_lt _ (by decide)
  unfold slotOf bits
  rw [show 12 + 9 * lvl + 8 - (12 + 9 * lvl) + 1 = 9 by omega]
  omega

/-- A write through stage 2 changes no crew and no matrix operation. -/
theorem writePpa_kept (bs : List Byte) : ∀ (r : Run) (p : Nat),
    (writePpa mgmt0 r 1 p bs).crews = r.crews ∧ (writePpa mgmt0 r 1 p bs).matrix = r.matrix := by
  induction bs with
  | nil => exact fun _ _ => ⟨rfl, rfl⟩
  | cons b bs ih =>
    intro r p
    unfold writePpa
    refine ⟨(ih _ _).1.trans ?_, (ih _ _).2.trans ?_⟩ <;>
    · split
      · rename_i x hx
        unfold stage2 at hx
        repeat' (split at hx <;> try dsimp only at hx)
        all_goals first | (cases hx; rfl) | cases hx
      · rfl

theorem zeroPage_kept (r : Run) (p : Nat) : (zeroPage mgmt0 r 1 p).crews = r.crews ∧ (zeroPage mgmt0 r 1 p).matrix = r.matrix := by
  unfold zeroPage
  split <;> exact ⟨rfl, rfl⟩

/-- Entering a leaf changes no crew and no matrix operation. -/
theorem enterLeaf_kept {va e : Nat} : ∀ (ls : List Nat) (r : Run) (t : Nat) (pool : List Nat) {x : Run × List Nat},
    enterLeaf mgmt0 1 va e ls t pool r = some x → x.1.crews = r.crews ∧ x.1.matrix = r.matrix := by
  intro ls
  induction ls with
  | nil => intro _ _ _ _ h; cases h
  | cons lvl rest ih =>
    intro r t pool x h
    cases rest with
    | nil => cases h; exact writePpa_kept _ _ _
    | cons l2 rest =>
      unfold enterLeaf at h
      dsimp only at h
      repeat' split at h
      all_goals first
        | exact ih _ _ _ h
        | (have := ih _ _ _ h
           exact ⟨this.1.trans ((writePpa_kept _ _ _).1.trans (zeroPage_kept _ _).1),
             this.2.trans ((writePpa_kept _ _ _).2.trans (zeroPage_kept _ _).2)⟩)
        | cases h

/-- With the crews and matrix operations of runShared nothing holds a place of a page. -/
theorem placesHeld_kept {r t : Run} {base lo n : Nat} (hr : r.crews.all (fun p => p.2.warps.all (fun w => w.ops == [])) && r.matrix == [])
    (hc : t.crews = r.crews) (hm : t.matrix = r.matrix) :
    placesHeld (dropXlats { t with taken := t.taken ++ [(1, base, tablePages 1)] } (· == 64) lo n) (· == 64) lo n = false := by
  simp only [Bool.and_eq_true, List.all_eq_true, beq_iff_eq] at hr
  unfold placesHeld dropXlats dropWhere
  simp only [hc, hm, hr.2, List.any_nil, Bool.or_false, List.any_eq_false]
  intro p hp h
  simp only [Bool.and_eq_true, List.any_eq_true] at h
  obtain ⟨-, w, hw, o, ho, -⟩ := h
  rw [hr.1 p hp w hw] at ho
  cases ho

/-- A leaf can be entered under a blank table when there are blank pages enough, none of them twice. -/
theorem enterLeaf_some {va e : Nat} : ∀ (ls : List Nat) (r : Run) (t : Nat) (pool : List Nat), ls ≠ [] → ls.length ≤ pool.length + 1 →
    Blank r t → (t :: pool).Nodup → (∀ p ∈ t :: pool, p % 4096 = 0 ∧ p + 4096 ≤ 2 ^ 21) →
    (enterLeaf mgmt0 1 va e ls t pool r).isSome = true := by
  intro ls
  induction ls with
  | nil => intro _ _ _ h; exact absurd rfl h
  | cons lvl rest ih =>
    intro r t pool _ hl hb hd hp
    cases rest with
    | nil => rfl
    | cons l2 rest =>
      have hs := slot_inside t lvl va
      have ht := hp t (by simp)
      unfold enterLeaf
      dsimp only
      rw [entry_blank hb hs.1 hs.2 ht.2, if_pos (by decide)]
      cases pool with
      | nil => simp at hl
      | cons p ps =>
        have hpp := hp p (by simp)
        simp only [List.nodup_cons, List.mem_cons, not_or] at hd
        refine ih _ p ps (by simp) (by simpa using hl) ?_ (by simp [hd]) (fun q hq => hp q (List.mem_cons_of_mem _ hq))
        intro a h1 h2
        rw [rawByte_writePpa (by rw [toBytes_length]; omega) (by rw [toBytes_length]; omega)]
        exact rawByte_zeroPage (by omega) h1 h2

/-- A run that has only drawn free values, and zeroed pages, since runZero: its context's root is as it was. -/
theorem range_empty (va n : Nat) : rangeEmpty mgmt0 runZero.draw.2.draw.2.draw.2 64 va n = true := by
  unfold rangeEmpty leafAt
  simp only [List.all_eq_true, beq_iff_eq]
  intro i _
  unfold findLeaf
  rw [show rootOf runZero.draw.2.draw.2.draw.2 64 = 0x1000 from by decide +kernel]
  dsimp only
  have hs := slot_inside 0x1000 4 (va + 4096 * i)
  rw [show partOf 64 = 1 from rfl, entry_blank (p := 0x1000) (fun a _ _ => rfl) hs.1 hs.2 (by decide)]
  rfl

/-- What pagesFree says of more than one page from page b. -/
theorem free_pages {r : Run} {c : Context} {b n : Nat} (hc : (64, c) ∈ r.contexts) (hr : c.s1root = 0x1000) (hn : 1 ≤ n)
    (h : pagesFree mgmt0 r 1 (4096 * b) (n + 1) = true) : 0x2000 ≤ 4096 * b ∧ 4096 * b + 4096 * n < 2 ^ 21 := by
  unfold pagesFree at h
  simp only [Bool.and_eq_true, List.all_eq_true] at h
  constructor
  · have := h.2 _ hc
    simp [partOf, hr] at this
    omega
  · have h8 := h.1.1 n (by simp)
    false_or_by_contra
    unfold stage2 at h8
    rw [show Assoc.get? mgmt0.parts 1 = some { tag := 1, tiles := [0], share := 1, vf := 1, s2limit := 2 ^ 21, s2 := [1] } from by decide +kernel] at h8
    dsimp only at h8
    rw [if_pos (by omega)] at h8
    cases h8

/-- MemoryCallsComplete: an allocation of one page finds room, whatever the free values are. -/
theorem witness_allocation (attr : Nat) (ha : attr % 256 = 12) : ∃ h va t, allocate mgmt0 runZero 64 1 attr = some (h, va, t) := by
  obtain ⟨b, hb, hbo⟩ := firstFrom_some (n := 512) (start := Config.allocPage runZero.draw.2.draw.1) (j := 2)
    (ok := fun p => pagesFree mgmt0 runZero.draw.2.draw.2.draw.2 1 (4096 * p) (1 + tablePages 1)) (by decide) (by decide +kernel)
  obtain ⟨v, hv, -⟩ := firstFrom_some (n := 2 ^ 57 / 2 ^ 12) (start := Config.allocPage runZero.draw.1) (j := 0)
    (ok := fun p => decide (p * 2 ^ 12 + 4096 * 1 ≤ 2 ^ 57) && rangeEmpty mgmt0 runZero.draw.2.draw.2.draw.2 64 (p * 2 ^ 12) 1) (by decide)
    (by rw [range_empty]; decide)
  obtain ⟨k, hk, -⟩ := firstFrom_some (n := 2 ^ 32) (start := Config.allocPage runZero.draw.2.draw.2.draw.1) (j := 0)
    (ok := fun h => !runZero.draw.2.draw.2.draw.2.contexts.any (fun c => partOf c.1 == 1 && Assoc.has c.2.allocs h)) (by decide) (by decide +kernel)
  obtain ⟨h1, h2⟩ := free_pages (c := { live := true, s1root := 0x1000 }) (by decide +kernel) rfl (by decide) hbo
  have hB : freeBase mgmt0 runZero.draw.2.draw.2.draw.2 1 (1 + tablePages 1) (Config.allocPage runZero.draw.2.draw.1) = some (4096 * b) := by
    unfold freeBase
    rw [show ((Assoc.get? mgmt0.parts 1).map (·.s2limit)).getD 0 / 4096 = 512 from by decide +kernel, if_neg (by decide), hb]
    rfl
  have hV : freeRange mgmt0 runZero.draw.2.draw.2.draw.2 64 1 (2 ^ (attr % 256)) (Config.allocPage runZero.draw.1) = some (v * 2 ^ 12) := by
    unfold freeRange
    rw [ha, hv]
    rfl
  have hH : freeHandle runZero.draw.2.draw.2.draw.2 1 (Config.allocPage runZero.draw.2.draw.2.draw.1) = some k := hk
  have hE := enterLeaf_some (va := v * 2 ^ 12) (e := 4096 * b + attrBits attr) [4, 3, 2, 1, 0] (zeroPage mgmt0 runZero.draw.2.draw.2.draw.2 1 (4096 * b))
    0x1000 ((List.range (tablePages 1)).map (fun i => 4096 * b + 4096 * (1 + i))) (by decide) (by simp [tablePages])
    (fun a _ _ => by unfold zeroPage; rw [stage2_zero (by omega)]; rfl)
    (by simp [tablePages, List.range_succ]; omega)
    (by simp [tablePages, List.range_succ]; omega)
  obtain ⟨⟨t, ps⟩, ht⟩ := Option.isSome_iff_exists.mp hE
  have hP : enterPages mgmt0 64 (attrBits attr) 1 (v * 2 ^ 12) (4096 * b)
      ((List.range (tablePages 1)).map (fun i => 4096 * b + 4096 * (1 + i)))
      ((List.range 1).foldl (fun r i => zeroPage mgmt0 r 1 (4096 * b + 4096 * i)) runZero.draw.2.draw.2.draw.2) = some t := by
    unfold enterPages
    show (match enterLeaf mgmt0 1 (v * 2 ^ 12) (4096 * b + attrBits attr) [4, 3, 2, 1, 0]
      (rootOf (zeroPage mgmt0 runZero.draw.2.draw.2.draw.2 1 (4096 * b)) 64) _ (zeroPage mgmt0 runZero.draw.2.draw.2.draw.2 1 (4096 * b)) with
      | none => none
      | some (r, pool) => enterPages mgmt0 64 (attrBits attr) 0 _ _ pool r) = some t
    rw [show rootOf (zeroPage mgmt0 runZero.draw.2.draw.2.draw.2 1 (4096 * b)) 64 = 0x1000 by
      unfold zeroPage; rw [stage2_zero (by omega)]; exact (by decide +kernel : rootOf runZero 64 = 0x1000), ht]
    rfl
  refine ⟨k, v * 2 ^ 12, ?_⟩
  apply Exists.intro
  unfold allocate
  dsimp only
  rw [show partOf 64 = 1 from rfl, hB, Option.bind_eq_bind, Option.bind_some, hV, Option.bind_some, hH, Option.bind_some, hP]
  rfl

/-- The same with an allocation made with SHARE. -/
def runShared : Run := runZero.context 64 (fun c => { c with allocs := [(9, { va := 2 ^ 21, base := 2 ^ 20, pages := 1, attr := 2 ^ 15 })] })

/-- MemoryCallsComplete: MEM_MAP finds its table pages, whatever the free value is. -/
theorem witness_map (attr : Nat) : attrOk (12 + 2 ^ 12) = true ∧ rangeOk (2 ^ 22) 4096 = true ∧ rangeEmpty mgmt0 runShared 64 (2 ^ 22) 1 = true ∧
    ∃ base t, freeBase mgmt0 runShared.draw.2 1 (tablePages 1) (Config.allocPage runShared.draw.1) = some base ∧
      enterPages mgmt0 64 attr 1 (2 ^ 22) (2 ^ 20) ((List.range (tablePages 1)).map (fun i => base + 4096 * i)) runShared.draw.2 = some t ∧
      placesHeld (dropXlats { t with taken := t.taken ++ [(1, base, tablePages 1)] } (· == 64) 1024 1) (· == 64) 1024 1 = false := by
  refine ⟨by decide, by decide, by decide +kernel, ?_⟩
  obtain ⟨b, hb, hbo⟩ := firstFrom_some (n := 512) (start := Config.allocPage runShared.draw.1) (j := 2)
    (ok := fun p => pagesFree mgmt0 runShared.draw.2 1 (4096 * p) (tablePages 1)) (by decide) (by decide +kernel)
  obtain ⟨h1, h2⟩ := free_pages (c := { live := true, s1root := 0x1000, allocs := [(9, { va := 2 ^ 21, base := 2 ^ 20, pages := 1, attr := 2 ^ 15 })] })
    (by decide +kernel) rfl (by decide) hbo
  have hE := enterLeaf_some (va := 2 ^ 22) (e := 2 ^ 20 + attr) [4, 3, 2, 1, 0] runShared.draw.2 0x1000
    ((List.range (tablePages 1)).map (fun i => 4096 * b + 4096 * i)) (by decide) (by simp [tablePages]) (fun _ _ _ => rfl)
    (by simp [tablePages, List.range_succ]; omega) (by simp [tablePages, List.range_succ]; omega)
  obtain ⟨⟨t, ps⟩, ht⟩ := Option.isSome_iff_exists.mp hE
  have hP : enterPages mgmt0 64 attr 1 (2 ^ 22) (2 ^ 20) ((List.range (tablePages 1)).map (fun i => 4096 * b + 4096 * i)) runShared.draw.2 = some t := by
    unfold enterPages
    rw [show rootOf runShared.draw.2 64 = 0x1000 from by decide +kernel, show partOf 64 = 1 from rfl, ht]
    rfl
  refine ⟨4096 * b, t, ?_, hP, ?_⟩
  · unfold freeBase
    rw [show ((Assoc.get? mgmt0.parts 1).map (·.s2limit)).getD 0 / 4096 = 512 from by decide +kernel, if_neg (by decide), hb]
    rfl
  · have hk := enterLeaf_kept _ _ _ _ ht
    exact placesHeld_kept (r := runShared) (by decide +kernel) hk.1 hk.2

/-! ## Results and encodings -/

/-- Modifiers with SAT set and the others as given. -/
def satMods (sz sgn : Nat) : OpHmod := { (default : OpHmod) with sat := 1, sz := sz, sgn := sgn }

/-- IntegerFlags: sums that SAT clamps and one that it leaves, the least number's negation, and a sum of products. -/
theorem witness_integer_flags :
    (∃ f, intOp (.iadd default) = some f ∧ (f (satMods 0 0) 0x7FFFFFFF 1 0) = (0x7FFFFFFF, flOF)) ∧
    (opIadd (satMods 1 0) 255 1 0 = (255, flOF)) ∧ (opIadd (satMods 1 1) 0x7F 0 0 = (0x7F, flNone)) ∧
    (opIneg (satMods 0 0) 0x80000000 0 0 = (0x7FFFFFFF, flOF)) ∧ (opIabs default 0x80000000 0 0 = (0x80000000, flNone)) ∧
    (opDp4a (satMods 0 0) 0x01010101 0x01010101 0x7FFFFFFE = (0x7FFFFFFF, flOF)) ∧
    (∃ f, intOp (.popc default) = some f) := by
  refine ⟨⟨_, rfl, by decide +kernel⟩, by decide +kernel, by decide +kernel, by decide +kernel, by decide +kernel, by decide +kernel, _, rfl⟩

/-- MulHigh: modifiers with no narrowing and no clamping, N clear and set; -1 times 2 rounds down. -/
theorem witness_mul_high :
    (default : OpHmod).sz = 0 ∧ (default : OpHmod).sat = 0 ∧ (default : OpHmod).n = 0 ∧
    opImulh default 0xFFFFFFFF 2 0 = (0xFFFFFFFF, flNone) ∧
    opImulh { (default : OpHmod) with n := 1 } 0xFFFFFFFF 2 0 = (1, flNone) := by decide +kernel

/-- ArrivalWord: no target, a count short of it, at it, past it, and past it twice on a ring's armed slot. -/
theorem witness_arrival :
    arrivalUpdate 0 5 9 0 3 = (8, 9, 0) ∧ arrivalUpdate 4 1 9 0 2 = (3, 9, 0) ∧ arrivalUpdate 4 1 9 0 3 = (0, 10, 0) ∧
    arrivalUpdate 4 1 9 0 4 = (1, 10, 4) ∧ arrivalUpdate 4 1 9 9 8 = (1, 11, 14) ∧ arrivalUpdate 4 (2 ^ 32 - 1) 9 0 1 = (0, 9, 0) := by
  decide +kernel

/-- OtherWordsRefused: a word of each kind at the first major of its range; DecodeEncode: an instruction that is well-formed. -/
theorem witness_refused :
    bits 0 30 24 = 0 ∧ reservedMajor (bits 0x34000000 30 24) = true ∧ bits 0x60000000 30 24 = 0x60 ∧
    bits 0x01000000 30 24 = 1 ∧ reservedMajor 1 = false ∧ (Instr.gnop).wf = true ∧ (encode .gnop).isSome = true := by decide +kernel

/-! ## Turns, traps, isolation and invariants -/

/-- StepRunsDecoded: a batch, a slice and a happening whose turn it is; SharesKept and StepsAreSafe: the state after reset. -/
theorem witness_steps :
    (match batchOf (at_ (.nop default)) with
      | some e => e.k.cimg[e.b.pc.toNat / 4]? == some (BitVec.ofNat 32 ((encode (.nop default)).getD 0)) &&
          reads .compute ((encode (.nop default)).getD 0) (.nop default) && (offender e.k.cimg 24 e.b.pc.toNat []).isNone
      | none => false) = true ∧
    (match sliceOf (at_ .gnop) with
      | some e => e.k.aimg[e.s.pc.toNat / 4]? == some (BitVec.ofNat 32 ((encode .gnop).getD 0)) &&
          reads .address ((encode .gnop).getD 0) .gnop && decide (e.s.pc.toNat / 4 + 1 < e.k.aimg.length)
      | none => false) = true ∧
    State.reset.sound ∧ (∃ t, step State.reset = .next t) := by
  refine ⟨by decide +kernel, by decide +kernel, by unfold State.sound; decide +kernel, _, rfl⟩

/-- TrapfenceTraps: an armed lane, in a grid whose class 12 goes to the host. -/
theorem witness_trapfence :
    ready (.trapfence default) (at_ (.trapfence default) (fw := fun w => { w with arms := 5 })) (fun e =>
      e.w.arms &&& e.active != 0#32 && dispOf e.g tcBound e.w.hsave.isSome == .host) = true := by
  decide +kernel

/-- TrapEntersHandler: a load at a misaligned address, in a grid whose every class goes to its handler. -/
theorem witness_handler :
    ready (.ld ⟨1, 0, 0, 0, 3, 1⟩) (at_ (.ld ⟨1, 0, 0, 0, 3, 1⟩) (fw := withV 1 2) (fr := fun r => r.grid 0 (fun g => { g with disp := 0x55555555 })))
      (fun e => match wordDef (.ld ⟨1, 0, 0, 0, 3, 1⟩) with
        | some d => match d.body e with
          | .error (.trap t) => !d.mayBeLate e t && t.code != tcHostPage && t.code != tcEcc && t.mop.isNone && !t.reg && e.w.hsave.isNone &&
              dispOf e.g t.code false == .handler && e.b.lanes != 0#32 && e.w.batches.all (fun b => lowLane b.lanes == e.lead)
          | _ => false
        | none => false) = true := by
  decide +kernel

/-- A load at a misaligned address with one follower, an addition. -/
def lateWorld : State := at_ (.ld ⟨0, 1, 0, 0, 3, 1⟩) (fk := fun k => { k with cimg := k.cimg ++ [BitVec.ofNat 32 nopWord] })
  (fw := fun w => withV 6 1 (withV 1 2 w))

/-- The run after the load has failed and its follower has issued. -/
def lateRun : Option Run := do
  let e ← batchOf lateWorld
  let r ← match (wLd ⟨0, 1, 0, 0, 3, 1⟩).body e with
    | .error (.trap t) => some ((wLd ⟨0, 1, 0, 0, 3, 1⟩).goOn e e.r t)
    | _ => none
  match exec (.iadd ⟨0, 0, 5, 5, 6⟩) { lateWorld with run := r, turn := .batch 0 0 0 } with
  | .next t => some t.run
  | _ => none

/-- The run after its trap has been taken. -/
def lateStopped : Option Run := lateRun.map (fun r => failLate lateWorld.mgmt r 0 0 1)

/-- The state in which the load executes again, at an address that is right. -/
def lateAgain : State :=
  { lateWorld with
    run := (lateStopped.getD {}).warp 0 0 (fun w => withV 1 8 { w with hostrec := none })
    turn := .batch 0 0 0 }

/-- LateTrapSkips: the failed load with its follower done, whose class goes to the host. -/
theorem witness_late : (lateRun.map (fun r => (r.warp? 0 0).map (fun w =>
    w.batches.length == 1 && w.batches.all (fun b => b.lanes == allLanes && b.wait == .none) && w.hostrec.isNone && w.hsave.isNone &&
    w.windows.map (fun x => (x.op, x.left)) == [(1, [(allLanes, 1 - 1)])] &&
    match w.ops with
    | [⟨1, .none, false, .late ls 1 _ t none⟩] => ls == allLanes && t.code != tcHostPage && t.code != tcEcc && t.mop.isNone && !t.reg
    | _ => false))) = some (some true) := by
  decide +kernel

/-- LateTrapSkips: the load executes again with a follower to pass over. -/
theorem witness_late_again : (match batchOf lateAgain with
    | some e => clearB (wLd ⟨0, 1, 0, 0, 3, 1⟩) e && (match (wLd ⟨0, 1, 0, 0, 3, 1⟩).body e with
        | .ok f => f.next == .seq && (f.run.warp? 0 0).isSome
        | _ => false) &&
      (match e.b.replay with
        | [p] => p.lanes == allLanes && p.steps == [none]
        | _ => false)
    | none => false) = true := by
  decide +kernel

/-- HandlerReturns: a warp in its handler, every lane's LNK the return mark. -/
theorem witness_return :
    ready .ret (at_ .ret (fw := fun w =>
      { w with hsave := some { uregs := List.replicate 16 9, wb := 1, lnks := [], lanes := allLanes, restart := { lanes := allLanes, pc := 8 } }
               lnks := (List.range 32).map (fun l => (l, 0xFFFFFFFC#32)) }))
      (fun e => match e.w.hsave with
        | some h => h.uregs.length == 16 && e.active == e.b.lanes && e.b.lanes != 0#32 && e.b.lanes == h.lanes &&& ~~~e.w.exited &&
            e.lanes.all (fun l => e.w.lnk l == 0xFFFFFFFC#32) && e.w.batches.all (fun b => lowLane b.lanes == e.lead || b.wait != .mark) &&
            !behindPop e.w.windows e.w.ops e.b.lanes
        | none => false) = true := by
  decide +kernel

/-- PartitionIsolation: an address that reaches device memory. -/
theorem witness_isolation :
    (match globalPlace mgmt0 run0 0 64 0x8010 needRd with
      | .ok p => p == .dev 0x8010
      | .error _ => false) = true := by
  decide +kernel

/-! ## Single steps whose results the spec gives -/

/-- Vector register n of a lane, uniform register n, predicate n, and g register n, after a step. -/
def afterV (s : State) (l n : Nat) : Option Nat := match step s with
  | .next t => (t.run.warp? 0 0).map (fun w => (w.v l n).toNat)
  | _ => none
def afterU (s : State) (n : Nat) : Option Nat := match step s with
  | .next t => (t.run.warp? 0 0).map (fun w => (w.u n).toNat)
  | _ => none
def afterG (s : State) (n : Nat) : Option Nat := match step s with
  | .next t => (t.run.slice? 0).map (fun x => (x.g n).toNat)
  | _ => none
def afterW {α : Type} (s : State) (f : Warp → α) : Option α := match step s with
  | .next t => (t.run.warp? 0 0).map f
  | _ => none

/-- Two vector registers set in every lane. -/
def two (n x m y : Nat) (w : Warp) : Warp := withV m y (withV n x w)

/-- R89: 1.0 + 2.0 = 3.0, and 1.0 + 2^-24 rounds to even with NX (R41). -/
theorem test_fadd : afterV (at_ (.fadd ⟨1, 0, 3, 1, 2⟩) (fw := two 1 0x3F800000 2 0x40000000)) 7 3 = some 0x40400000 ∧
    afterV (at_ (.fadd ⟨1, 0, 3, 1, 2⟩) (fw := two 1 0x3F800000 2 0x33800000)) 0 3 = some 0x3F800000 := by
  decide +kernel
/-- R94: the sum wraps. -/
theorem test_iadd : afterV (at_ (.iadd ⟨1, 0, 3, 1, 2⟩) (fw := two 1 0xFFFFFFFF 2 2)) 31 3 = some 1 := by decide +kernel
/-- R95: the high half of a signed product. -/
theorem test_imulh : afterV (at_ (.imulh ⟨1, 0, 3, 1, 2⟩) (fw := two 1 0xFFFFFFFF 2 2)) 5 3 = some 0xFFFFFFFF := by decide +kernel
/-- R85: the destination may be a source. -/
theorem test_source_is_destination : afterV (at_ (.isub ⟨1, 0, 1, 1, 1⟩) (fw := withV 1 9)) 4 1 = some 0 := by decide +kernel
/-- R8: v registers of a warp past its base count: Register Bound is taken and v3 keeps its value. -/
theorem test_register_bound : afterV (at_ (.iadd ⟨1, 0, 3, 64, 2⟩) (fw := withV 3 9)) 0 3 = some 9 := by decide +kernel
/-- R118: 5 < 6 in every lane. -/
theorem test_icmp : afterW (at_ (.icmp ⟨1, 0, 2, 2, 1, 2⟩) (fw := two 1 5 2 6)) (fun w => w.predMask 2) = some 0xFFFFFFFF#32 := by
  decide +kernel
/-- R16: p0 is not written. -/
theorem test_p0 : afterW (at_ (.plop ⟨1, 7, 0, 0, 0⟩)) (fun w => w.p 3 0) = some true := by decide +kernel
/-- R141: UMOVI writes its sign-extended immediate once. -/
theorem test_umovi : afterU (at_ (.umovi ⟨1, 5, 0x3FFF⟩)) 5 = some 0xFFFFFFFF := by decide +kernel
/-- R125: lane 0's value in every lane. -/
theorem test_bcast : afterV (at_ (.bcast ⟨1, 1, 3, 1, 2⟩) (fw := fun w => withU 2 33 (w.setV 1 1 77))) 9 3 = some 77 := by decide +kernel
/-- R158, R240: a store to the lane slice of thread 2 lies at 2 × LANE. -/
theorem test_st_lane : (match step (at_ (.st ⟨1, 0, 0, 0, 3, 1⟩) (fw := two 3 0x11223344 1 8)) with
    | .next t => (Assoc.get? t.run.crews 0).map (fun c => Mem.bytes c.lanes 4 (2 * 4096 + 8))
    | _ => none) = some [0x44, 0x33, 0x22, 0x11] := by decide +kernel
/-- R163: an atomic ADD of 1 in each of the 32 lanes on one pad word. -/
theorem test_atom_add : (match step (at_ (.atom ⟨1, 0, 0, 0, 3, 1⟩) (fw := two 3 1 1 64)) with
    | .next t => (Assoc.get? t.run.crews 0).map (fun c => Mem.read c.pad 4 64)
    | _ => none) = some 32 := by decide +kernel
/-- R21: g0 reads as zero and discards writes; R200: IMM is sign-extended. -/
theorem test_gaddi : afterG (at_ (.gaddi ⟨1, 5, 0, 0x1FF⟩)) 5 = some (2 ^ 64 - 1) ∧ afterG (at_ (.gaddi ⟨1, 0, 0, 1⟩)) 0 = some 0 := by
  decide +kernel
/-- R201: GMOVK replaces one part of four. -/
theorem test_gmovk : afterG (at_ (.gmovk ⟨1, 5, 1, 0xABCD⟩) (fa := withG 5 0x1111222233334444)) 5 = some 0x11112222ABCD4444 := by decide +kernel
/-- R210: a branch taken moves the slice's PC by OFF words past the next. -/
theorem test_gbr : (match step (at_ (.gbeqz ⟨1, 0, 0x7FFF⟩)) with
    | .next t => (t.run.slice? 0).map (fun x => x.pc.toNat)
    | _ => none) = some 0 := by decide +kernel
/-- R136: EXIT ends every thread of the warp. -/
theorem test_exit : afterW (at_ .exit) (·.exited) = some allLanes := by decide +kernel
/-- R64: the trap after one follower has the load's PC and skip count 1. -/
theorem test_late_trap : (lateStopped.bind (·.warp? 0 0)).bind (fun w => w.hostrec.map (fun t => (t.code, t.pc.toNat, t.skip, t.redo))) =
    some (4, 0, 1, 0) := by decide +kernel
/-- R64: the load executes again and its follower does not, so v5 stays 1, and the next word is the one after the follower. -/
theorem test_late_restart : afterW lateAgain (fun w => (w.batches.map (·.pc.toNat), (w.v 3 5).toNat)) = some ([8], 1) := by decide +kernel
/-- R19: QPOP takes the oldest entry, a uniform one in every lane. -/
theorem test_qpops : afterU (at_ (.qpops ⟨1, 0, 4, 1⟩) (fr := fun r => r.crew 0 (fun c => { c with
    queues := List.replicate 16 { depth := 4, entries := [.uni 7, .uni 8] } }))) 4 = some 7 := by decide +kernel

/-! ## The assembler -/

/-- The worked example of R423. -/
theorem test_ring_placed :
    (placeRings 3776 [(4, 256)]).map (fun d => (d.hdr, d.awarr, d.data)) = [(0x0EC0, 0x0F00, 0x1000)] := by decide +kernel

/-- The examples of R422. -/
theorem test_literals : Literal.form .f32 0 0 (.int 0x3F) = some (.short 63) ∧
    Literal.form .f32 0 0 (.int 0x40) = some (.himmx 0x428 0) ∧ Literal.form .f32 0 0 (.raw 0x7F800000) = some (.himmx 0x7F8 0) ∧
    Literal.form (.packed fp16) 0 0 (.raw 0x7FC03C00) = some (.himmx 0x7FC 0x03C00) ∧
    Literal.form .f32 0 0 (.float false 2 (-3)) = none := by decide +kernel

/-- A kernel of one word in each slice, with a ring of four slots (R423). -/
def smallSource (c : List Nat) : KernelSrc :=
  { cimg := c.map (BitVec.ofNat 32), aimg := [BitVec.ofNat 32 gnopWord], pad := some 3776, rings := [(4, 256)] }

/-- The object of a source is one that R84 accepts. -/
theorem test_object : (assemble [smallSource [nopWord]] []).map (fun bs =>
    headerOk (bs.take 64) && descriptorOk ((bs.drop 256).take 256) bs.length 5120 && (ringDecl (bs.drop 256) 0).hdr == 0x0EC0) =
    some true := by decide +kernel

/-- A run of 25 words is refused, one of 24 is not (R81). -/
theorem test_run_length : (smallSource (List.replicate 25 (nopWord % 2 ^ 31))).refused = true ∧
    (smallSource (List.replicate 24 (nopWord % 2 ^ 31))).refused = false := by decide +kernel

end Sys2Proof.Tests
end

section
/-! The values of dual-shift codes (R35, R37). -/
namespace Sys2Proof.Proofs.NumberFormats

open Sys2Proof Sys2Proof.Machine

/-- A field is narrower than the power of two of its width (R4). -/
theorem bits_lt (w hi lo : Nat) : bits w hi lo < 2 ^ (hi - lo + 1) :=
  Nat.mod_lt _ (Nat.two_pow_pos _)

/-- The model chooses a term's sign by a case on the sign bit; R35 writes it as a power of -1. -/
theorem dsTerm_eq_signed_pow {s : Nat} (hs : s < 2) (k : Nat) :
    dsTerm s k = if k = 7 then 0 else (-1) ^ s * (2 : Int) ^ (6 - k) := by
  obtain rfl | rfl : s = 0 ∨ s = 1 := by omega
  · simp [dsTerm]
  · simp [dsTerm]

/-- No term is larger than 1, which is 64 units: its exponent is at most 6. -/
theorem dsTerm_bounds (s k : Nat) : -64 ≤ dsTerm s k ∧ dsTerm s k ≤ 64 := by
  have hpow : 2 ^ (6 - k) ≤ 2 ^ 6 := Nat.pow_le_pow_right Nat.two_pos (Nat.sub_le 6 k)
  unfold dsTerm
  generalize 2 ^ (6 - k) = units at hpow ⊢
  split
  · decide
  · split
    · omega
    · omega

/-- Settles O50: a code's values are those of its terms, whose sign fields are single bits. -/
theorem dsValues : Obligations.DsValues := by
  unfold Obligations.DsValues
  refine ⟨fun c _ => ⟨?_, dsTerm_bounds _ _⟩, fun c _ => ⟨?_, ?_⟩⟩
  · exact dsTerm_eq_signed_pow (bits_lt c 3 3) _
  · have first := dsTerm_eq_signed_pow (bits_lt c 7 7) (bits c 6 4)
    have second := dsTerm_eq_signed_pow (bits_lt c 3 3) (bits c 2 0)
    exact congr (congrArg (· + ·) first) second
  · obtain ⟨first_ge, first_le⟩ := dsTerm_bounds (bits c 7 7) (bits c 6 4)
    obtain ⟨second_ge, second_le⟩ := dsTerm_bounds (bits c 3 3) (bits c 2 0)
    exact ⟨Int.add_le_add first_ge second_ge, Int.add_le_add first_le second_le⟩

end Sys2Proof.Proofs.NumberFormats
end

section
/-! The integer words raise OF alone, and only where SAT changes their result (R34, R94, R97, R103, R109). -/
namespace Sys2Proof.Proofs.IntegerFlags

open Sys2Proof Sys2Proof.Machine

/-! ## Clamping (R34) -/

/-- A type's range is not empty, whatever its width. -/
theorem tyLo_le_tyHi (sgn : Bool) (w : Nat) : tyLo sgn w ≤ tyHi sgn w := by
  have half : 0 < 2 ^ (w - 1) := Nat.two_pow_pos _
  have whole : 0 < 2 ^ w := Nat.two_pow_pos _
  cases sgn
  · simp only [tyLo, tyHi, Bool.false_eq_true, if_false]
    omega
  · simp only [tyLo, tyHi, if_true]
    omega

/-- Where the flag OF comes from: SAT is set and the exact result lies outside the range. -/
theorem clampInt_flag (sat sgn : Bool) (w : Nat) (x : Int) :
    (clampInt sat sgn w x).2 = if sat = true ∧ (x < tyLo sgn w ∨ tyHi sgn w < x) then flOF else flNone := by
  cases sat
  · simp [clampInt]
  · simp only [clampInt, Bool.true_and, decide_eq_true_eq, true_and]
    split
    case isTrue below => rw [if_pos (.inl below)]
    case isFalse notBelow =>
      split
      case isTrue above => rw [if_pos (.inr above)]
      case isFalse notAbove => rw [if_neg (not_or.2 ⟨notBelow, notAbove⟩)]

/-- Under SAT the number nearest to the exact result in the range is kept, else the exact result. -/
theorem clampInt_value (sat sgn : Bool) (w : Nat) (x : Int) :
    (clampInt sat sgn w x).1 = if sat = true then max (tyLo sgn w) (min (tyHi sgn w) x) else x := by
  have range := tyLo_le_tyHi sgn w
  cases sat
  · simp [clampInt]
  · simp only [clampInt, Bool.true_and, decide_eq_true_eq, if_true]
    split
    case isTrue below => omega
    case isFalse notBelow =>
      split
      case isTrue above => omega
      case isFalse notAbove => omega

/-! ## The words that clamp (R94, R103, R109) -/

/-- A lane's operation that clamps the exact result x to a type's range under SAT, raises OF where that changes it, and writes with
put what is left. -/
def Clamps (f : LaneOp) (sgn : OpHmod → Bool) (w : OpHmod → Nat) (put : OpHmod → Int → Nat)
    (x : OpHmod → Nat → Nat → Nat → Int) : Prop :=
  ∀ m a b d, f m a b d =
    (put m (clampInt (m.sat == 1) (sgn m) (w m) (x m a b d)).1, (clampInt (m.sat == 1) (sgn m) (w m) (x m a b d)).2)

section
variable {f : LaneOp} {sgn : OpHmod → Bool} {w : OpHmod → Nat} {put : OpHmod → Int → Nat}
  {x : OpHmod → Nat → Nat → Nat → Int}

theorem Clamps.flag (h : Clamps f sgn w put x) (m : OpHmod) (a b d : Nat) :
    (f m a b d).2 =
      if m.sat = 1 ∧ (x m a b d < tyLo (sgn m) (w m) ∨ tyHi (sgn m) (w m) < x m a b d) then flOF else flNone := by
  simp only [h m a b d, clampInt_flag, beq_iff_eq]

theorem Clamps.flag_eq_flOF_iff (h : Clamps f sgn w put x) (m : OpHmod) (a b d : Nat) :
    m.sat = 1 ∧ (x m a b d < tyLo (sgn m) (w m) ∨ tyHi (sgn m) (w m) < x m a b d) ↔ (f m a b d).2 = flOF := by
  have distinct : flNone ≠ flOF := by decide
  rw [h.flag]
  split
  case isTrue changed => exact iff_of_true changed rfl
  case isFalse kept => exact iff_of_false kept distinct

theorem Clamps.result (h : Clamps f sgn w put x) (m : OpHmod) (a b d : Nat) :
    (f m a b d).1 =
      put m (if m.sat = 1 then max (tyLo (sgn m) (w m)) (min (tyHi (sgn m) (w m)) (x m a b d)) else x m a b d) := by
  simp only [h m a b d, clampInt_value, beq_iff_eq]

theorem Clamps.flag_none_or_of_sat (h : Clamps f sgn w put x) (m : OpHmod) (a b d : Nat) :
    (f m a b d).2 = flNone ∨ (f m a b d).2 = flOF ∧ m.sat = 1 := by
  rw [h.flag]
  split
  case isTrue changed => exact .inr ⟨rfl, changed.1⟩
  case isFalse kept => exact .inl rfl

end

/-- The words of R94 end in one tail, `finishInt`, so each clamps its own exact result. -/
theorem clamps_finishInt (x : OpHmod → Nat → Nat → Nat → Int) :
    Clamps (fun m a b d => finishInt m (x m a b d)) intSigned intWidth writeInt x :=
  fun _ _ _ _ => rfl

theorem clamps_ineg :
    Clamps opIneg (fun _ => true) opWidth (fun m => wrap (opWidth m)) (fun m a _ _ => -(sext (opWidth m) a)) :=
  fun _ _ _ _ => rfl

theorem clamps_iabs :
    Clamps opIabs (fun _ => true) opWidth (fun m => wrap (opWidth m)) (fun m a _ _ => ((sext (opWidth m) a).natAbs : Int)) :=
  fun _ _ _ _ => rfl

/-- Whether the sum of DP4A is signed: one of its byte types is (R103). -/
def dp4aSigned (m : OpHmod) : Bool := m.n == 0 || m.sz == 1 && m.sgn == 1

/-- The exact sum of DP4A: the old destination and the four products of typed bytes (R103). -/
def dp4aSum (m : OpHmod) (a b d : Nat) : Int :=
  (if dp4aSigned m = true then sext 32 d else (d : Int)) +
  ((List.range 4).map (fun i => (if m.n = 0 then sext 8 (byteOf a i) else (byteOf a i : Int)) *
    (if (if m.sz = 1 then m.sgn = 1 else m.n = 0) then sext 8 (byteOf b i) else (byteOf b i : Int)))).sum

/-- The bytes of b have a type of their own only where SZ is 01, so b adds a signed type in that case alone. -/
theorem dp4aSigned_eq (m : OpHmod) :
    (m.n == 0 || if m.sz = 1 then m.sgn == 1 else m.n == 0) = dp4aSigned m := by
  unfold dp4aSigned
  split
  case isTrue own => simp [own]
  case isFalse shared => simp [shared]

/-- The type of the bytes of b, tested as a flag or as a proposition. -/
theorem dp4a_bSigned_iff (m : OpHmod) :
    (if m.sz = 1 then m.sgn == 1 else m.n == 0) = true ↔ if m.sz = 1 then m.sgn = 1 else m.n = 0 := by
  split <;> exact beq_iff_eq

theorem sum_map_range_four (p : Nat → Int) : ((List.range 4).map p).sum = p 0 + p 1 + p 2 + p 3 := by
  simp [List.range_succ, Int.add_assoc]

theorem clamps_dp4a : Clamps opDp4a dp4aSigned (fun _ => 32) (fun _ => wrap 32) dp4aSum := by
  intro m a b d
  simp only [opDp4a, dp4aSum, sum_map_range_four, dp4aSigned_eq, dp4a_bSigned_iff, beq_iff_eq]

/-! ## What each integer word does -/

/-- The operations that can raise OF. -/
def clampingOps : List LaneOp := [opIadd, opIsub, opImul, opImad, opImin, opImax, opIneg, opIabs, opDp4a]

/-- The operations of the other integer words (R95, R96, R99 to R102, R109, R128). -/
def flagFreeOps : List LaneOp :=
  [opImulh, opIminn, opImaxn, opAnd, opOr, opXor, opAndn, opShl, opShr, opSar, opFunl, opPrmt, opBsubs, opBminu, opMov, opNot,
    opPopc, opClz, opCtz, opBrev, opSext8, opSext16, opBswap]

/-- Each word's operation stands in one of the two lists. -/
theorem intOp_mem {i : Instr} {f : LaneOp} (h : intOp i = some f) : f ∈ clampingOps ∨ f ∈ flagFreeOps := by
  unfold intOp at h
  split at h <;> cases h <;> simp [clampingOps, flagFreeOps]

theorem flag_of_mem_clampingOps {f : LaneOp} (h : f ∈ clampingOps) :
    ∀ m a b d, (f m a b d).2 = flNone ∨ (f m a b d).2 = flOF ∧ m.sat = 1 := by
  simp only [clampingOps, List.mem_cons, List.not_mem_nil, or_false] at h
  rcases h with rfl | rfl | rfl | rfl | rfl | rfl | rfl | rfl | rfl
  iterate 6 exact (clamps_finishInt _).flag_none_or_of_sat
  · exact clamps_ineg.flag_none_or_of_sat
  · exact clamps_iabs.flag_none_or_of_sat
  · exact clamps_dp4a.flag_none_or_of_sat

/-- Each of these answers with `pureRes`, which raises nothing. -/
theorem flag_of_mem_flagFreeOps {f : LaneOp} (h : f ∈ flagFreeOps) (m : OpHmod) (a b d : Nat) : (f m a b d).2 = flNone := by
  have pure_results : ∀ f ∈ flagFreeOps, ∃ x, f m a b d = pureRes x := by
    simp only [flagFreeOps, List.forall_mem_cons, List.not_mem_nil, false_imp_iff, implies_true, and_true]
    and_intros
    all_goals exact ⟨_, rfl⟩
  obtain ⟨x, hx⟩ := pure_results f h
  rw [hx, pureRes]

/-- Settles O48: the words that can raise a flag all clamp by R34, and the others answer with no flag. -/
theorem integerFlags : Obligations.IntegerFlags := by
  unfold Obligations.IntegerFlags
  refine ⟨fun i f m a b d h => ?_, fun i f h => ?_, fun f x h m a b d => ?_, fun f sgn w x h m a b d => ?_⟩
  · obtain clamping | free := intOp_mem h
    · exact flag_of_mem_clampingOps clamping m a b d
    · exact .inl (flag_of_mem_flagFreeOps free m a b d)
  · exact (intOp_mem h).imp_right flag_of_mem_flagFreeOps
  · have clamps : Clamps f intSigned intWidth writeInt x := by
      simp only [List.mem_cons, Prod.mk.injEq, List.not_mem_nil, or_false] at h
      rcases h with ⟨rfl, rfl⟩ | ⟨rfl, rfl⟩ | ⟨rfl, rfl⟩ | ⟨rfl, rfl⟩ | ⟨rfl, rfl⟩ | ⟨rfl, rfl⟩
      all_goals exact clamps_finishInt _
    exact ⟨clamps.flag_eq_flOF_iff m a b d, clamps.result m a b d⟩
  · have clamps : Clamps f sgn w (fun m => wrap (w m)) x := by
      simp only [List.mem_cons, Prod.mk.injEq, List.not_mem_nil, or_false] at h
      obtain ⟨rfl, rfl, rfl, rfl⟩ | ⟨rfl, rfl, rfl, rfl⟩ | ⟨rfl, rfl, rfl, rfl⟩ := h
      · exact clamps_ineg
      · exact clamps_iabs
      · exact clamps_dp4a
    exact ⟨clamps.flag_eq_flOF_iff m a b d, clamps.result m a b d⟩

end Sys2Proof.Proofs.IntegerFlags
end

section
/-! CAPCHK's summary of a quad (R195), and the words that change their own warp alone. -/
namespace Sys2Proof.Proofs.CapabilitySummary

open Sys2Proof Sys2Proof.Machine

/-! ## The fields of the summary (R195) -/

/-- The summary as a number of one bit, one bit and seven bits. -/
theorem capSummary_eq (ctxKey : Nat) (tag : Bool) (v : Nat) :
    capSummary ctxKey tag v = b2n tag + 2 * b2n (capCid v == ctxId ctxKey) + 4 * (if tag then capPerm v else 0) := by
  cases tag
  · simp [capSummary]
  · simp [capSummary]

/-- Fields of one, one and seven bits, packed from bit 0 up, read back, and nothing stands above them. -/
theorem bits_summary {a b c : Nat} (ha : a < 2) (hb : b < 2) (hc : c < 128) :
    bits (a + 2 * b + 4 * c) 0 0 = a ∧ bits (a + 2 * b + 4 * c) 1 1 = b ∧
      bits (a + 2 * b + 4 * c) 8 2 = c ∧ bits (a + 2 * b + 4 * c) 31 9 = 0 := by
  unfold bits
  and_intros
  all_goals omega

theorem b2n_lt_two (p : Bool) : b2n p < 2 := by cases p <;> decide

theorem b2n_eq_one {p : Bool} : b2n p = 1 ↔ p = true := by cases p <;> decide

/-- A capability has seven permission bits (R253). -/
theorem taggedPerm_lt (tag : Bool) (v : Nat) : (if tag then capPerm v else 0) < 128 := by
  cases tag
  · simp
  · exact NumberFormats.bits_lt v 63 57

/-- The summary fits a register, which therefore holds it whole. -/
theorem toNat_ofNat_capSummary (ctxKey : Nat) (tag : Bool) (v : Nat) :
    (BitVec.ofNat 32 (capSummary ctxKey tag v)).toNat = capSummary ctxKey tag v := by
  have hTag := b2n_lt_two tag
  have hMatch := b2n_lt_two (capCid v == ctxId ctxKey)
  have hPerm := taggedPerm_lt tag v
  rw [BitVec.toNat_ofNat, capSummary_eq]
  exact Nat.mod_eq_of_lt (by omega)

/-- What each field of the summary says of the capability. -/
theorem capSummary_fields (ctxKey : Nat) (tag : Bool) (v : Nat) :
    bits (capSummary ctxKey tag v) 0 0 = b2n tag ∧
      (bits (capSummary ctxKey tag v) 1 1 = 1 ↔ capCid v = ctxId ctxKey) ∧
      bits (capSummary ctxKey tag v) 8 2 = (if tag then capPerm v else 0) ∧
      bits (capSummary ctxKey tag v) 31 9 = 0 := by
  obtain ⟨hTag, hMatch, hPerm, hRest⟩ :=
    bits_summary (b2n_lt_two tag) (b2n_lt_two (capCid v == ctxId ctxKey)) (taggedPerm_lt tag v)
  rw [capSummary_eq]
  refine ⟨hTag, ?_, hPerm, hRest⟩
  rw [hMatch, b2n_eq_one, beq_iff_eq]

/-! ## A word that changes its own warp -/

/-- A word that nothing stops, whose effect is a change of its own warp, answers a state in which that warp has what the change gives
it, where moving on batches and windows keeps that. -/
theorem exec_onWarp {i : Instr} {s : State} {e : Env} {d : WordDef} {f : Warp → Warp} {K : Warp → Prop}
    (hd : wordDef i = some d) (hp : Issuer s e) (hc : Clear d e) (hb : d.body e = .ok (does (e.onWarp f)))
    (hf : K (f e.w)) (hK : ∀ w bs ws, K w → K { w with batches := bs, windows := ws }) :
    ∃ t w, exec i s = .next (s.after t) ∧ t.warp? e.cid e.wi = some w ∧ K w := by
  obtain ⟨-, -, hCrew, hWarp⟩ := hp.objects
  have effect : OnlyWarp e none (fun _ w => K w) (afterWord e d (does (e.onWarp f))) :=
    (OnlyWarp.start none hCrew hWarp hf).seq hCrew hWarp fun w bs ws => hK w bs ws
  obtain ⟨w, hOwn, hw⟩ := effect.own
  have inCrew : e.wi < e.crew.warps.length := (List.getElem?_eq_some_iff.mp hWarp).1
  refine ⟨_, w, ?_, Run.warp?_of hOwn (getElem?_setAt_self _ _ _ inCrew), hw⟩
  rw [exec_word hd hp]
  exact issue_clear hp hc (mayGo_seq rfl rfl) hb

/-- In a protected context CAPCHK's effect is one write of a register, whatever the quad holds: no contents trap. -/
theorem wCapchk_body {e : Env} (o : OpPair) (h : isProt e.r e.ctx = true) :
    (wCapchk o).body e = .ok (does (e.onWarp (fun w => w.setU (e.w.uIdx o.sd)
      (BitVec.ofNat 32 (capSummary e.ctx (e.w.utag (e.w.uIdx o.sa)) (e.w.quad128 (e.w.uIdx o.sa))))))) := by
  simp only [wCapchk, h, Bool.not_true, Bool.false_eq_true, if_false]
  rfl

/-- Settles O51: CAPCHK's destination holds the summary, whose fields are those of R195. -/
theorem capchkSummary : Obligations.CapchkSummary := by
  unfold Obligations.CapchkSummary
  intro o s e d hd hp hc hProt
  obtain rfl : wCapchk o = d := Option.some.inj hd
  obtain ⟨t, w, hExec, hWarp, hDest⟩ := exec_onWarp
    (K := fun w => w.u (e.w.uIdx o.sd) =
      BitVec.ofNat 32 (capSummary e.ctx (e.w.utag (e.w.uIdx o.sa)) (e.w.quad128 (e.w.uIdx o.sa))))
    hd hp hc (wCapchk_body o hProt) (Warp.u_setU_self _ _ _) (fun _ _ _ h => h)
  refine ⟨t, w, hExec, hWarp, ?_⟩
  rw [hDest, toNat_ofNat_capSummary]
  exact capSummary_fields _ _ _

end Sys2Proof.Proofs.CapabilitySummary
end

section
/-! Decoding undoes encoding, for every instruction (R65, R71 to R75). -/
namespace Sys2Proof.Proofs.DecodeEncode

open Sys2Proof Sys2Proof.Machine Sys2Proof.Laws

/-- An event has no word, so there is nothing to decode. -/
theorem statement_of_no_word {i : Instr} (h : encode i = none) : RoundTrip.Statement i :=
  fun _ _ hw => nomatch h.symm.trans hw

/-- Settles O35: each word has its own law of the two tables, and the events have no word. -/
theorem decodeEncode : Obligations.DecodeEncode := by
  unfold Obligations.DecodeEncode
  intro i
  cases i with
  | fadd o => exact RoundTrip.fadd o
  | fsub o => exact RoundTrip.fsub o
  | fmul o => exact RoundTrip.fmul o
  | ffma o => exact RoundTrip.ffma o
  | fmin o => exact RoundTrip.fmin o
  | fmax o => exact RoundTrip.fmax o
  | hadd2 o => exact RoundTrip.hadd2 o
  | hmul2 o => exact RoundTrip.hmul2 o
  | hfma2 o => exact RoundTrip.hfma2 o
  | badd2 o => exact RoundTrip.badd2 o
  | bmul2 o => exact RoundTrip.bmul2 o
  | bfma2 o => exact RoundTrip.bfma2 o
  | iadd o => exact RoundTrip.iadd o
  | isub o => exact RoundTrip.isub o
  | imul o => exact RoundTrip.imul o
  | imad o => exact RoundTrip.imad o
  | imulh o => exact RoundTrip.imulh o
  | imin o => exact RoundTrip.imin o
  | imax o => exact RoundTrip.imax o
  | iminn o => exact RoundTrip.iminn o
  | imaxn o => exact RoundTrip.imaxn o
  | and o => exact RoundTrip.and o
  | or o => exact RoundTrip.or o
  | xor o => exact RoundTrip.xor o
  | andn o => exact RoundTrip.andn o
  | shl o => exact RoundTrip.shl o
  | shr o => exact RoundTrip.shr o
  | sar o => exact RoundTrip.sar o
  | funl o => exact RoundTrip.funl o
  | prmt o => exact RoundTrip.prmt o
  | dp4a o => exact RoundTrip.dp4a o
  | bsubs o => exact RoundTrip.bsubs o
  | bminu o => exact RoundTrip.bminu o
  | nlutl o => exact RoundTrip.nlutl o
  | nluth o => exact RoundTrip.nluth o
  | prevb o => exact RoundTrip.prevb o
  | mov o => exact RoundTrip.mov o
  | not o => exact RoundTrip.not o
  | ineg o => exact RoundTrip.ineg o
  | iabs o => exact RoundTrip.iabs o
  | popc o => exact RoundTrip.popc o
  | clz o => exact RoundTrip.clz o
  | ctz o => exact RoundTrip.ctz o
  | brev o => exact RoundTrip.brev o
  | sext8 o => exact RoundTrip.sext8 o
  | sext16 o => exact RoundTrip.sext16 o
  | bswap o => exact RoundTrip.bswap o
  | setlnk o => exact RoundTrip.setlnk o
  | fneg o => exact RoundTrip.fneg o
  | fabs o => exact RoundTrip.fabs o
  | frcp o => exact RoundTrip.frcp o
  | frsq o => exact RoundTrip.frsq o
  | fsqrt o => exact RoundTrip.fsqrt o
  | fexp2 o => exact RoundTrip.fexp2 o
  | flog2 o => exact RoundTrip.flog2 o
  | fsin o => exact RoundTrip.fsin o
  | fcos o => exact RoundTrip.fcos o
  | ftanh o => exact RoundTrip.ftanh o
  | ffloor o => exact RoundTrip.ffloor o
  | fceil o => exact RoundTrip.fceil o
  | ftrunc o => exact RoundTrip.ftrunc o
  | frint o => exact RoundTrip.frint o
  | cvtif o => exact RoundTrip.cvtif o
  | cvtnf o => exact RoundTrip.cvtnf o
  | cvtfi o => exact RoundTrip.cvtfi o
  | cvtfn o => exact RoundTrip.cvtfn o
  | cvthfl o => exact RoundTrip.cvthfl o
  | cvthfh o => exact RoundTrip.cvthfh o
  | cvtbfl o => exact RoundTrip.cvtbfl o
  | cvtbfh o => exact RoundTrip.cvtbfh o
  | pack4 o => exact RoundTrip.pack4 o
  | pack2 o => exact RoundTrip.pack2 o
  | unpack8 o => exact RoundTrip.unpack8 o
  | unpack16 o => exact RoundTrip.unpack16 o
  | scale o => exact RoundTrip.scale o
  | fcmp o => exact RoundTrip.fcmp o
  | icmp o => exact RoundTrip.icmp o
  | icmpn o => exact RoundTrip.icmpn o
  | fclass o => exact RoundTrip.fclass o
  | plop o => exact RoundTrip.plop o
  | cmov o => exact RoundTrip.cmov o
  | shfl o => exact RoundTrip.shfl o
  | voteAll o => exact RoundTrip.voteAll o
  | voteAny o => exact RoundTrip.voteAny o
  | voteEq o => exact RoundTrip.voteEq o
  | ballot o => exact RoundTrip.ballot o
  | redux o => exact RoundTrip.redux o
  | sread o => exact RoundTrip.sread o
  | bcast o => exact RoundTrip.bcast o
  | lanex o => exact RoundTrip.lanex o
  | vgeti o => exact RoundTrip.vgeti o
  | vputi o => exact RoundTrip.vputi o
  | ld o => exact RoundTrip.ld o
  | st o => exact RoundTrip.st o
  | atom o => exact RoundTrip.atom o
  | qpop o => exact RoundTrip.qpop o
  | qpops o => exact RoundTrip.qpops o
  | qpush o => exact RoundTrip.qpush o
  | qpeek o => exact RoundTrip.qpeek o
  | qstat o => exact RoundTrip.qstat o
  | qdrop o => exact RoundTrip.qdrop o
  | rawait o => exact RoundTrip.rawait o
  | rrel o => exact RoundTrip.rrel o
  | rstat o => exact RoundTrip.rstat o
  | waitc o => exact RoundTrip.waitc o
  | cntrd o => exact RoundTrip.cntrd o
  | gather o => exact RoundTrip.gather o
  | creduce o => exact RoundTrip.creduce o
  | msign o => exact RoundTrip.msign o
  | mclr o => exact RoundTrip.mclr o
  | mstat o => exact RoundTrip.mstat o
  | bar o => exact RoundTrip.bar o
  | barn o => exact RoundTrip.barn o
  | fence o => exact RoundTrip.fence o
  | arrive o => exact RoundTrip.arrive o
  | await o => exact RoundTrip.await o
  | tjoin o => exact RoundTrip.tjoin o
  | tleave o => exact RoundTrip.tleave o
  | gridwait o => exact RoundTrip.gridwait o
  | trigger o => exact RoundTrip.trigger o
  | mwait o => exact RoundTrip.mwait o
  | uipost o => exact RoundTrip.uipost o
  | uipostAslice o => exact RoundTrip.uipostAslice o
  | uiwait o => exact RoundTrip.uiwait o
  | uiack o => exact RoundTrip.uiack o
  | uimask o => exact RoundTrip.uimask o
  | lookout o => exact RoundTrip.lookout o
  | svc o => exact RoundTrip.svc o
  | svcAslice o => exact RoundTrip.svcAslice o
  | capld o => exact RoundTrip.capld o
  | capst o => exact RoundTrip.capst o
  | capnarrow o => exact RoundTrip.capnarrow o
  | capchk o => exact RoundTrip.capchk o
  | capldAslice o => exact RoundTrip.capldAslice o
  | capstAslice o => exact RoundTrip.capstAslice o
  | capnarrowAslice o => exact RoundTrip.capnarrowAslice o
  | capchkAslice o => exact RoundTrip.capchkAslice o
  | brc o => exact RoundTrip.brc o
  | jmp o => exact RoundTrip.jmp o
  | call o => exact RoundTrip.call o
  | jmpr o => exact RoundTrip.jmpr o
  | himm o => exact RoundTrip.himm o
  | himmx o => exact RoundTrip.himmx o
  | hmod o => exact RoundTrip.hmod o
  | hgrd o => exact RoundTrip.hgrd o
  | hxb o => exact RoundTrip.hxb o
  | hadr o => exact RoundTrip.hadr o
  | hkeep o => exact RoundTrip.hkeep o
  | hpri o => exact RoundTrip.hpri o
  | uadd o => exact RoundTrip.uadd o
  | usub o => exact RoundTrip.usub o
  | umul o => exact RoundTrip.umul o
  | umulh o => exact RoundTrip.umulh o
  | uand o => exact RoundTrip.uand o
  | uor o => exact RoundTrip.uor o
  | uxor o => exact RoundTrip.uxor o
  | uandn o => exact RoundTrip.uandn o
  | ushl o => exact RoundTrip.ushl o
  | ushr o => exact RoundTrip.ushr o
  | usar o => exact RoundTrip.usar o
  | umin o => exact RoundTrip.umin o
  | umax o => exact RoundTrip.umax o
  | uminn o => exact RoundTrip.uminn o
  | umaxn o => exact RoundTrip.umaxn o
  | umov o => exact RoundTrip.umov o
  | uaddi o => exact RoundTrip.uaddi o
  | uandi o => exact RoundTrip.uandi o
  | uori o => exact RoundTrip.uori o
  | uxori o => exact RoundTrip.uxori o
  | ushli o => exact RoundTrip.ushli o
  | ushri o => exact RoundTrip.ushri o
  | usari o => exact RoundTrip.usari o
  | umovi o => exact RoundTrip.umovi o
  | ucmp o => exact RoundTrip.ucmp o
  | nop o => exact RoundTrip.nop o
  | trapfence o => exact RoundTrip.trapfence o
  | trap o => exact RoundTrip.trap o
  | bkpt o => exact RoundTrip.bkpt o
  | xacq o => exact RoundTrip.xacq o
  | xrel o => exact RoundTrip.xrel o
  | fork o => exact RoundTrip.fork o
  | join o => exact RoundTrip.join o
  | uswin o => exact RoundTrip.uswin o
  | yield o => exact RoundTrip.yield o
  | aflclr o => exact RoundTrip.aflclr o
  | gadd o => exact RoundTrip.gadd o
  | gsub o => exact RoundTrip.gsub o
  | gmul o => exact RoundTrip.gmul o
  | gmulh o => exact RoundTrip.gmulh o
  | gand o => exact RoundTrip.gand o
  | gor o => exact RoundTrip.gor o
  | gxor o => exact RoundTrip.gxor o
  | gshl o => exact RoundTrip.gshl o
  | gshr o => exact RoundTrip.gshr o
  | gsar o => exact RoundTrip.gsar o
  | gmin o => exact RoundTrip.gmin o
  | gmax o => exact RoundTrip.gmax o
  | gminn o => exact RoundTrip.gminn o
  | gmaxn o => exact RoundTrip.gmaxn o
  | gslt o => exact RoundTrip.gslt o
  | gsltn o => exact RoundTrip.gsltn o
  | gaddi o => exact RoundTrip.gaddi o
  | gandi o => exact RoundTrip.gandi o
  | gori o => exact RoundTrip.gori o
  | gxori o => exact RoundTrip.gxori o
  | gshli o => exact RoundTrip.gshli o
  | gshri o => exact RoundTrip.gshri o
  | gsari o => exact RoundTrip.gsari o
  | gslti o => exact RoundTrip.gslti o
  | gmovi o => exact RoundTrip.gmovi o
  | gmovk o => exact RoundTrip.gmovk o
  | gld o => exact RoundTrip.gld o
  | gst o => exact RoundTrip.gst o
  | gldq o => exact RoundTrip.gldq o
  | gldqv o => exact RoundTrip.gldqv o
  | gqpush o => exact RoundTrip.gqpush o
  | gqpop o => exact RoundTrip.gqpop o
  | gqtry o => exact RoundTrip.gqtry o
  | gqclose o => exact RoundTrip.gqclose o
  | gqstat o => exact RoundTrip.gqstat o
  | gbeqz o => exact RoundTrip.gbeqz o
  | gbnez o => exact RoundTrip.gbnez o
  | gbltz o => exact RoundTrip.gbltz o
  | gbgez o => exact RoundTrip.gbgez o
  | gbgtz o => exact RoundTrip.gbgtz o
  | gblez o => exact RoundTrip.gblez o
  | gjmp o => exact RoundTrip.gjmp o
  | gcall o => exact RoundTrip.gcall o
  | gret o => exact RoundTrip.gret o
  | gexit o => exact RoundTrip.gexit o
  | cstart o => exact RoundTrip.cstart o
  | cwait o => exact RoundTrip.cwait o
  | cquery o => exact RoundTrip.cquery o
  | rfree o => exact RoundTrip.rfree o
  | rarm o => exact RoundTrip.rarm o
  | rpeek o => exact RoundTrip.rpeek o
  | gfence o => exact RoundTrip.gfence o
  | garrive o => exact RoundTrip.garrive o
  | gmwait o => exact RoundTrip.gmwait o
  | gatom o => exact RoundTrip.gatom o
  | gtrap o => exact RoundTrip.gtrap o
  | gsread o => exact RoundTrip.gsread o
  | gwaitc o => exact RoundTrip.gwaitc o
  | gyield o => exact RoundTrip.gyield o
  | uiret => exact RoundTrip.uiret
  | ret => exact RoundTrip.ret
  | exit => exact RoundTrip.exit
  | gnop => exact RoundTrip.gnop
  | _ => exact statement_of_no_word rfl

end Sys2Proof.Proofs.DecodeEncode
end

section
/-! What each arm of exec is, and what every step keeps and answers (R376, R418; logs 2 and 5). -/
namespace Sys2Proof.Proofs.Steps

open Sys2Proof Sys2Proof.Machine

/-! ## What base camp's events and commands keep -/

theorem keepsShares_tileFailing (s : State) (a : EvArgs) : KeepsShares s.mgmt
    (if a.value = 1 then match s.mgmt.owner a.tile with
      | some (tag, _) => finishPack s.mgmt s.run tag
      | none => (s.mgmt, s.run)
    else failTile s.mgmt s.run a.tile a.flag).1 := by
  split
  · split
    · exact keepsShares_finishPack _ _ _
    · exact .refl _
  · exact keepsShares_failTile _ _ _ _

theorem keepsShares_channelDropped (s : State) (a : EvArgs) : KeepsShares s.mgmt
    (if a.value = 1 then finishPack s.mgmt s.run a.part
    else if a.value = 2 then (newWindow s.mgmt a.n, s.run)
    else dropChannel s.mgmt s.run a.n a.flag).1 := by
  split
  · exact keepsShares_finishPack _ _ _
  · split
    · exact .eq rfl
    · exact keepsShares_dropChannel _ _ _ _

theorem keepsShares_linkRetrain (s : State) (a : EvArgs) : KeepsShares s.mgmt
    (if a.value = 1 then (s.mgmt.tile a.tile (fun x => { x with retrains := 0 }), s.run)
    else retrain s.mgmt s.run a.tile).1 := by
  split
  · exact keepsShares_tile _ _ _
  · exact keepsShares_retrain _ _ _

theorem keepsShares_scrubDone (m : Mgmt) (c : Nat) : KeepsShares m (scrubDone m c) := by
  unfold scrubDone
  split
  · exact .refl _
  · exact .eq rfl

/-- Counting a struck pseudo-channel's errors, or retiring a granule, touches no partition (R13, R402). -/
theorem keepsShares_noteHit (m : Mgmt) (r : Run) (u : Upset) : KeepsShares m (noteHit m r u).1 := by
  unfold noteHit
  split
  · unfold countChannel
    dsimp only
    split
    · exact .eq rfl
    · exact .refl _
  · split
    · exact .refl _
    · exact .eq rfl
  · exact .refl _

theorem keepsSound_errlogRead (m : Mgmt) (r : Run) (t : Nat) (p : Part) (w : Nat) :
    KeepsSound m (commandErrlogRead m r t p w) := by
  unfold commandErrlogRead
  dsimp only
  split <;> exact id

theorem keepsSound_droplogRead (m : Mgmt) (r : Run) (t w : Nat) : KeepsSound m (commandDroplogRead m r t w) := by
  unfold commandDroplogRead
  dsimp only
  split <;> exact id

theorem keepsSound_snapRead (m : Mgmt) (r : Run) (t w : Nat) : KeepsSound m (commandSnapRead m r t w) := by
  unfold commandSnapRead
  dsimp only
  split <;> exact id

theorem keepsSound_fwLoad (m : Mgmt) (r : Run) (t w : Nat) : KeepsSound m (commandFwLoad m r t w) := by
  unfold commandFwLoad
  dsimp only
  split
  · exact id
  · exact keepsSound_of (.eq rfl)

/-! ## The arms of exec -/

/-- What an arm of exec answers: what issuing a word of one slice or a hint of both does, or what an event of the run alone does, or one
of base camp's, which keeps the shares sound. -/
inductive Arm (i : Instr) (s : State) (o : Outcome) : Prop
  | word {d : WordDef} (hd : wordDef i = some d) (ho : o = issue d s)
  | slice {a : SliceDef} (ha : sliceDef i = some a) (ho : o = issueSlice a s)
  | both {d : WordDef} {a : SliceDef} (hd : wordDef i = some d) (ha : sliceDef i = some a) (ho : o = issueEither d a s)
  | event {f : EvArgs → Run} (ho : o = happen s f)
  | eventAll {f : EvArgs → Mgmt × Run} (ho : o = happenAll s f) (hs : ∀ a, s.mgmt.sound = true → (f a).1.sound = true)

section
variable {i : Instr} {s : State} {o : Outcome} {c : Nat}

theorem Arm.all {f : EvArgs → Mgmt × Run} (ho : o = happenAll s f) (hf : ∀ a, KeepsShares s.mgmt (f a).1) : Arm i s o :=
  .eventAll ho fun a => (hf a).sound

theorem Arm.call {n : Nat} {f : Run → CallEnv → EvArgs → Run × Served} (ho : o = serve n f s) : Arm i s o := .event ho

theorem Arm.request {k : Instr} {n : Nat} {f : Func → Func} (ho : o = spdm s k n f) : Arm i s o := .event ho

theorem Arm.invalidation {ks : List Nat} (ho : o = invalOfKind s ks) : Arm i s o := .event ho

theorem Arm.command {f : Mgmt → Run → Nat → Nat → Done} (ho : o = mailbox s c f)
    (hf : ∀ r t w, KeepsSound s.mgmt (f s.mgmt r t w)) : Arm i s o :=
  .eventAll ho fun _ => mailboxStep_sound _ _ _ _ _ _ hf hf

theorem Arm.pack {f : Mgmt → Run → Nat → Part → Nat → Done} (ho : o = packCommand s c f)
    (hf : ∀ r t p w, KeepsSound s.mgmt (f s.mgmt r t p w)) : Arm i s o :=
  .eventAll ho fun _ => mailboxStep_sound _ _ _ _ _ _ (keepsSound_withPart f _ hf) (keepsSound_packAgain f _ hf)

end

/-- Every arm of exec is one of these. -/
theorem arm (i : Instr) (s : State) : Arm i s (exec i s) := by
  unfold exec
  cases i with
  | vfReset => exact .all rfl fun _ => keepsShares_resetVf _ _ _
  | coreReplaced => exact .all rfl fun _ => keepsShares_replaceCore _ _ _ _
  | tileFailing => exact .all rfl fun a => keepsShares_tileFailing s a
  | channelDropped => exact .all rfl fun a => keepsShares_channelDropped s a
  | scrubComplete => exact .all rfl fun _ => keepsShares_scrubDone _ _
  | powerLoss => exact .eventAll rfl fun _ _ => rfl
  | reset => exact .eventAll rfl fun _ _ => resetChip_sound _ _ _ _
  | droopTrip => exact .all rfl fun _ => keepsShares_tile _ _ _
  | clockStepUp => exact .all rfl fun _ => keepsShares_tile _ _ _
  | characterisationComplete => exact .all rfl fun _ => keepsShares_characterised _ _ _
  | thermalMonitorTrip => exact .all rfl fun _ => keepsShares_lowerCeilings _ _ _ _
  | coolantOutOfRange => exact .all rfl fun _ => keepsShares_lowerCeilings _ _ _ _
  | powerEnvelope => exact .all rfl fun _ => keepsShares_holdEnvelope _ _ _ _
  | linkRetrain => exact .all rfl fun a => keepsShares_linkRetrain s a
  | lockInterfaceRequest => exact .all rfl fun _ => keepsShares_lockInterface _ _ _ _ _
  | vendorDefined => exact .all rfl fun _ => keepsShares_vendorDefined _ _ _ _ _
  | ideStreamViolation => exact .all rfl fun _ => keepsShares_ideViolation _ _ _ _
  | create => exact .command rfl fun _ _ _ => keepsSound_create _ _ _ _
  | destroy => exact .command rfl (keepsSound_withPart _ _ fun _ _ _ _ => keepsSound_destroy _ _ _ _ _)
  | grow => exact .pack rfl fun _ _ _ _ => keepsSound_beginCommand _ _ _ _ _ _
  | shrink => exact .pack rfl fun _ _ _ _ => keepsSound_beginCommand _ _ _ _ _ _
  | compact => exact .pack rfl fun _ _ _ _ => keepsSound_beginCommand _ _ _ _ _ _
  | setShare => exact .command rfl (keepsSound_withPart _ _ fun _ _ _ _ => keepsSound_setShare _ _ _ _ _)
  | setCaps => exact .command rfl (keepsSound_withPart _ _ fun _ _ _ _ => keepsSound_setCaps _ _ _ _ _)
  | errlogRead => exact .command rfl (keepsSound_withPart _ _ fun _ _ _ _ => keepsSound_errlogRead _ _ _ _ _)
  | droplogRead => exact .command rfl fun _ _ _ => keepsSound_droplogRead _ _ _ _
  | snapRead => exact .command rfl fun _ _ _ => keepsSound_snapRead _ _ _ _
  | snapClear => exact .command rfl fun _ _ _ h => h
  | shapeRead => exact .command rfl (keepsSound_withPart _ _ fun _ _ _ _ h => h)
  | fwLoad => exact .command rfl fun _ _ _ => keepsSound_fwLoad _ _ _ _
  | mailboxUnknown => exact .eventAll rfl fun _ h => mailboxStep_sound _ _ _ _ _ _ (fun _ _ _ => id) (fun _ _ _ => id) h
  | himm o | himmx o => exact .both rfl rfl rfl
  | invctlPages | invctlContext | invctlFunction => exact .invalidation rfl
  | getVersion | getCapabilities | negotiateAlgorithms | getDigests | getCertificate | challenge | keyExchange | finish
  | heartbeat | keyUpdate | endSession => exact .request rfl
  | memAlloc | memFree | memMap | memUnmap | memProtect | memQuery | capMint | capRevoke | pinHost | unpinHost | gridLaunch
  | gridQuery | gridCancel | eventCreate | eventSignal | eventWait | queueInfo | detRecordFetch | uiVectorSet | uiPermit
  | uiRevoke | uiRoute | uiQuery | uiPostRemote | fileOpen | fileRead | fileWrite | fileClose | fileStat | fileSeek
  | dirList | fileSync | netConnect | netAccept | netSend | netRecv | netPoll | netClose | logWrite | counterRead
  | attestQuote | reportFetch | clockInfo | random | dbgHaltSelf | dbgNotify | ctxYield | ctxExit => exact .call rfl
  | arbitration | lookoutDiversion | xacqGrant | crewAdmission | blockPlacement | taskSteal | eviction | crewRestore
  | ldCompletion | stAcknowledgement | atomCompletion | gldCompletion | queueEntryFill | copyElementReach | copyArrival
  | copyCompletion | gatherCompletion | creduceRetirement | merge | matrixCompletion | matrixFault | mclrCompletion
  | readoutCompletion | mwaitObserve | thresholdWindow | thresholdSumClear | governorWindow | notifyWrite | launch
  | waitEvent | signal | uipostPacket | peerPost | cheadWrite | qctlWrite | remapTimer | ctxctlCreate | ctxctlDestroy
  | ctxctlReserved | invalidationDone | renew | claim | leaseExpiry | pxdoneWrite | dbgctlHalt | dbgctlResume | snaptrig
  | snapclr | snapshotLatch | teldataRead | registerWrite | atsTranslationCompletion | prgResponse | atsInvalidateRequest
  | getMeasurements | unsupportedRequest | hostAccess | peerAccess | peerModuleUnreachable | msixVectorUnmask | priEnable
  | hostResume => exact .event rfl
  | uipostAslice o | svcAslice o | capldAslice o | capstAslice o | capnarrowAslice o | capchkAslice o | gadd o | gsub o
  | gmul o | gmulh o | gand o | gor o | gxor o | gshl o | gshr o | gsar o | gmin o | gmax o | gminn o | gmaxn o | gslt o
  | gsltn o | gaddi o | gandi o | gori o | gxori o | gshli o | gshri o | gsari o | gslti o | gmovi o | gmovk o | gld o
  | gst o | gldq o | gldqv o | gqpush o | gqpop o | gqtry o | gqclose o | gqstat o | gbeqz o | gbnez o | gbltz o | gbgez o
  | gbgtz o | gblez o | gjmp o | gcall o | gret o | gexit o | cstart o | cwait o | cquery o | rfree o | rarm o | rpeek o
  | gfence o | garrive o | gmwait o | gatom o | gtrap o | gsread o | gwaitc o | gyield o | gnop => exact .slice rfl rfl
  | _ => exact .word rfl rfl

/-! ## Shares -/

theorem staysSound_exec (i : Instr) (s : State) : StaysSound s (exec i s) := by
  cases arm i s with
  | word _ he => exact he ▸ staysSound_issue _ _
  | slice _ he => exact he ▸ staysSound_issueSlice _ _
  | both _ _ he => exact he ▸ staysSound_issueEither _ _ _
  | event he => exact he ▸ staysSound_happen _ _
  | eventAll he hs => exact he ▸ staysSound_happenAll _ _ hs

theorem batchOtherwise_mgmt (s : State) (c w l : Nat) : (batchOtherwise s c w l).mgmt = s.mgmt := by
  unfold batchOtherwise
  split <;> rfl

theorem sliceOtherwise_mgmt (s : State) (c : Nat) : (sliceOtherwise s c).mgmt = s.mgmt := by
  unfold sliceOtherwise
  split <;> rfl

theorem chooseNext_sound {s : State} (h : s.mgmt.sound = true) : (chooseNext s).mgmt.sound = true := by
  unfold chooseNext
  dsimp only
  split
  · split
    · exact h
    · exact (keepsShares_noteHit _ _ _).sound h
  · exact h

/-- Settles O37: a choice and a fetch change no partition, and each arm of exec keeps the shares sound. -/
theorem sharesKept : Obligations.SharesKept := by
  unfold Obligations.SharesKept
  intro s t hs hstep
  change s.mgmt.sound = true at hs
  change t.mgmt.sound = true
  unfold step at hstep
  split at hstep
  case h_1 => cases hstep; exact chooseNext_sound hs
  case h_2 =>
    unfold stepBatch at hstep
    split at hstep
    · exact staysSound_exec _ _ hs _ hstep
    · cases hstep; rwa [batchOtherwise_mgmt]
  case h_3 =>
    unfold stepSlice at hstep
    split at hstep
    · exact staysSound_exec _ _ hs _ hstep
    · cases hstep; rwa [sliceOtherwise_mgmt]
  case h_4 => exact staysSound_exec _ _ hs _ hstep

/-! ## Next states -/

/-- A fetched word is one that the slice's table gives, so it is a word of that slice. -/
theorem batchInstr_word {s : State} {c w l : Nat} {i : Instr} (h : batchInstr s c w l = some i) :
    (env? s.mgmt s.run c w l).isSome = true ∧ (wordDef i).isSome = true := by
  unfold batchInstr at h
  split at h
  case h_1 => cases h
  case h_2 e he =>
    split at h
    case h_2 => cases h
    case h_1 j hf =>
      cases h
      refine ⟨Option.isSome_of_eq_some he, ?_⟩
      unfold fetchBatch at hf
      dsimp only at hf
      split at hf
      · cases hf
      · split at hf
        · cases hf
        · obtain ⟨_, hd⟩ := fetchWord_decodes hf
          exact decode_compute_word hd

theorem sliceInstr_word {s : State} {c : Nat} {i : Instr} (h : sliceInstr s c = some i) :
    (senv? s.mgmt s.run c).isSome = true ∧ (sliceDef i).isSome = true := by
  unfold sliceInstr at h
  split at h
  case h_1 => cases h
  case h_2 e he =>
    split at h
    case h_2 => cases h
    case h_1 j hf =>
      cases h
      refine ⟨Option.isSome_of_eq_some he, ?_⟩
      unfold fetchSlice at hf
      dsimp only at hf
      split at hf
      · split at hf
        · cases hf
        · obtain ⟨_, hd⟩ := fetchWord_decodes hf
          exact decode_address_word hd
      · cases hf

/-- The turn of a batch that is there is its own. -/
theorem issuer_of_turn {s : State} {c w l : Nat} {e : Env} (ht : s.turn = .batch c w l) (he : env? s.mgmt s.run c w l = some e) :
    Issuer s e := by
  have hk := he
  unfold env? at hk
  simp only [Option.bind_eq_bind, Option.bind_eq_some_iff, Option.pure_def, Option.some.injEq] at hk
  obtain ⟨_, _, _, _, _, _, _, _, _, _, rfl⟩ := hk
  exact ⟨ht, he⟩

theorem sliceIssuer_of_turn {s : State} {c : Nat} {e : SEnv} (ht : s.turn = .slice c) (he : senv? s.mgmt s.run c = some e) :
    SliceIssuer s e := by
  have hk := he
  unfold senv? at hk
  simp only [Option.bind_eq_bind, Option.bind_eq_some_iff, Option.pure_def, Option.some.injEq] at hk
  obtain ⟨_, _, _, _, _, _, rfl⟩ := hk
  exact ⟨ht, he⟩

theorem stepBatch_safe {s : State} {c w l : Nat} (ht : s.turn = .batch c w l) : ∃ t, stepBatch c w l s = .next t := by
  unfold stepBatch
  split
  case h_1 i hi =>
    obtain ⟨hEnv, hWord⟩ := batchInstr_word hi
    obtain ⟨e, he⟩ := Option.isSome_iff_exists.mp hEnv
    obtain ⟨d, hd⟩ := Option.isSome_iff_exists.mp hWord
    have hp := issuer_of_turn ht he
    exact ⟨_, (exec_word hd hp).trans (issue_issuer hp)⟩
  case h_2 => exact ⟨_, rfl⟩

theorem stepSlice_safe {s : State} {c : Nat} (ht : s.turn = .slice c) : ∃ t, stepSlice c s = .next t := by
  unfold stepSlice
  split
  case h_1 i hi =>
    obtain ⟨hEnv, hWord⟩ := sliceInstr_word hi
    obtain ⟨e, he⟩ := Option.isSome_iff_exists.mp hEnv
    obtain ⟨d, hd⟩ := Option.isSome_iff_exists.mp hWord
    have hp := sliceIssuer_of_turn ht he
    exact ⟨_, (exec_sliceWord hd hp).trans (issueSlice_issuer hp)⟩
  case h_2 => exact ⟨_, rfl⟩

/-- A happening that is no word answers a next state in its turn. -/
theorem exec_event_next {s : State} {h : Happening} (ht : s.turn = .event h) (hw : wordDef h.kind = none)
    (ha : sliceDef h.kind = none) : ∃ t, exec h.kind s = .next t := by
  cases arm h.kind s with
  | word hd => exact nomatch hw.symm.trans hd
  | slice hd => exact nomatch ha.symm.trans hd
  | both hd => exact nomatch hw.symm.trans hd
  | event ho => exact ho ▸ happen_next ht _
  | eventAll ho => exact ho ▸ happenAll_next ht _

/-- Settles O60: a turn finds its party there or changes nothing else, a choice always answers, and no happening is a word. -/
theorem stepsAreSafe : Obligations.StepsAreSafe := by
  unfold Obligations.StepsAreSafe
  intro s hEvent
  unfold State.safe step
  split
  case h_1 => exact ⟨_, rfl⟩
  case h_2 ht => exact stepBatch_safe ht
  case h_3 ht => exact stepSlice_safe ht
  case h_4 h ht =>
    obtain ⟨hw, ha⟩ := hEvent h ht
    exact exec_event_next ht hw ha

end Sys2Proof.Proofs.Steps
end

section
/-! A step runs what stands at the PC, the happening, or the choice (R57, R61, R75; log 2). -/
namespace Sys2Proof.Proofs.Fetching

open Sys2Proof Sys2Proof.Machine

theorem fetchWord_instr {sl : Slice} {img : List Word} {pc : Nat} {w : Word} {i : Instr} (hw : img[pc / 4]? = some w)
    (hd : decode sl w.toNat = .ok i) : fetchWord sl img pc = .instr i := by
  simp [fetchWord, hw, hd]

/-- A batch whose PC is inside the image, and whose run is well formed where it begins one, meets the word there. -/
theorem fetchBatch_instr {e : Env} {w : Word} {i : Instr} (hw : e.k.cimg[e.b.pc.toNat / 4]? = some w)
    (hd : decode .compute w.toNat = .ok i) (hRun : e.b.fresh = true → offender e.k.cimg 24 e.b.pc.toNat [] = none) :
    fetchBatch e = .instr i := by
  have inside : ¬ e.k.cimg.length ≤ e.b.pc.toNat / 4 := Nat.not_le.mpr (List.getElem?_eq_some_iff.mp hw).1
  have wellFormed : (if e.b.fresh then offender e.k.cimg 24 e.b.pc.toNat [] else none) = none := by
    split
    · exact hRun ‹_›
    · rfl
  simp only [fetchBatch, inside, if_false, wellFormed]
  exact fetchWord_instr hw hd

/-- A slice meets the word at its PC, unless it is a hint with no word after it (R74). -/
theorem fetchSlice_instr {e : SEnv} {w : Word} {i : Instr} (hw : e.k.aimg[e.s.pc.toNat / 4]? = some w)
    (hd : decode .address w.toNat = .ok i) (hHint : e.s.pc.toNat / 4 + 1 < e.k.aimg.length ∨ opMajor w.toNat ≠ 0x52) :
    fetchSlice e = .instr i := by
  have followed : ¬ (opMajor w.toNat = 0x52 ∧ e.k.aimg.length ≤ e.s.pc.toNat / 4 + 1 ∧ bits w.toNat 23 20 < 2) := by
    rintro ⟨hMajor, hEnd, -⟩
    rcases hHint with h | h
    · omega
    · exact h hMajor
  simp only [fetchSlice, hw, followed, if_false]
  exact fetchWord_instr hw hd

theorem step_batch {s : State} {e : Env} {i : Instr} (hp : Issuer s e) (hf : fetchBatch e = .instr i) : step s = exec i s := by
  obtain ⟨hTurn, hEnv⟩ := hp
  simp [step, hTurn, stepBatch, batchInstr, hEnv, hf]

theorem step_slice {s : State} {e : SEnv} {i : Instr} (hp : SliceIssuer s e) (hf : fetchSlice e = .instr i) :
    step s = exec i s := by
  obtain ⟨hTurn, hEnv⟩ := hp
  simp [step, hTurn, stepSlice, sliceInstr, hEnv, hf]

/-- Settles O36: the party with the turn meets its decoded word, and a happening or a choice is run as it is. -/
theorem stepRunsDecoded : Obligations.StepRunsDecoded := by
  unfold Obligations.StepRunsDecoded
  refine ⟨fun s e w i hp hw hd hRun => ?_, fun s e w i hp hw hd hHint => ?_, fun s h ht => ?_, fun s ht => ?_⟩
  · exact step_batch hp (fetchBatch_instr hw hd hRun)
  · exact step_slice hp (fetchSlice_instr hw hd hHint)
  · simp only [step, ht]
  · simp only [step, ht]

end Sys2Proof.Proofs.Fetching
end

section
/-! What the encoding tables give a word of each slice, and what reset leaves (R64 to R75, R405). -/
namespace Sys2Proof.Proofs.Decoding

open Sys2Proof Sys2Proof.Machine Sys2Proof.Laws

/-- Settles O33: each word runs through its table. -/
theorem wordsDecode : Obligations.WordsDecode := by
  unfold Obligations.WordsDecode
  and_intros
  all_goals rfl

/-- The majors of the address slice stand in no row of the compute slice's table (R71). -/
theorem decodeCompute_wrongSlice {w : Nat} (lo : 0x60 ≤ bits w 30 24) (hi : bits w 30 24 ≤ 0x6F) :
    decodeCompute w = .error .wrongSlice := by
  unfold decodeCompute
  split
  case h_71 => rfl
  all_goals omega

/-- Of the compute slice's majors the address slice's table holds those that R74 shares, and no other. -/
theorem decodeAddress_wrongSlice {w : Nat} (hi : bits w 30 24 ≤ 0x57) (own : bits w 30 24 ∉ [0x48, 0x49, 0x4A, 0x52]) :
    decodeAddress w = .error .wrongSlice := by
  simp only [List.mem_cons, List.not_mem_nil, or_false, not_or] at own
  unfold decodeAddress
  split
  case h_21 => rfl
  all_goals omega

/-- Settles O34: the majors that R75 tests first, and those that stand in the other slice's table alone. -/
theorem otherWordsRefused : Obligations.OtherWordsRefused := by
  unfold Obligations.OtherWordsRefused
  refine ⟨fun sl w h => ?_, fun sl w h => ?_, fun w lo hi => ?_, fun w lo hi free own => ?_⟩
  · unfold decode
    rw [if_pos h]
  · have live : ¬ (bits w 30 24 = 0 ∨ bits w 30 24 = 127) := by
      rintro (h0 | h0) <;> rw [h0] at h <;> exact absurd h (by decide)
    unfold decode
    rw [if_neg live, if_pos h]
  · have free : reservedMajor (bits w 30 24) = false := by
      simp [reservedMajor]
      omega
    have live : ¬ (bits w 30 24 = 0 ∨ bits w 30 24 = 127) := by omega
    rw [RoundTrip.decode_compute rfl (by simpa [free] using live)]
    exact decodeCompute_wrongSlice lo hi
  · have live : ¬ (bits w 30 24 = 0 ∨ bits w 30 24 = 127) := by omega
    rw [RoundTrip.decode_address rfl (by simpa [free] using live)]
    exact decodeAddress_wrongSlice hi own

/-- An empty memory is in its canonical form, and every byte of it reads as 0. -/
theorem Mem.nil_reads_zero : Mem.wf [] = true ∧ ∀ a, Mem.byte [] a = 0 := ⟨rfl, fun _ => rfl⟩

/-- Settles O38: reset lists nothing, so the shares sum to 0 and every memory is empty. -/
theorem resetLeaves : Obligations.ResetLeaves := by
  unfold Obligations.ResetLeaves
  refine ⟨rfl, rfl, rfl, rfl, rfl, rfl, rfl, rfl, fun m hm => ?_⟩
  have listed : ∀ m ∈ [State.reset.run.mem, State.reset.run.spad, State.reset.run.hostMem, State.reset.run.peerMem,
      State.reset.run.mbdata, State.reset.mgmt.standby], m = [] := by
    simp [State.reset]
  obtain rfl := listed m hm
  exact Mem.nil_reads_zero

end Sys2Proof.Proofs.Decoding
end

section
/-! Service calls whose parameter block holds an error (R396). -/
namespace Sys2Proof.Proofs.PoisonedCalls

open Sys2Proof Sys2Proof.Machine

/-- Each service call has an arm that serves it under its number (R372). -/
theorem exec_service {i : Instr} {n : Nat} (hn : serviceNum i = some n) (s : State) : ∃ f, exec i s = serve n f s := by
  unfold exec
  cases i <;> cases hn <;> exact ⟨_, rfl⟩

/-- Settles O29: the block is looked at before the call's own operation is. -/
theorem poisonedCallsFault : Obligations.PoisonedCallsFault := by
  unfold Obligations.PoisonedCallsFault
  intro i n a e s hn ht he hServable hPoisoned
  obtain ⟨f, hx⟩ := exec_service hn s
  exact exec_poisoned hx ht he hServable hPoisoned

end Sys2Proof.Proofs.PoisonedCalls
end

section
/-! A word that nothing stops takes its own effect and goes on, and what that leaves alone (R60, R62, R227). -/
namespace Sys2Proof.Proofs.Completion

open Sys2Proof Sys2Proof.Machine

/-! ## From a body to the answer of exec -/

theorem completes_of {i : Instr} {d : WordDef} {e : Env} {f : Flow} (hd : wordDef i = some d) (hb : d.body e = .ok f) :
    Completes i e f := by
  intro s x hx hp hc hn
  cases hd.symm.trans hx
  exact (exec_word hd hp).trans (issue_clear hp hc hn hb)

theorem sliceCompletes_of {i : Instr} {d : SliceDef} {e : SEnv} {f : SFlow} (hd : sliceDef i = some d) (hb : d.body e = .ok f) :
    SliceCompletes i e f := by
  intro s x hx hp hc hn
  cases hd.symm.trans hx
  exact (exec_sliceWord hd hp).trans (issueSlice_clear hp hc hn hb)

/-- A word whose batch goes on in order leaves alone what its own effect does, where moving on batches and windows keeps that. -/
theorem exec_frame {i : Instr} {s : State} {e : Env} {d : WordDef} {r : Run} {pop : Option Nat} {K : Warp → Warp → Prop}
    (hd : wordDef i = some d) (hp : Issuer s e) (hc : Clear d e) (hb : d.body e = .ok (does r)) (hr : OnlyWarp e pop K r)
    (hK : ∀ w bs ws, K e.w w → K e.w { w with batches := bs, windows := ws }) :
    ∃ t, exec i s = .next (s.after t) ∧ OnlyWarp e pop K t := by
  obtain ⟨-, -, hCrew, hWarp⟩ := hp.objects
  exact ⟨_, completes_of hd hb s d hd hp hc (mayGo_seq rfl rfl), hr.seq hCrew hWarp hK⟩

/-- A word of the slice that changes its own registers and goes on. -/
theorem execSlice_frame {i : Instr} {s : State} {e : SEnv} {d : SliceDef} {f : ASlice → ASlice} {K : ASlice → ASlice → Prop}
    (hd : sliceDef i = some d) (hp : SliceIssuer s e) (hc : SliceClear d e) (hb : d.body e = .ok (sliceDoes (e.onSlice f)))
    (hK : ∀ pc h w ws ps, K e.s { f e.s with pc := pc, hints := h, wait := w, windows := ws, replay := ps }) :
    ∃ t, exec i s = .next (s.after t) ∧ OnlySlice e K t := by
  obtain ⟨-, -, hCrew, hSlice⟩ := hp.objects
  exact ⟨_, sliceCompletes_of hd hb s d hd hp hc (fun h => nomatch h), OnlySlice.seq hCrew hSlice hK⟩

/-! ## Frames over the active lanes -/

theorem laneFrame_foldl_setVW {lanes : Mask} {w x : Warp} {wide : Bool} {d : Nat} {α : Type} {lane value : α → Nat} (xs : List α)
    (h : LaneFrame lanes (pair wide d) w x) (hl : ∀ p ∈ xs, lane p < 32 ∧ lanes.getLsbD (lane p) = true) :
    LaneFrame lanes (pair wide d) w (xs.foldl (fun w p => w.setVW wide (lane p) d (value p)) x) :=
  List.foldlRecOn xs _ h fun _ hx p hp => hx.setVW (hl p hp).1 (hl p hp).2 _

theorem laneFrame_raiseAll {lanes : Mask} {dst : List Nat} {w x : Warp} (fs : List (Nat × Afl)) (h : LaneFrame lanes dst w x)
    (hl : ∀ p ∈ fs, lanes.getLsbD p.1 = true) : LaneFrame lanes dst w (x.raiseAll fs) :=
  List.foldlRecOn fs _ h fun _ hx p hp => hx.raise (hl p hp) _

theorem predFrame_raiseAll {lanes : Mask} {pd : Nat} {w x : Warp} (fs : List (Nat × Afl)) (h : PredFrame lanes pd w x)
    (hl : ∀ p ∈ fs, lanes.getLsbD p.1 = true) : PredFrame lanes pd w (x.raiseAll fs) :=
  List.foldlRecOn fs _ h fun _ hx p hp => hx.raise (hl p hp) _

/-- Whatever a word pairs with each active lane names active lanes only. -/
theorem lanes_of_map {α : Type} {e : Env} {g : Nat → α} {p : Nat × α} (h : p ∈ e.lanes.map (fun l => (l, g l))) :
    p.1 < 32 ∧ e.active.getLsbD p.1 = true := by
  obtain ⟨l, hl, rfl⟩ := List.mem_map.mp h
  exact Env.lanes_active hl

/-- Results written in the active lanes, with their flags. -/
theorem onlyWarp_writeLanes {s : State} {e : Env} (hp : Issuer s e) (wide : Bool) (d : Nat) (pop : Option Nat) (g : Nat → LaneRes) :
    OnlyWarp e pop (LaneFrame e.active (pair wide d)) (writeLanes e wide d pop (e.lanes.map (fun l => (l, g l)))) := by
  obtain ⟨-, -, hCrew, hWarp⟩ := hp.objects
  have written := laneFrame_foldl_setVW (wide := wide) (d := d) (value := fun p => p.2.1) (e.lanes.map (fun l => (l, g l)))
    (LaneFrame.refl e.active (pair wide d) e.w) fun p => lanes_of_map
  refine (OnlyWarp.start pop hCrew hWarp (laneFrame_raiseAll _ written fun p hFlag => ?_)).countFlags hCrew _
  rw [List.map_map] at hFlag
  exact (lanes_of_map hFlag).2

/-! ## Format V and VUN (R60, R85, R107) -/

section
variable {i : Instr} {k : ImmKind} {f : LaneOp} {d : WordDef}

theorem vecOp_body {o : OpV} (hv : vecOp i = some (o, k, f)) (hd : wordDef i = some d) (e : Env) :
    d.body e = .ok (does (writeLanes e e.wide o.d (fmPops o.fm o.b) (e.lanes.map (fun l =>
      (l, f e.mods (e.w.vW e.wide l (o.a + 128 * e.xa)) (fmValue e o.fm o.b e.xb k e.wide l) (e.w.vW e.wide l o.d)))))) := by
  unfold vecOp at hv
  split at hv <;> cases hv <;> cases hd <;> rfl

theorem vunOp_body {o : OpVU} (hv : vunOp i = some (o, k, f)) (hd : wordDef i = some d) (e : Env) :
    d.body e = .ok (does (writeLanes e e.wide o.d (fmPops o.fm o.a)
      (e.lanes.map (fun l => (l, f e.mods (fmValue e o.fm o.a e.xa k e.wide l) 0 0))))) := by
  unfold vunOp at hv
  split at hv <;> cases hv <;> cases hd <;> rfl

end

/-- Settles O1: each word's body is that of its format, with its own operation. -/
theorem vectorWordsComplete : Obligations.VectorWordsComplete := by
  unfold Obligations.VectorWordsComplete
  intro i o k f e hv s d hd
  exact completes_of hd (vecOp_body hv hd e) s d hd

/-- Settles O2: the same of VUN, and SETLNK's effect is its own. -/
theorem unaryWordsComplete : Obligations.UnaryWordsComplete := by
  unfold Obligations.UnaryWordsComplete
  refine ⟨fun i o k f e hv s d hd => ?_, fun o e => completes_of rfl rfl⟩
  exact completes_of hd (vunOp_body hv hd e) s d hd

/-- Settles O39: results go to the destination in the active lanes, and flags are raised there. -/
theorem vectorWordsFrame : Obligations.VectorWordsFrame := by
  unfold Obligations.VectorWordsFrame
  refine ⟨fun i o k f s e d hv hd hp hc => ?_, fun i o k f s e d hv hd hp hc => ?_⟩
  · exact exec_frame hd hp hc (vecOp_body hv hd e) (onlyWarp_writeLanes hp _ _ _ _) fun w bs ws h => h.moved bs ws
  · exact exec_frame hd hp hc (vunOp_body hv hd e) (onlyWarp_writeLanes hp _ _ _ _) fun w bs ws h => h.moved bs ws

/-! ## Words that write a predicate (R16, R118 to R123) -/

theorem cmpOp_body {i : Instr} {o : OpP} {k : ImmKind} {f : OpHmod → Nat → Nat → Bool × Afl} {d : WordDef}
    (hv : cmpOp i = some (o, k, f)) (hd : wordDef i = some d) (e : Env) :
    d.body e = .ok (does (
      let res := e.lanes.map (fun l =>
        (l, f e.mods (e.w.vW e.wide l (o.a + 128 * e.xa)) (fmValue e o.fm o.b e.xb k e.wide l)))
      let fs := res.map (fun p => (p.1, p.2.2))
      countFlags ((popQueue e.r e.cid (fmPops o.fm o.b)).warp e.cid e.wi (fun w =>
        (w.setPredMask o.pd e.active (maskOf ((res.filter (fun p => p.2.1)).map (·.1)))).raiseAll fs)) e.tile e.ctx fs)) := by
  unfold cmpOp at hv
  split at hv <;> cases hv <;> cases hd <;> rfl

theorem voteOp_body {i : Instr} {o : OpVote} {f : List Bool → Bool} {d : WordDef} (hv : voteOp i = some (o, f))
    (hd : wordDef i = some d) (e : Env) :
    d.body e = .ok (does (e.onWarp (fun w => w.setPredMask o.d e.active (maskOf (e.lanes.filter (fun l =>
      f ((segLanes e (2 ^ (5 - o.seg)) l).map (fun j => e.w.p j o.a)))))))) := by
  unfold voteOp at hv
  split at hv <;> cases hv <;> cases hd <;> rfl

/-- Settles O4: a family's words share one body, and FCLASS, PLOP and CMOV have their own. -/
theorem predicateWordsComplete : Obligations.PredicateWordsComplete := by
  unfold Obligations.PredicateWordsComplete
  refine ⟨fun i o k f e hv s d hd => ?_, fun o e => completes_of rfl rfl, fun o e => completes_of rfl rfl,
    fun o e => completes_of rfl rfl, fun i o f e hv s d hd => ?_⟩
  · exact completes_of hd (cmpOp_body hv hd e) s d hd
  · exact completes_of hd (voteOp_body hv hd e) s d hd

/-- A predicate written in the active lanes. -/
theorem onlyWarp_setPredMask {s : State} {e : Env} (hp : Issuer s e) (pd : Nat) (v : Mask) :
    OnlyWarp e none (PredFrame e.active pd) (e.onWarp (fun w => w.setPredMask pd e.active v)) := by
  obtain ⟨-, -, hCrew, hWarp⟩ := hp.objects
  exact OnlyWarp.start none hCrew hWarp ((PredFrame.refl _ _ _).setPredMask v)

/-- Settles O40: a predicate is written through one mask of the active lanes, and a compare also raises flags there. -/
theorem predicateWordsFrame : Obligations.PredicateWordsFrame := by
  unfold Obligations.PredicateWordsFrame
  refine ⟨fun i o k f s e d hv hd hp hc => ?_, fun o s e d hd hp hc => ?_, fun o s e d hd hp hc => ?_,
    fun i o f s e d hv hd hp hc => ?_⟩
  · obtain ⟨-, -, hCrew, hWarp⟩ := hp.objects
    refine exec_frame hd hp hc (cmpOp_body hv hd e) ((OnlyWarp.start _ hCrew hWarp ?_).countFlags hCrew _)
      fun w bs ws h => h.moved bs ws
    refine predFrame_raiseAll _ ((PredFrame.refl _ _ _).setPredMask _) fun p hFlag => ?_
    rw [List.map_map] at hFlag
    exact (lanes_of_map hFlag).2
  · cases hd
    exact exec_frame rfl hp hc rfl (onlyWarp_setPredMask hp _ _) fun w bs ws h => h.moved bs ws
  · cases hd
    exact exec_frame rfl hp hc rfl (onlyWarp_setPredMask hp _ _) fun w bs ws h => h.moved bs ws
  · exact exec_frame hd hp hc (voteOp_body hv hd e) (onlyWarp_setPredMask hp _ _) fun w bs ws h => h.moved bs ws

/-! ## Uniform words (R139 to R142) -/

theorem uniOp_body {i : Instr} {o : OpU} {f : LaneOp} {d : WordDef} (hv : uniOp i = some (o, f)) (hd : wordDef i = some d)
    (e : Env) :
    d.body e = .ok (does (e.onWarp (fun w => w.setUW e.wide (e.w.uIdx o.sd)
      (f e.mods (e.w.uW e.wide (e.w.uIdx o.sa)) (e.w.uW e.wide (e.w.uIdx o.sb)) 0).1))) := by
  unfold uniOp at hv
  split at hv <;> cases hv <;> cases hd <;> rfl

theorem uniImmOp_body {i : Instr} {o : OpUI} {f : LaneOp} {d : WordDef} (hv : uniImmOp i = some (o, f))
    (hd : wordDef i = some d) (e : Env) :
    d.body e = .ok (does (e.onWarp (fun w => w.setUW e.wide (e.w.uIdx o.sd)
      (f e.mods (e.w.uW e.wide (e.w.uIdx o.sd)) (uniImm e o.imm) 0).1))) := by
  unfold uniImmOp at hv
  split at hv <;> cases hv <;> cases hd <;> rfl

/-- Settles O6: a family's words share one body, and UMOV and UCMP have their own. -/
theorem uniformWordsComplete : Obligations.UniformWordsComplete := by
  unfold Obligations.UniformWordsComplete
  refine ⟨fun i o f e hv s d hd => ?_, fun i o f e hv s d hd => ?_, fun o e => completes_of rfl rfl,
    fun o e => completes_of rfl rfl⟩
  · exact completes_of hd (uniOp_body hv hd e) s d hd
  · exact completes_of hd (uniImmOp_body hv hd e) s d hd

/-- A uniform register or pair written. -/
theorem onlyWarp_setUW {s : State} {e : Env} (hp : Issuer s e) (wide : Bool) (n x : Nat) :
    OnlyWarp e none (UniFrame (pair wide n)) (e.onWarp (fun w => w.setUW wide n x)) := by
  obtain ⟨-, -, hCrew, hWarp⟩ := hp.objects
  exact OnlyWarp.start none hCrew hWarp ((UniFrame.refl _ _).setUW x)

/-- Settles O41: each word writes its destination once. -/
theorem uniformWordsFrame : Obligations.UniformWordsFrame := by
  unfold Obligations.UniformWordsFrame
  refine ⟨fun i o f s e d hv hd hp hc => ?_, fun i o f s e d hv hd hp hc => ?_, fun o s e d hd hp hc => ?_,
    fun o s e d hd hp hc => ?_⟩
  · exact exec_frame hd hp hc (uniOp_body hv hd e) (onlyWarp_setUW hp _ _ _) fun w bs ws h => h.moved bs ws
  · exact exec_frame hd hp hc (uniImmOp_body hv hd e) (onlyWarp_setUW hp _ _ _) fun w bs ws h => h.moved bs ws
  · cases hd
    exact exec_frame rfl hp hc rfl (onlyWarp_setUW hp _ _ _) fun w bs ws h => h.moved bs ws
  · cases hd
    obtain ⟨-, -, hCrew, hWarp⟩ := hp.objects
    exact exec_frame rfl hp hc rfl
      (OnlyWarp.start none hCrew hWarp ((UniFrame.refl _ _).setU (List.mem_singleton.mpr rfl) _)) fun w bs ws h => h.moved bs ws

/-! ## Scalar arithmetic of the slice (R21, R198 to R201) -/

theorem gopaOp_body {i : Instr} {o : OpGA} {f : LaneOp} {d : SliceDef} (hv : gopaOp i = some (o, f)) (hd : sliceDef i = some d)
    (e : SEnv) :
    d.body e = .ok (sliceDoes (e.onSlice (fun s => s.setG o.gd (f mods64 (e.s.gn o.ga) (e.s.gn o.gb) 0).1))) := by
  unfold gopaOp at hv
  split at hv <;> cases hv <;> cases hd <;> rfl

theorem gopiOp_body {i : Instr} {o : OpGI} {f : LaneOp} {d : SliceDef} (hv : gopiOp i = some (o, f)) (hd : sliceDef i = some d)
    (e : SEnv) :
    d.body e = .ok (sliceDoes (e.onSlice (fun s =>
      s.setG o.gd (f mods64 (e.s.gn o.ga) (if e.hints.imm? then e.imm else sextTo 64 9 o.imm) 0).1))) := by
  unfold gopiOp at hv
  split at hv <;> cases hv <;> cases hd <;> rfl

/-- Settles O15: a family's words share one body, and GMOVI and GMOVK have their own. -/
theorem sliceArithmeticWordsComplete : Obligations.SliceArithmeticWordsComplete := by
  unfold Obligations.SliceArithmeticWordsComplete
  refine ⟨fun i o f e hv s d hd => ?_, fun i o f e hv s d hd => ?_, fun o e => sliceCompletes_of rfl rfl,
    fun o e => sliceCompletes_of rfl rfl⟩
  · exact sliceCompletes_of hd (gopaOp_body hv hd e) s d hd
  · exact sliceCompletes_of hd (gopiOp_body hv hd e) s d hd

/-- Settles O42: each word writes its g register once. -/
theorem sliceArithmeticFrame : Obligations.SliceArithmeticFrame := by
  unfold Obligations.SliceArithmeticFrame
  refine ⟨fun i o f s e d hv hd hp hc => ?_, fun i o f s e d hv hd hp hc => ?_, fun o s e d hd hp hc => ?_,
    fun o s e d hd hp hc => ?_⟩
  · exact execSlice_frame hd hp hc (gopaOp_body hv hd e) (GFrame.setG _ _ _)
  · exact execSlice_frame hd hp hc (gopiOp_body hv hd e) (GFrame.setG _ _ _)
  · cases hd
    exact execSlice_frame rfl hp hc rfl (GFrame.setG _ _ _)
  · cases hd
    exact execSlice_frame rfl hp hc rfl (GFrame.setG _ _ _)

end Sys2Proof.Proofs.Completion
end

section
/-! Words of the compute slice whose effect is their body once their own checks pass: conversions, lanes, control, SYS (R106 to R154). -/
namespace Sys2Proof.Proofs.WordEffects

open Sys2Proof Sys2Proof.Machine Sys2Proof.Proofs.Completion

/-- Settles O3: with a good slot and scale each word's body is its narrowing or widening. -/
theorem conversionWordsComplete : Obligations.ConversionWordsComplete := by
  unfold Obligations.ConversionWordsComplete
  refine ⟨fun o e s f sc hf hs => ?_, fun o e s f sc hf hs => ?_, fun o e s f sc hf hs => ?_, fun o e s f sc hf hs => ?_,
    fun o e s f sc hf hs hb => ?_⟩ <;> refine completes_of rfl ?_
  · simp only [wPack4, packDef, hf, hs, bind, Except.bind]; rfl
  · simp only [wPack2, packDef, hf, hs, bind, Except.bind]; rfl
  · simp only [wUnpack8, unpackDef, hf, hs, bind, Except.bind]; rfl
  · simp only [wUnpack16, unpackDef, hf, hs, bind, Except.bind]; rfl
  · simp only [wScale, hf, hs, hb, bind, Except.bind]; rfl

/-- Settles O5: each word's body is its effect, with nothing to check. -/
theorem laneWordsComplete : Obligations.LaneWordsComplete := by
  unfold Obligations.LaneWordsComplete
  refine ⟨fun o e => ?_, fun o e => ?_, fun o e => ?_, fun o e => ?_, fun o e => ?_, fun o e => ?_, fun o e => ?_, fun o e => ?_,
    fun o e => ?_, fun o e => ?_, fun o e => ?_⟩ <;> exact completes_of rfl rfl

/-! ## Control (R133 to R137, R190) -/

/-- Lanes that all go to one good target. -/
theorem checkJumps_same {e : Env} {reg : Bool} {t : Word} (ls : List Nat) (h : ls ≠ [] → goodTarget e t) :
    checkJumps e reg (ls.map (fun l => (l, t))) = .ok (ls.map (fun l => (l, t))) := by
  refine checkJumps_good fun p hp => ?_
  obtain ⟨l, hl, rfl⟩ := List.mem_map.mp hp
  exact h (List.ne_nil_of_mem hl)

/-- Lanes that each go to a good target of their own. -/
theorem checkJumps_own {e : Env} {reg : Bool} {t : Nat → Word} {ls : List Nat} (h : ∀ l ∈ ls, goodTarget e (t l)) :
    checkJumps e reg (ls.map (fun l => (l, t l))) = .ok (ls.map (fun l => (l, t l))) := by
  refine checkJumps_good fun p hp => ?_
  obtain ⟨l, hl, rfl⟩ := List.mem_map.mp hp
  exact h l hl

theorem wBrc_body {o : OpBrc} {e : Env}
    (h : ∀ l ∈ e.lanes, e.w.p l o.ps ≠ (o.n == 1) → goodTarget e (branchTarget e.b.pc 16 o.off)) :
    (wBrc o).body e = .ok (does e.r (next := .jumps ((e.lanes.filter (fun l => e.w.p l o.ps != (o.n == 1))).map
      (fun l => (l, branchTarget e.b.pc 16 o.off))))) := by
  have taken := checkJumps_own (reg := false) (ls := e.lanes.filter (fun l => e.w.p l o.ps != (o.n == 1)))
    (t := fun _ => branchTarget e.b.pc 16 o.off) fun l hl => h l (List.mem_filter.mp hl).1 (by simpa using (List.mem_filter.mp hl).2)
  simp only [wBrc, taken, bind, Except.bind]
  rfl

theorem wJmp_body {o : OpJump} {e : Env} (h : goodTarget e (branchTarget e.b.pc 21 o.off)) :
    (wJmp o).body e = .ok (does e.r (next := .jumps (e.lanes.map (fun l => (l, branchTarget e.b.pc 21 o.off))))) := by
  simp only [wJmp, checkJumps_same e.lanes fun _ => h, bind, Except.bind]
  rfl

theorem wJmpr_body {o : OpJmpr} {e : Env} (h : ∀ l ∈ e.lanes, goodTarget e (e.w.v l o.d)) :
    (wJmpr o).body e = .ok (does e.r (next := .jumps (e.lanes.map (fun l => (l, e.w.v l o.d))))) := by
  simp only [wJmpr, checkJumps_own h, bind, Except.bind]
  rfl

/-- Settles O7: a hint only shapes the next word, and a branch whose targets are good goes to them. -/
theorem controlWordsComplete : Obligations.ControlWordsComplete := by
  unfold Obligations.ControlWordsComplete
  refine ⟨fun o e => completes_of rfl rfl, fun o e => completes_of rfl rfl, fun o e => completes_of rfl rfl,
    fun o e => completes_of rfl rfl, fun o e => completes_of rfl rfl, fun o e => completes_of rfl rfl,
    fun o e => completes_of rfl rfl, fun o e => completes_of rfl rfl, fun o e => sliceCompletes_of rfl rfl,
    fun o e => sliceCompletes_of rfl rfl, fun o e h => completes_of rfl (wBrc_body h), fun o e h => completes_of rfl (wJmp_body h),
    fun o e h => completes_of rfl ?call, fun e h => completes_of rfl ?ret, fun o e h => completes_of rfl (wJmpr_body h),
    fun e h => completes_of rfl ?exit, fun e d h => completes_of rfl ?uiret⟩
  case call =>
    simp only [wCall, checkJumps_same e.lanes fun _ => h, bind, Except.bind]
    rfl
  case ret =>
    simp only [wRet, checkJumps_own h, bind, Except.bind]
    rfl
  case exit =>
    have last : (endsWarp e && counter e.w.ops .mx != 0) = false := by
      rcases h with h | h <;> simp [h]
    simp only [wExit, last]
    rfl
  case uiret =>
    simp only [wUiret, h]
    rfl

/-! ## The SYS family (R143 to R154) -/

/-- The interval opened and the JOINW of a FORK's record counted, where it names one (R152). -/
def joinCounted (e : Env) (o : OpFork) : Except Stop Run :=
  match joinAddr (isProt e.r e.ctx) (recField (e.record o) 16 16) with
  | none => .ok (openInterval e.r e.crew.block)
  | some a => addJoin e (openInterval e.r e.crew.block) a 1

/-- What a FORK does with a good record: a re-execution answers 0, a full deque 1, and else the task is pushed. -/
theorem wFork_body {o : OpFork} {e : Env} {k : Kernel} (h : ForkReady o e k) :
    (wFork o).body e =
      if e.blk.replay then .ok (does (e.forked o e.r 0))
      else if 64 ≤ (e.r.coreSt e.crew.core).deque.length then .ok (does (e.forked o e.r 1))
      else (joinCounted e o).map fun r => does (e.forked o (pushTask r e k (e.record o)) 0) := by
  obtain ⟨aligned, inside, good, kernel, caps⟩ := h
  have inside' : ¬ e.k.pad < e.un o.sa + 64 := Nat.not_lt.mpr inside
  unfold Env.un at aligned inside'
  unfold Env.record Env.un at good kernel caps
  simp only [wFork, aligned, inside', good, kernel, caps, bind, Except.bind, ne_eq, not_true_eq_false, if_false, Bool.not_true,
    Bool.false_eq_true]
  split
  · rfl
  · split
    · rfl
    · unfold joinCounted Env.record Env.un
      cases joinAddr (isProt e.r e.ctx) (recField (loadBytes e.r e.crew.block (.pad e.cid (e.w.u (e.w.uIdx o.sa)).toNat) 64) 16 16) with
      | none => rfl
      | some a =>
        dsimp only
        cases addJoin e (openInterval e.r e.crew.block) a 1 <;> rfl

/-- Settles O8: the checks of each word pass as the clause says, and its body is then its effect. -/
theorem systemWordsComplete : Obligations.SystemWordsComplete := by
  unfold Obligations.SystemWordsComplete
  refine ⟨fun o e => completes_of rfl rfl, fun o e => completes_of rfl rfl, fun o e hArms hFlags => completes_of rfl ?trapfence,
    fun o e => completes_of rfl rfl, fun o e h => completes_of rfl ?bkpt,
    fun o e hPass hBase hGran hPend hQueue hRoom => completes_of rfl ?xacq, fun o e => completes_of rfl rfl,
    fun o e => completes_of rfl rfl, fun o e => completes_of rfl rfl,
    fun o e k r hReady hReplay hRoom => ?push,
    fun o e k hReady hReplay => completes_of rfl ?replay, fun o e k hReady hReplay hFull => completes_of rfl ?full,
    fun o e h => completes_of rfl ?joinZero,
    fun o e p hNonzero hCap hPlace hPoison hZero => completes_of rfl ?join⟩
  case trapfence =>
    have unset : e.lanes.filter (fun l => e.w.afl l &&& e.g.temask != 0#8) = [] :=
      List.filter_eq_nil_iff.mpr fun l hl => by simp [hFlags l hl]
    simp only [wTrapfence, hArms, unset]
    rfl
  case bkpt =>
    simp only [wBkpt, h, if_false]
    rfl
  case xacq =>
    have pass : (e.b.wait == .pass) = false := by simpa using hPass
    have free : ¬ (e.w.base < 64 ∨ e.w.gran ≠ 0 ∨ e.w.xpend.isSome = true ∨ poolSize e.m e.crew.core < o.n) := by
      simp only [hGran, hPend]
      simp
      omega
    simp only [wXacq, pass, free, hQueue, hRoom]
    rfl
  case push =>
    have room : ¬ 64 ≤ (e.r.coreSt e.crew.core).deque.length := Nat.not_le.mpr hRoom
    have pushed (hJoin : joinCounted e o = .ok r) : Completes (.fork o) e (does (e.forked o (pushTask r e k (e.record o)) 0)) := by
      refine completes_of rfl ?_
      rw [wFork_body hReady, hReplay, hJoin]
      simp only [Bool.false_eq_true, if_false, room]
      rfl
    unfold joinCounted at pushed
    cases hAddr : joinAddr (isProt e.r e.ctx) (recField (e.record o) 16 16) with
    | none =>
      rintro rfl
      exact pushed (by rw [hAddr])
    | some a =>
      intro hJoin
      exact pushed (by rw [hAddr]; exact hJoin)
  case replay => rw [wFork_body hReady, hReplay]; rfl
  case full =>
    rw [wFork_body hReady, hReplay]
    simp only [Bool.false_eq_true, if_false, hFull, if_true]
  case joinZero => simp only [wJoin, h]; rfl
  case join =>
    have capable : (isProt e.r e.ctx && !capPasses e.ctx (e.w.utag (e.w.uIdx o.sa)) (e.w.quad128 (e.w.uIdx o.sa)) 0
        (if isProt e.r e.ctx then capAddr (e.w.quad128 (e.w.uIdx o.sa)) else e.w.quad128 (e.w.uIdx o.sa)) 8) = false := by
      cases hp : isProt e.r e.ctx with
      | false => rfl
      | true => simpa [hp] using hCap hp
    simp only [wJoin, if_neg hNonzero, capable, hPlace, hPoison, hZero]
    rfl

end Sys2Proof.Proofs.WordEffects
end

section
/-! Words of the compute slice that reach memory, queues, engines, barriers and the host, once their checks pass (R155 to R195). -/
namespace Sys2Proof.Proofs.EngineEffects

open Sys2Proof Sys2Proof.Machine Sys2Proof.Proofs.Completion

/-! ## Memory words (R157, R158, R163) -/

theorem wLd_body {o : OpM} {e : Env} {ps : List (Nat × Place)} (hPlaces : accessPlaces e o.a o.sp (accessBytes e o.w) needRd = .ok ps)
    (hPoison : poisonStop e.r ps (accessBytes e o.w) = none) :
    let x := ps.foldl (loadLane e o (accessBytes e o.w)) (openFor e.r e.crew.block ps, [])
    (wLd o).body e = .ok (if o.sp < 4 then does (x.1.warp e.cid e.wi (fun w => w.setAll x.2))
      else does (addOp e x.1 .ldg (.vregs x.2)).2 (op := (addOp e x.1 .ldg (.vregs x.2)).1)) := by
  simp only [wLd, hPlaces, hPoison]
  split <;> rfl

theorem wAtom_body {o : OpAT} {e : Env} {ps : List (Nat × Place)}
    (hPlaces : accessPlaces e o.a (o.sp + 1) (if e.wide then 8 else 4) needAt = .ok ps)
    (hPoison : poisonStop e.r ps (if e.wide then 8 else 4) = none) :
    let r := if o.sp = 3 ∨ (2 ≤ e.mods.ord ∧ 2 ≤ e.mods.scope) then openInterval e.r e.crew.block else e.r
    let x := ps.foldl (atomLane e o) (r, [], [])
    (wAtom o).body e = .ok (if o.sp < 3 then
        does (countFlags (x.1.warp e.cid e.wi (fun w => (w.setAll x.2.1).raiseAll x.2.2)) e.tile e.ctx x.2.2)
      else does (addOp e x.1 .at (.atom x.2.1 x.2.2)).2 (op := (addOp e x.1 .at (.atom x.2.1 x.2.2)).1)) := by
  simp only [wAtom, hPlaces, hPoison]
  split <;> rfl

/-- Settles O9: with the places of every lane found, the words go lane by lane. -/
theorem memoryWordsComplete : Obligations.MemoryWordsComplete := by
  unfold Obligations.MemoryWordsComplete
  refine ⟨fun o e ps hPlaces hPoison => completes_of rfl (wLd_body hPlaces hPoison), fun o e ps hPlaces => completes_of rfl ?_,
    fun o e ps hPlaces hPoison => completes_of rfl (wAtom_body hPlaces hPoison)⟩
  simp only [wSt, hPlaces]
  rfl

/-! ## Queue and ring words (R166 to R169) -/

theorem popWord_entry {e : Env} {q : Nat} {x : QEntry} (h : (e.crew.queue q).head = .entry x) (dst : Nat) (uni take : Bool) (la : Nat) :
    popWord e q dst uni take la = .ok (does ((popQueue e.r e.cid (if take then some q else none)).warp e.cid e.wi
      (fun w => w.putEntry q dst uni e.lanes x))) := by
  unfold popWord
  rw [h]
  rfl

/-- A pop of an empty queue with followers keeps its place among the pops of the queue. -/
theorem popWord_wait {e : Env} {q la : Nat} (h : (e.crew.queue q).head = .wait) (hLa : la ≠ 0)
    (hWithin : withinFault e.w.windows e.w.ops e.b.lanes = true) (dst : Nat) (uni take : Bool) :
    let x := pushOp e.r e.cid e.wi .none (.pop q take dst uni e.active e.b.lanes la e.b)
    popWord e q dst uni take la = .ok (does
      (x.2.crew e.cid (fun c => c.setQueue q (fun y => { y with claims := y.claims ++ [⟨e.wi, x.1, take⟩] }))) (op := x.1)) := by
  unfold popWord
  simp only [h, hLa, hWithin]
  rfl

theorem popOf_body {i : Instr} {e : Env} {d : WordDef} {q dst la : Nat} {uni take : Bool}
    (hPop : popOf e i = some (q, dst, uni, take, la)) (hd : wordDef i = some d) : d.body e = popWord e q dst uni take la := by
  unfold popOf at hPop
  split at hPop <;> cases hPop <;> cases hd <;> rfl

/-- Settles O10: the words that read a queue's head share one body, and the ring words act once their header is good. -/
theorem queueWordsComplete : Obligations.QueueWordsComplete := by
  unfold Obligations.QueueWordsComplete
  refine ⟨fun o e x h => completes_of rfl (popWord_entry h _ _ _ _), fun o e x h => completes_of rfl (popWord_entry h _ _ _ _),
    fun o e x h => completes_of rfl (popWord_entry h _ _ _ _), fun i q dst uni take la e hPop hWait hLa hWithin s d hd => ?follows,
    fun o e => completes_of rfl rfl, fun o e => completes_of rfl rfl, fun o e => completes_of rfl rfl,
    fun o e h hRing => completes_of rfl ?rawait, fun o e h hRing hFull => completes_of rfl ?rrel,
    fun o e h hRing => completes_of rfl ?rstat⟩
  case follows => exact completes_of hd ((popOf_body hPop hd).trans (popWord_wait hWait hLa hWithin dst uni take)) s d hd
  case rawait => simp only [wRawait, hRing, bind, Except.bind]; rfl
  case rrel => simp only [wRrel, hRing, hFull, bind, Except.bind]; rfl
  case rstat => simp only [wRstat, hRing, bind, Except.bind]; rfl

/-! ## Engines (R171 to R177) -/

/-- A signature whose records, order and set are good goes in (R175). -/
theorem wMsign_body {o : OpMsign} {e : Env} (hWait : e.b.wait = .none) (hActive : e.active ≠ 0#32)
    (hRecords : ∀ i < 3, recordFault e.k (signOff e o i) = none) (hOrder : sameOrder e o = true)
    (hMembers : e.active &&& ~~~rdReg (setMembers e.r e.blk o.set) e.wkey = 0#32) (hNew : resigning e o ≠ e.active) :
    (wMsign o).body e = .ok (does (signRun e o) (next := .parked)) := by
  have good : [signOff e o 0, signOff e o 1, signOff e o 2].findSome? (fun x => (recordFault e.k x).map (fun c => (c, x))) = none := by
    simp [hRecords 0 (by decide), hRecords 1 (by decide), hRecords 2 (by decide)]
  simp only [wMsign, hWait, if_neg hActive, good, hOrder, if_true, hMembers, if_neg hNew]
  rfl

/-- Settles O11: each word's checks pass as the clause says, and its body is then its effect. -/
theorem engineWordsComplete : Obligations.EngineWordsComplete := by
  unfold Obligations.EngineWordsComplete
  refine ⟨fun o e h => completes_of rfl ?waitc, fun o e => completes_of rfl rfl, fun o e ps hSize hPlaces => completes_of rfl ?gather,
    fun o e hGood => completes_of rfl ?creduce,
    fun o e hWait hActive hRecords hOrder hMembers hNew => completes_of rfl (wMsign_body hWait hActive hRecords hOrder hMembers hNew),
    fun o e h => completes_of rfl ?signed, fun o e hRecord hAcc => completes_of rfl ?mclr, fun o e => completes_of rfl rfl⟩
  case waitc => simp only [wWaitc, if_pos h]; rfl
  case gather => simp only [wGather, hSize, hPlaces]; rfl
  case creduce => simp only [wCreduce, hGood]; rfl
  case signed =>
    rcases h with hPass | ⟨hNone, hIdle⟩
    · simp only [wMsign, hPass]; rfl
    · simp only [wMsign, hNone, if_pos hIdle]; rfl
  case mclr =>
    unfold Env.un at hRecord hAcc
    simp only [wMclr, hRecord, hAcc]
    rfl

/-! ## Synchronisation (R179 to R185) -/

/-- Settles O12: a batch that has passed goes on, any other arrives, watches or waits. -/
theorem synchronisationWordsComplete : Obligations.SynchronisationWordsComplete := by
  unfold Obligations.SynchronisationWordsComplete
  refine ⟨fun o e h => completes_of rfl ?barPassed, fun o e h => completes_of rfl ?bar, fun o e h => completes_of rfl ?barnPassed,
    fun o e h hMembers => completes_of rfl ?barn, fun o e => completes_of rfl rfl, fun o e p hPlace => completes_of rfl ?arrive,
    fun o e p hPlace => completes_of rfl ?await, fun o e => completes_of rfl rfl, fun o e => completes_of rfl rfl,
    fun o e => completes_of rfl rfl, fun o e => completes_of rfl rfl, fun o e p hWait hPlace => completes_of rfl ?mwait,
    fun o e h => completes_of rfl ?seen⟩
  case barPassed => simp only [wBar, h]; rfl
  case bar => simp only [wBar, h]; rfl
  case barnPassed => simp only [wBarn, h]; rfl
  case barn => simp only [wBarn, h, hMembers]; rfl
  case arrive => unfold Env.un at hPlace; simp only [wArrive, hPlace]; rfl
  case await => unfold Env.un at hPlace; simp only [wAwait, hPlace]; rfl
  case mwait =>
    have fresh : (e.b.wait == .pass) = false := by simpa using hWait
    simp only [wMwait, fresh, hPlace, Bool.false_eq_true, if_false]
    generalize (if e.wide = true then 8 else 4) = n
    split <;> rfl
  case seen => simp only [wMwait, h]; rfl

/-! ## User interrupts and service calls (R187 to R191) -/

/-- Settles O13: each word's body is its effect, a call being begun once. -/
theorem interruptWordsComplete : Obligations.InterruptWordsComplete := by
  unfold Obligations.InterruptWordsComplete
  refine ⟨fun o e => completes_of rfl rfl, fun o e => completes_of rfl ?uiwait, fun o e => completes_of rfl rfl,
    fun o e => completes_of rfl rfl, fun o e h => completes_of rfl ?lookout, fun o e key r hWait hBegun => completes_of rfl ?svc,
    fun o e h => completes_of rfl ?served⟩
  case uiwait => simp only [wUiwait]; split <;> rfl
  case lookout =>
    have good : ¬ (o.as = 1 ∧ (e.w.u (e.w.uIdx o.sa)).toNat % 4 ≠ 0) := fun hBad => hBad.2 (h hBad.1)
    simp only [wLookout, if_neg good]
    rfl
  case svc =>
    have fresh : (e.b.wait == .pass) = false := by simpa using hWait
    unfold Env.un at hBegun
    simp only [wSvc, fresh, hBegun]
    rfl
  case served => simp only [wSvc, h]; rfl

/-! ## Capabilities of both slices (R192 to R195) -/

/-- Settles O14: a load, store or narrowing that the checks let pass is the word's effect. -/
theorem capabilityWordsComplete : Obligations.CapabilityWordsComplete := by
  unfold Obligations.CapabilityWordsComplete
  refine ⟨fun o e x tag h => completes_of rfl ?load, fun o e r h => completes_of rfl ?store,
    fun o e x hProt h => completes_of rfl ?narrow, fun o e hProt => completes_of rfl ?summary,
    fun o e x tag h => sliceCompletes_of rfl ?sliceLoad, fun o e r h => sliceCompletes_of rfl ?sliceStore,
    fun o e x hProt h => sliceCompletes_of rfl ?sliceNarrow, fun o e hProt => sliceCompletes_of rfl ?sliceSummary⟩
  case load => simp only [wCapld, h]; rfl
  case store => simp only [wCapst, h]; rfl
  case narrow => simp only [wCapnarrow, hProt, h]; rfl
  case summary => simp only [wCapchk, hProt]; rfl
  case sliceLoad => simp only [sCapld, h]; rfl
  case sliceStore => simp only [sCapst, h]; rfl
  case sliceNarrow => simp only [sCapnarrow, hProt, h]; rfl
  case sliceSummary => simp only [sCapchk, hProt]; rfl

end Sys2Proof.Proofs.EngineEffects
end

section
/-! Words of the address slice, once their checks pass (R202 to R220). -/
namespace Sys2Proof.Proofs.SliceEffects

open Sys2Proof Sys2Proof.Machine Sys2Proof.Proofs.Completion

/-! ## Branches, calls and returns (R210, R211, R327) -/

/-- A transfer inside the image is made. -/
theorem sliceJump_inside {e : SEnv} {t : Nat} (h : t < 4 * e.k.aimg.length) (r : Run) :
    sliceJump e r t = .ok (sliceDoes r (next := .jump (BitVec.ofNat 32 t))) := by
  unfold sliceJump
  rw [if_neg (Nat.not_le.mpr h)]
  rfl

theorem gbrTest_body {i : Instr} {o : OpGB} {test : Int → Bool} {d : SliceDef} (hv : gbrTest i = some (o, test))
    (hd : sliceDef i = some d) (e : SEnv) :
    d.body e = if test (sext 64 (e.s.gn o.ga)) then sliceJump e e.r (sliceTarget e.s.pc 15 o.off) else .ok (sliceDoes e.r) := by
  unfold gbrTest at hv
  split at hv <;> cases hv <;> cases hd <;> rfl

/-- Settles O16: a target inside the image is gone to, the return mark ends a handler, and a slice with nothing outstanding ends. -/
theorem sliceControlWordsComplete : Obligations.SliceControlWordsComplete := by
  unfold Obligations.SliceControlWordsComplete
  refine ⟨fun i o test e hv hTest s d hd => sliceCompletes_of hd ?notTaken s d hd,
    fun i o test e hv hTest hTarget s d hd => sliceCompletes_of hd ?taken s d hd,
    fun o e h => sliceCompletes_of rfl (sliceJump_inside h _), fun o e h => sliceCompletes_of rfl (sliceJump_inside h _),
    fun o e hMark hAligned hTarget => sliceCompletes_of rfl ?ret, fun o e hMark hSaved => sliceCompletes_of rfl ?back,
    fun o e hCopies hLoads => sliceCompletes_of rfl ?exit⟩
  case notTaken => rw [gbrTest_body hv hd, hTest]; rfl
  case taken => rw [gbrTest_body hv hd, hTest]; exact sliceJump_inside hTarget _
  case ret =>
    have outside : ¬ (e.s.gn o.ga = returnMark.toNat ∧ e.s.hsave.isSome = true) := by
      rcases hMark with h | h
      · exact fun hm => h hm.1
      · simp [h]
    simp only [sGret, if_neg outside, hAligned]
    exact sliceJump_inside hTarget _
  case back =>
    simp only [sGret, hMark, hSaved]
    rfl
  case exit =>
    simp only [sGexit, hCopies, hLoads]
    rfl

/-! ## Memory and queue words (R202 to R209, R219) -/

/-- Settles O17: with its address checked and no poison there, each word reads and writes once. -/
theorem sliceMemoryWordsComplete : Obligations.SliceMemoryWordsComplete := by
  unfold Obligations.SliceMemoryWordsComplete
  refine ⟨fun o e p hPlace hPoison => sliceCompletes_of rfl ?gld, fun o e p hPlace => sliceCompletes_of rfl ?gst,
    fun o e p hPlace hPoison => sliceCompletes_of rfl ?gldq, fun o e ps hPlaces hPoison => sliceCompletes_of rfl ?gldqv,
    fun o e p hPlace hPoison => sliceCompletes_of rfl ?gatom, fun o e => sliceCompletes_of rfl rfl,
    fun o e x h => sliceCompletes_of rfl ?gqpop, fun o e x h => sliceCompletes_of rfl ?gqtry,
    fun o e h => sliceCompletes_of rfl ?wait, fun o e h => sliceCompletes_of rfl ?orphan, fun o e => sliceCompletes_of rfl rfl,
    fun o e => sliceCompletes_of rfl rfl⟩
  case gld => simp only [sGld, hPlace, hPoison]; rfl
  case gst => simp only [sGst, hPlace]; rfl
  case gldq => simp only [sGldq, hPlace, hPoison]; rfl
  case gldqv => simp only [sGldqv, hPlaces, hPoison]; rfl
  case gatom =>
    simp only [sGatom, hPlace, hPoison, Bool.false_eq_true, if_false]
    split <;> rfl
  case gqpop => simp only [sGqpop, h]; rfl
  case gqtry => simp only [sGqtry, h]; rfl
  case wait => simp only [sGqtry, h]; rfl
  case orphan => simp only [sGqtry, h]; rfl

/-! ## Copies, rings, fences, arrivals and monitors (R212 to R218, R220) -/

/-- Settles O18: a ring word acts on the slot that its good header names, and a wait that is over lets the slice go on. -/
theorem sliceEngineWordsComplete : Obligations.SliceEngineWordsComplete := by
  unfold Obligations.SliceEngineWordsComplete
  refine ⟨fun o e h => sliceCompletes_of rfl ?cstart, fun o e h => sliceCompletes_of rfl ?cwait, fun o e => sliceCompletes_of rfl rfl,
    fun o e h hRing hFree => sliceCompletes_of rfl ?rfree, fun o e h hRing hSize hFree => sliceCompletes_of rfl ?rarm,
    fun o e h hRing => sliceCompletes_of rfl ?rpeek, fun o e => sliceCompletes_of rfl rfl,
    fun o e p hPlace => sliceCompletes_of rfl ?garrive, fun o e h => sliceCompletes_of rfl ?seen,
    fun o e p hWait hAligned hPlace => sliceCompletes_of rfl ?gmwait, fun o e h => sliceCompletes_of rfl ?gwaitc⟩
  case cstart => simp only [sCstart, h, decide_eq_true_eq]; rfl
  case cwait => simp only [sCwait, h]; rfl
  case rfree => simp only [sRfree, hRing, hFree, bind, Except.bind]; rfl
  case rarm =>
    have good : ¬ (h.slotsz < e.s.gn o.gb ∨ h.state e.r e.crew.block e.cid h.widx ≠ 0) := by omega
    simp only [sRarm, hRing, if_neg good, bind, Except.bind]
    rfl
  case rpeek => simp only [sRpeek, hRing, bind, Except.bind]; rfl
  case garrive => simp only [sGarrive, hPlace]; rfl
  case seen => simp only [sGmwait, h]; rfl
  case gmwait =>
    have fresh : (e.s.wait == .pass) = false := by simpa using hWait
    simp only [sGmwait, fresh, hAligned, hPlace, Bool.false_eq_true, if_false, ne_eq, not_true_eq_false]
    generalize (if o.w = 1 then 8 else 4) = n
    split <;> rfl
  case gwaitc =>
    unfold sGwaitc
    split at h
    · rename_i hLoads
      simp only [if_pos hLoads, if_pos h]
      rfl
    · rename_i hCopies
      simp only [if_neg hCopies, if_pos h]
      rfl

/-! ## GSYS, UIPOST and SVC (R187, R191, R220) -/

/-- Settles O19: each word's body is its effect, a call being begun once. -/
theorem sliceSystemWordsComplete : Obligations.SliceSystemWordsComplete := by
  unfold Obligations.SliceSystemWordsComplete
  refine ⟨fun e => sliceCompletes_of rfl rfl, fun o e => sliceCompletes_of rfl rfl, fun o e => sliceCompletes_of rfl rfl,
    fun o e => sliceCompletes_of rfl rfl, fun o e => sliceCompletes_of rfl rfl,
    fun o e key r hWait hBegun => sliceCompletes_of rfl ?svc, fun o e h => sliceCompletes_of rfl ?served⟩
  case svc =>
    have fresh : (e.s.wait == .pass) = false := by simpa using hWait
    simp only [sSvc, fresh, hBegun]
    rfl
  case served => simp only [sSvc, h]; rfl

end Sys2Proof.Proofs.SliceEffects
end

section
/-! What branches, loads and stores leave alone, and AFLCLR, arrivals and registers that discard writes. -/
namespace Sys2Proof.Proofs.Frames

open Sys2Proof Sys2Proof.Machine Sys2Proof.Proofs.Completion Sys2Proof.Proofs.WordEffects Sys2Proof.Proofs.EngineEffects

/-! ## Branches (R133, R134) -/

/-- A word that only jumps, to no return mark and outside a handler, moves batches and windows and nothing else. -/
theorem exec_jumps {i : Instr} {s : State} {e : Env} {d : WordDef} {ts : List (Nat × Word)} (hd : wordDef i = some d)
    (hp : Issuer s e) (hc : Clear d e) (hh : e.w.hsave = none) (hb : d.body e = .ok (does e.r (next := .jumps ts)))
    (ht : ∀ p ∈ ts, p.2 ≠ returnMark) : ∃ t, exec i s = .next (s.after t) ∧ OnlyWarp e none StillFrame t := by
  obtain ⟨-, -, hCrew, hWarp⟩ := hp.objects
  have stays : (Next.jumps ts).leaves = false := by simpa [Next.leaves] using fun a b h => ht (a, b) h
  refine ⟨_, completes_of hd hb s d hd hp hc (mayGo_seq rfl stays), ?_⟩
  refine OnlyWarp.stopRunning (OnlyWarp.start none hCrew hWarp ?_) hCrew _
  dsimp only
  rw [settleHandler_none (by exact hh)]
  rfl

/-- Settles O43: each body is a jump to good targets. -/
theorem branchWordsFrame : Obligations.BranchWordsFrame := by
  unfold Obligations.BranchWordsFrame
  refine ⟨fun o s e d hd hp hc hh hGood => ?_, fun o s e d hd hp hc hh hGood => ?_, fun o s e d hd hp hc hh hGood => ?_⟩ <;> cases hd
  · refine exec_jumps rfl hp hc hh (wBrc_body hGood) fun p hp' => ?_
    obtain ⟨l, hl, rfl⟩ := List.mem_map.mp hp'
    obtain ⟨hLane, hTakes⟩ := List.mem_filter.mp hl
    exact (hGood l hLane (by simpa using hTakes)).2.2
  · refine exec_jumps rfl hp hc hh (wJmp_body hGood) fun p hp' => ?_
    obtain ⟨l, hl, rfl⟩ := List.mem_map.mp hp'
    exact hGood.2.2
  · refine exec_jumps rfl hp hc hh (wJmpr_body hGood) fun p hp' => ?_
    obtain ⟨l, hl, rfl⟩ := List.mem_map.mp hp'
    exact (hGood l hl).2.2

/-! ## Loads (R4, R157, R160) -/

/-- Writes to the registers of lanes leave a register with the one value that any of them gives it, if one does. -/
theorem v_setAll {l n : Nat} {y : Word} (hl : l < 32) (ws : List (Nat × Nat × Word)) (w : Warp) (hLanes : ∀ x ∈ ws, x.1 < 32)
    (hSame : ∀ x ∈ ws, x.1 = l → x.2.1 = n → x.2.2 = y) (hSome : w.v l n = y ∨ ∃ x ∈ ws, x.1 = l ∧ x.2.1 = n) :
    (w.setAll ws).v l n = y := by
  induction ws generalizing w with
  | nil => simpa [Warp.setAll] using hSome
  | cons x ws ih =>
    refine ih (w.setV x.1 x.2.1 x.2.2) (fun z hz => hLanes z (List.mem_cons_of_mem _ hz))
      (fun z hz => hSame z (List.mem_cons_of_mem _ hz)) ?_
    by_cases hHere : x.1 = l ∧ x.2.1 = n
    · obtain ⟨rfl, rfl⟩ := hHere
      left
      rw [Warp.v_setV_self]
      exact hSame x List.mem_cons_self rfl rfl
    · have hx := hLanes x List.mem_cons_self
      rw [Warp.v_setV_ne _ _ (by omega)]
      rcases hSome with hOld | ⟨z, hz, hThere⟩
      · exact .inl hOld
      · rcases List.mem_cons.mp hz with rfl | hz
        · exact absurd hThere hHere
        · exact .inr ⟨z, hz, hThere⟩

theorem setAll_rest (ws : List (Nat × Nat × Word)) (w : Warp) : (w.setAll ws).afls = w.afls ∧ (w.setAll ws).ops = w.ops := by
  induction ws generalizing w with
  | nil => exact ⟨rfl, rfl⟩
  | cons x ws ih => exact ih (w.setV x.1 x.2.1 x.2.2)

/-- The lane of an access and its place. -/
theorem accessPlaces_lane {e : Env} {a sp n need : Nat} {ps : List (Nat × Place)} (h : accessPlaces e a sp n need = .ok ps) {x : Nat × Place}
    (hx : x ∈ ps) : x.1 < 32 ∧ e.active.getLsbD x.1 = true := Env.lanes_active (accessPlaces_mem h hx).1

/-- An access has one place for a lane. -/
theorem accessPlaces_unique {e : Env} {a sp n need : Nat} {ps : List (Nat × Place)} (h : accessPlaces e a sp n need = .ok ps)
    {x y : Nat × Place} (hx : x ∈ ps) (hy : y ∈ ps) (hl : x.1 = y.1) : x.2 = y.2 := by
  have one := (accessPlaces_mem h hx).2
  rw [hl, (accessPlaces_mem h hy).2] at one
  exact (Except.ok.inj one).symm

/-- The registers that a load of spaces 0 to 3 leaves in each lane (R4, R157). -/
theorem v_setAll_loaded {e : Env} {o : OpM} {n need : Nat} {ps : List (Nat × Place)} (h : accessPlaces e o.a o.sp n need = .ok ps)
    (value : Place → Nat) {x : Nat × Place} (hx : x ∈ ps) {i : Nat} (hi : i < groupSize o.w) :
    (e.w.setAll (ps.flatMap (fun p => groupWrites p.1 o.d (groupSize o.w) (value p.2)))).v x.1 (o.d + i) =
      BitVec.ofNat 32 (value x.2 / 2 ^ (32 * i)) := by
  have written {z : Nat × Nat × Word} (hz : z ∈ ps.flatMap (fun p => groupWrites p.1 o.d (groupSize o.w) (value p.2))) :
      ∃ p ∈ ps, ∃ j < groupSize o.w, (p.1, o.d + j, BitVec.ofNat 32 (value p.2 / 2 ^ (32 * j))) = z := by
    simpa [groupWrites] using hz
  refine v_setAll (accessPlaces_lane h hx).1 _ _ (fun z hz => ?_) (fun z hz hLane hReg => ?_) (.inr ?_)
  · obtain ⟨p, hp, j, -, rfl⟩ := written hz
    exact (accessPlaces_lane h hp).1
  · obtain ⟨p, hp, j, -, rfl⟩ := written hz
    rw [accessPlaces_unique h hp hx hLane, show j = i by simpa using hReg]
  · refine ⟨(x.1, o.d + i, BitVec.ofNat 32 (value x.2 / 2 ^ (32 * i))), ?_, rfl, rfl⟩
    exact List.mem_flatMap.mpr ⟨x, hx, List.mem_map.mpr ⟨i, List.mem_range.mpr hi, rfl⟩⟩

/-- What a load of the issuing warp may leave of it: its own group in spaces 0 to 3, and an operation in the others. -/
def LoadKeeps (e : Env) (o : OpM) (ps : List (Nat × Place)) (w w' : Warp) : Prop :=
  w'.afls = w.afls ∧ LaneFrame e.active (if 4 ≤ o.sp then [] else vRegs o.d (groupSize o.w)) w { w' with ops := w.ops } ∧
  (o.sp < 4 → w'.ops = w.ops ∧ ∀ x ∈ ps, ∀ i < groupSize o.w, w'.v x.1 (o.d + i) =
    BitVec.ofNat 32 (loadExtend e o.w (accessBytes e o.w) (loadNum e.r e.crew.block x.2 (accessBytes e o.w)) / 2 ^ (32 * i)))

theorem LoadKeeps.moved {e : Env} {o : OpM} {ps : List (Nat × Place)} {w x : Warp} (h : LoadKeeps e o ps w x) (bs : List Batch)
    (ws : List Window) : LoadKeeps e o ps w { x with batches := bs, windows := ws } := by
  obtain ⟨hAfls, hFrame, hLocal⟩ := h
  exact ⟨hAfls, hFrame.moved bs ws, hLocal⟩

/-- Free values and what pages have shown put back as they were, before or after a word goes on. -/
theorem afterWord_free (e : Env) (d : WordDef) (r : Run) (op k : Nat) (ss : List Stale) :
    { afterWord e d (does r (op := op)) with free := k, stales := ss } = afterWord e d (does { r with free := k, stales := ss } (op := op)) := by
  unfold afterWord does
  dsimp only
  split <;> rfl

/-- An operation of the issuing warp, whatever free values were drawn before. -/
theorem addOp_free {s : State} {e : Env} (hp : Issuer s e) (k : Nat) (ss : List Stale) (cls : OpClass) (data : OpData) :
    ∃ n, addOp e { e.r with free := k, stales := ss } cls data =
        (n, Run.warp { e.r with free := k, stales := ss } e.cid e.wi (fun w => { w with ops := w.ops ++ [⟨n, cls, false, data⟩] })) := by
  obtain ⟨-, -, hCrew, hWarp⟩ := hp.objects
  have there : (Assoc.get? e.r.crews e.cid).bind (fun c => c.warps[e.wi]?) = some e.w := by
    rw [hCrew]
    exact hWarp
  unfold addOp pushOp
  dsimp only
  rw [there]
  exact ⟨_, rfl⟩

/-- Settles O44: the group is written, or held by an operation, and nothing else but free values changes. -/
theorem loadFrame : Obligations.LoadFrame := by
  unfold Obligations.LoadFrame
  intro o s e d ps hd hp hc hOpen hPlaces hPoison
  cases hd
  obtain ⟨-, -, hCrew, hWarp⟩ := hp.objects
  have ho := Issuer.openBlock hp hOpen
  have unopened : openFor e.r e.crew.block ps = e.r := by
    unfold openFor
    rw [openInterval_open ho]
    exact ite_self _
  obtain ⟨k, ss, hRun⟩ := loadLanes_frame e o (accessBytes e o.w) ps e.r []
  have body := wLd_body hPlaces hPoison
  dsimp only at body
  rw [unopened, hRun] at body
  by_cases hs : o.sp < 4
  · rw [if_pos hs] at body
    refine ⟨_, completes_of rfl body s _ rfl hp hc (mayGo_seq rfl rfl), ?_⟩
    rw [afterWord_free]
    refine OnlyWarp.seq (OnlyWarp.start (keeps := LoadKeeps e o ps) none hCrew hWarp ?_) hCrew hWarp 
      fun w bs ws h => LoadKeeps.moved h bs ws
    have hAll := setAll_rest (ps.foldl (loadLane e o (accessBytes e o.w)) (e.r, [])).2 e.w
    refine ⟨hAll.1, ?_, fun _ => ⟨hAll.2, fun x hx i hi => ?_⟩⟩
    · rw [if_neg (by omega), show ∀ w : Warp, w.ops = e.w.ops → { w with ops := e.w.ops } = w from fun w h => by rw [← h]]
      · refine LaneFrame.setAll _ _ (LaneFrame.refl _ _ _) fun x hx => ?_
        rcases loadLanes_writes e o (accessBytes e o.w) ps e.r [] hx with h | ⟨p, hpl, hLane, hReg⟩
        · cases h
        · rw [hLane]
          exact ⟨(accessPlaces_lane hPlaces hpl).1, (accessPlaces_lane hPlaces hpl).2, hReg⟩
      · exact hAll.2
    · rw [loadLanes_local _ hs, List.nil_append]
      exact v_setAll_loaded hPlaces
        (fun p => loadExtend e o.w (accessBytes e o.w) (loadNum e.r e.crew.block p (accessBytes e o.w))) hx hi
  · rw [if_neg hs] at body
    obtain ⟨n, hn⟩ := addOp_free hp k ss .ldg (.vregs (ps.foldl (loadLane e o (accessBytes e o.w)) (e.r, [])).2)
    rw [hn] at body
    refine ⟨_, completes_of rfl body s _ rfl hp hc (mayGo_seq rfl rfl), ?_⟩
    rw [afterWord_free]
    refine OnlyWarp.seq (OnlyWarp.start (keeps := LoadKeeps e o ps) none hCrew hWarp ?_) hCrew hWarp 
      fun w bs ws h => LoadKeeps.moved h bs ws
    exact ⟨rfl, LaneFrame.refl _ _ _, fun h => absurd h hs⟩

/-! ## Stores (R4, R158, R202) -/

/-- A store's word leaves of the run what its lanes' stores leave, and of memory what they write. -/
theorem exec_st {s : State} {e : Env} {o : OpM} {ps : List (Nat × Place)} (hp : Issuer s e) (hc : Clear (wSt o) e)
    (hOpen : e.blk.closedInterval = false) (hPlaces : accessPlaces e o.a o.sp (accessBytes e o.w) needWr = .ok ps) :
    ∃ t, exec (.st o) s = .next (s.after t) ∧ Keeps e t ∧ SameMemory (ps.foldl (storeLane e o (accessBytes e o.w)) e.r) t := by
  obtain ⟨r, hBody, hKeeps, hMemory⟩ := wSt_body hp hOpen hPlaces
  obtain ⟨hAfter, hSame⟩ := afterWord_keeps (d := wSt o) (op := 0) hKeeps
  exact ⟨_, completes_of rfl hBody s _ rfl hp hc (mayGo_seq rfl rfl), hAfter, hMemory.trans hSame⟩

/-- Settles O45: each lane's store keeps every other byte, and nothing after the stores touches memory. -/
theorem storeFrame : Obligations.StoreFrame := by
  unfold Obligations.StoreFrame
  intro o s e d ps hd hp hc hOpen hPlaces
  cases hd
  obtain ⟨t, hExec, hKeeps, hMemory⟩ := exec_st hp hc hOpen hPlaces
  refine ⟨t, hExec, fun p hOut => ?_, hKeeps.own, hKeeps.warps, hKeeps.slices⟩
  rw [hMemory p]
  exact (storeLanes_keep ps (Keeps.start hp hOpen)).2 p hOut

/-- Settles O46: with one lane its bytes are those of its group. -/
theorem storeWrites : Obligations.StoreWrites := by
  unfold Obligations.StoreWrites
  intro o s e d l p hd hp hc hOpen hPlaces hAgrees
  cases hd
  obtain ⟨t, hExec, -, hMemory⟩ := exec_st hp hc hOpen hPlaces
  refine ⟨t, hExec, fun i hi => ?_⟩
  have hThere := lanePlace_there hp (accessPlaces_mem hPlaces List.mem_cons_self).2
  have ho := Issuer.openBlock hp hOpen
  have hStored := (Keeps.start hp hOpen).parties (SameParties.synStore e.cid (laneParty e.wi l) (e.page o.sp (effAddr e o.a o.sp l)) .stg p
    (accessBytes e o.w) (e.w.group l o.d (groupSize o.w) % 2 ^ (8 * accessBytes e o.w)) ho)
  rw [hMemory, List.foldl_cons, List.foldl_nil]
  unfold storeLane
  dsimp only
  rw [(foldWrites_keeps hStored _ _).2, rawByte_synStore_in _ _ _ _ ho hAgrees hThere hi]
  exact byte_of_mod _ _ _ hi

/-- The place that the slice accesses lies in a memory that is there. -/
theorem sliceAccess_there {s : State} {e : SEnv} (hp : SliceIssuer s e) {sp ea n need : Nat} {p : Place}
    (h : sliceAccess e sp ea n need = .ok p) : p.there e.r := by
  obtain ⟨-, -, hCrew, -⟩ := hp.objects
  unfold sliceAccess at h
  split at h
  · cases h
  · split at h
    · split at h
      · cases localPlace_ok h
        unfold slicePlace
        split
        · exact Option.isSome_iff_exists.mpr ⟨_, hCrew⟩
        · exact Option.isSome_iff_exists.mpr ⟨_, hp.block⟩
        · trivial
      · cases h
    · split at h
      · cases h
      · rename_i hPlace
        split at h <;> cases h
        exact globalPlace_there _ hPlace

theorem keepsS_start {s : State} {e : SEnv} (hp : SliceIssuer s e) (hOpen : e.blk.closedInterval = false) : KeepsS e e.r := by
  obtain ⟨-, -, hCrew, hSlice⟩ := hp.objects
  refine ⟨⟨e.s, ?_, rfl⟩, fun _ _ => rfl, fun _ _ => rfl, SliceIssuer.openBlock hp hOpen⟩
  unfold Run.slice?
  rw [hCrew, ← hSlice]
  rfl

/-- A word of the slice that goes on moves on its PC, hints, wait and windows, and touches no memory. -/
theorem afterSliceWord_keeps {e : SEnv} {d : SliceDef} {r : Run} (h : KeepsS e r) :
    KeepsS e (afterSliceWord e d (sliceDoes r)) ∧ SameMemory r (afterSliceWord e d (sliceDoes r)) := by
  unfold afterSliceWord sliceDoes
  dsimp only
  unfold goSlice
  refine ⟨h.slice _ fun x hx => ?_, SameMemory.slice _ _ _⟩
  obtain ⟨_, _, _, _, _, ho⟩ := ASlice.onward_eq (sliceTick e d { run := r } x) e.s.replay (e.s.pc + 4) {}
  rw [ho]
  exact hx

/-- Settles O47: the store writes its bytes, and the digest and what follows the word touch no memory. -/
theorem sliceStoreFrame : Obligations.SliceStoreFrame := by
  unfold Obligations.SliceStoreFrame
  intro o s e d p hd hp hc hOpen hPlace
  cases hd
  have ho := SliceIssuer.openBlock hp hOpen
  have unopened : openOutside e.r e.crew.block p = e.r := by
    unfold openOutside
    rw [openInterval_open ho]
    exact ite_self _
  have body : (sGst o).body e = .ok (sliceDoes (foldSlice e (e.stores e.r o.sp (e.addr o.sp o.ga) p (glBytes o.w)
      (e.s.gn o.gd % 2 ^ (8 * glBytes o.w))) (storeTerms o.sp (e.addr o.sp o.ga) (glBytes o.w) (e.s.gn o.gd % 2 ^ (8 * glBytes o.w))))) := by
    simp only [sGst, hPlace, unopened]
    rfl
  have hStored : KeepsS e (e.stores e.r o.sp (e.addr o.sp o.ga) p (glBytes o.w) (e.s.gn o.gd % 2 ^ (8 * glBytes o.w))) :=
    (keepsS_start hp hOpen).parties (SameParties.synStore _ _ _ _ _ _ _ ho)
  obtain ⟨hFolded, hFoldedMemory⟩ := foldSlice_keeps hStored
    (storeTerms o.sp (e.addr o.sp o.ga) (glBytes o.w) (e.s.gn o.gd % 2 ^ (8 * glBytes o.w)))
  obtain ⟨hAfter, hAfterMemory⟩ := afterSliceWord_keeps (d := sGst o) hFolded
  have hMemory := hFoldedMemory.trans hAfterMemory
  refine ⟨_, sliceCompletes_of rfl body s _ rfl hp hc (fun h => nomatch h), fun hAgrees i hi => ?_, fun q hOut => ?_, hAfter.own,
    hAfter.slices, hAfter.warps⟩
  · rw [hMemory]
    unfold SEnv.stores
    rw [rawByte_synStore_in _ _ _ _ ho hAgrees (sliceAccess_there hp hPlace) hi]
    exact byte_of_mod _ _ _ hi
  · rw [hMemory]
    exact rawByte_synStore_out _ _ _ _ _ _ ho hOut

end Sys2Proof.Proofs.Frames
end

section
/-! The result of IMULH, AFLCLR, arrivals and the registers that discard writes. -/
namespace Sys2Proof.Proofs.Results

open Sys2Proof Sys2Proof.Machine Sys2Proof.Proofs.Completion

/-! ## IMULH and IMUL (R95) -/

/-- Settles O49: with no sub-word type the width is that of the register, and without SAT nothing is clamped. -/
theorem mulHigh : Obligations.MulHigh := by
  unfold Obligations.MulHigh
  intro m a b d hSize hSat
  have hWidth : intWidth m = opWidth m := by
    unfold intWidth opWidth
    simp [hSize]
  have hFull : ¬ (opWidth m < 32 ∧ m.sgn = 1) := by
    unfold opWidth
    split <;> omega
  refine ⟨?_, ?_, fun hUnsigned hAbs hNeg => ?_, fun hSigned hAbs hNeg => ?_⟩
  · unfold opImulh pureRes wrap
    rw [hWidth]
  · unfold opImul finishInt clampInt writeInt
    simp [hSat, hWidth, hFull, wrap]
  · unfold intA intMod readInt intSigned zext
    simp [hAbs, hNeg, hSize, hUnsigned, hWidth]
  · unfold intA intMod readInt intSigned
    simp [hAbs, hNeg, hSize, hSigned, hWidth]

/-! ## AFLCLR (R24, R150) -/

/-- Flags masked in some lanes, one after the other. -/
def clearFlags (mask : Afl) (ls : List Nat) (w : Warp) : Warp :=
  ls.foldl (fun w l => { w with afls := wrReg w.afls l (w.afl l &&& ~~~mask) }) w

theorem clearFlags_rest (mask : Afl) (ls : List Nat) (w : Warp) : { clearFlags mask ls w with afls := w.afls } = w := by
  unfold clearFlags
  induction ls generalizing w with
  | nil => rfl
  | cons l ls ih => exact congrArg (fun x : Warp => { x with afls := w.afls }) (ih { w with afls := wrReg w.afls l (w.afl l &&& ~~~mask) })

theorem afl_clearFlags (mask : Afl) (ls : List Nat) (w : Warp) (l : Nat) :
    (clearFlags mask ls w).afl l = if l ∈ ls then w.afl l &&& ~~~mask else w.afl l := by
  unfold clearFlags
  induction ls generalizing w with
  | nil => simp
  | cons k ls ih =>
    rw [List.foldl_cons, ih]
    by_cases hk : k = l
    · subst hk
      simp [Warp.afl, BitVec.and_assoc]
    · have other : ({ w with afls := wrReg w.afls k (w.afl k &&& ~~~mask) } : Warp).afl l = w.afl l := rdReg_wrReg_ne _ _ hk
      simp [other, Ne.symm hk]

/-- Settles O52: the flags of the mask go, lane by lane, and nothing else. -/
theorem aflclrClears : Obligations.AflclrClears := by
  unfold Obligations.AflclrClears
  intro o s e d hd hp hc
  cases hd
  obtain ⟨-, -, hCrew, hWarp⟩ := hp.objects
  refine exec_frame rfl hp hc rfl (OnlyWarp.start none hCrew hWarp ?_) fun w bs ws h => h
  refine ⟨congrArg (fun x : Warp => { x with batches := e.w.batches, windows := e.w.windows })
    (clearFlags_rest (BitVec.ofNat 8 o.mask) e.lanes e.w), fun l => ?_⟩
  refine (afl_clearFlags _ _ _ _).trans ?_
  unfold Env.lanes
  simp only [mem_lanesOf]

/-! ## Arrivals (R277) -/

/-- What a generation does to FLAGS in the loop of R277. -/
def turnFlags (flags : Nat) : Nat := if bits flags 3 3 = 1 ∧ bits flags 1 0 = 1 then flags + 1 else flags

/-- Only the first generation of an arrival changes FLAGS. -/
theorem turnFlags_turnFlags (flags : Nat) : turnFlags (turnFlags flags) = turnFlags flags := by
  unfold turnFlags bits
  simp only [Nat.reducePow, Nat.reduceSub, Nat.reduceAdd]
  split
  · split <;> omega
  · rfl

/-- With fuel for every unit the loop leaves the remainder, a generation for each TARGET, and FLAGS turned if there was one. -/
theorem arrivalLoop_eq {target : Nat} (ht : target ≠ 0) (k count gen flags : Nat) (hk : count ≤ k) :
    arrivalLoop k target (count, gen, flags) =
      (count % target, gen + count / target, if target ≤ count then turnFlags flags else flags) := by
  induction k generalizing count gen flags with
  | zero =>
    obtain rfl : count = 0 := by omega
    simp [arrivalLoop, ht]
  | succ k ih =>
    unfold arrivalLoop
    split
    · rename_i hle
      change arrivalLoop k target (count - target, gen + 1, turnFlags flags) = (count % target, gen + count / target, turnFlags flags)
      rw [ih _ _ _ (by omega), turnFlags_turnFlags, ite_self, ← Nat.mod_eq_sub_mod hle, Nat.div_eq_sub_div (by omega) hle]
      exact Prod.ext rfl (Prod.ext (by dsimp only; omega) rfl)
    · rename_i hlt
      rw [Nat.mod_eq_of_lt (by omega), Nat.div_eq_of_lt (by omega)]
      rfl

/-- Settles O53: division gives at once what the loop counts. -/
theorem arrivalWord : Obligations.ArrivalWord := by
  unfold Obligations.ArrivalWord
  intro target count gen flags n c x
  refine ⟨fun ht => by simp [arrivalUpdate, ht, c], fun ht => ?_⟩
  have hx : x = _ := arrivalLoop_eq ht c c gen flags (Nat.le_refl c)
  unfold arrivalUpdate
  change (if target = 0 ∨ c < target then (c, gen, flags) else _) = _
  rw [hx]
  by_cases hle : target ≤ c
  · rw [if_neg (by omega)]
    simp only [hle, if_true, true_and]
    rfl
  · rw [if_pos (by omega)]
    simp only [hle, if_false, false_and]
    rw [Nat.mod_eq_of_lt (by omega), Nat.div_eq_of_lt (by omega)]
    rfl

/-! ## Registers that discard writes (R16, R21) -/

/-- Settles O54: a write to p0 or to g0 leaves the warp or the slice as it is. -/
theorem zeroRegisters : Obligations.ZeroRegisters := by
  unfold Obligations.ZeroRegisters
  refine ⟨fun o s e d hZero hd hp hc => ?_, fun i o f s e d hv hZero hd hp hc => ?_, fun w l hl => ?_, fun s => rfl⟩
  · cases hd
    obtain ⟨-, -, hCrew, hWarp⟩ := hp.objects
    refine exec_frame rfl hp hc rfl (OnlyWarp.start none hCrew hWarp ?_) fun w bs ws h => h
    unfold Warp.setPredMask
    rw [if_pos hZero]
    rfl
  · refine execSlice_frame hd hp hc (gopaOp_body hv hd e) fun pc h w ws ps => ?_
    rw [hZero, ASlice.setG_zero]
    exact ⟨rfl, fun _ h => h, fun _ h _ => h, fun _ _ => rfl, fun _ _ _ => rfl⟩
  · have every : ∀ k < 32, allLanes.getLsbD k = true := by decide
    exact every l hl

end Sys2Proof.Proofs.Results
end

section
/-! A context reaches only the device memory that its own partition's stage 2 maps (R345, R390). -/
namespace Sys2Proof.Proofs.Isolation

open Sys2Proof Sys2Proof.Machine

/-- A device address that stage 2 gives lies in a block that the partition maps, below its limit (R345). -/
theorem stage2_dev {m : Mgmt} {r : Run} {tag ppa a : Nat} (h : stage2 m r tag ppa = some (.dev a)) :
    ∃ p k x, Assoc.get? m.parts tag = some p ∧ p.s2[k]? = some x ∧ x.toNat % 2 = 1 ∧ bits x.toNat 1 1 = 0 ∧
      a / 2 ^ 21 = bits x.toNat 56 21 ∧ k * 2 ^ 21 < p.s2limit := by
  unfold stage2 at h
  split at h
  · cases h
  rename_i p hPart
  split at h
  · cases h
  rename_i hLimit
  split at h
  · cases h
  rename_i x hEntry
  dsimp only at h
  split at h
  · cases h
  rename_i hValid
  split at h
  · rename_i hHere
    cases h
    refine ⟨p, bits ppa 40 21, x, hPart, hEntry, by omega, hHere, by omega, ?_⟩
    unfold bits
    omega
  · split at h <;> cases h

/-- A device address of an access comes from the stage 2 of its context's partition. -/
theorem pagePlace_dev {m : Mgmt} {r : Run} {tile ctx va need a : Nat} {acc : Bool}
    (h : pagePlace m r tile ctx va need acc = .ok (.dev a)) : ∃ ppa, stage2 m r (partOf ctx) ppa = some (.dev a) := by
  unfold pagePlace at h
  split at h
  · cases h
  split at h
  · cases h
  split at h
  · cases h
  split at h
  · split at h
    · split at h
      · cases h
      · split at h <;> cases h
    · split at h <;> cases h
  · split at h
    · cases h
    · rename_i hStage
      cases h
      exact ⟨_, hStage⟩

/-- Device memory that a pack-up holds is not reached (R390). -/
theorem globalPlace_dev {m : Mgmt} {r : Run} {tile ctx va need a : Nat} {acc : Bool}
    (h : globalPlace m r tile ctx va need acc = .ok (.dev a)) :
    pagePlace m r tile ctx va need acc = .ok (.dev a) ∧ homeHeld m r ctx va = false := by
  unfold globalPlace at h
  split at h
  · rename_i hPage
    split at h
    · cases h
    · rename_i hFree
      cases h
      exact ⟨hPage, by simpa using hFree⟩
  · rename_i hOther
    exact absurd h (hOther a)

/-- Settles O59: the page tables go through stage 2, and what a pack-up holds is refused. -/
theorem partitionIsolation : Obligations.PartitionIsolation := by
  unfold Obligations.PartitionIsolation
  intro m r tile ctx va need acc a h
  obtain ⟨hPage, hFree⟩ := globalPlace_dev h
  obtain ⟨ppa, hStage⟩ := pagePlace_dev hPage
  obtain ⟨p, k, x, hPart, hEntry, hValid, hHere, hBlock, hLimit⟩ := stage2_dev hStage
  exact ⟨p, k, x, hPart, hEntry, hValid, hHere, hBlock, hLimit, hFree⟩

end Sys2Proof.Proofs.Isolation
end

section
/-! Traps: by TRAPFENCE, into the handler and out of it, and late (R64, R145, R325, R326, R329). -/
namespace Sys2Proof.Proofs.Traps

open Sys2Proof Sys2Proof.Machine Sys2Proof.Proofs.Completion

/-! ## TRAPFENCE (R145) -/

/-- Settles O55: with an armed lane TRAPFENCE clears the arms and takes Bound Trap after itself. -/
theorem trapfenceTraps : Obligations.TrapfenceTraps := by
  unfold Obligations.TrapfenceTraps
  intro o s e d hd hp hc hSettled hArmed hHost
  cases hd
  obtain ⟨-, -, hCrew, hWarp⟩ := hp.objects
  have armed : (e.w.arms &&& e.active != 0#32) = true := by simpa using hArmed
  have body : (wTrapfence o).body e = .ok (does (e.onWarp (fun w => { w with arms := w.arms &&& ~~~(e.w.arms &&& e.active) }))
      (next := .trapAfter { code := tcBound, mask := e.w.arms &&& e.active })) := by
    simp only [wTrapfence, armed, if_true]
    rfl
  have cleared : e.w.arms &&& ~~~(e.w.arms &&& e.active) = e.w.arms &&& ~~~e.active := by
    ext i
    simp
    cases e.w.arms[i] <;> simp
  have effect := Run.warp?_warp (fun w => { w with arms := w.arms &&& ~~~(e.w.arms &&& e.active) }) (Run.warp?_of hCrew hWarp)
  have ticked := Run.warp?_warp (fun w => { w with windows := tick w.windows e.b.lanes }) effect
  have stopped := takeTrap_host (restart := e.b.past o.bd) (origin := e.b.pc) (t := { code := tcBound, mask := e.w.arms &&& e.active })
    rfl (show tcBound ≠ tcEcc by decide) rfl hHost ticked
  exact ⟨_, _, _, completes_of rfl body s _ rfl hp hc ⟨fun _ => hSettled, fun h => nomatch h⟩, stopped, rfl, rfl, rfl, rfl, rfl,
    cleared, fun _ => rfl⟩

/-! ## Into the handler (R325) -/

/-- What the handler of a warp displaces of it (R325). -/
def displaced (w : Warp) (restart : Batch) : HandlerSave :=
  { uregs := (List.range 16).map (fun i => w.u (368 + i)), tags := w.utags, wb := w.wb,
    lnks := (lanesOf restart.lanes).map (fun l => (l, w.lnk l)), lanes := restart.lanes, restart := restart,
    windows := (windowsOf w.windows restart.lanes).map (fun x => { x with op := 0 }) }

/-- The warp with what its handler displaces saved, and the record of its trap written (R325). -/
def recorded (w : Warp) (restart : Batch) (t : TrapRec) : Warp :=
  ({ w with hsave := some (displaced w restart), wb := 3, windows := windowsOf w.windows (~~~restart.lanes) } : Warp).setUs 368
    (t.words w.afl)

/-- Entering the handler records the trap, marks the LNKs and puts the batch at CHAND. -/
theorem enterHandler_eq (w : Warp) (chand lead : Nat) (restart : Batch) (t : TrapRec) : enterHandler w chand lead restart t =
    ((lanesOf restart.lanes).foldl (fun w l => w.setLnk l returnMark) (recorded w restart t)).replaceBatch lead
      [{ lanes := restart.lanes, pc := BitVec.ofNat 32 chand, losses := restart.losses, promoted := restart.promoted }] := rfl

theorem enterHandler_rest (w : Warp) (chand lead : Nat) (restart : Batch) (t : TrapRec) :
    let x := enterHandler w chand lead restart t
    x.wb = 3 ∧ x.hsave = some (displaced w restart) ∧ x.vregs = w.vregs ∧ x.preds = w.preds ∧ x.afls = w.afls ∧ x.arms = w.arms := by
  dsimp only
  rw [enterHandler_eq, Warp.setLnks_eq]
  unfold recorded
  rw [Warp.setUs_eq]
  exact ⟨rfl, rfl, rfl, rfl, rfl, rfl⟩

theorem enterHandler_batch (w : Warp) (chand lead : Nat) (restart : Batch) (t : TrapRec) (h : restart.lanes ≠ 0#32) :
    { lanes := restart.lanes, pc := BitVec.ofNat 32 chand, losses := restart.losses, promoted := restart.promoted } ∈
      (enterHandler w chand lead restart t).batches := by
  rw [enterHandler_eq]
  unfold Warp.replaceBatch
  simp [h]

theorem enterHandler_u (w : Warp) (chand lead : Nat) (restart : Batch) (t : TrapRec) (n : Nat) :
    (enterHandler w chand lead restart t).u n = (recorded w restart t).u n := by
  rw [enterHandler_eq, Warp.setLnks_eq]
  rfl

theorem setUs_lnks (w : Warp) (n : Nat) (xs : List Word) : (w.setUs n xs).lnks = w.lnks := by
  rw [Warp.setUs_eq]

theorem enterHandler_lnk (w : Warp) (chand lead : Nat) (restart : Batch) (t : TrapRec) {l : Nat} (hl : l < 32) :
    (enterHandler w chand lead restart t).lnk l = if restart.lanes.getLsbD l then returnMark else w.lnk l := by
  have marked := Warp.lnk_setLnks (recorded w restart t) (fun _ => returnMark) (lanesOf restart.lanes) l
  simp only [mem_lanesOf, hl, true_and] at marked
  have kept : (recorded w restart t).lnk l = w.lnk l := by
    unfold recorded Warp.lnk
    rw [setUs_lnks]
  rw [kept] at marked
  rw [enterHandler_eq]
  exact marked

theorem words_length (t : TrapRec) (afl : Nat → Afl) : (t.words afl).length = 16 := by
  simp [TrapRec.words]

theorem words_flags (t : TrapRec) (afl : Nat → Afl) {k : Nat} (hk : k < 8) :
    (t.words afl)[8 + k]'(by rw [words_length]; omega) = BitVec.ofNat 32 (gatherBytes 4 (fun i => (afl (4 * k + i)).toNat)) := by
  unfold TrapRec.words
  rw [List.getElem_append_right (by simp)]
  simp

theorem recorded_u_out (w : Warp) (restart : Batch) (t : TrapRec) {n : Nat} (h : n < 368 ∨ 384 ≤ n) : (recorded w restart t).u n = w.u n := by
  unfold recorded
  rw [Warp.u_setUs_out _ _ (by rw [words_length]; omega)]
  rfl

theorem recorded_u_in (w : Warp) (restart : Batch) (t : TrapRec) {i : Nat} (h : i < 16) :
    (recorded w restart t).u (368 + i) = (t.words w.afl)[i]'(by rw [words_length]; exact h) :=
  Warp.u_setUs_in _ _ _ _

/-- The record of a trap at the word of a batch (R325). -/
def trapRecord (e : Env) (t : Trapping) : TrapRec :=
  { code := t.code, pc := e.b.pc, origin := e.b.pc, mask := t.mask, addr := BitVec.ofNat 64 t.addr,
    info0 := BitVec.ofNat 32 t.info0, info1 := BitVec.ofNat 32 t.info1, nested := e.w.hsave.isSome,
    skip := skipCount e.b.replay, redo := redoMask e.b.replay }

/-- Settles O56: the trap is taken at the word, and the handler entered from there. -/
theorem trapEntersHandler : Obligations.TrapEntersHandler := by
  unfold Obligations.TrapEntersHandler
  intro i s e d t hd hp hc hBody hPage hEcc hSettled hLate hMop hReg hSave hDisp hLanes
  obtain ⟨-, -, hCrew, hWarp⟩ := hp.objects
  have entered : takeTrap e e.r { e.b with wait := .none } e.b.pc t = (stopRunning e.r e.crew.core e.w.quad).warp e.cid e.wi
      (fun w => enterHandler w e.g.chand e.lead { e.b with wait := .none } (trapRecord e t)) :=
    takeTrap_handler hMop hEcc hReg (by rw [hSave]; exact hDisp)
  have taken := (exec_word hd hp).trans (issue_trap hp hc hBody hPage hSettled hLate)
  rw [entered] at taken
  have there : (stopRunning e.r e.crew.core e.w.quad).warp? e.cid e.wi = some e.w := Run.warp?_of hCrew hWarp
  refine ⟨_, _, taken, Run.warp?_warp _ there, ?_⟩
  simp only [enterHandler_u]
  obtain ⟨hWb, hSaved, hVregs, hPreds, hAfls, hArms⟩ := enterHandler_rest e.w e.g.chand e.lead { e.b with wait := .none } (trapRecord e t)
  refine ⟨hWb, fun f hLow hHigh => ?_, ⟨_, enterHandler_batch _ _ _ _ _ hLanes, rfl, rfl, rfl, rfl, rfl, rfl⟩, ?_, ?_, ?_, ?_, ?_, ?_, ?_, ?_, ?_,
    fun n hn => recorded_u_out _ _ _ hn, fun l hl => enterHandler_lnk _ _ _ _ _ hl, ⟨_, hSaved, rfl, rfl, rfl, rfl, rfl⟩,
    hVregs, hPreds, hAfls, hArms⟩
  · unfold Warp.uIdx
    rw [if_neg (by omega)]
    exact congrArg (fun wb => windowBase wb + f) hWb
  · refine (recorded_u_in _ _ _ (i := 0) (by decide)).trans ?_
    unfold trapRecord TrapRec.words
    rw [hSave]
    rfl
  · exact recorded_u_in _ _ _ (i := 1) (by decide)
  · exact recorded_u_in _ _ _ (i := 2) (by decide)
  · exact recorded_u_in _ _ _ (i := 3) (by decide)
  · exact recorded_u_in _ _ _ (i := 4) (by decide)
  · exact recorded_u_in _ _ _ (i := 5) (by decide)
  · exact recorded_u_in _ _ _ (i := 6) (by decide)
  · exact recorded_u_in _ _ _ (i := 7) (by decide)
  · intro k hk
    have word := recorded_u_in e.w { e.b with wait := .none } (trapRecord e t) (i := 8 + k) (by omega)
    rw [← Nat.add_assoc] at word
    refine word.trans ?_
    exact words_flags _ _ hk

end Sys2Proof.Proofs.Traps
end

section
/-! A return to the return mark ends the handler (R192, R326). -/
namespace Sys2Proof.Proofs.Returns

open Sys2Proof Sys2Proof.Machine Sys2Proof.Proofs.Completion Sys2Proof.Proofs.Traps

/-! ## What leaving the handler puts back -/

/-- The warp with the displaced uniform registers back (R326). -/
def restored (w : Warp) (h : HandlerSave) (waiting : Mask) : Warp :=
  ({ w with hsave := none, wb := h.wb, windows := w.windows ++ windowsOf h.windows waiting } : Warp).setUs 368 h.uregs

theorem leaveHandler_eq (w : Warp) (h : HandlerSave) (waiting : Mask) :
    let x := (lanesOf waiting).foldl (fun w l => w.setLnk l ((Assoc.get? h.lnks l).getD 0)) (restored w h waiting)
    leaveHandler w h waiting = { x with
      utags := (x.utags &&& ~~~savedQuads) ||| (h.tags &&& savedQuads)
      batches := x.batches.filter (fun b => b.wait != .mark) ++ [h.restart.only waiting].filter (fun b => b.lanes != 0#32) } := rfl

theorem leaveHandler_rest (w : Warp) (h : HandlerSave) (waiting : Mask) :
    let x := leaveHandler w h waiting
    x.hsave = none ∧ x.wb = h.wb ∧ x.vregs = w.vregs ∧ x.preds = w.preds ∧ x.afls = w.afls := by
  dsimp only
  rw [leaveHandler_eq]
  dsimp only
  rw [Warp.setLnks_eq]
  unfold restored
  rw [Warp.setUs_eq]
  exact ⟨rfl, rfl, rfl, rfl, rfl⟩

theorem leaveHandler_u (w : Warp) (h : HandlerSave) (waiting : Mask) (n : Nat) :
    (leaveHandler w h waiting).u n = (restored w h waiting).u n := by
  rw [leaveHandler_eq, Warp.setLnks_eq]
  rfl

theorem leaveHandler_lnk (w : Warp) (h : HandlerSave) {waiting : Mask} {l : Nat} (hl : l ∈ lanesOf waiting) :
    (leaveHandler w h waiting).lnk l = (Assoc.get? h.lnks l).getD 0 := by
  have put := Warp.lnk_setLnks (restored w h waiting) (fun l => (Assoc.get? h.lnks l).getD 0) (lanesOf waiting) l
  rw [if_pos hl] at put
  rw [leaveHandler_eq]
  exact put

theorem savedQuads_bit : ∀ k, 92 ≤ k → k < 96 → savedQuads.getLsbD k = true := by
  intro k hLow hHigh
  obtain rfl | rfl | rfl | rfl : k = 92 ∨ k = 93 ∨ k = 94 ∨ k = 95 := by omega
  all_goals rfl

theorem leaveHandler_tags (w : Warp) (h : HandlerSave) (waiting : Mask) {k : Nat} (hLow : 92 ≤ k) (hHigh : k < 96) :
    (leaveHandler w h waiting).utags.getLsbD k = h.tags.getLsbD k := by
  rw [leaveHandler_eq]
  simp [savedQuads_bit k hLow hHigh]

theorem leaveHandler_restart (w : Warp) (h : HandlerSave) {waiting : Mask} (hw : waiting ≠ 0#32) :
    h.restart.only waiting ∈ (leaveHandler w h waiting).batches := by
  rw [leaveHandler_eq]
  exact List.mem_append_right _ (by simp [Batch.only, hw])

/-! ## The return of every lane -/

/-- A batch all of whose lanes go to one place stands there whole (R135). -/
theorem splitBatch_all {b : Batch} {t : Word} (h : b.lanes ≠ 0#32) :
    splitBatch b ((lanesOf b.lanes).map (fun l => (l, t))) =
      [if t = returnMark then { b.at b.lanes t with wait := .mark } else b.at b.lanes t] := by
  have lanes : ((lanesOf b.lanes).map (fun l => (l, t))).map (·.1) = lanesOf b.lanes := by simp [Function.comp_def]
  have none_left : lanesOf (b.lanes &&& ~~~b.lanes) = [] := by
    rw [BitVec.and_not_self]
    rfl
  have one : targets ((lanesOf b.lanes).map (fun l => (l, t))) = [t] := by
    have some_lane : lanesOf b.lanes ≠ [] := fun hNone => h (by rw [← maskOf_lanesOf b.lanes, hNone]; rfl)
    obtain ⟨n, hn⟩ := Nat.exists_eq_succ_of_ne_zero (fun hn => some_lane (List.length_eq_zero_iff.mp hn))
    unfold targets
    rw [List.map_map, show ((·.2) ∘ fun l : Nat => (l, t)) = fun _ => t from rfl, List.map_const', hn]
    exact eraseDups_const t n
  have all : ((lanesOf b.lanes).map (fun l => (l, t))).filter (fun p => p.2 == t) = (lanesOf b.lanes).map (fun l => (l, t)) := by
    simp
  unfold splitBatch
  simp only [lanes, maskOf_lanesOf, none_left, List.map_nil, List.append_nil, one, List.map_cons, all]

/-- Lanes that go to the return mark out of their handler pass every check (R326). -/
theorem checkJumps_mark {e : Env} {ls : List Nat} (h : ∀ l ∈ ls, e.w.handlerLanes.getLsbD l = true) :
    checkJumps e true (ls.map (fun l => (l, returnMark))) = .ok (ls.map (fun l => (l, returnMark))) := by
  unfold checkJumps
  dsimp only
  rw [List.find?_eq_none.mpr]
  intro p hp
  obtain ⟨l, hl, rfl⟩ := List.mem_map.mp hp
  simp [h l hl]

/-- A warp whose every lane in the handler has come to the return mark leaves it. -/
theorem settleHandler_leaves {w : Warp} {h : HandlerSave} {lead : Nat} {x : Batch} (hSave : w.hsave = some h) (hMark : x.wait = .mark)
    (hLanes : x.lanes ≠ 0#32) (hMembers : x.lanes = h.lanes &&& ~~~w.exited)
    (hOthers : ∀ b ∈ w.batches, lowLane b.lanes = lead ∨ b.wait ≠ .mark) :
    settleHandler (w.replaceBatch lead [x]) = leaveHandler (w.replaceBatch lead [x]) h x.lanes := by
  have waiting : (w.replaceBatch lead [x]).batches.filter (fun b => b.wait == .mark) = [x] := by
    unfold Warp.replaceBatch
    rw [List.filter_append, List.filter_filter, List.filter_eq_nil_iff.mpr]
    · simp [hLanes, hMark]
    · intro b hb
      rcases hOthers b hb with h | h <;> simp [h]
  have saved : (w.replaceBatch lead [x]).hsave = some h := hSave
  have exited : (w.replaceBatch lead [x]).exited = w.exited := rfl
  unfold settleHandler
  rw [saved]
  dsimp only
  rw [waiting, exited, ← hMembers]
  simp

/-- A warp after all the lanes of a batch have gone to the return mark. -/
def marked (e : Env) (w : Warp) : Warp :=
  settleHandler (({ w with windows := tick w.windows e.b.lanes } : Warp).replaceBatch e.lead
    (splitBatch e.b ((lanesOf e.b.lanes).map (fun l => (l, returnMark)))))

/-- Settles O58: all the lanes of the handler come to stand at the return mark, and so it ends. -/
theorem handlerReturns : Obligations.HandlerReturns := by
  unfold Obligations.HandlerReturns
  intro s e d h hd hp hc hSave hLength hActive hLanes hMembers hMarks hOthers hPops
  cases hd
  obtain ⟨-, -, hCrew, hWarp⟩ := hp.objects
  have lanes : e.lanes = lanesOf e.b.lanes := by
    unfold Env.lanes
    rw [hActive]
  have jumps : e.lanes.map (fun l => (l, e.w.lnk l)) = (lanesOf e.b.lanes).map (fun l => (l, returnMark)) := by
    rw [← lanes]
    exact List.map_congr_left fun l hl => by rw [hMarks l hl]; rfl
  have inHandler : ∀ l ∈ lanesOf e.b.lanes, e.w.handlerLanes.getLsbD l = true := by
    intro l hl
    have member := (mem_lanesOf.mp hl).2
    rw [hMembers, BitVec.getLsbD_and, Bool.and_eq_true] at member
    unfold Warp.handlerLanes
    rw [hSave]
    exact member.1
  have body : wRet.body e = .ok (does e.r (next := .jumps ((lanesOf e.b.lanes).map (fun l => (l, returnMark))))) := by
    simp only [wRet, jumps, checkJumps_mark inHandler, bind, Except.bind]
    rfl
  have split := splitBatch_all (b := e.b) (t := returnMark) hLanes
  rw [if_pos rfl] at split
  have left := settleHandler_leaves (w := { e.w with windows := tick e.w.windows e.b.lanes }) (lead := e.lead)
    (x := { e.b.at e.b.lanes returnMark with wait := .mark }) hSave rfl hLanes hMembers hOthers
  have gone : (afterWord e wRet (does e.r (next := .jumps ((lanesOf e.b.lanes).map (fun l => (l, returnMark)))))).warp? e.cid e.wi =
      some (marked e e.w) := Run.warp?_warp (marked e) (Run.warp?_of hCrew hWarp)
  unfold marked at gone
  rw [split, left] at gone
  obtain ⟨hSaved, hWb, hVregs, hPreds, hAfls⟩ := leaveHandler_rest (Warp.replaceBatch { e.w with windows := tick e.w.windows e.b.lanes }
    e.lead [{ e.b.at e.b.lanes returnMark with wait := .mark }]) h e.b.lanes
  refine ⟨_, _, completes_of rfl body s _ rfl hp hc { trap := (fun h => nomatch h), leave := fun _ => hPops }, ?_, hSaved, hWb, fun k hk => ?_,
    fun l hl => leaveHandler_lnk _ _ (lanes ▸ hl), fun k hLow hHigh => leaveHandler_tags _ _ _ hLow hHigh,
    leaveHandler_restart _ _ hLanes, hVregs, hPreds, hAfls⟩
  · exact gone
  · rw [leaveHandler_u]
    unfold restored
    rw [Warp.u_setUs_in _ _ _ (by omega)]
    rw [List.getD_eq_getElem?_getD, List.getElem?_eq_getElem (by omega)]
    rfl

end Sys2Proof.Proofs.Returns
end

section
/-! What a happening answers, and the completions of outstanding operations (R25, R160, R163, R172, R173, R185, R202, R204,
R219). -/
namespace Sys2Proof.Proofs.Happenings

open Sys2Proof Sys2Proof.Machine

/-- A kind whose meaning is a happening with effect F answers what F gives of the management, the run and the arguments. -/
theorem happens_of {i : Instr} {a : EvArgs} {m : Mgmt} {r t : Run} (F : Mgmt → Run → EvArgs → Run)
    (hExec : ∀ s, exec i s = happen s (F s.mgmt s.run)) (h : F m r a = t) : Happens i a m r t := by
  intro s hTurn hMgmt hRun
  rw [hExec, happen_event hTurn, hMgmt, hRun, h]

/-- As `happens_of`, for a kind that also changes what base camp keeps. -/
theorem happensAll_of {i : Instr} {a : EvArgs} {m : Mgmt} {r : Run} {x : Mgmt × Run} (F : Mgmt → Run → EvArgs → Mgmt × Run)
    (hExec : ∀ s, exec i s = happenAll s (F s.mgmt s.run)) (h : F m r a = x) : HappensAll i a m r x := by
  intro s hTurn hMgmt hRun
  rw [hExec, happenAll_event hTurn, hMgmt, hRun, h]

/-! ## One equation for each completion whose operation is outstanding -/

variable {m : Mgmt} {r : Run} {cid wi id lane : Nat} {o : PendOp} {c : Crew}

theorem completeLoad_done (h : warpOp r cid wi id .ldg = some o) :
    completeLoad m r cid wi id = finishWarpOp m r cid wi id (fun w => match o.data with
      | .vregs ws => w.setAll ws
      | .cap n x tag => w.setCap n x tag
      | _ => w) := by
  unfold completeLoad
  rw [h] <;> rfl

theorem acknowledge_done (h : warpOp r cid wi id .stg = some o) :
    acknowledge m r cid wi id = finishWarpOp m r cid wi id (fun w => w) := by
  unfold acknowledge
  rw [h]
  rfl

theorem completeAtom_done {ws fs} (h : warpOp r cid wi id .at = some o) (hData : o.data = .atom ws fs) :
    completeAtom m r cid wi id =
      finishWarpOp m (countFlags r (crewTile r cid) (crewCtx r cid) fs) cid wi id (fun w => (w.setAll ws).raiseAll fs) := by
  simp only [completeAtom, h, hData]

theorem completeGatom_done {n x} (h : sliceOp r cid id .none = some o) (hData : o.data = .greg n x) :
    completeGatom r cid id = finishSliceOp r cid id (fun s => s.setG n x.toNat) := by
  simp only [completeGatom, h, hData]

theorem completeGld_reg {n x} (h : sliceOp r cid id .gld = some o) (hData : o.data = .greg n x) :
    completeGld m r cid id = finishSliceOp r cid id (fun s => s.setG n x.toNat) := by
  simp only [completeGld, h, hData]

theorem completeGld_cap {n x tag} (h : sliceOp r cid id .gld = some o) (hData : o.data = .cap n x tag) :
    completeGld m r cid id = finishSliceOp r cid id (fun s => s.setCap n x tag) := by
  simp only [completeGld, h, hData]

theorem fillEntry_uni {q x} (h : sliceOp r cid id .gld = some o) (hData : o.data = .fillUni q x) :
    fillEntry r cid id = finishSliceOp (feedQueue r cid q (fun y => y.fill id (.uni x))) cid id (fun s => s) := by
  simp only [fillEntry, h, hData]

theorem fillEntry_vec {q xs} (h : sliceOp r cid id .gld = some o) (hData : o.data = .fillVec q xs) :
    fillEntry r cid id = finishSliceOp (feedQueue r cid q (fun y => y.fill id (.vec xs))) cid id (fun s => s) := by
  simp only [fillEntry, h, hData]

theorem completeGather_done {size dst src} (h : warpOp r cid wi id .gt = some o) (hCrew : Assoc.get? r.crews cid = some c)
    (hData : o.data = .gather size dst src) :
    completeGather m r cid wi id =
      finishWarpOp m (gatherAll cid wi c.block c.threads c.idx size dst src r) cid wi id (fun w => w) := by
  simp only [completeGather, h, hCrew, hData]

theorem retireCreduce_done {src dst cnt opr lanes thread ord} (h : warpOp r cid wi id .cl = some o)
    (hCrew : Assoc.get? r.crews cid = some c) (hData : o.data = .creduce src dst cnt opr lanes thread ord) :
    let x := (List.range cnt).foldl (combineElement cid c.block src dst opr thread ord) (r, flNone)
    let fs := (lanesOf lanes).map (fun l => (l, x.2))
    retireCreduce m r cid wi id =
      finishWarpOp m (countFlags x.1 (c.core / 24) (crewCtx x.1 cid) fs) cid wi id (fun w => w.raiseAll fs) := by
  simp only [retireCreduce, h, hCrew, hData]

theorem observe_slice (hCrew : Assoc.get? r.crews cid = some c) :
    let k := sliceAsker (c.core / 24) cid
    observe m r cid wi lane true =
      (askWatched m r k cid c.aslice.wait).slice cid (fun s => { s with wait := seenWait m r k cid c.block s.wait }) := by
  simp only [observe, hCrew, if_true]

theorem observe_batch {w b} (hCrew : Assoc.get? r.crews cid = some c) (hWarp : c.warps[wi]? = some w) (hBatch : w.batch? lane = some b) :
    let k := batchAsker (c.core / 24) cid wi lane
    observe m r cid wi lane false =
      (askWatched m r k cid b.wait).warp cid wi (fun w => { w with batches := w.batches.map (fun b =>
        if lowLane b.lanes = lane then { b with wait := seenWait m r k cid c.block b.wait } else b) }) := by
  simp only [observe, hCrew, hWarp, Option.bind_some, hBatch, Bool.false_eq_true, if_false]

end Sys2Proof.Proofs.Happenings
end

section
/-! The completions of outstanding operations settled. -/
namespace Sys2Proof.Proofs.Happenings

open Sys2Proof Sys2Proof.Machine

theorem atomCompletion_of {a : EvArgs} {m : Mgmt} {r t : Run}
    (h : (if a.slice then completeGatom r a.crew a.op else completeAtom m r a.crew a.warp a.op) = t) : Happens .atomCompletion a m r t :=
  happens_of (fun m r a => if a.slice then completeGatom r a.crew a.op else completeAtom m r a.crew a.warp a.op) (fun _ => rfl) h

theorem gldCompletion_of {a : EvArgs} {m : Mgmt} {r t : Run} (h : completeGld m r a.crew a.op = t) : Happens .gldCompletion a m r t :=
  happens_of (fun m r a => completeGld m r a.crew a.op) (fun _ => rfl) h

theorem queueEntryFill_of {a : EvArgs} {m : Mgmt} {r t : Run} (h : fillEntry r a.crew a.op = t) : Happens .queueEntryFill a m r t :=
  happens_of (fun _ r a => fillEntry r a.crew a.op) (fun _ => rfl) h

theorem mwaitObserve_of {a : EvArgs} {m : Mgmt} {r t : Run} (h : observe m r a.crew a.warp a.lane a.slice = t) :
    Happens .mwaitObserve a m r t :=
  happens_of (fun m r a => observe m r a.crew a.warp a.lane a.slice) (fun _ => rfl) h

/-- Settles O20: each completion by its equation. -/
theorem completionEventsHappen : Obligations.CompletionEventsHappen := by
  unfold Obligations.CompletionEventsHappen
  refine ⟨fun a m r o h => ?_, fun a m r o h => ?_, fun a m r o ws fs hWarp h hData => ?_, fun a m r o n x hSlice h hData => ?_,
    fun a m r o n x h hData => gldCompletion_of (completeGld_reg h hData),
    fun a m r o n x tag h hData => gldCompletion_of (completeGld_cap h hData),
    fun a m r o q x h hData => queueEntryFill_of (fillEntry_uni h hData),
    fun a m r o q xs h hData => queueEntryFill_of (fillEntry_vec h hData),
    fun a m r o c size dst src h hCrew hData => ?_, fun a m r o c src dst cnt opr lanes thread ord h hCrew hData => ?_,
    fun a m r c hCrew hSlice => mwaitObserve_of ?_, fun a m r c w b hCrew hSlice hWarp hBatch => mwaitObserve_of ?_⟩
  · exact happens_of (fun m r a => completeLoad m r a.crew a.warp a.op) (fun _ => rfl) (completeLoad_done h)
  · exact happens_of (fun m r a => acknowledge m r a.crew a.warp a.op) (fun _ => rfl) (acknowledge_done h)
  · exact atomCompletion_of (by rw [hWarp]; exact completeAtom_done h hData)
  · exact atomCompletion_of (by rw [hSlice]; exact completeGatom_done h hData)
  · exact happens_of (fun m r a => completeGather m r a.crew a.warp a.op) (fun _ => rfl) (completeGather_done h hCrew hData)
  · exact happens_of (fun m r a => retireCreduce m r a.crew a.warp a.op) (fun _ => rfl) (retireCreduce_done h hCrew hData)
  · rw [hSlice]
    exact observe_slice hCrew
  · rw [hSlice]
    exact observe_batch hCrew hWarp hBatch

end Sys2Proof.Proofs.Happenings
end

section
/-! Arbitration, diversion, grants, admission, placement, stealing, eviction and restore, each where its conditions hold (R13,
R190, R222, R225, R229 to R231, R308 to R315, R332 to R336). -/
namespace Sys2Proof.Proofs.Scheduling

open Sys2Proof Sys2Proof.Machine Sys2Proof.Proofs.Happenings

variable {m : Mgmt} {r : Run}

theorem arbitrate_won {core quad : Nat} {w : Env} {out : List Env} (hIdle : Assoc.has (r.coreSt core).running quad = false)
    (hFreed : (r.coreSt core).freed.contains quad = false)
    (hWin : chooseWinner (contenders m (mergeQuad m r core quad) core quad) = (some w, out)) :
    arbitrate m r core quad = winQuad (loseQuad (mergeQuad m r core quad) core (contenders m (mergeQuad m r core quad) core quad)
      out (some w)) core quad w := by
  simp only [arbitrate, hIdle, hFreed, Bool.or_self, Bool.false_eq_true, if_false, hWin]

theorem divertBatch_won {cid wi lead : Nat} {e w : Env} (hEnv : env? m r cid wi lead = some e)
    (hWin : winner m r e.crew.core e.w.quad = some w) (hSame : w.same e = true) (hDivert : mayDivert w = true) :
    divertBatch m r cid wi lead = arbitrate m r e.crew.core e.w.quad := by
  simp only [divertBatch, hEnv, hWin, hSame, hDivert, Bool.and_self, if_true]

theorem grantXacq_room {core c w lead n : Nat} {rest : List (Nat × Nat × Nat × Nat)}
    (hHead : (r.coreSt core).xacq = (c, w, lead, n) :: rest) (hRoom : granUsed r core + n ≤ poolSize m core) :
    grantXacq m r core = (r.core core (fun k => { k with xacq := rest })).warp c w (fun x =>
      { x.grant n with batches := (x.grant n).batches.map (fun b =>
          if lowLane b.lanes = lead ∧ b.wait = .xacq then { b with wait := .pass } else b) }) := by
  simp only [grantXacq, hHead, if_pos hRoom]

theorem admitBlock_next {bk : Nat} {w : Waiter} (hWaits : (Assoc.get? r.blocks bk).bind (blockWaiter m r bk) = some w)
    (hNext : isNext m r w = true) :
    admitBlock m r bk = takeHeld (firstCairn m ((w.crews.foldl (fun r c => seatCrew r c.1 c.2) r).block bk
      (fun b => { b with admitted := true, holds := [] })) bk) bk := by
  simp only [admitBlock, hWaits, hNext, if_true]

theorem placeNext_offered {gk : Nat} {g : Grid} {cores : List Nat} (hGrid : Assoc.get? r.grids gk = some g)
    (hCores : nextCores m r g = some cores) (hBest : betterGrid m r gk g = false) :
    placeNext m r gk = placeOn r gk g cores := by
  simp only [placeNext, hGrid, hCores, hBest, Bool.false_eq_true, if_false]

theorem stealTask_picked {core k bk : Nat} (hPick : stealPick m r core = some (k, bk)) (hMay : mayStealFor m r core = true) :
    stealTask m r core = moveTask r k core bk := by
  simp only [stealTask, hPick, hMay, if_true]

theorem finishSave_drained {cid : Nat} {c : Crew} (hCrew : Assoc.get? r.crews cid = some c) (hSaving : c.status = .saving)
    (hDrained : drained r cid c = true) : finishSave m r cid = saveCrew m r cid c := by
  simp only [finishSave, hCrew, hSaving, hDrained, decide_true, Bool.and_self, if_true]

theorem restoreCrew_next {cid core : Nat} {c : Crew} {w : Waiter} (hCrew : Assoc.get? r.crews cid = some c)
    (hWaits : (savedWaiters m r cid c).find? (fun w => w.crews == [(cid, core)]) = some w) (hNext : isNext m r w = true) :
    restoreCrew m r cid core = seatAgain r cid core c.block := by
  simp only [restoreCrew, hCrew, hWaits, hNext, if_true]

/-- What a placement event does (R308, R321). -/
def placement (m : Mgmt) (r : Run) (a : EvArgs) : Run :=
  match Assoc.get? r.grids a.grid with
  | some g => if g.redo = [] then placeNext m r a.grid else startReplay m r a.grid
  | none => r

/-- What an eviction event does: a save finishes, or the crews it takes begin theirs (R332, R333). -/
def evict (m : Mgmt) (r : Run) (a : EvArgs) : Run :=
  if a.value = 1 then finishSave m r a.crew
  else
    let vs := if a.flag then victimsUnplaced m r a.grid
      else if a.slice then victimsSaved m r a.crew
      else victimsPlaced m r a.n
    vs.foldl (fun r c => beginSave r c 1) r

theorem blockPlacement_of {a : EvArgs} {t : Run} (h : placement m r a = t) : Happens .blockPlacement a m r t :=
  happens_of placement (fun _ => rfl) h

theorem eviction_of {a : EvArgs} {t : Run} (h : evict m r a = t) : Happens .eviction a m r t :=
  happens_of evict (fun _ => rfl) h

end Sys2Proof.Proofs.Scheduling
end

section
/-! The scheduling events settled. -/
namespace Sys2Proof.Proofs.Scheduling

open Sys2Proof Sys2Proof.Machine Sys2Proof.Proofs.Happenings

/-- Settles O21: each event by its equation under its conditions. -/
theorem schedulingEventsHappen : Obligations.SchedulingEventsHappen := by
  unfold Obligations.SchedulingEventsHappen
  refine ⟨fun a m r₀ w out hIdle hFreed hWin => ?_, fun a m r e w hEnv hWin hSame hDivert => ?_,
    fun a m r c w lead n rest hHead hRoom => ?_, fun a m r w hWaits hNext => ?_,
    fun a m r g cores hGrid hRedo hCores hBest => ?_, fun a m r g hGrid hRedo => ?_, fun a m r k bk hPick hMay => ?_,
    fun a m r hBegin => ?_, fun a m r x hFinish hCrew hSaving hDrained => ?_, fun a m r x w hCrew hWaits hNext => ?_⟩
  · exact happens_of (fun m r a => arbitrate m r a.core a.n) (fun _ => rfl) (arbitrate_won hIdle hFreed hWin)
  · exact happens_of (fun m r a => divertBatch m r a.crew a.warp a.lane) (fun _ => rfl) (divertBatch_won hEnv hWin hSame hDivert)
  · exact happens_of (fun m r a => grantXacq m r a.core) (fun _ => rfl) (grantXacq_room hHead hRoom)
  · exact happens_of (fun m r a => admitBlock m r a.n) (fun _ => rfl) (admitBlock_next hWaits hNext)
  · refine blockPlacement_of ?_
    simp only [placement, hGrid, if_pos hRedo]
    exact placeNext_offered hGrid hCores hBest
  · refine blockPlacement_of ?_
    simp only [placement, hGrid, if_neg hRedo]
  · exact happens_of (fun m r a => stealTask m r a.core) (fun _ => rfl) (stealTask_picked hPick hMay)
  · exact eviction_of (if_neg hBegin)
  · exact eviction_of ((if_pos hFinish).trans (finishSave_drained hCrew hSaving hDrained))
  · exact happens_of (fun m r a => restoreCrew m r a.crew a.core) (fun _ => rfl) (restoreCrew_next hCrew hWaits hNext)

end Sys2Proof.Proofs.Scheduling
end

section
/-! The copy engine and the matrix units at work (R176, R271 to R277, R287 to R298). -/
namespace Sys2Proof.Proofs.EngineWork

open Sys2Proof Sys2Proof.Machine Sys2Proof.Proofs.Happenings

variable {m : Mgmt} {r : Run} {cid i : Nat} {e : SEnv} {c : Copy} {bs : List Byte}

/-! ## Copies -/

theorem copyEnv_cid (h : copyEnv m r cid i = some (e, c)) : e.cid = cid := by
  unfold copyEnv at h
  obtain ⟨e', hEnv, h⟩ := Option.bind_eq_some_iff.mp h
  obtain ⟨c', -, h⟩ := Option.bind_eq_some_iff.mp h
  split at h
  · cases h
  · cases h
    unfold senv? at hEnv
    simp only [Option.bind_eq_bind, Option.bind_eq_some_iff] at hEnv
    grind

theorem reachElement_read {tags : List Bool} (hCopy : copyEnv m r cid i = some (e, c)) (hFirst : c.snapshot = none)
    (hRead : readElement e c = .ok (bs, tags)) (hGood : elementFault e c (elementOf bs) tags = none) :
    let x := elementOf bs
    let t := spendKept r (copyAsker e c)
    let skip := x.skipEn && (bitOf (match c.predWord with
      | some o => loadNum t e.crew.block (.pad cid o) 8
      | none => 0) x.skipBit == x.skipPol)
    let c' := { c with snapshot := some bs, skip := skip, prefixLen := 0 }
    let t := if 4 ≤ x.dsp && !skip && x.total != 0 then openInterval t e.crew.block else t
    reachElement m r cid i = setCopy t cid i (fun _ =>
      (if c'.finished then c'.advance (isProt t e.ctx) x else c').awayOf m t e.ctx e.crew.status) := by
  simp only [reachElement, hCopy, hFirst, Option.isSome_none, Bool.false_eq_true, if_false, hRead, hGood] <;> rfl

theorem reachElement_stops {tags : List Bool} {code : Nat} (hCopy : copyEnv m r cid i = some (e, c)) (hFirst : c.snapshot = none)
    (hRead : readElement e c = .ok (bs, tags)) (hBad : elementFault e c (elementOf bs) tags = some code)
    (hLive : e.crew.status ≠ .ended) :
    reachElement m r cid i = setCopy (spendKept r (copyAsker e c)) cid i (·.stop code) := by
  simp only [reachElement, hCopy, hFirst, Option.isSome_none, Bool.false_eq_true, if_false, hRead, hBad, stopCopy, if_neg hLive,
    copyEnv_cid hCopy]

/-- What the engine starts a delivery from. -/
def startMove (r : Run) (e : SEnv) (c : Copy) : Moved := { run := spendKept r (copyAsker e c), n := c.prefixLen, ahead := c.ahead }

theorem deliverBytes_done {n : Nat} {d : Moved} (hCopy : copyEnv m r cid i = some (e, c)) (hTaken : c.snapshot = some bs)
    (hMore : c.finished = false) (hLive : e.crew.status ≠ .ended)
    (hDeliver : deliver e (elementOf bs) (copyAsker e c) i (min (c.prefixLen + max 1 n) (elementOf bs).total)
      ((elementOf bs).total - c.prefixLen) (startMove r e c) (startMove r e c) = (d, none)) :
    let x := elementOf bs
    let t := countBytes e (if d.n = x.total then flushWord e d.run i else d.run) c (d.n - c.prefixLen)
    deliverBytes m r cid i n = setCopy t cid i (fun y => (y.reach (isProt t e.ctx) x d.n d.ahead).awayOf m t e.ctx e.crew.status) := by
  have live : (e.crew.status == .ended) = false := beq_eq_false_iff_ne.mpr hLive
  unfold startMove at hDeliver
  simp only [deliverBytes, hCopy, hTaken, hMore, Bool.false_eq_true, if_false, live, hDeliver, Bool.false_and]

theorem completeCopy_finished (hCopy : copyEnv m r cid i = some (e, c)) (hDone : c.finished = true) :
    completeCopy m r cid i = settleCopies (setCopy r cid i (fun c => { c with done := true })) cid := by
  simp only [completeCopy, hCopy, hDone, if_true]

/-! ## Matrix operations -/

theorem mergeDone_whole {core : Nat} {s : Stage} {op : MatrixOp} (hStage : (r.coreSt core).stage = some s)
    (hOp : Assoc.get? r.matrix s.op = some op) (hWhole : s.whole op = true)
    (hFree : accHeld m r (opGrid r op).ctx (accOf op.desc) = false) :
    mergeDone m r core = countStalls (spendIssues 257 m (mergeStage r core) core) core := by
  simp only [mergeDone, hStage, Option.bind_some, hOp, Option.map_some, hWhole, hFree, Bool.not_false, Bool.and_self, if_true]

theorem completeMatrix_whole {key : Nat} {op : MatrixOp} (hOp : Assoc.get? r.matrix key = some op) (hCut : op.cut = true)
    (hWork : op.readout = false) (hPieces : op.pieces.all (fun p => p.finished op) = true) :
    completeMatrix m r key = retireMatrix m r key op := by
  simp only [completeMatrix, hOp, hCut, hWork, hPieces, Bool.not_false, Bool.and_self, if_true]

theorem stopMatrix_fault {key core k code x : Nat} (hFault : nextFault m r key core = some (k, code, x)) (hCode : code ≠ tcHostPage) :
    let t := leaveOp (mergeOp r k) k
    stopMatrix m r key core = { t with matrix := Assoc.modify t.matrix k (fun y => { y with fault := some (code, x), taken := [] }) } := by
  simp only [stopMatrix, hFault, if_neg hCode]

theorem completeMclr_due {wi id : Nat} {o : PendOp} {crew : Crew} {ds : List Byte} {ps : List Place}
    (hOp : warpOp r cid wi id .mx = some o) (hCrew : Assoc.get? r.crews cid = some crew) (hData : o.data = .mclr ds ps)
    (hEarlier : earlierDone r cid wi id (accOf ds) false = true) (hFree : accHeld m r (crewCtx r cid) (accOf ds) = false) :
    completeMclr m r cid wi id = finishWarpOp m
      (ps.foldl (fun r p => storeBytes r crew.block p (List.replicate 4096 0)) r) cid wi id (fun w => w) := by
  simp only [completeMclr, hOp, hCrew, hData, hEarlier, hFree, Bool.not_false, Bool.and_self, if_true]

theorem completeReadout_read {key : Nat} {op : MatrixOp} {b : Block} {g : Grid} {xs : List ReadElem}
    (hReady : readyReadout r key = some (op, b, g)) (hRead : readElements m r (matrixAsker (opTile r op) key) g b op = .ok xs)
    (hFree : accHeld m r g.ctx (accOf op.desc) = false) :
    let fs := xs.map (fun x => (x.ix, x.value.2.1))
    completeReadout m r key = retireMatrix m (countBound (countFlags (writeElements r g op xs) (opTile r op) g.ctx fs)
      (opTile r op) g (accOf op.desc).bound (xs.filter (fun x => x.value.2.2.1)).length) key
      { op with flags := joinFlags fs, armed := xs.any (fun x => x.value.2.2.2) } := by
  simp only [completeReadout, hReady, hFree, Bool.false_eq_true, if_false, hRead]

theorem copyElementReach_of {a : EvArgs} {t : Run} (h : reachElement m r a.crew a.n = t) : Happens .copyElementReach a m r t :=
  happens_of (fun m r a => reachElement m r a.crew a.n) (fun _ => rfl) h

end Sys2Proof.Proofs.EngineWork
end

section
/-! The engines' events settled. -/
namespace Sys2Proof.Proofs.EngineWork

open Sys2Proof Sys2Proof.Machine Sys2Proof.Proofs.Happenings

/-- Settles O22: each event of the engine by its equation. -/
theorem engineEventsHappen : Obligations.EngineEventsHappen := by
  unfold Obligations.EngineEventsHappen
  refine ⟨fun a m r₀ e c bs tags hCopy hFirst hRead hGood => copyElementReach_of (reachElement_read hCopy hFirst hRead hGood),
    fun a m r e c bs tags code hCopy hFirst hRead hBad hLive =>
      copyElementReach_of (reachElement_stops hCopy hFirst hRead hBad hLive),
    fun a m r₀ e c bs d hCopy hTaken hMore hLive => ?_, fun a m r e c hCopy hDone => ?_,
    fun a m r s op hStage hOp hWhole hFree => ?_, fun a m r op hOp hCut hWork hPieces => ?_,
    fun a m r k code x hFault hCode => ?_, fun a m r o c ds ps hOp hCrew hData hEarlier hFree => ?_,
    fun a m r op b g xs hReady hRead hFree => ?_, fun a m r => ?_⟩
  · intro x start hDeliver
    exact happens_of (fun m r a => deliverBytes m r a.crew a.n a.value) (fun _ => rfl)
      (deliverBytes_done hCopy hTaken hMore hLive hDeliver)
  · exact happens_of (fun m r a => completeCopy m r a.crew a.n) (fun _ => rfl) (completeCopy_finished hCopy hDone)
  · exact happens_of (fun m r a => mergeDone m r a.core) (fun _ => rfl) (mergeDone_whole hStage hOp hWhole hFree)
  · exact happens_of (fun m r a => completeMatrix m r a.op) (fun _ => rfl) (completeMatrix_whole hOp hCut hWork hPieces)
  · exact happens_of (fun m r a => stopMatrix m r a.op a.core) (fun _ => rfl) (stopMatrix_fault hFault hCode)
  · exact happens_of (fun m r a => completeMclr m r a.crew a.warp a.op) (fun _ => rfl)
      (completeMclr_due hOp hCrew hData hEarlier hFree)
  · exact happens_of (fun m r a => completeReadout m r a.op) (fun _ => rfl) (completeReadout_read hReady hRead hFree)
  · exact happens_of (fun m r a => governorWindow m r a.core a.value) (fun _ => rfl) rfl

end Sys2Proof.Proofs.EngineWork
end

section
/-! Notify writes, packets, queue registers, moderation and the lease (R351 to R360). -/
namespace Sys2Proof.Proofs.QueueInterfaces

open Sys2Proof Sys2Proof.Machine Sys2Proof.Proofs.Happenings

variable {m : Mgmt} {r : Run} {fn q : Nat} {bs : List Byte} {ctx : Nat}

/-! ## Notify pages -/

/-- A write to a notify page through the owner port, to an enabled queue whose head it is not (R352). -/
theorem notifyWrite_newTail {v : Nat} (hEn : (r.queueIf fn q).en = true) (hHead : v ≠ (r.queueIf fn q).qhead.toNat) :
    notifyWrite r r.owner fn q 0 4 v =
      if 2 ^ (r.queueIf fn q).qlog ≤ v then
        raiseCause (r.setQueueIf fn q (fun y => { y with en := false, tailbad := true })) fn q 1
      else r.setQueueIf fn q (fun y => { y with tail := v }) := by
  simp [notifyWrite, hEn, hHead]

theorem notifyWrite_head {off n : Nat} : notifyWrite r r.owner fn q off n (r.queueIf fn q).qhead.toNat = r := by
  simp [notifyWrite]

/-! ## Packets -/

/-- A packet of the type that an intake is for, which nothing refuses (R353, R354). -/
theorem intake_accepted {ty : Nat} (hNext : nextPacket m r fn q = some bs) (hType : pktType bs = ty)
    (hJudge : judgePacket m r fn q bs = .accept ctx) (hFence : fenced r fn q bs = false) :
    intake m r fn q ty false = pduDone (actPacket m r fn q ctx bs) ctx (pktAddr bs) := by
  simp [intake, hNext, hType, hJudge, hFence]

theorem intake_refused {ty st : Nat} (hNext : nextPacket m r fn q = some bs) (hType : pktType bs = ty)
    (hJudge : judgePacket m r fn q bs = .refuse st) :
    intake m r fn q ty false =
      refusePacket (pduDone r ((ctxOfPasid m r fn (pktPasid bs)).getD 0) (pktAddr bs)) fn q st bs := by
  simp [intake, hNext, hType, hJudge]

/-- Where a LAUNCH packet taken from a queue's ring has its grid from (R354). -/
def packetLaunch (r : Run) (fn q : Nat) (bs : List Byte) : LaunchFrom where
  queue := fn * 64 + q
  level := ((takeFromRing r fn q).2.queueIf fn q).pri
  packet := some ((takeFromRing r fn q).1, pktSeq bs, pktFlags bs)

theorem actPacket_launch {t : Run} (hType : pktType bs = 1) (hMiss : launchMiss m r ctx (pktAddr bs) = none)
    (hAccept : acceptLaunch m (takeFromRing r fn q).2 ctx (pktAddr bs) (packetLaunch r fn q bs) = (0, t)) :
    actPacket m r fn q ctx bs = t := by
  unfold packetLaunch at hAccept
  simp only [actPacket, hType, launchPacket, hMiss, hAccept]

theorem actPacket_wait (hType : pktType bs = 2) :
    let x := takeFromRing r fn q
    actPacket m r fn q ctx bs = x.2.setQueueIf fn q (fun y => { y with waiting := some (x.1, ctx, bs) }) := by
  simp only [actPacket, hType]

theorem actPacket_signal (hType : pktType bs = 3) :
    let x := takeFromRing r fn q
    actPacket m r fn q ctx bs = x.2.setQueueIf fn q (fun y => { y with signals := y.signals ++ [(x.1, ctx, bs)] }) := by
  simp only [actPacket, hType]

theorem actPacket_post (hType : pktType bs = 4) :
    let x := takeFromRing r fn q
    let v := pktValue bs
    let y := post x.2 (.host (if fn = 0 then 0 else 1) q) ctx (v % 256) (v / 2 ^ 32)
    actPacket m r fn q ctx bs = complete y.1 fn q x.1 (pktSeq bs) (0x20 + y.2) 4 (pktFlags bs) 0 := by
  simp only [actPacket, hType]

theorem lookAgain_ends {k : Nat} {w : List Byte} (hWaits : (r.queueIf fn q).waiting = some (k, ctx, bs))
    (hMiss : hostMissAt m r ctx (pktAddr bs) 8 needRd = none) (hFree : homeHeld m r ctx (pktAddr bs) = false)
    (hRead : readVa m r ctx (pktAddr bs) 8 = some w) (hDue : pktValue bs ≤ ofBytes w) :
    lookAgain m r fn q = complete ((pduDone r ctx (pktAddr bs)).setQueueIf fn q (fun y => { y with waiting := none })) fn q k
      (pktSeq bs) 0 2 (pktFlags bs) 0 := by
  simp only [lookAgain, hWaits, hMiss, hFree, Bool.false_eq_true, if_false, hRead, if_pos hDue]

theorem sendSignal_oldest {k : Nat} {rest : List (Nat × Nat × List Byte)} (hSignals : (r.queueIf fn q).signals = (k, ctx, bs) :: rest)
    (hEarlier : (r.queueIf fn q).outstanding.any (fun j => decide (j < k)) = false) (hFree : homeHeld m r ctx (pktAddr bs) = false)
    (hMiss : hostMissAt m r ctx (pktAddr bs) 8 needWr = none) :
    sendSignal m r fn q = complete ((pduDone (writeVa m r ctx (pktAddr bs) (toBytes 8 (pktValue bs))) ctx (pktAddr bs)).setQueueIf fn q
      (fun y => { y with signals := rest })) fn q k (pktSeq bs) 0 3 (pktFlags bs) 0 := by
  simp only [sendSignal, hSignals, hEarlier, hFree, Bool.false_eq_true, or_self, if_false, hMiss]

/-! ## The lease -/

theorem renewLease_owner (h : r.expired = true) : renewLease r r.owner = { r with renewed := true } := by
  simp [renewLease, h]

theorem renewLease_same {port : Nat} (h : r.expired = false ∨ port ≠ r.owner) : renewLease r port = r := by
  unfold renewLease
  rcases h with h | h <;> simp [h]

theorem claimLease_expired {port : Nat} (hExpired : r.expired = true) (hRenewed : r.renewed = false) (hPort : port ≠ r.owner) :
    claimLease r port = { r with
      owner := port % 2, expired := false, epoch := r.epoch + 1
      funcs := r.funcs.map (fun (p : Nat × Func) => (p.1, { p.2 with queues := p.2.queues.map (fun (q : Nat × QueueIf) =>
        (q.1, if q.2.en then { q.2 with held := true, tail := q.2.qhead.toNat } else q.2)) })) } := by
  simp [claimLease, hExpired, hRenewed, hPort]

/-! ## The events -/

/-- What a launch event does. -/
def launchEvent (m : Mgmt) (r : Run) (a : EvArgs) : Run :=
  if a.value = 3 then denyRing r a.fn a.queue else intake m r a.fn a.queue 1 a.flag

/-- What an event of a WAIT_EVENT packet does. -/
def waitEvent (m : Mgmt) (r : Run) (a : EvArgs) : Run :=
  if a.value = 1 then lookAgain m r a.fn a.queue else intake m r a.fn a.queue 2 a.flag

/-- What an event of a SIGNAL packet does. -/
def signalEvent (m : Mgmt) (r : Run) (a : EvArgs) : Run :=
  if a.value = 1 then sendSignal m r a.fn a.queue else intake m r a.fn a.queue 3 a.flag

theorem launch_of {a : EvArgs} {t : Run} (h : launchEvent m r a = t) : Happens .launch a m r t := happens_of launchEvent (fun _ => rfl) h

theorem waitEvent_of {a : EvArgs} {t : Run} (h : waitEvent m r a = t) : Happens .waitEvent a m r t :=
  happens_of waitEvent (fun _ => rfl) h

theorem signal_of {a : EvArgs} {t : Run} (h : signalEvent m r a = t) : Happens .signal a m r t := happens_of signalEvent (fun _ => rfl) h

theorem notifyWrite_of {a : EvArgs} {t : Run} (h : notifyWrite r a.port a.fn a.queue a.addr a.n a.value = t) :
    Happens .notifyWrite a m r t := happens_of (fun _ r a => notifyWrite r a.port a.fn a.queue a.addr a.n a.value) (fun _ => rfl) h

/-- A notify write of a new tail, as an event. -/
theorem notifyWrite_event {a : EvArgs} {t : Run} (hPort : a.port = r.owner) (hAddr : a.addr = 0) (hWidth : a.n = 4)
    (hEn : (r.queueIf a.fn a.queue).en = true) (hHead : a.value ≠ (r.queueIf a.fn a.queue).qhead.toNat)
    (h : (if 2 ^ (r.queueIf a.fn a.queue).qlog ≤ a.value then
        raiseCause (r.setQueueIf a.fn a.queue (fun y => { y with en := false, tailbad := true })) a.fn a.queue 1
      else r.setQueueIf a.fn a.queue (fun y => { y with tail := a.value })) = t) : Happens .notifyWrite a m r t := by
  refine notifyWrite_of ?_
  rw [hPort, hAddr, hWidth, notifyWrite_newTail hEn hHead, h]

theorem renew_of {a : EvArgs} {t : Run} (h : renewLease r a.port = t) : Happens .renew a m r t :=
  happens_of (fun _ r a => renewLease r a.port) (fun _ => rfl) h

/-- What a timer of moderation does when it runs out (R357). -/
def timerEvent (r : Run) (a : EvArgs) : Run :=
  let x := r.queueIf a.fn a.queue
  let e := (rdReg x.remap a.n).toNat
  if bits e 31 31 = 1 ∧ bits e 19 12 ≠ 0 ∧ rdReg x.pendings a.n ≠ 0 ∧ !x.held then sendCause r a.fn a.queue a.n else r

end Sys2Proof.Proofs.QueueInterfaces
end

section
/-! The events of queues settled. -/
namespace Sys2Proof.Proofs.QueueInterfaces

open Sys2Proof Sys2Proof.Machine Sys2Proof.Proofs.Happenings

/-- Settles O23: each event by the equation of what it does. -/
theorem queueEventsHappen : Obligations.QueueEventsHappen := by
  unfold Obligations.QueueEventsHappen
  refine ⟨fun a m r hPort hAddr hWidth hEn hHead hSize =>
      notifyWrite_event hPort hAddr hWidth hEn hHead (if_neg (Nat.not_le.mpr hSize)),
    fun a m r hPort hAddr hWidth hEn hHead hSize => notifyWrite_event hPort hAddr hWidth hEn hHead (if_pos hSize),
    fun a m r hPort hHead => notifyWrite_of (by rw [hPort, hHead]; exact notifyWrite_head),
    fun a m r hDeny => launch_of (if_pos hDeny),
    fun a m r bs ctx t hNext hFlag hValue hType hJudge hFence hMiss hAccept => ?_,
    fun a m r bs ctx hValue hNext hFlag hType hJudge hFence => ?_,
    fun a m r k bs ctx w hValue hWaits hMiss hFree hRead hDue => ?_,
    fun a m r bs ctx hValue hNext hFlag hType hJudge hFence => ?_,
    fun a m r k bs rest ctx hValue hSignals hEarlier hFree hMiss => ?_,
    fun a m r bs ctx hNext hFlag hType hJudge hFence => ?_, fun a m r bs st hNext hFlag hValue hType hJudge => ?_,
    fun a m r hPort => ?_, fun a m r hPort => ?_, fun a m r hOn hTime hCount hFree => ?_, fun a m r => ?_, fun a m r => ?_,
    fun a m r hExpired hPort => renew_of (by rw [hPort]; exact renewLease_owner hExpired),
    fun a m r hSame => renew_of (renewLease_same hSame), fun a m r hExpired hRenewed hPort => ?_⟩
  · refine launch_of ((if_neg hValue).trans ?_)
    rw [hFlag, intake_accepted hNext hType hJudge hFence, actPacket_launch hType hMiss hAccept]
  · refine waitEvent_of ((if_neg hValue).trans ?_)
    rw [hFlag, intake_accepted hNext hType hJudge hFence, actPacket_wait hType]
  · exact waitEvent_of ((if_pos hValue).trans (lookAgain_ends hWaits hMiss hFree hRead hDue))
  · refine signal_of ((if_neg hValue).trans ?_)
    rw [hFlag, intake_accepted hNext hType hJudge hFence, actPacket_signal hType]
  · exact signal_of ((if_pos hValue).trans (sendSignal_oldest hSignals hEarlier hFree hMiss))
  · refine happens_of (fun m r a => intake m r a.fn a.queue 4 a.flag) (fun _ => rfl) ?_
    rw [hFlag, intake_accepted hNext hType hJudge hFence, actPacket_post hType]
  · refine launch_of ((if_neg hValue).trans ?_)
    rw [hFlag, intake_refused hNext hType hJudge]
  · exact happens_of (fun _ r a => if a.port = r.owner then writeChead r a.fn a.queue a.value else r) (fun _ => rfl) (if_pos hPort)
  · exact happens_of (fun m r a => if a.port = r.owner then writeQctl m r a.fn a.queue a.value else r) (fun _ => rfl) (if_pos hPort)
  · exact happens_of (fun _ r a => timerEvent r a) (fun _ => rfl) (if_pos ⟨hOn, hTime, hCount, by rw [hFree]; rfl⟩)
  · exact happens_of (fun _ r a => unmaskVector r a.port a.fn a.n) (fun _ => rfl) rfl
  · exact happens_of (fun _ r _ => { r with expired := true, renewed := false }) (fun _ => rfl) rfl
  · exact happens_of (fun _ r a => claimLease r a.port) (fun _ => rfl) (claimLease_expired hExpired hRenewed hPort)

end Sys2Proof.Proofs.QueueInterfaces
end

section
/-! Contexts, invalidations, HOST pages, thresholds, and accesses from outside (R56, R329, R341 to R350, R364, R374, R377, R390,
R396, R400). -/
namespace Sys2Proof.Proofs.ContextEffects

open Sys2Proof Sys2Proof.Machine Sys2Proof.Proofs.Happenings

variable {m : Mgmt} {r : Run} {fn tag : Nat} {p : Part}

/-! ## CTXCTL -/

theorem createContext_made {c : Nat} {d : CtxDesc} (hPart : partOfFn m fn = some (tag, p))
    (hMake : createErr m r fn tag c p = (0, some d)) :
    let old := Assoc.get? r.contexts (tag * 64 + c)
    createContext m r fn c = setErr { r with contexts := Assoc.set r.contexts (tag * 64 + c) {
      s1root := d.s1root, pasid := d.pasid, prot := d.cflags == 1, spbase := d.spbase, splen := d.splen, hpool := d.hpool,
      hplen := d.hplen, live := true, thr := (old.map (·.thr)).getD [], thrFire := (old.map (·.thrFire)).getD 0,
      watch := (old.map (·.watch)).getD [] } } fn 0 c := by
  simp only [createContext, hPart, hMake]

theorem createContext_refused {c err : Nat} (hPart : partOfFn m fn = some (tag, p)) (hErr : createErr m r fn tag c p = (err, none)) :
    createContext m r fn c = setErr r fn err c := by
  simp only [createContext, hPart, hErr]

theorem destroyContext_live {c : Nat} {x : Context} (hPart : partOfFn m fn = some (tag, p))
    (hCtx : Assoc.get? r.contexts (tag * 64 + c) = some x) (hLive : x.live = true) :
    destroyContext m r fn c = setErr (killContext r (tag * 64 + c)) fn 0 c := by
  simp only [destroyContext, hPart, hCtx, hLive, if_true]

/-! ## Invalidations -/

/-- What a write of INVCTL by a row of some kinds does. -/
def invalWrite (kinds : List Nat) (m : Mgmt) (r : Run) (a : EvArgs) : Run :=
  if kinds.contains (bits a.value 27 26) ∧ bitOf a.value 31 then writeInvctl m r a.fn a.value else r

theorem invalWrite_kind {kinds : List Nat} {a : EvArgs} {k : Nat} (hKind : bits a.value 27 26 = k) (hIn : kinds.contains k = true)
    (hGo : bitOf a.value 31 = true) : invalWrite kinds m r a = writeInvctl m r a.fn a.value :=
  if_pos ⟨by rw [hKind, hIn], hGo⟩

/-- What the end of an invalidation does (R346 step 3). -/
def invalDone (m : Mgmt) (r : Run) (a : EvArgs) : Run :=
  if invalReady m r a.fn then
    let r := match partOfFn m a.fn with
      | some (tag, _) => dropUnmapped m r tag
      | none => r
    r.setFunc a.fn (fun f => { f with invctl := (f.invctl &&& ~~~(1#32 <<< 28)) ||| (1#32 <<< 30) })
  else r

theorem invalDone_ready {a : EvArgs} (hReady : invalReady m r a.fn = true) (hPart : partOfFn m a.fn = some (tag, p)) :
    invalDone m r a = (dropUnmapped m r tag).setFunc a.fn
      (fun f => { f with invctl := (f.invctl &&& ~~~(1#32 <<< 28)) ||| (1#32 <<< 30) }) := by
  simp only [invalDone, hReady, if_true, hPart]

/-! ## HOST pages -/

theorem atsCompletion_granted {tile key frame rights : Nat} {q : PageReq}
    (hReq : (r.tileSt tile).reqs.find? (fun q => q.tag == key && !q.pri && !q.refused && !q.due) = some q)
    (hRights : rights &&& q.need = q.need) :
    atsCompletion m r tile key frame rights = pageSettled m (grantPage r tile frame rights q) q.ctx q.page := by
  simp only [atsCompletion, hReq, if_pos hRights]

theorem atsCompletion_denied {tile key frame rights : Nat} {q : PageReq}
    (hReq : (r.tileSt tile).reqs.find? (fun q => q.tag == key && !q.pri && !q.refused && !q.due) = some q)
    (hRights : rights &&& q.need ≠ q.need) (hFirst : q.again = false) (hPri : (r.func (fnOfCtx m q.ctx)).priStopped = false) :
    atsCompletion m r tile key frame rights = r.tile tile (fun t => withReq t key (fun x =>
      some (if 256 ≤ pagesOut m r (fnOfCtx m q.ctx) then { x with due := true } else { x with pri := true }))) := by
  simp only [atsCompletion, hReq, if_neg hRights, hFirst, hPri, Bool.or_self, Bool.false_eq_true, if_false]
  split <;> rfl

variable {tile key : Nat} {q : PageReq}

theorem prgResponse_success (hReq : (r.tileSt tile).reqs.find? (fun q => q.tag == key && q.pri && !q.refused) = some q) :
    prgResponse m r tile key 0 = sendDuePage m (r.tile tile (fun t => withReq t key (fun q =>
      some { q with pri := false, again := true, stale := false }))) (fnOfCtx m q.ctx) := by
  simp only [prgResponse, hReq, if_true]

theorem prgResponse_invalid (hReq : (r.tileSt tile).reqs.find? (fun q => q.tag == key && q.pri && !q.refused) = some q) :
    prgResponse m r tile key 1 = sendDuePage m (pageSettled m (r.tile tile (fun t => withReq t key (fun q =>
      some { q with refused := true }))) q.ctx q.page) (fnOfCtx m q.ctx) := by
  simp only [prgResponse, hReq, Nat.one_ne_zero, if_false, if_true]

theorem prgResponse_failure {code : Nat} (hReq : (r.tileSt tile).reqs.find? (fun q => q.tag == key && q.pri && !q.refused) = some q)
    (hCode : 1 < code) :
    prgResponse m r tile key code = refuseDue m ((pageSettled m (r.tile tile (fun t => withReq t key (fun q =>
      some { q with refused := true }))) q.ctx q.page).setFunc (fnOfCtx m q.ctx) (fun f => { f with priStopped := true }))
      (fnOfCtx m q.ctx) := by
  simp only [prgResponse, hReq, if_neg (show code ≠ 0 by omega), if_neg (show code ≠ 1 by omega)]

theorem sendInvalidated_due (hWaits : (r.func fn).atsWaits ≠ 0) (hFree : hostHeld m r fn = false) :
    sendInvalidated m r fn = { r.setFunc fn (fun f => { f with atsWaits := 0 }) with
      replies := r.replies ++ List.replicate (r.func fn).atsWaits { kind := .atsInvalidateRequest, fn := fn } } := by
  simp [sendInvalidated, hWaits, hFree]

/-! ## Thresholds -/

theorem endWindow_counts {ctx cls : Nat} {c : Context} (hCtx : Assoc.get? r.contexts ctx = some c)
    (hNone : bits (rdReg c.thr cls).toNat 31 0 = 0) :
    endWindow m r tile ctx cls = (r.tile tile (fun t => { t with thrCount := wrReg t.thrCount (ctx * 8 + cls) 0 })).context ctx
      (fun c' => { c' with thrSum := wrReg c'.thrSum cls (BitVec.ofNat 32 (min ((rdReg c.thrSum cls).toNat +
        (rdReg (r.tileSt tile).thrCount (ctx * 8 + cls)).toNat) (2 ^ 32 - 1))) }) := by
  simp only [endWindow, hCtx, hNone, ne_eq, not_true_eq_false, false_and, if_false]

/-! ## Accesses of hosts and peers -/

/-- What a host's access does, or its wait for the end of a pack-up (R390). -/
def hostAccess (m : Mgmt) (r : Run) (a : EvArgs) : Run := match hostHolder m a.addr with
  | some tag => { r with arrivals := r.arrivals ++ [⟨tag, true, a⟩] }
  | none => hostPerform r a

theorem hostAccess_held {a : EvArgs} (h : hostHolder m a.addr = some tag) :
    hostAccess m r a = { r with arrivals := r.arrivals ++ [⟨tag, true, a⟩] } := by
  simp only [hostAccess, h]

theorem hostAccess_free {a : EvArgs} (h : hostHolder m a.addr = none) : hostAccess m r a = hostPerform r a := by
  simp only [hostAccess, h]

variable {a : EvArgs} {d : Nat}

theorem peerAccess_dropped (h : m.allowsTag (peerTile a.tile) 4 (tileChan m a.part (peerTile a.tile)) a.part = false) :
    peerAccess m r a = peerAnswer (dropPacket r (peerTile a.tile) (peerTile a.tile) a.part 4
      (tileChan m a.part (peerTile a.tile))) a.part [] true := by
  simp only [peerAccess, h, Bool.false_eq_true, if_false]

theorem peerAccess_held (h : m.allowsTag (peerTile a.tile) 4 (tileChan m a.part (peerTile a.tile)) a.part = true)
    (hHeld : ppaHeld m a.part false a.addr = true) :
    peerAccess m r a = { r with arrivals := r.arrivals ++ [⟨a.part, false, a⟩] } := by
  simp only [peerAccess, h, hHeld, if_true]

theorem peerAccess_free (h : m.allowsTag (peerTile a.tile) 4 (tileChan m a.part (peerTile a.tile)) a.part = true)
    (hFree : ppaHeld m a.part false a.addr = false) : peerAccess m r a = peerPerform m r a := by
  simp only [peerAccess, h, hFree, if_true, Bool.false_eq_true, if_false]

theorem peerPerform_write (hPlace : stage2 m r a.part a.addr = some (.dev d)) (hWrite : a.value = 1) :
    peerPerform m r a =
      peerAnswer (writePlaces r ((List.range a.n).map (fun i => Place.dev (d + i))) (a.data.take a.n)) a.part [] false := by
  simp only [peerPerform, hPlace, hWrite, Nat.one_ne_zero, if_false, if_true]

theorem peerPerform_read (hPlace : stage2 m r a.part a.addr = some (.dev d)) (hRead : a.value = 0) :
    peerPerform m r a =
      peerAnswer r a.part ((List.range a.n).map (fun i => rawByte r (.dev (d + i)))) (poisonedSpan r (.dev d) a.n) := by
  simp only [peerPerform, hPlace, hRead, if_true]

/-! ## Completion by the host, and peers that are lost -/

theorem proxyDone_found {i k : Nat} {c : Call}
    (h : r.calls.find? (fun p => p.2.proxy == some i && fnOfCtx m (p.2.part * 64 + p.2.ctx) == fn) = some (k, c)) :
    let at_ := (r.func fn).pxbase.toNat + 128 * i
    let st := Mem.read r.hostMem 2 (at_ + 2)
    let res := Mem.read r.hostMem 8 (at_ + 56)
    proxyDone m r fn i = completeCall (r.setFunc fn (fun f =>
      settleHandle f c.num (c.part * 64 + c.ctx) st res (recField c.block 8 8))) k st (Mem.read r.hostMem 4 (at_ + 4)) res := by
  simp only [proxyDone, h]

/-- What the loss of a peer module, or a peer's refusal of a block, does (R350, R369). -/
def peerLost (m : Mgmt) (r : Run) (a : EvArgs) : Run :=
  if !a.flag then losePeer m r a.n
  else { r with peerRefused := (if a.value = 1 then setErase else setInsert) r.peerRefused a.addr }

/-- What a post of a peer does (R364, R369). -/
def peerPost (r : Run) (a : EvArgs) : Run :=
  let (r, status) := post r (.peer a.n a.tag (a.value % 64)) a.ctx a.lane a.addr
  { r with replies := r.replies ++ [{ kind := .peerPost, fn := a.n, bytes := toBytes 1 status }] }

/-! ## The events -/

variable {t : Run}

theorem ctxctlCreate_of (hPort : a.port = r.owner) (h : createContext m r a.fn (a.ctx % 64) = t) : Happens .ctxctlCreate a m r t :=
  happens_of (fun m r a => if a.port = r.owner then createContext m r a.fn (a.ctx % 64) else r) (fun _ => rfl) ((if_pos hPort).trans h)

theorem atsTranslationCompletion_of (h : atsCompletion m r a.tile a.tag a.value (a.n % 8) = t) :
    Happens .atsTranslationCompletion a m r t :=
  happens_of (fun m r a => atsCompletion m r a.tile a.tag a.value (a.n % 8)) (fun _ => rfl) h

theorem prgResponse_of (h : prgResponse m r a.tile a.tag a.value = t) : Happens .prgResponse a m r t :=
  happens_of (fun m r a => prgResponse m r a.tile a.tag a.value) (fun _ => rfl) h

/-- What an Invalidate Request, or the sending of the completions that wait, does (R349). -/
def invalidateRequest (m : Mgmt) (r : Run) (a : EvArgs) : Run :=
  if a.flag then sendInvalidated m r a.fn else atsInvalidate m r a.fn a.value a.addr a.n

theorem atsInvalidateRequest_of (h : invalidateRequest m r a = t) : Happens .atsInvalidateRequest a m r t :=
  happens_of invalidateRequest (fun _ => rfl) h

theorem hostAccess_of (h : hostAccess m r a = t) : Happens .hostAccess a m r t := happens_of hostAccess (fun _ => rfl) h

theorem peerAccess_of (h : peerAccess m r a = t) : Happens .peerAccess a m r t := happens_of peerAccess (fun _ => rfl) h

end Sys2Proof.Proofs.ContextEffects
end

section
/-! The events of contexts settled. -/
namespace Sys2Proof.Proofs.ContextEffects

open Sys2Proof Sys2Proof.Machine Sys2Proof.Proofs.Happenings

/-- Settles O24: each event by the equation of what it does. -/
theorem contextEventsHappen : Obligations.ContextEventsHappen := by
  unfold Obligations.ContextEventsHappen
  refine ⟨fun a m r tag p d hPort hPart hMake => ctxctlCreate_of hPort (createContext_made hPart hMake),
    fun a m r tag p err hPort hPart hErr => ctxctlCreate_of hPort (createContext_refused hPart hErr),
    fun a m r tag p x hPort hPart hCtx hLive => ?_, fun a m r hPort hPart => ?_,
    fun a m r hKind hGo => happens_of (invalWrite [0, 3]) (fun _ => rfl) (invalWrite_kind hKind rfl hGo),
    fun a m r hKind hGo => happens_of (invalWrite [1]) (fun _ => rfl) (invalWrite_kind hKind rfl hGo),
    fun a m r hKind hGo => happens_of (invalWrite [2]) (fun _ => rfl) (invalWrite_kind hKind rfl hGo),
    fun a m r tag p hReady hPart => happens_of invalDone (fun _ => rfl) (invalDone_ready hReady hPart),
    fun a m r q hReq hRights => atsTranslationCompletion_of (atsCompletion_granted hReq hRights),
    fun a m r q hReq hRights hFirst hPri => atsTranslationCompletion_of (atsCompletion_denied hReq hRights hFirst hPri),
    fun a m r q hReq hCode => prgResponse_of (by rw [hCode]; exact prgResponse_success hReq),
    fun a m r q hReq hCode => prgResponse_of (by rw [hCode]; exact prgResponse_invalid hReq),
    fun a m r q hReq hCode => prgResponse_of (prgResponse_failure hReq hCode),
    fun a m r hFlag => atsInvalidateRequest_of (if_neg (Bool.eq_false_iff.mp hFlag)),
    fun a m r hFlag hWaits hFree => atsInvalidateRequest_of ((if_pos hFlag).trans (sendInvalidated_due hWaits hFree)),
    fun a m r => ?_, fun a m r c hCtx hNone => ?_, fun a m r => ?_, fun a m r => ?_,
    fun a m r tag hHeld => hostAccess_of (hostAccess_held hHeld),
    fun a m r hFree hWrite => hostAccess_of ((hostAccess_free hFree).trans (if_pos hWrite)),
    fun a m r hFree hRead => hostAccess_of ((hostAccess_free hFree).trans (if_neg (Bool.eq_false_iff.mp hRead))),
    fun a m r hAllowed => peerAccess_of (peerAccess_dropped hAllowed),
    fun a m r hAllowed hHeld => peerAccess_of (peerAccess_held hAllowed hHeld),
    fun a m r d hAllowed hFree hPlace hWrite =>
      peerAccess_of ((peerAccess_free hAllowed hFree).trans (peerPerform_write hPlace hWrite)),
    fun a m r d hAllowed hFree hPlace hRead =>
      peerAccess_of ((peerAccess_free hAllowed hFree).trans (peerPerform_read hPlace hRead)),
    fun a m r => ?_, fun a m r key c hFound => ?_, fun a m r hFlag => ?_⟩
  · exact happens_of (fun m r a => if a.port = r.owner then destroyContext m r a.fn (a.ctx % 64) else r) (fun _ => rfl)
      ((if_pos hPort).trans (destroyContext_live hPart hCtx hLive))
  · exact happens_of (fun m r a => if a.port = r.owner ∧ (partOfFn m a.fn).isSome then setErr r a.fn 6 (a.ctx % 64) else r)
      (fun _ => rfl) (if_pos ⟨hPort, hPart⟩)
  · exact happens_of (fun _ r a => r.setFunc a.fn (fun f => { f with priStopped := false })) (fun _ => rfl) rfl
  · exact happens_of (fun m r a => endWindow m r a.tile a.ctx (a.n % 8)) (fun _ => rfl) (endWindow_counts hCtx hNone)
  · exact happens_of (fun _ r a => r.context a.ctx (fun c => { c with thrSum := wrReg c.thrSum (a.n % 8) 0 })) (fun _ => rfl) rfl
  · exact happens_of (fun _ r a => hostResume r a.crew a.warp a.slice) (fun _ => rfl) rfl
  · exact happens_of (fun _ r a => peerPost r a) (fun _ => rfl) rfl
  · exact happens_of (fun m r a => proxyDone m r a.fn a.value) (fun _ => rfl) (proxyDone_found hFound)
  · exact happens_of peerLost (fun _ => rfl) (if_pos (by rw [hFlag]; rfl))

end Sys2Proof.Proofs.ContextEffects
end

section
/-! Debug halts, snapshots, telemetry and plain registers (R351, R413, R419, R421). -/
namespace Sys2Proof.Proofs.DebugEffects

open Sys2Proof Sys2Proof.Machine Sys2Proof.Proofs.Happenings

variable {m : Mgmt} {r : Run} {fn tag : Nat} {p : Part}

theorem debugWrite_own {c : Nat} (f : Run → Nat → Run) (h : partOfFn m fn = some (tag, p)) :
    debugWrite m r fn c f =
      f (r.setFunc fn (fun x => { x with dbgctl := BitVec.ofNat 32 (c % 64) })) (tag * 64 + c % 64) := by
  simp only [debugWrite, h]

/-- The run with a tile taken out of the tiles that a snapshot has still to reach (R421). -/
def reached (r : Run) (n tile origin : Nat) (left : List Nat) : Run :=
  let rest := setErase left tile
  { r with floods := if rest = [] then r.floods.eraseIdx n else setAt r.floods n (origin, rest) }

theorem latchSnapshot_armed {n tile origin : Nat} {left : List Nat} (hFlood : r.floods[n]? = some (origin, left))
    (hLeft : left.contains tile = true) (hArmed : ((reached r n tile origin left).tileSt tile).snapped = false) :
    let t := sampleClocks m ((reached r n tile origin left).sampleRefc tile) tile
    latchSnapshot m r n tile = t.draw.2.tile tile (fun y =>
      { y with snapped := true, snapImage := snapImage m t tile origin, snapOrigin := origin }) := by
  unfold reached at *
  simp only [latchSnapshot, hFlood, hLeft, Bool.not_true, Bool.false_eq_true, if_false, hArmed]

theorem readTeldata_vf {port : Nat} (h : fn ≠ 0) :
    readTeldata m r fn port = r.draw.2.setFunc fn (fun f =>
      { f with teldata := Config.telemetry (bits (r.func fn).telsel.toNat 31 16) r.draw.1, telstat := f.telstat &&& ~~~1#32 }) := by
  have vf : (decide (fn ≠ 0)) = true := decide_eq_true h
  simp only [readTeldata, vf, Bool.true_or, if_true]

theorem writeRegister_ctxbase {n v : Nat} (h : partOfFn m fn = some (tag, p)) :
    writeRegister m r fn r.owner 0x100 n v = r.setFunc fn (fun f => { f with ctxbase := BitVec.ofNat 64 (v / 4096 * 4096) }) := by
  simp [writeRegister, writeFnReg, h]

/-- What the write of a plain register does, where the function presents it (R351). -/
def registerWrite (m : Mgmt) (r : Run) (a : EvArgs) : Run :=
  if presents m a.fn a.addr then writeRegister m r a.fn a.port a.addr a.n a.value else r

theorem registerWrite_of {a : EvArgs} {t : Run} (h : registerWrite m r a = t) : Happens .registerWrite a m r t :=
  happens_of registerWrite (fun _ => rfl) h

end Sys2Proof.Proofs.DebugEffects
end

section
/-! The events of debugging settled. -/
namespace Sys2Proof.Proofs.DebugEffects

open Sys2Proof Sys2Proof.Machine Sys2Proof.Proofs.Happenings

/-- Settles O25: each event by the equation of what it does. -/
theorem debugEventsHappen : Obligations.DebugEventsHappen := by
  unfold Obligations.DebugEventsHappen
  refine ⟨fun a m r tag p hPart => ?_, fun a m r tag p hPart => ?_, fun a m r hPf => ?_, fun a m r hPf => ?_,
    fun a m r origin left hFlood hLeft _ => ?_, fun a m r hVf => ?_, fun a m r hThere => registerWrite_of (if_pos hThere),
    fun a m r hAway => registerWrite_of (if_neg (Bool.eq_false_iff.mp hAway)), fun a m r tag p hUp hPort hAddr hPart => ?_⟩
  · exact happens_of (fun m r a => debugWrite m r a.fn a.ctx haltContext) (fun _ => rfl) (debugWrite_own haltContext hPart)
  · exact happens_of (fun m r a => debugWrite m r a.fn a.ctx resumeContext) (fun _ => rfl) (debugWrite_own resumeContext hPart)
  · exact happens_of (fun _ r a => if a.fn = 0 then raiseSnapshot r 0 else r) (fun _ => rfl) (if_pos hPf)
  · exact happens_of (fun _ r a => if a.fn = 0 then rearmSnapshots r else r) (fun _ => rfl) (if_pos hPf)
  · intro rest r' t hArmed
    exact happens_of (fun m r a => latchSnapshot m r a.n a.tile) (fun _ => rfl) (latchSnapshot_armed hFlood hLeft hArmed)
  · exact happens_of (fun m r a => readTeldata m r a.fn a.port) (fun _ => rfl) (readTeldata_vf hVf)
  · refine registerWrite_of ((if_pos (by simp [presents, hUp])).trans ?_)
    rw [hPort, hAddr]
    exact writeRegister_ctxbase hPart

end Sys2Proof.Proofs.DebugEffects
end

section
/-! Mailbox commands: written, refused, waiting and looked at again (R384, R410, R414, R417, R418, R421). -/
namespace Sys2Proof.Proofs.Mailbox

open Sys2Proof Sys2Proof.Machine Sys2Proof.Proofs.Happenings

/-- What a mailbox command does with management, run, partition tag and the word written (R417). -/
abbrev Command := Mgmt → Run → Nat → Nat → Done

variable {a : EvArgs} {m : Mgmt} {r : Run} {code : Nat} {mine : Nat → Bool} {f again : Command}

theorem mailboxStep_written (h : Commanded a m r code) (hMine : mine code = true) :
    mailboxStep m r a mine f again = mailboxAnswer (f m (r.commanded a) (bits a.value 15 8) a.value) := by
  have offered : ¬ (m.recovery = true ∧ code ≠ 13) := by
    rintro ⟨hRec, hCode⟩
    rcases h.offered with h | h
    · rw [hRec] at h
      cases h
    · exact hCode h
  simp only [mailboxStep, h.first, h.booted, h.port, h.idle, h.code, hMine, Bool.false_eq_true, if_false, beq_self_eq_true,
    Bool.not_false, Bool.and_self, if_true, if_neg offered]
  rfl

theorem mailboxStep_again (hUp : m.recovery = false) (hAgain : a.flag = true) (hBusy : r.mailboxBusy = true)
    (hMine : mine (r.mbcmd.toNat % 256) = true) :
    mailboxStep m r a mine f again = mailboxAnswer (again m r (bits r.mbcmd.toNat 15 8) r.mbcmd.toNat) := by
  simp only [mailboxStep, hUp, hAgain, hBusy, hMine, Bool.and_self, if_true, Bool.false_eq_true, false_and, if_false]

/-- A command that is written is done with the status that its meaning gives, or stays BUSY (R417). -/
theorem commandDone_of {i : Instr} {status : Option Nat} {x : Mgmt × Run} (h : Commanded a m r code)
    (hExec : ∀ s, exec i s = happenAll s (fun a => mailboxStep s.mgmt s.run a mine f again)) (hMine : mine code = true)
    (hDoes : f m (r.commanded a) (bits a.value 15 8) a.value = (status, x)) :
    CommandDone i a m r (status.getD (2 ^ 31)) x := by
  refine happensAll_of (fun m r a => mailboxStep m r a mine f again) hExec ?_
  rw [mailboxStep_written h hMine, hDoes]
  cases status <;> rfl

/-- As `commandDone_of`, for a command that is looked at again. -/
theorem commandDone_again {i : Instr} {status : Option Nat} {x : Mgmt × Run} (hUp : m.recovery = false) (hAgain : a.flag = true)
    (hBusy : r.mailboxBusy = true) (hExec : ∀ s, exec i s = happenAll s (fun a => mailboxStep s.mgmt s.run a mine f again))
    (hMine : mine (r.mbcmd.toNat % 256) = true) (hDoes : again m r (bits r.mbcmd.toNat 15 8) r.mbcmd.toNat = (status, x)) :
    CommandDone i a m r (status.getD (2 ^ 31)) x := by
  refine happensAll_of (fun m r a => mailboxStep m r a mine f again) hExec ?_
  rw [mailboxStep_again hUp hAgain hBusy hMine, hDoes]
  cases status <;> rfl

/-! ## What the commands do -/

section
variable {tag w : Nat} {p : Part}

theorem withPart_there {g : Mgmt → Run → Nat → Part → Nat → Done} (h : Assoc.get? m.parts tag = some p) :
    withPart g m r tag w = g m r tag p w := by
  simp only [withPart, h]

theorem withPart_absent {g : Mgmt → Run → Nat → Part → Nat → Done} (h : Assoc.get? m.parts tag = none) :
    withPart g m r tag w = (some 6, m, r) := by
  simp only [withPart, h, Done.status]

theorem commandCreate_makes (hGood : createRefusal m tag (readCreation r) = none)
    (hClean : scrubbing m (readCreation r).tiles (readCreation r).pcs = false) :
    commandCreate m r tag w = (some 0, createPart m r tag (readCreation r)) := by
  simp only [commandCreate, hGood, hClean, Bool.false_eq_true, if_false]

theorem commandCreate_refused {n : Nat} (hBad : createRefusal m tag (readCreation r) = some n) :
    commandCreate m r tag w = (some n, m, r) := by
  simp only [commandCreate, hBad, Done.status]

/-- The channels and tiles of a partition given to the scrub, and its tag free (R412). -/
def unmade (m : Mgmt) (tag : Nat) (p : Part) : Mgmt :=
  Mgmt.routed { scrubPart m tag with
    parts := Assoc.erase (scrubPart m tag).parts tag
    tileScrubs := p.tiles.foldl (fun w t => Assoc.set w t p.pcset) (scrubPart m tag).tileScrubs }

theorem commandDestroy_done (hStill : p.pack = none) (hLog : m.logFull = false) :
    commandDestroy m r tag p w = (some 0, newConfig (unmade m tag p) (forgetPart (wipePart m r tag) tag p.vf)) := by
  simp [commandDestroy, firstStatus, hStill, hLog, unmade]

theorem beginCommand_begins {refusal : Option Nat} {wait : Bool} {k : Pack} (hGood : refusal = none) (hClean : wait = false) :
    beginCommand m r tag refusal wait k = (none, beginPack m r tag k) := by
  simp only [beginCommand, hGood, hClean, Bool.false_eq_true, if_false]

theorem packAgain_finishes {g : Mgmt → Run → Nat → Part → Nat → Done} {k : Pack}
    (hPack : (Assoc.get? m.parts tag).bind (·.pack) = some k) (hCommand : k.command = true) (hReady : packReady r k = true) :
    packAgain g m r tag w = (some 0, finishPack m r tag) := by
  simp only [packAgain, hPack, hCommand, hReady, if_true]

theorem commandSetShare_sets (hSome : bits w 23 16 ≠ 0) (hRoom : sharesBut m tag + bits w 23 16 ≤ 256) :
    commandSetShare m r tag p w = (some 0, m.part tag (fun p => { p with share := bits w 23 16 }), r) := by
  have room : ¬ 256 < sharesBut m tag + bits w 23 16 := Nat.not_lt.mpr hRoom
  simp [commandSetShare, firstStatus, hSome, room]

theorem commandSetShare_over (hSome : bits w 23 16 ≠ 0) (hOver : 256 < sharesBut m tag + bits w 23 16) :
    commandSetShare m r tag p w = (some 4, m, r) := by
  simp [commandSetShare, firstStatus, hSome, hOver, Done.status]

theorem commandSetCaps_sets (hLog : m.logFull = false) :
    let m1 := settleClocks (m.part tag (fun p => { p with capClock := bits w 31 16, capCurrent := bits w 47 32 })) p.tiles
    commandSetCaps m r tag p w = (some 0, newConfig m1 (setBudgets m1 r p.tiles (bits w 47 32))) := by
  simp only [commandSetCaps, hLog, Bool.false_eq_true, if_false]

theorem commandErrlogRead_reads (h : entryThere (bits w 21 16) ((Assoc.get? r.errLogs tag).getD []).length = true) :
    let out := (((Assoc.get? r.errLogs tag).getD []).drop (bits w 21 16)).take 63
    commandErrlogRead m r tag p w =
      (some 0, m, putMb (putMb r 0 (toBytes 8 (rdReg r.errLost tag).toNat ++ toBytes 8 out.length)) 32 out.flatten) := by
  simp only [commandErrlogRead, h, Bool.not_true, Bool.false_eq_true, if_false]

theorem commandDroplogRead_reads (h : entryThere (bits w 25 16) r.dropLog.length = true) :
    let out := (r.dropLog.drop (bits w 25 16)).take 127
    commandDroplogRead m r tag w =
      (some 0, m, putMb r 0 (toBytes 8 r.dropLost.toNat ++ toBytes 8 out.length ++ out.flatten)) := by
  simp only [commandDroplogRead, h, Bool.not_true, Bool.false_eq_true, if_false]

theorem commandSnapRead_reads (h : bits w 22 16 < 96) :
    let t := r.tileSt (bits w 22 16)
    commandSnapRead m r tag w = (some 0, m, putMb (putMb r 0
      ((if t.snapImage = [] then List.replicate 2048 0#8 else t.snapImage).take 2048)) 16 (toBytes 8 t.snapLost.toNat)) := by
  simp only [commandSnapRead, if_neg (Nat.not_le.mpr h)]

theorem commandFwLoad_keeps (h : 2048 * (bits w 31 16 + 1) ≤ 2 ^ 26) :
    let i := bits w 31 16
    commandFwLoad m r tag w = (some 0, { m with
      standby := Mem.writeBytes m.standby (2048 * i) (Mem.bytes r.mbdata 2048 0)
      standbyLen := max m.standbyLen (2048 * (i + 1))
      standbyReady := bitOf w 32 }, r) := by
  simp only [commandFwLoad, if_neg (Nat.not_lt.mpr h)]

end

end Sys2Proof.Proofs.Mailbox
end

section
/-! The mailbox commands settled. -/
namespace Sys2Proof.Proofs.Mailbox

open Sys2Proof Sys2Proof.Machine Sys2Proof.Proofs.Happenings

/-- A pack-up command looked at again once the saves are complete (R389). -/
theorem packDone {i : Instr} {a : EvArgs} {m : Mgmt} {r : Run} {k : Pack} {code : Nat} {f : Mgmt → Run → Nat → Part → Nat → Done}
    (hExec : ∀ s, exec i s = packCommand s code f) (hUp : m.recovery = false) (hAgain : a.flag = true)
    (hBusy : r.mailboxBusy = true) (hPack : (Assoc.get? m.parts (bits r.mbcmd.toNat 15 8)).bind (·.pack) = some k)
    (hCommand : k.command = true) (hReady : packReady r k = true) (hCode : r.mbcmd.toNat % 256 = code) :
    CommandDone i a m r 0 (finishPack m r (bits r.mbcmd.toNat 15 8)) :=
  commandDone_again hUp hAgain hBusy hExec (beq_iff_eq.mpr hCode) (packAgain_finishes hPack hCommand hReady)

/-- Settles O26: each command by the equation of what it does. -/
theorem mailboxCommandsHappen : Obligations.MailboxCommandsHappen := by
  unfold Obligations.MailboxCommandsHappen
  refine ⟨fun a m r h hGood hClean => ?_, fun a m r n h hBad => ?_, fun a m r p h hPart hStill hLog => ?_,
    fun a m r p h hPart hGood hClean => ?_, fun a m r p h hPart hGood => ?_, fun a m r p h hPart hGood hClean => ?_,
    fun a m r k hUp hAgain hBusy hPack hCommand hReady => ?_, fun a m r p h hPart hSome hRoom => ?_,
    fun a m r p h hPart hSome hOver => ?_, fun a m r p h hPart hLog => ?_, fun a m r p h hPart hThere => ?_,
    fun a m r h hThere => ?_, fun a m r h hTile => ?_, fun a m r h => ?_, fun a m r p h hPart => ?_, fun a m r h hSize => ?_,
    fun a m r c h hUp hCode => ?_, fun a m r c h hPart hUp => ?_⟩
  · exact commandDone_of h (fun _ => rfl) rfl (commandCreate_makes hGood hClean)
  · exact commandDone_of h (fun _ => rfl) rfl (commandCreate_refused hBad)
  · exact commandDone_of h (fun _ => rfl) rfl ((withPart_there hPart).trans (commandDestroy_done hStill hLog))
  · exact commandDone_of (f := withPart commandGrow) h (fun _ => rfl) rfl ((withPart_there hPart).trans (beginCommand_begins hGood hClean))
  · exact commandDone_of (f := withPart commandShrink) h (fun _ => rfl) rfl ((withPart_there hPart).trans (beginCommand_begins hGood rfl))
  · exact commandDone_of (f := withPart commandCompact) h (fun _ => rfl) rfl ((withPart_there hPart).trans (beginCommand_begins hGood hClean))
  · exact ⟨packDone (fun _ => rfl) hUp hAgain hBusy hPack hCommand hReady,
      packDone (fun _ => rfl) hUp hAgain hBusy hPack hCommand hReady,
      packDone (fun _ => rfl) hUp hAgain hBusy hPack hCommand hReady⟩
  · exact commandDone_of h (fun _ => rfl) rfl ((withPart_there hPart).trans (commandSetShare_sets hSome hRoom))
  · exact commandDone_of h (fun _ => rfl) rfl ((withPart_there hPart).trans (commandSetShare_over hSome hOver))
  · exact commandDone_of h (fun _ => rfl) rfl ((withPart_there hPart).trans (commandSetCaps_sets hLog))
  · exact commandDone_of h (fun _ => rfl) rfl ((withPart_there hPart).trans (commandErrlogRead_reads hThere))
  · exact commandDone_of h (fun _ => rfl) rfl (commandDroplogRead_reads hThere)
  · exact commandDone_of h (fun _ => rfl) rfl (commandSnapRead_reads hTile)
  · exact commandDone_of (f := fun m r _ _ => (some 0, m, rearmSnapshots r)) h (fun _ => rfl) rfl rfl
  · exact commandDone_of (f := withPart commandShapeRead) h (fun _ => rfl) rfl (withPart_there hPart)
  · exact commandDone_of h (fun _ => rfl) rfl (commandFwLoad_keeps hSize)
  · exact commandDone_of (mine := fun c => c == 0 || decide (13 < c)) (f := fun m r _ _ => .status m r 6) h (fun _ => rfl)
      (by simpa using hCode) rfl
  · constructor <;> rintro rfl
    · exact commandDone_of h (fun _ => rfl) rfl (withPart_absent hPart)
    · exact commandDone_of h (fun _ => rfl) rfl (withPart_absent hPart)

end Sys2Proof.Proofs.Mailbox
end

section
/-! Repairs, scrubbing, clocks, power, reset and links (R377, R388, R391, R401, R402, R404 to R406, R412, R414 to R416), and the
requests of SPDM, TDISP and IDE (R387, R409). -/
namespace Sys2Proof.Proofs.ModuleEffects

open Sys2Proof Sys2Proof.Machine Sys2Proof.Proofs.Happenings

variable {m : Mgmt} {r : Run} {tag : Nat} {p : Part}

/-! ## What base camp holds of a tile -/

theorem Mgmt.tileHw_tile_self (m : Mgmt) (t : Nat) (f : TileHw → TileHw) : (m.tile t f).tileHw t = f (m.tileHw t) := by
  show ((Assoc.get? (Assoc.set m.tiles t (f (m.tileHw t))) t).getD {}) = _
  rw [Assoc.get?_set_self]
  rfl

theorem newConfig_tileHw (m : Mgmt) (r : Run) (t : Nat) : (newConfig m r).1.tileHw t = m.tileHw t := rfl

/-! ## Failing tiles and cores -/

/-- What follows the finding of a failing tile of a partition: its entry in the error log, and the end of the contexts that lose
state (R388). -/
def tileLost (r : Run) (tag : Nat) (p : Part) (t : Nat) (unreadable : Bool) : Run :=
  let r := logError r tag 10 0xFF t 0 0 0
  if unreadable then (contextsOn r tag t p.tiles).foldl killContext r else r

variable {t : Nat} {unreadable : Bool}

theorem failTile_free (h : m.owner t = none) :
    failTile m r t unreadable = (m.tile t (fun x => { x with failing := true }), r) := by
  have away : (m.tile t (fun x => { x with failing := true })).owner t = none := h
  simp only [failTile, away]

theorem failTile_owned (h : m.owner t = some (tag, p)) :
    failTile m r t unreadable =
      if p.pack.isSome then (m.tile t (fun x => { x with failing := true }), tileLost r tag p t unreadable)
      else repairTile (m.tile t (fun x => { x with failing := true })) (tileLost r tag p t unreadable) tag p t := by
  have owned : (m.tile t (fun x => { x with failing := true })).owner t = some (tag, p) := h
  simp only [failTile, owned]
  rfl

theorem replaceCore_none {c : Nat} (h : (m.tileHw t).spares = []) : replaceCore m r t c = failTile m r t false := by
  simp only [replaceCore, h]

theorem replaceCore_spare {c sp : Nat} {rest : List Nat} (hSpares : (m.tileHw t).spares = sp :: rest)
    (hCore : (m.tileHw t).cores.contains c = true) :
    ∃ r', replaceCore m r t c = newConfig (m.tile t (fun x => { x with
      cores := x.cores.map (fun k => if k = c then sp else k), spares := rest, swaps := Assoc.set x.swaps c sp })) r' := by
  simp only [replaceCore, hSpares, hCore, Bool.not_true, Bool.false_eq_true, if_false]
  exact ⟨_, rfl⟩

/-! ## Pseudo-channels -/

variable {c : Nat} {space : Bool}

theorem dropChannel_free (h : m.parts.find? (fun p => p.2.pcset.contains c) = none) :
    dropChannel m r c space =
      newConfig { m with channels := Assoc.set m.channels c { m.channel c with dropped := true } } r := by
  simp only [dropChannel, h]

theorem dropChannel_packing {k : Pack} (h : m.parts.find? (fun p => p.2.pcset.contains c) = some (tag, p)) (hPack : p.pack = some k) :
    dropChannel m r c space = (m.part tag (fun p => { p with dropsDue := p.dropsDue ++ [(c, space)] }), r) := by
  simp only [dropChannel, h, hPack, Option.isSome_some, if_true]

theorem dropChannel_begins (h : m.parts.find? (fun p => p.2.pcset.contains c) = some (tag, p)) (hStill : p.pack = none)
    (hMore : 1 < p.pcset.length) :
    dropChannel m r c true = beginPack m (logError r tag 7 0xFF (controllerTile c) 0 0 c) tag
      { kind := 0, tiles := p.tiles, pcset := p.pcset.filter (· != c), affected := p.tiles } := by
  simp only [dropChannel, h, hStill, Option.isSome_none, Bool.false_eq_true, if_false, dropFrom, hMore, and_self, if_true]

theorem scrubDone_due (h : (m.channel c).state = 2) :
    scrubDone m c = { m with
      channels := Assoc.set m.channels c { m.channel c with state := 0, cursor := 0 }
      tileScrubs := (m.tileScrubs.map (fun (p : Nat × List Nat) => (p.1, p.2.filter (· != c)))).filter (fun p => p.2 != []) } := by
  simp only [scrubDone, h, ne_eq, not_true_eq_false, if_false]

/-! ## Clocks, links and reset -/

theorem characterised_free (h : (m.tile t (fun x => { x with reduced := false })).owner t = none) :
    characterised m r t = (m.tile t (fun x => { x with reduced := false }), r) := by
  simp only [characterised, h]

theorem characterised_last (h : (m.tile t (fun x => { x with reduced := false })).owner t = some (tag, p))
    (hLast : (m.tile t (fun x => { x with reduced := false })).reducedPart p = false) :
    characterised m r t = newShape (m.tile t (fun x => { x with reduced := false })) r tag := by
  simp only [characterised, h, hLast, Bool.false_eq_true, if_false]

theorem retrain_few (h : ((m.tile t (fun x => { x with retrains := x.retrains + 1 })).tileHw t).retrains ≤ 8) :
    retrain m r t = (m.tile t (fun x => { x with retrains := x.retrains + 1 }), r) := by
  simp only [retrain, Nat.not_lt.mpr h, false_and, if_false]

theorem coldMgmt_standbyReady (m : Mgmt) : (coldMgmt m).standbyReady = m.standbyReady := rfl

theorem resetChip_good {standby : Bool} (h : m.standbyReady = false) :
    resetChip m r true standby = measuredBoot { coldMgmt m with
      channels := (coldMgmt m).channels.map (fun (p : Nat × Channel) => (p.1, p.2.atReset)), booted := true,
      standbyReady := false } (coldRun r) := by
  simp only [resetChip, coldMgmt_standbyReady, h, Bool.false_and, Bool.false_eq_true, if_false, Bool.or_true, if_true]

theorem resetChip_bad {standby : Bool} (h : m.standbyReady = false) : (resetChip m r false standby).1.recovery = true := by
  simp only [resetChip, coldMgmt_standbyReady, h, Bool.false_and, Bool.false_eq_true, if_false, Bool.or_self]

/-- The run after the reset of a VF with no pack-up in progress (R377). -/
def vfCleared (r : Run) (fn tag : Nat) : Run :=
  let r1 := (((r.contexts.filter (fun c => partOf c.1 == tag && c.2.live)).map (·.1)).foldl killContext r).setFunc fn
    (fun f => { f with handleGen := f.handleGen + 1, handles := [] })
  { r1 with
    contexts := r1.contexts.map (fun (c : Nat × Context) => if partOf c.1 = tag then (c.1, { c.2 with intblk := [] }) else c)
    calls := r1.calls.filter (fun c => c.2.part != tag)
    units := r1.units.filter (fun k => (Assoc.get? r1.calls k).all (fun c => c.part != tag))
    svcQueues := Assoc.erase r1.svcQueues tag
    faultQueues := Assoc.erase r1.faultQueues tag }

theorem resetVf_still {fn : Nat} (hPart : partOfFn m fn = some (tag, p)) (hLocked : p.tdi ≠ 1) (hRun : p.tdi ≠ 2)
    (hStill : p.pack = none) : resetVf m r fn = (m, vfCleared r fn tag) := by
  simp only [resetVf, hPart, hStill, Option.isSome_none, Bool.false_eq_true, if_false, hLocked, hRun, or_self]
  rfl

/-! ## Requests over DOE -/

variable {fn : Nat}

/-- A request answered with bytes that the spec does not give. -/
def spdmAnswer (kind : Instr) (n : Nat) (f : Func → Func) (m : Mgmt) (r : Run) (a : EvArgs) : Run :=
  if !answers m a.fn then r else answered r kind a.fn n f

theorem spdm_of {i : Instr} {a : EvArgs} (kind : Instr) (n : Nat) (f : Func → Func) (hExec : ∀ s, exec i s = spdm s kind n f)
    (h : answers m a.fn = true) : Happens i a m r (answered r kind a.fn n f) :=
  happens_of (spdmAnswer kind n f) hExec (if_neg (by rw [h]; decide))

/-- What a request for a measurement block does. -/
def measurementsAnswer (m : Mgmt) (r : Run) (a : EvArgs) : Run :=
  if !answers m a.fn then r
  else match measurementBlock m a.fn a.n r.free with
    | some bs => answer r.draw.2 .getMeasurements a.fn bs false
    | none => answer r .getMeasurements a.fn [] true

theorem measurementsAnswer_block {a : EvArgs} {bs : List Byte} (h : answers m a.fn = true)
    (hBlock : measurementBlock m a.fn a.n r.free = some bs) :
    measurementsAnswer m r a = answer r.draw.2 .getMeasurements a.fn bs false := by
  simp only [measurementsAnswer, h, Bool.not_true, Bool.false_eq_true, if_false, hBlock]

/-- The lock record (R387): the flags, and the nonce in 32 bytes. -/
def lockRecord (flags : Nat) (nonce : List Byte) : List Byte := toBytes 8 flags ++ (nonce ++ List.replicate 32 0).take 32

theorem lockInterface_locks {flags : Nat} {nonce : List Byte} (hPart : partOfFn m fn = some (tag, p)) (hFlags : flags < 4)
    (hOpen : p.tdi = 0) :
    let m1 := m.part tag (fun p => { p with tdi := 1, repairLock := bitOf flags 0, reshapeLock := bitOf flags 1 })
    lockInterface m r fn flags nonce = (m1.extendPx tag 2 (measure (lockRecord flags nonce)) (lockRecord flags nonce),
      answer (secretBytes r 32).2 .lockInterfaceRequest fn (secretBytes r 32).1 false) := by
  have good : ¬ (4 ≤ flags ∨ p.tdi ≠ 0) := by omega
  simp only [lockInterface, hPart, if_neg good]
  rfl

theorem lockInterface_fails {flags : Nat} {nonce : List Byte} (hPart : partOfFn m fn = some (tag, p))
    (hBad : 4 ≤ flags ∨ p.tdi ≠ 0) :
    lockInterface m r fn flags nonce = (m, answer r .lockInterfaceRequest fn [] true) := by
  simp only [lockInterface, hPart, if_pos hBad]

variable {port : Nat}

theorem vendorDefined_start (h : answers m fn = true) (hPart : partOfFn m fn = some (tag, p)) (hLocked : p.tdi = 1) :
    vendorDefined m r fn port 2 = (m.setTdi tag 2, answer r .vendorDefined fn [] false) := by
  simp [vendorDefined, h, hPart, hLocked]

theorem vendorDefined_report (h : answers m fn = true) (hPart : partOfFn m fn = some (tag, p)) :
    vendorDefined m r fn port 4 = (m, answer r .vendorDefined fn (shapeReport m tag p) false) := by
  simp [vendorDefined, h, hPart]

theorem ideViolation_ruins (hPart : partOfFn m fn = some (tag, p)) (hRun : p.tdi = 2)
    (hStream : (r.func fn).ideStreams.contains port = false) :
    ideViolation m r fn port = ruinPart (m.tdiError tag) r tag := by
  simp only [ideViolation, hPart, hRun, hStream, Bool.not_false, and_self, if_true]

end Sys2Proof.Proofs.ModuleEffects
end

section
/-! The events of the module settled. -/
namespace Sys2Proof.Proofs.ModuleEffects

open Sys2Proof Sys2Proof.Machine Sys2Proof.Proofs.Happenings

/-- What TILE_FAILING does. -/
def tileFailing (m : Mgmt) (r : Run) (a : EvArgs) : Mgmt × Run :=
  if a.value = 1 then match m.owner a.tile with
    | some (tag, _) => finishPack m r tag
    | none => (m, r)
  else failTile m r a.tile a.flag

/-- What CHANNEL_DROPPED does. -/
def channelDropped (m : Mgmt) (r : Run) (a : EvArgs) : Mgmt × Run :=
  if a.value = 1 then finishPack m r a.part
  else if a.value = 2 then (newWindow m a.n, r)
  else dropChannel m r a.n a.flag

/-- What LINK_RETRAIN does. -/
def linkRetrain (m : Mgmt) (r : Run) (a : EvArgs) : Mgmt × Run :=
  if a.value = 1 then (m.tile a.tile (fun x => { x with retrains := 0 }), r) else retrain m r a.tile

variable {a : EvArgs} {m : Mgmt} {r : Run} {x : Mgmt × Run}

theorem tileFailing_of (h : tileFailing m r a = x) : HappensAll .tileFailing a m r x := happensAll_of tileFailing (fun _ => rfl) h

theorem tileFailing_found (hFound : a.value ≠ 1) (h : failTile m r a.tile a.flag = x) : HappensAll .tileFailing a m r x :=
  tileFailing_of ((if_neg hFound).trans h)

theorem coreReplaced_of (h : replaceCore m r a.tile a.n = x) : HappensAll .coreReplaced a m r x :=
  happensAll_of (fun m r a => replaceCore m r a.tile a.n) (fun _ => rfl) h

theorem channelDropped_of (h : channelDropped m r a = x) : HappensAll .channelDropped a m r x :=
  happensAll_of channelDropped (fun _ => rfl) h

theorem channelDropped_drop (hSaved : a.value ≠ 1) (hWindow : a.value ≠ 2) (h : dropChannel m r a.n a.flag = x) :
    HappensAll .channelDropped a m r x :=
  channelDropped_of ((if_neg hSaved).trans ((if_neg hWindow).trans h))

theorem characterisationComplete_of (h : characterised m r a.tile = x) : HappensAll .characterisationComplete a m r x :=
  happensAll_of (fun m r a => characterised m r a.tile) (fun _ => rfl) h

theorem linkRetrain_of (h : linkRetrain m r a = x) : HappensAll .linkRetrain a m r x := happensAll_of linkRetrain (fun _ => rfl) h

theorem reset_of (h : resetChip m r a.flag (a.value == 1) = x) : HappensAll .reset a m r x :=
  happensAll_of (fun m r a => resetChip m r a.flag (a.value == 1)) (fun _ => rfl) h

theorem vendorDefined_of (h : vendorDefined m r a.fn a.port a.n = x) : HappensAll .vendorDefined a m r x :=
  happensAll_of (fun m r a => vendorDefined m r a.fn a.port a.n) (fun _ => rfl) h

theorem lockInterfaceRequest_of (h : lockInterface m r a.fn a.value a.data = x) : HappensAll .lockInterfaceRequest a m r x :=
  happensAll_of (fun m r a => lockInterface m r a.fn a.value a.data) (fun _ => rfl) h

end Sys2Proof.Proofs.ModuleEffects
end

section
/-! O27 and O28. -/
namespace Sys2Proof.Proofs.ModuleEffects

open Sys2Proof Sys2Proof.Machine Sys2Proof.Proofs.Happenings

/-- Settles O27: each event by the equation of what it does. -/
theorem moduleEventsHappen : Obligations.ModuleEventsHappen := by
  unfold Obligations.ModuleEventsHappen
  refine ⟨fun a m r hFound hFree => tileFailing_found hFound (failTile_free hFree),
    fun a m r tag p hFound hOwner => ⟨fun hStill => ?_, fun hPack => ?_⟩, fun a m r tag p hSaved hOwner => ?_,
    fun a m r hNone => coreReplaced_of (replaceCore_none hNone), fun a m r sp rest hSpares hCore => ?_,
    fun a m r hSaved hWindow hFree => channelDropped_drop hSaved hWindow (dropChannel_free hFree),
    fun a m r tag p k hSaved hWindow hPart hPack => channelDropped_drop hSaved hWindow (dropChannel_packing hPart hPack),
    fun a m r hWindow => ?_, fun a m r tag p hSaved hWindow hPart hStill hSpace hMore => ?_,
    fun a m r hSaved => channelDropped_of (if_pos hSaved), fun a m r hScrub => ?_, fun a m r => ?_, fun a m r => ?_,
    fun a m r hFree => characterisationComplete_of (characterised_free hFree),
    fun a m r tag p hOwner hLast => characterisationComplete_of (characterised_last hOwner hLast),
    fun a m r => ?_, fun a m r => ?_, fun a m r => ?_, fun a m r hWindow => linkRetrain_of (if_pos hWindow),
    fun a m r hWindow hFew => linkRetrain_of ((if_neg hWindow).trans (retrain_few hFew)), fun a m r => ?_,
    fun a m r hGood hStandby => reset_of (by rw [hGood]; exact resetChip_good hStandby), fun a m r hBad hStandby => ?_,
    fun a m r tag p hPart hLocked hRun hStill => ?_⟩
  · exact tileFailing_found hFound ((failTile_owned hOwner).trans (if_neg (by rw [hStill]; decide)))
  · exact tileFailing_found hFound ((failTile_owned hOwner).trans (if_pos (Option.isSome_iff_ne_none.mpr hPack)))
  · exact tileFailing_of (by simp only [tileFailing, if_pos hSaved, hOwner])
  · obtain ⟨r', hNew⟩ := replaceCore_spare (r := r) hSpares hCore
    refine ⟨_, coreReplaced_of hNew, ?_⟩
    rw [newConfig_tileHw, Mgmt.tileHw_tile_self]
    exact ⟨rfl, rfl, Assoc.get?_set_self _ _ _⟩
  · exact channelDropped_of ((if_neg (by omega)).trans (if_pos hWindow))
  · exact channelDropped_drop hSaved hWindow (by rw [hSpace]; exact dropChannel_begins hPart hStill hMore)
  · exact happensAll_of (fun m r a => (scrubDone m a.n, r)) (fun _ => rfl) (by rw [scrubDone_due hScrub])
  · exact happensAll_of (fun m r a => (m.tile a.tile (fun t => { t with clockStep := t.clockStep - 4 }), r)) (fun _ => rfl) rfl
  · exact happensAll_of (fun m r a => (m.tile a.tile (fun t => { t with clockStep := min (t.clockStep + 1) (maxStep m a.tile) }), r))
      (fun _ => rfl) rfl
  · exact happensAll_of (fun m r a => lowerCeilings m r [a.tile] a.n) (fun _ => rfl) rfl
  · exact happensAll_of (fun m r a => lowerCeilings m r (List.range 96) a.n) (fun _ => rfl) rfl
  · exact happensAll_of (fun m r a => holdEnvelope m r a.n a.value) (fun _ => rfl) rfl
  · exact happensAll_of (fun m r _ => (coldMgmt m, coldRun r)) (fun _ => rfl) rfl
  · exact ⟨_, reset_of rfl, by rw [hBad]; exact resetChip_bad hStandby⟩
  · exact happensAll_of (fun m r a => resetVf m r a.fn) (fun _ => rfl) (resetVf_still hPart hLocked hRun hStill)

/-- Settles O28: each request by what the function answers. -/
theorem attestationEventsHappen : Obligations.AttestationEventsHappen := by
  unfold Obligations.AttestationEventsHappen
  refine ⟨fun a m r h => ⟨spdm_of _ _ _ (fun _ => rfl) h, spdm_of _ _ _ (fun _ => rfl) h, spdm_of _ _ _ (fun _ => rfl) h,
      spdm_of _ _ _ (fun _ => rfl) h, spdm_of _ _ _ (fun _ => rfl) h, spdm_of _ _ _ (fun _ => rfl) h, spdm_of _ _ _ (fun _ => rfl) h,
      spdm_of _ _ _ (fun _ => rfl) h, spdm_of _ _ _ (fun _ => rfl) h, spdm_of _ _ _ (fun _ => rfl) h, spdm_of _ _ _ (fun _ => rfl) h,
      ?_⟩,
    fun a m r bs h hBlock => happens_of measurementsAnswer (fun _ => rfl) (measurementsAnswer_block h hBlock),
    fun a m r tag p hPart hFlags hOpen => lockInterfaceRequest_of (lockInterface_locks hPart hFlags hOpen),
    fun a m r tag p hPart hBad => lockInterfaceRequest_of (lockInterface_fails hPart hBad),
    fun a m r tag p h hPart hStart hLocked => vendorDefined_of (by rw [hStart]; exact vendorDefined_start h hPart hLocked),
    fun a m r tag p h hPart hReport => vendorDefined_of (by rw [hReport]; exact vendorDefined_report h hPart),
    fun a m r tag p hPart hRun hStream => ?_⟩
  · exact happens_of (fun m r a => if answers m a.fn then answer r .unsupportedRequest a.fn [] true else r) (fun _ => rfl) (if_pos h)
  · exact happensAll_of (fun m r a => ideViolation m r a.fn a.port) (fun _ => rfl) (ideViolation_ruins hPart hRun hStream)

end Sys2Proof.Proofs.ModuleEffects
end

section
/-! Service calls that their checks let pass (R246, R253, R307, R331, R343, R346, R362 to R364, R369, R372, R374, R375, R411, R413,
R419). -/
namespace Sys2Proof.Proofs.ServiceCalls

open Sys2Proof Sys2Proof.Machine

variable {a : EvArgs} {e : CallEnv} {r : Run}

/-! ## The checks that calls share -/

theorem withAddr_ok {i n use va : Nat} {f : Nat → Run × Served} (h : e.addr r i n use = .ok va) : withAddr e r i n use f = f va := by
  simp only [withAddr, h]

/-- A buffer that can be reached holds nothing poisoned where it is read (R373, R396). -/
theorem span_ok {va n need : Nat} {ps : List Place} {f : List Place → Run × Served} (hMiss : hostMissAt e.m r e.ctx va n need = none)
    (hSpan : globalSpan e.m r 0 e.ctx va n need = .ok ps) (hClean : need = needRd → ps.any (poisoned r) = false) :
    e.span r va n need f = f ps := by
  have clean : ¬ (need = needRd ∧ ps.any (poisoned r) = true) := fun ⟨hRead, hBad⟩ => by rw [hClean hRead] at hBad; cases hBad
  simp only [CallEnv.span, hMiss, hSpan, if_neg clean]

theorem span_read {va n : Nat} {ps : List Place} {f : List Place → Run × Served} (hMiss : hostMissAt e.m r e.ctx va n needRd = none)
    (hSpan : globalSpan e.m r 0 e.ctx va n needRd = .ok ps) (hClean : ps.any (poisoned r) = false) :
    e.span r va n needRd f = f ps := span_ok hMiss hSpan (fun _ => hClean)

theorem span_write {va n : Nat} {ps : List Place} {f : List Place → Run × Served} (hMiss : hostMissAt e.m r e.ctx va n needWr = none)
    (hSpan : globalSpan e.m r 0 e.ctx va n needWr = .ok ps) : e.span r va n needWr f = f ps :=
  span_ok hMiss hSpan (fun h => absurd h (by decide))

/-- A call that changes mappings and owes no result yet is performed. -/
theorem onceChanged_first {x : Run × Served} (h : e.c.owed = none) : onceChanged r e x = x := by
  simp only [onceChanged, h]

theorem onceChanged_owed {res : Nat} {x : Run × Served} (h : e.c.owed = some res)
    (hFree : placesHeld r (· == e.ctx) e.c.range.1 e.c.range.2 = false) : onceChanged r e x = okRes r res := by
  simp only [onceChanged, h, hFree, Bool.false_eq_true, if_false]

theorem invalidated_free {lo n res : Nat} (h : placesHeld (dropXlats r (· == e.ctx) lo n) (· == e.ctx) lo n = false) :
    invalidated r e lo n res = okRes (dropXlats r (· == e.ctx) lo n) res := by
  simp only [invalidated, h, Bool.false_eq_true, if_false]

theorem invalidated_held {lo n res : Nat} (h : placesHeld (dropXlats r (· == e.ctx) lo n) (· == e.ctx) lo n = true) :
    let t := dropXlats r (· == e.ctx) lo n
    invalidated r e lo n res = ({ t with
      calls := Assoc.modify t.calls e.key (fun c => { c with owed := some res, range := (lo, n) }) }, .away) := by
  simp only [invalidated, h, if_true]

end Sys2Proof.Proofs.ServiceCalls
end

section
/-! Calls on memory and capabilities (R246, R253, R343, R346). -/
namespace Sys2Proof.Proofs.ServiceCalls

open Sys2Proof Sys2Proof.Machine

variable {a : EvArgs} {e : CallEnv} {r : Run}

theorem callMemAlloc_done {h va : Nat} {t : Run} (hSize : pagesTouched 0 (e.arg 0) ≠ 0) (hAttr : attrOk (e.arg 1) = true)
    (hPlace : allocate e.m r e.ctx (pagesTouched 0 (e.arg 0)) (e.arg 1) = some (h, va, t)) :
    callMemAlloc r e a = okRes t va h := by
  simp only [callMemAlloc, hSize, hAttr, Bool.not_true, Bool.false_eq_true, or_self, if_false, hPlace]

theorem callEventCreate_done {h va : Nat} {t : Run}
    (hPlace : allocate e.m r e.ctx 1 (12 + 2 ^ 12 + 2 ^ 13 + 2 ^ 14) = some (h, va, t)) :
    callEventCreate r e a = okRes (writeVa e.m t e.ctx va (toBytes 8 (e.arg 0))) va := by
  simp only [callEventCreate, hPlace]

theorem callMemFree_done {va h : Nat} {x : Alloc} (hFirst : e.c.owed = none) (hAddr : e.addr r 0 0 useName = .ok va)
    (hMine : (((Assoc.get? r.contexts e.ctx).map (·.allocs)).getD []).find? (fun p => p.2.va == va) = some (h, x)) :
    let r1 := (unmapRange e.m r e.ctx ((leavesIn e.m r e.ctx va x.pages).getD [])).context e.ctx
      (fun c => { c with allocs := Assoc.erase c.allocs h })
    callMemFree r e a = invalidated { r1 with taken := r1.taken.erase (e.c.part, x.base, x.pages) } e (va / 4096) x.pages 0 := by
  simp only [callMemFree, onceChanged_first hFirst, withAddr_ok hAddr, hMine]

theorem callMemMap_done {va h base : Nat} {x : Alloc} {t : Run} (hFirst : e.c.owed = none)
    (hAddr : e.addr r 0 0 useName = .ok va)
    (hAll : ((r.contexts.filter (fun c => partOf c.1 == e.c.part)).flatMap (fun c => c.2.allocs)).find? (fun p => p.1 == e.arg 2) =
      some (h, x))
    (hShared : bits x.attr 15 15 = 1) (hAttr : attrOk (e.arg 3) = true) (hRange : rangeOk va (4096 * x.pages) = true)
    (hEmpty : rangeEmpty e.m r e.ctx va x.pages = true)
    (hBase : freeBase e.m r.draw.2 e.c.part (tablePages x.pages) (Config.allocPage r.draw.1) = some base)
    (hEnter : enterPages e.m e.ctx (attrBits (e.arg 3)) x.pages va x.base
      ((List.range (tablePages x.pages)).map (fun i => base + 4096 * i)) r.draw.2 = some t) :
    callMemMap r e a = invalidated { t with taken := t.taken ++ [(e.c.part, base, tablePages x.pages)] } e (va / 4096) x.pages
      (4096 * x.pages) := by
  simp only [callMemMap, onceChanged_first hFirst, withAddr_ok hAddr, hAll, hShared, Nat.one_ne_zero, if_false, hAttr, hRange, hEmpty,
    Bool.not_true, Bool.or_self, Bool.false_eq_true, hBase, hEnter]

theorem callMemUnmap_done {va : Nat} {ls : List (Nat × Nat)} (hFirst : e.c.owed = none) (hAddr : e.addr r 0 (e.arg 2) useName = .ok va)
    (hRange : rangeOk va (e.arg 2) = true) (hLeaves : leavesIn e.m r e.ctx va (e.arg 2 / 4096) = some ls) :
    callMemUnmap r e a = invalidated (unmapRange e.m r e.ctx ls) e (va / 4096) (e.arg 2 / 4096) 0 := by
  simp only [callMemUnmap, onceChanged_first hFirst, withAddr_ok hAddr, hRange, Bool.not_true, Bool.false_eq_true, if_false, hLeaves]

theorem callMemProtect_done {va : Nat} {ls : List (Nat × Nat)} (hFirst : e.c.owed = none)
    (hAddr : e.addr r 0 (e.arg 2) useName = .ok va) (hRange : rangeOk va (e.arg 2) = true)
    (hAttr : bits (e.arg 3) 14 14 = 1 → bits (e.arg 3) 13 12 = 3)
    (hMapped : (List.range (e.arg 2 / 4096)).any (fun i => leafAt e.m r e.ctx (va + 4096 * i) == .hole) = false)
    (hLeaves : leavesIn e.m r e.ctx va (e.arg 2 / 4096) = some ls) :
    callMemProtect r e a = invalidated
      (ls.foldl (fun r l => writePpa e.m r e.c.part l.1 (toBytes 8 (withRights l.2 (e.arg 3)))) r) e (va / 4096) (e.arg 2 / 4096) 0 := by
  have attr : (bits (e.arg 3) 14 14 == 1 && bits (e.arg 3) 13 12 != 3) = false := by
    rw [Bool.and_eq_false_imp]
    intro hOn
    rw [hAttr (beq_iff_eq.mp hOn)]
    rfl
  simp only [callMemProtect, onceChanged_first hFirst, withAddr_ok hAddr, hRange, attr, Bool.not_true, Bool.or_self, Bool.false_eq_true,
    if_false, hMapped, hLeaves]

/-- What MEM_QUERY reports of a leaf, 0 where none is. -/
theorem callMemQuery_done {va : Nat} (hAddr : e.addr r 0 0 useName = .ok va) :
    callMemQuery r e a = okRes r (match leafAt e.m r e.ctx va with
      | .leaf _ _ x => x
      | .hole => 0) := by
  simp only [callMemQuery, withAddr_ok hAddr]
  cases leafAt e.m r e.ctx va <;> rfl

/-- The capability that CAP_MINT makes of its arguments (R253). -/
def minted (e : CallEnv) : Nat :=
  e.arg 0 % 2 ^ 57 + bits (e.arg 3) 63 57 * 2 ^ 57 + e.arg 2 * 2 ^ 64 + ctxId e.ctx * 2 ^ 104

theorem callCapMint_done {d : Nat} {ps : List Place} (hProt : isProt r e.ctx = true) (hAddr : e.arg 1 = 0) (hDst : e.arg 5 = 0)
    (hLen : e.arg 2 < 2 ^ 40) (hPerm : e.arg 3 % 2 ^ 57 = 0) (hAlign : e.arg 4 % 16 = 0)
    (hMay : mintable e.m r e.ctx (e.arg 0) (e.arg 2) (bits (e.arg 3) 63 57) = true) (hPage : onProtPage e.m r e.ctx (e.arg 4) = true)
    (hMiss : hostMissAt e.m r e.ctx (e.arg 4) 16 needWr = none)
    (hSpan : globalSpan e.m r 0 e.ctx (e.arg 4) 16 needWr = .ok (.dev d :: ps)) :
    let t := writePlaces r (.dev d :: ps) (toBytes 16 (minted e))
    callCapMint r e a = okRes { t with capTags := setInsert t.capTags (d / 16) } 0 := by
  have good : ¬ (e.arg 1 ≠ 0 ∨ e.arg 5 ≠ 0 ∨ 2 ^ 40 ≤ e.arg 2 ∨ e.arg 3 % 2 ^ 57 ≠ 0 ∨ e.arg 4 % 16 ≠ 0) := by omega
  simp only [callCapMint, hProt, Bool.not_true, Bool.false_eq_true, if_false, if_neg good, hMay, hPage, span_write hMiss hSpan]
  rfl

theorem callCapRevoke_done {va : Nat} {ps : List Place} (hAddr : e.addr r 0 (e.arg 2) useName = .ok va)
    (hMiss : hostMissAt e.m r e.ctx va (e.arg 2) 0 = none) (hSpan : globalSpan e.m r 0 e.ctx va (e.arg 2) 0 = .ok ps) :
    let gs := (ps.filterMap (fun p => match p with
      | .dev a => some (a / 16)
      | _ => none)).eraseDups.filter (fun g => r.capTags.contains g)
    callCapRevoke r e a = okRes { r with capTags := gs.foldl setErase r.capTags } gs.length := by
  unfold callCapRevoke
  rw [withAddr_ok hAddr, span_ok hMiss hSpan (fun h => absurd h (by decide))] <;> rfl

/-- Settles O30: each call, its checks passed, by the equation of what it does. -/
theorem memoryCallsComplete : Obligations.MemoryCallsComplete := by
  unfold Obligations.MemoryCallsComplete
  refine ⟨fun a e r h va t hSize hAttr hPlace => serves_of rfl (fun _ => rfl) (callMemAlloc_done hSize hAttr hPlace),
    fun a e r h va t hPlace => serves_of rfl (fun _ => rfl) (callEventCreate_done hPlace),
    fun a e r va h x hFirst hAddr hMine => ?_,
    fun a e r va h x base t hFirst hAddr hAll hShared hAttr hRange hEmpty hBase hEnter => ?_,
    fun a e r va ls hFirst hAddr hRange hLeaves => ⟨fun hFree => ?_, fun hHeld => ?_⟩,
    fun a e r va ls hFirst hAddr hRange hAttr hMapped hLeaves => ?_, fun i a e r res hCall hOwed hFree => ?_,
    fun a e r va hAddr => serves_of rfl (fun _ => rfl) (callMemQuery_done hAddr),
    fun a e r d ps hProt hAddr hDst hLen hPerm hAlign hMay hPage hMiss hSpan =>
      serves_of rfl (fun _ => rfl) (callCapMint_done hProt hAddr hDst hLen hPerm hAlign hMay hPage hMiss hSpan),
    fun a e r va ps hAddr hMiss hSpan => serves_of rfl (fun _ => rfl) (callCapRevoke_done hAddr hMiss hSpan)⟩
  · intro r1 t hFree
    exact serves_of rfl (fun _ => rfl) ((callMemFree_done hFirst hAddr hMine).trans (invalidated_free hFree))
  · intro t' hFree
    exact serves_of rfl (fun _ => rfl)
      ((callMemMap_done hFirst hAddr hAll hShared hAttr hRange hEmpty hBase hEnter).trans (invalidated_free hFree))
  · exact serves_of rfl (fun _ => rfl) ((callMemUnmap_done hFirst hAddr hRange hLeaves).trans (invalidated_free hFree))
  · exact serves_of rfl (fun _ => rfl) ((callMemUnmap_done hFirst hAddr hRange hLeaves).trans (invalidated_held hHeld))
  · intro t hFree
    exact serves_of rfl (fun _ => rfl)
      ((callMemProtect_done hFirst hAddr hRange hAttr hMapped hLeaves).trans (invalidated_free hFree))
  · simp only [List.mem_cons, List.not_mem_nil, or_false] at hCall
    obtain rfl | rfl | rfl | rfl := hCall
    · exact serves_of (f := callMemFree) rfl (fun _ => rfl) (onceChanged_owed hOwed hFree)
    · exact serves_of (f := callMemMap) rfl (fun _ => rfl) (onceChanged_owed hOwed hFree)
    · exact serves_of (f := callMemUnmap) rfl (fun _ => rfl) (onceChanged_owed hOwed hFree)
    · exact serves_of (f := callMemProtect) rfl (fun _ => rfl) (onceChanged_owed hOwed hFree)

end Sys2Proof.Proofs.ServiceCalls
end

section
/-! Calls on grids, events, queues, interrupts, records, logs, counters and the context itself (R307, R331, R362 to R364, R369,
R411, R413, R419). -/
namespace Sys2Proof.Proofs.ServiceCalls

open Sys2Proof Sys2Proof.Machine

variable {a : EvArgs} {e : CallEnv} {r : Run}

/-! ## Grids -/

/-- Where a launch by a call has its grid from (R309, R358). -/
def callLaunch (e : CallEnv) : LaunchFrom := { queue := e.g.queue, level := e.crew.level, byCall := true }

theorem callGridLaunch_done {va st : Nat} {t : Run} (hGo : ((Assoc.get? e.m.parts e.c.part).map (·.stopped)).getD false = false)
    (hAddr : e.addr r 0 256 useRead = .ok va) (hMiss : launchMiss e.m r e.ctx va = none)
    (hReach : reachable e.m r e.ctx va 256 needRd = true) (hAccept : acceptLaunch e.m r e.ctx va (callLaunch e) = (st, t)) :
    callGridLaunch r e a = okRes t (recordGrid e.m r e.ctx va) st := by
  unfold callLaunch at hAccept
  simp only [callGridLaunch, hGo, Bool.false_eq_true, if_false, withAddr_ok hAddr, hMiss, hReach, Bool.not_true, hAccept]

theorem callGridQuery_done {k : Nat} {g : Grid} (h : gridById r e.ctx (e.arg 0) = some (k, g)) :
    callGridQuery r e a = okRes r (if g.status.isSome then 1 else 0) (g.status.getD 0) := by
  simp only [callGridQuery, h]
  cases g.status <;> rfl

theorem callGridCancel_done {gk : Nat} (h : gridNamed r e.ctx (e.arg 0) = some gk) :
    callGridCancel r e a = okRes (killGrid r gk 7) 0 := by
  simp only [callGridCancel, h]

theorem callGridCancel_none (h : gridNamed r e.ctx (e.arg 0) = none) : callGridCancel r e a = fails r stNotfound := by
  simp only [callGridCancel, h]

theorem callDetRecordFetch_done {k dst : Nat} {g : Grid} {src ps : List Place} (hGrid : gridById r e.ctx (e.arg 0) = some (k, g))
    (hDet : g.det ≠ 0) (hAddr : e.addr r 2 72 useWrite = .ok dst)
    (hFrom : hostMissAt e.m r e.ctx (g.detrec + 24) 72 needRd = none)
    (hSrc : globalSpan e.m r 0 e.ctx (g.detrec + 24) 72 needRd = .ok src) (hClean : src.any (poisoned r) = false)
    (hTo : hostMissAt e.m r e.ctx dst 72 needWr = none) (hDst : globalSpan e.m r 0 e.ctx dst 72 needWr = .ok ps) :
    callDetRecordFetch r e a =
      okRes (writePlaces r ps ((src.map (rawByte r)).drop 8 ++ (src.map (rawByte r)).take 8)) 72 := by
  simp only [callDetRecordFetch, hGrid, if_neg hDet, withAddr_ok hAddr, span_read hFrom hSrc hClean, span_write hTo hDst]

/-! ## Events, queues and interrupts -/

theorem callEventSignal_done {va : Nat} {ps : List Place} (hAddr : e.addr r 0 8 useWrite = .ok va) (hAlign : va % 8 = 0)
    (hMiss : hostMissAt e.m r e.ctx va 8 needWr = none) (hSpan : globalSpan e.m r 0 e.ctx va 8 needWr = .ok ps) :
    callEventSignal r e a = okRes (writePlaces r ps (toBytes 8 (e.arg 2))) 0 := by
  simp only [callEventSignal, withAddr_ok hAddr, hAlign, ne_eq, not_true_eq_false, if_false, span_write hMiss hSpan]

theorem callEventWait_due {va : Nat} {ps : List Place} (hAddr : e.addr r 0 8 useRead = .ok va) (hAlign : va % 8 = 0)
    (hMiss : hostMissAt e.m r e.ctx va 8 needRd = none) (hSpan : globalSpan e.m r 0 e.ctx va 8 needRd = .ok ps)
    (hClean : ps.any (poisoned r) = false) (hDue : e.arg 2 ≤ ofBytes (ps.map (rawByte r))) :
    callEventWait r e a = okRes r 0 := by
  simp only [callEventWait, withAddr_ok hAddr, hAlign, ne_eq, not_true_eq_false, if_false, span_read hMiss hSpan hClean, if_pos hDue]

theorem callQueueInfo_done (h : e.arg 0 ≤ 63) :
    let x := r.queueIf (fnOfCtx e.m e.ctx) (e.arg 0)
    callQueueInfo r e a = okRes r (x.qhead.toNat + 2 ^ 32 * x.ctail.toNat) x.pri := by
  simp only [callQueueInfo, if_neg (Nat.not_lt.mpr h)]

theorem callUiVectorSet_done (hVec : e.arg 0 ≤ 63) (hMode : byteOf (e.arg 1) 0 ≤ 2) (hRoute : byteOf (e.arg 1) 1 ≤ 3)
    (hOn : byteOf (e.arg 1) 2 ≤ 1) (hZero : byteOf (e.arg 1) 3 = 0) :
    callUiVectorSet r e a = okRes (setIntblk r e (16 * e.arg 0) (toBytes 8 (e.arg 1) ++ toBytes 8 (e.arg 2))) 0 := by
  have good : ¬ (2 < byteOf (e.arg 1) 0 ∨ 3 < byteOf (e.arg 1) 1 ∨ 1 < byteOf (e.arg 1) 2 ∨ byteOf (e.arg 1) 3 ≠ 0) := by omega
  simp only [callUiVectorSet, if_neg (Nat.not_lt.mpr hVec), if_neg good]

theorem callUiPermit_done (hSlot : e.arg 0 ≤ 63) (hKind : byteOf (e.arg 1) 0 ≤ 4) (hZero : byteOf (e.arg 1) 1 = 0) :
    callUiPermit r e a = okRes (setIntblk r e (0x400 + 16 * e.arg 0) (toBytes 8 (e.arg 1) ++ toBytes 8 (e.arg 2))) 0 := by
  have good : ¬ (63 < e.arg 0 ∨ 4 < byteOf (e.arg 1) 0 ∨ byteOf (e.arg 1) 1 ≠ 0) := by omega
  simp only [callUiPermit, if_neg good]

theorem callUiRevoke_done (hSlot : e.arg 0 ≤ 63) :
    callUiRevoke r e a = okRes (setIntblk r e (0x400 + 16 * e.arg 0) (toBytes 16 0)) 0 := by
  simp only [callUiRevoke, if_neg (Nat.not_lt.mpr hSlot)]

theorem callUiRoute_done (hVec : e.arg 0 ≤ 63) (hRoute : e.arg 1 ≤ 3) (hQueue : e.arg 2 < 2 ^ 32) :
    callUiRoute r e a = okRes (setIntblk (setIntblk r e (16 * e.arg 0 + 1) (toBytes 1 (e.arg 1))) e (16 * e.arg 0 + 4)
      (toBytes 4 (e.arg 2) ++ toBytes 8 (e.arg 3))) 0 := by
  have good : ¬ (3 < e.arg 1 ∨ 2 ^ 32 ≤ e.arg 2) := by omega
  simp only [callUiRoute, if_neg (Nat.not_lt.mpr hVec), if_neg good]

theorem callUiQuery_vector {c : Context} (hCtx : Assoc.get? r.contexts e.ctx = some c) (hVec : e.arg 0 ≤ 63) :
    callUiQuery r e a = okRes r (Mem.read c.intblk 8 (16 * e.arg 0)) ((List.range 64).filter (fun i =>
      Mem.read c.intblk 1 (heldOff i + 1) % 2 == 1 && Mem.read c.intblk 1 (heldOff i) == e.arg 0)).length := by
  simp only [callUiQuery, hCtx, if_neg (show e.arg 0 ≠ 0xFF by omega), if_neg (Nat.not_lt.mpr hVec)]

theorem callUiPostRemote_answered (hReach : r.unreachable.contains (e.arg 0) = false) (hLeft : e.c.remote = true)
    (hAnswer : a.flag = true) : callUiPostRemote r e a = okRes r (a.value % 5) := by
  simp only [callUiPostRemote, hReach, hLeft, hAnswer, Bool.false_eq_true, if_false, if_true]

/-! ## Logs, counters, clocks, random bytes and quotes -/

theorem callLogWrite_done {va : Nat} {ps : List Place} (hLen : e.arg 2 ≤ 4096) (hAddr : e.addr r 0 (e.arg 2) useRead = .ok va)
    (hMiss : hostMissAt e.m r e.ctx va (e.arg 2) needRd = none) (hSpan : globalSpan e.m r 0 e.ctx va (e.arg 2) needRd = .ok ps)
    (hClean : ps.any (poisoned r) = false) :
    let log := (Assoc.get? r.partLogs e.c.part).getD [] ++ ps.map (rawByte r)
    callLogWrite r e a = okRes { r with partLogs := Assoc.set r.partLogs e.c.part log } (e.arg 2) := by
  simp only [callLogWrite, if_neg (Nat.not_lt.mpr hLen), withAddr_ok hAddr, span_read hMiss hSpan hClean]

theorem callCounterRead_done (h : allowsItem e.m r e.c.part (e.arg 0) = true) :
    callCounterRead r e a = okRes r.draw.2 (Config.telemetry (e.arg 0) r.draw.1).toNat := by
  simp only [callCounterRead, h, if_true]

theorem callClockInfo_done {t : Nat} (h : ((Assoc.get? e.m.parts e.c.part).getD {}).tiles[e.arg 0]? = some t) :
    callClockInfo r e a = okRes r (stepMhz (e.m.tileHw t).clockStep + 2 ^ 16 * 100000) := by
  simp only [callClockInfo, h]

theorem callRandom_done {va : Nat} {ps : List Place} (hLen : e.arg 2 ≤ 256) (hAddr : e.addr r 0 (e.arg 2) useWrite = .ok va)
    (hMiss : hostMissAt e.m r e.ctx va (e.arg 2) needWr = none) (hSpan : globalSpan e.m r 0 e.ctx va (e.arg 2) needWr = .ok ps) :
    callRandom r e a = okRes (writePlaces (randomBytes (e.arg 2) r).2 ps (randomBytes (e.arg 2) r).1) (e.arg 2) := by
  simp only [callRandom, if_neg (Nat.not_lt.mpr hLen), withAddr_ok hAddr, span_write hMiss hSpan]

theorem callAttestQuote_done {nonce dst : Nat} {src ps : List Place} (hLen : 2944 ≤ e.arg 4) (hNonce : e.addr r 0 32 useRead = .ok nonce)
    (hAddr : e.addr r 2 (e.arg 4) useWrite = .ok dst) (hFrom : hostMissAt e.m r e.ctx nonce 32 needRd = none)
    (hSrc : globalSpan e.m r 0 e.ctx nonce 32 needRd = .ok src) (hClean : src.any (poisoned r) = false)
    (hTo : hostMissAt e.m r.draw.2 e.ctx dst (quoteOf e.m e.c.part (src.map (rawByte r)) r.draw.1).length needWr = none)
    (hDst : globalSpan e.m r.draw.2 0 e.ctx dst (quoteOf e.m e.c.part (src.map (rawByte r)) r.draw.1).length needWr = .ok ps) :
    let q := quoteOf e.m e.c.part (src.map (rawByte r)) r.draw.1
    callAttestQuote r e a = okRes (writePlaces r.draw.2 ps q) q.length := by
  simp only [callAttestQuote, if_neg (Nat.not_lt.mpr hLen), withAddr_ok hNonce, withAddr_ok hAddr, span_read hFrom hSrc hClean,
    span_write hTo hDst]

/-- The bytes that REPORT_FETCH delivers: the loss count, then the entries, as far as the length goes (R413). -/
def reportBytes (r : Run) (e : CallEnv) : List Byte :=
  (toBytes 8 (rdReg r.reportLost e.c.part).toNat ++ ((Assoc.get? r.reports e.c.part).getD []).flatten).take (e.arg 2)

theorem callReportFetch_done {va : Nat} {ps : List Place} (hAddr : e.addr r 0 (reportBytes r e).length useWrite = .ok va)
    (hMiss : hostMissAt e.m r e.ctx va (reportBytes r e).length needWr = none)
    (hSpan : globalSpan e.m r 0 e.ctx va (reportBytes r e).length needWr = .ok ps) :
    callReportFetch r e a = okRes (writePlaces r ps (reportBytes r e)) (reportBytes r e).length := by
  unfold reportBytes at *
  simp only [callReportFetch, withAddr_ok hAddr, span_write hMiss hSpan]

/-! ## The context itself -/

theorem callDbgHaltSelf_halts (h : e.c.away = false) : callDbgHaltSelf r e a = (haltContext r e.ctx, .away) := by
  simp only [callDbgHaltSelf, h, Bool.false_eq_true, if_false]

theorem callCtxYield_none (hFirst : e.c.owed = none)
    (hAlone : (waiters e.m r).any (fun w => w.crews.any (fun c => c.2 == e.crew.core)) = false) : callCtxYield r e a = okRes r 0 := by
  simp only [callCtxYield, hFirst, Option.isSome_none, hAlone, Bool.false_eq_true, if_false]

theorem callCtxYield_leaves (hFirst : e.c.owed = none)
    (hWaits : (waiters e.m r).any (fun w => w.crews.any (fun c => c.2 == e.crew.core)) = true)
    (hMatrix : matrixNeeds r e.c.crew = false) :
    callCtxYield r e a =
      (beginSave { r with calls := Assoc.modify r.calls e.key (fun c => { c with owed := some 0 }) } e.c.crew 1, .away) := by
  simp only [callCtxYield, hFirst, Option.isSome_none, hWaits, hMatrix, Bool.false_eq_true, if_false, if_true]

theorem callCtxYield_back (hOwed : e.c.owed ≠ none) (hBack : e.crew.status = .resident) : callCtxYield r e a = okRes r 0 := by
  simp only [callCtxYield, Option.isSome_iff_ne_none.mpr hOwed, hBack, if_true]

end Sys2Proof.Proofs.ServiceCalls
end

section
/-! The calls on the context, and those that go to the host, settled. -/
namespace Sys2Proof.Proofs.ServiceCalls

open Sys2Proof Sys2Proof.Machine

/-- Settles O31: each call, its checks passed, by the equation of what it does. -/
theorem contextCallsComplete : Obligations.ContextCallsComplete := by
  unfold Obligations.ContextCallsComplete
  refine ⟨fun a e r va st t hGo hAddr hMiss hReach hAccept =>
      serves_of rfl (fun _ => rfl) (callGridLaunch_done hGo hAddr hMiss hReach hAccept),
    fun a e r k g hGrid => serves_of rfl (fun _ => rfl) (callGridQuery_done hGrid),
    fun a e r gk hGrid => serves_of rfl (fun _ => rfl) (callGridCancel_done hGrid),
    fun a e r hNone => serves_of rfl (fun _ => rfl) (callGridCancel_none hNone),
    fun a e r k g dst src ps hGrid hDet hAddr hFrom hSrc hClean hTo hDst =>
      serves_of rfl (fun _ => rfl) (callDetRecordFetch_done hGrid hDet hAddr hFrom hSrc hClean hTo hDst),
    fun a e r va ps hAddr hAlign hMiss hSpan => serves_of rfl (fun _ => rfl) (callEventSignal_done hAddr hAlign hMiss hSpan),
    fun a e r va ps hAddr hAlign hMiss hSpan hClean hDue =>
      serves_of rfl (fun _ => rfl) (callEventWait_due hAddr hAlign hMiss hSpan hClean hDue),
    fun a e r hQueue => serves_of rfl (fun _ => rfl) (callQueueInfo_done hQueue),
    fun a e r hVec hMode hRoute hOn hZero => serves_of rfl (fun _ => rfl) (callUiVectorSet_done hVec hMode hRoute hOn hZero),
    fun a e r hSlot hKind hZero => serves_of rfl (fun _ => rfl) (callUiPermit_done hSlot hKind hZero),
    fun a e r hSlot => serves_of rfl (fun _ => rfl) (callUiRevoke_done hSlot),
    fun a e r hVec hRoute hQueue => serves_of rfl (fun _ => rfl) (callUiRoute_done hVec hRoute hQueue),
    fun a e r c hCtx hVec => serves_of rfl (fun _ => rfl) (callUiQuery_vector hCtx hVec),
    fun a e r hReach hLeft hAnswer => serves_of rfl (fun _ => rfl) (callUiPostRemote_answered hReach hLeft hAnswer),
    fun a e r va ps hLen hAddr hMiss hSpan hClean => serves_of rfl (fun _ => rfl) (callLogWrite_done hLen hAddr hMiss hSpan hClean),
    fun a e r hAllowed => serves_of rfl (fun _ => rfl) (callCounterRead_done hAllowed),
    fun a e r nonce dst src ps hLen hNonce hAddr hFrom hSrc hClean => ?_, fun a e r va ps => ?_,
    fun a e r t hTile => serves_of rfl (fun _ => rfl) (callClockInfo_done hTile),
    fun a e r va ps hLen hAddr hMiss hSpan => serves_of rfl (fun _ => rfl) (callRandom_done hLen hAddr hMiss hSpan),
    fun a e r hHere => serves_of rfl (fun _ => rfl) (callDbgHaltSelf_halts hHere),
    fun a e r => serves_of (f := callDbgNotify) rfl (fun _ => rfl) rfl,
    fun a e r hFirst hAlone => serves_of rfl (fun _ => rfl) (callCtxYield_none hFirst hAlone),
    fun a e r hFirst hWaits hMatrix => serves_of rfl (fun _ => rfl) (callCtxYield_leaves hFirst hWaits hMatrix),
    fun a e r hOwed hBack => serves_of rfl (fun _ => rfl) (callCtxYield_back hOwed hBack),
    fun a e r => serves_of (f := callCtxExit) rfl (fun _ => rfl) rfl⟩
  · intro q hTo hDst
    exact serves_of rfl (fun _ => rfl) (callAttestQuote_done hLen hNonce hAddr hFrom hSrc hClean hTo hDst)
  · intro bs hAddr hMiss hSpan
    exact serves_of rfl (fun _ => rfl) (callReportFetch_done hAddr hMiss hSpan)

/-! ## Calls that go to the host -/

/-- The calls that go to the host are served alike (R374). -/
theorem exec_hostCall {i : Instr} {n : Nat} (hn : serviceNum i = some n) (hHost : hostCalls.contains n = true) (s : State) :
    exec i s = serve n callProxy s := by
  cases i <;> cases hn <;> simp [hostCalls] at hHost <;> rfl

theorem callProxy_forwards {a : EvArgs} {e : CallEnv} {r : Run} (hLive : e.blk.replay = false)
    (hRing : bits (r.func (fnOfCtx e.m e.ctx)).pxctl.toNat 31 31 = 1) (hLimits : proxyLimits e = true)
    (hHandle : namesHandle e.c.num = true → handleOk r (fnOfCtx e.m e.ctx) e.ctx (e.arg 0) = true)
    (hSpans : checkSpans e r (proxySpans e) = .ok)
    (hFree : r.calls.any (fun p => p.2.proxy == some ((r.func (fnOfCtx e.m e.ctx)).pxCount % (r.func (fnOfCtx e.m e.ctx)).pxSize) &&
      fnOfCtx e.m (p.2.part * 64 + p.2.ctx) == fnOfCtx e.m e.ctx) = false) :
    let f := r.func (fnOfCtx e.m e.ctx)
    let i := f.pxCount % f.pxSize
    let t := ({ r with hostMem := Mem.writeBytes r.hostMem (f.pxbase.toNat + 128 * i) (proxyRecord e r f) } : Run).setFunc
      (fnOfCtx e.m e.ctx) (fun f => { f with pxCount := f.pxCount + 1 })
    callProxy r e a = ({ t with calls := Assoc.modify t.calls e.key (fun c => { c with proxy := some i }) }, .away) := by
  have handle : (namesHandle e.c.num && !handleOk r (fnOfCtx e.m e.ctx) e.ctx (e.arg 0)) = false := by
    rw [Bool.and_eq_false_imp]
    intro hNames
    rw [hHandle hNames]
    rfl
  simp only [callProxy, hLive, Bool.false_eq_true, if_false, hRing, Nat.one_ne_zero, hLimits, Bool.not_true, handle, hSpans, hFree]

/-- Settles O32: the checks passed, the record takes the next place of the ring. -/
theorem hostCallsForwarded : Obligations.HostCallsForwarded := by
  unfold Obligations.HostCallsForwarded
  intro i n a e r hn hHost hLive fn f hRing hLimits hHandle hSpans i' hFree t
  exact serves_of hn (exec_hostCall hn hHost) (callProxy_forwards hLive hRing hLimits hHandle hSpans hFree)

end Sys2Proof.Proofs.ServiceCalls
end

section
/-! A trap that comes after followers, and the word that executes again (R64). -/
namespace Sys2Proof.Proofs.LateTraps

open Sys2Proof Sys2Proof.Machine Sys2Proof.Proofs.Completion

/-! ## Lists of one thing -/

theorem eraseDups_replicate {α : Type} [BEq α] [LawfulBEq α] (x : α) (n : Nat) : (List.replicate (n + 1) x).eraseDups = [x] := by
  have others : (List.replicate n x).filter (fun b => !b == x) = [] :=
    List.filter_eq_nil_iff.mpr fun a ha => by rw [(List.mem_replicate.mp ha).2]; simp
  rw [List.replicate_succ, List.eraseDups_cons, others]
  rfl

/-- The lanes of a mask each tagged with one thing: their tags are that one thing. -/
theorem eraseDups_lanes {α : Type} [BEq α] [LawfulBEq α] {lanes : Mask} (h : lanes ≠ 0#32) (x : α) :
    ((lanesOf lanes).map (fun _ => x)).eraseDups = [x] := by
  have some_lane : lanesOf lanes ≠ [] := fun hNone => h (by rw [← maskOf_lanesOf lanes, hNone]; rfl)
  obtain ⟨n, hn⟩ := Nat.exists_eq_succ_of_ne_zero (fun hn => some_lane (List.length_eq_zero_iff.mp hn))
  rw [List.map_const', hn]
  exact eraseDups_replicate x n

/-- A filter that keeps what each element of a list gives is a map. -/
theorem filterMap_kept {α β : Type} {f : α → Option β} {g : α → β} (xs : List α) (h : ∀ y ∈ xs, f y = some (g y)) :
    xs.filterMap f = xs.map g := by
  induction xs with
  | nil => rfl
  | cons y ys ih =>
    rw [List.filterMap_cons_some (h y List.mem_cons_self), ih fun z hz => h z (List.mem_cons_of_mem _ hz), List.map_cons]

/-- A list all of whose elements pass is its own longest passing start. -/
theorem takeWhile_passed {α : Type} {p : α → Bool} (xs : List α) (h : ∀ y ∈ xs, p y = true) : xs.takeWhile p = xs := by
  induction xs with
  | nil => rfl
  | cons y ys ih =>
    rw [List.takeWhile_cons_of_pos (h y List.mem_cons_self), ih fun z hz => h z (List.mem_cons_of_mem _ hz)]

theorem redoMask_passed (lanes : Mask) (n : Nat) (s : Spot) : redoMask [⟨lanes, List.replicate n none, s⟩] = 0 := by
  have none_again : ∀ (xs : List (Option Spot × Nat)) (k : Nat), (∀ x ∈ xs, x.1 = none) →
      xs.foldl (fun n x => if x.1.isSome then n ||| 2 ^ x.2 else n) k = k := by
    intro xs
    induction xs with
    | nil => intro k _; rfl
    | cons x xs ih =>
      intro k h
      rw [List.foldl_cons, h x List.mem_cons_self]
      exact ih k fun y hy => h y (List.mem_cons_of_mem _ hy)
  simp only [redoMask, List.foldl_cons, List.foldl_nil]
  rw [none_again _ 0 fun x hx => (List.mem_replicate.mp (List.fst_mem_of_mem_zipIdx hx)).2]
  rfl

theorem skipCount_passed (lanes : Mask) (n : Nat) (s : Spot) : skipCount [⟨lanes, List.replicate n none, s⟩] = n := by
  simp [skipCount]

/-! ## The failed word alone -/

variable {id la n : Nat} {cls : OpClass} {lanes : Mask} {b b' : Batch} {t : Trapping} {x : Window}

/-- The operation of a failed word that reserved no queue entry. -/
def lateOp (id : Nat) (cls : OpClass) (lanes : Mask) (la : Nat) (b : Batch) (t : Trapping) : PendOp :=
  { id := id, cls := cls, data := .late lanes la b t none }

/-- What the lanes of a failed word have to pass over, where n followers have issued and the batch stands at a place. -/
def passedBy (lanes : Mask) (n : Nat) (s : Spot) : Pass := ⟨lanes, List.replicate n none, s⟩

theorem followersDone_one (hOp : x.op = id) (hLeft : x.left = [(lanes, la - n)]) (hn : n ≤ la) {l : Nat} (hl : lanes.getLsbD l = true) :
    followersDone [x] id la l = n := by
  simp only [followersDone, followersLeft, List.find?_cons, hOp, beq_self_eq_true, Option.bind_some, hLeft, hl, Option.map_some,
    Option.getD_some]
  omega

theorem laneSteps_one (k l : Nat) : laneSteps [x] [lateOp id cls lanes la b t] id k l = List.replicate k none := by
  simp only [laneSteps, lateOp, List.findSome?_cons, List.findSome?_nil, bne_self_eq_false, Bool.false_and, Bool.false_eq_true, if_false,
    List.map_const', List.length_range]

theorem lanePasses_one (hOp : x.op = id) (hLeft : x.left = [(lanes, la - n)]) (hn : n ≤ la) (hLanes : b'.lanes = lanes)
    (hStands : b'.wait = .none) (hSome : lanes ≠ 0#32) :
    lanePasses [b'] [x] [lateOp id cls lanes la b t] id la lanes = [(n, passedBy lanes n b'.spot)] := by
  have each : (lanesOf lanes).filterMap (fun l => ([b'].find? (fun b => b.lanes.getLsbD l)).map (fun b0 =>
      (l, followersDone [x] id la l, b0.passed (laneSteps [x] [lateOp id cls lanes la b t] id (followersDone [x] id la l) l)))) =
      (lanesOf lanes).map (fun l => (l, n, List.replicate n none, b'.spot)) := by
    refine filterMap_kept _ fun l hl => ?_
    have member := (mem_lanesOf.mp hl).2
    have here : b'.lanes.getLsbD l = true := by rw [hLanes]; exact member
    rw [List.find?_cons, here, followersDone_one hOp hLeft hn member, laneSteps_one]
    simp only [Option.map_some, Batch.passed, hStands]
  have all : ((lanesOf lanes).map (fun l => (l, n, List.replicate n (none : Option Spot), b'.spot))).filter
      (fun y => y.2 == (n, List.replicate n none, b'.spot)) =
      (lanesOf lanes).map (fun l => (l, n, List.replicate n none, b'.spot)) :=
    List.filter_eq_self.mpr fun y hy => by
      obtain ⟨l, -, rfl⟩ := List.mem_map.mp hy
      exact beq_self_eq_true _
  have tags : ((lanesOf lanes).map (fun l => (l, n, List.replicate n (none : Option Spot), b'.spot))).map (·.2) =
      (lanesOf lanes).map (fun _ => (n, List.replicate n none, b'.spot)) := List.map_map
  have numbers : ((lanesOf lanes).map (fun l => (l, n, List.replicate n (none : Option Spot), b'.spot))).map (·.1) = lanesOf lanes :=
    List.map_map.trans (List.map_id _)
  unfold lanePasses
  dsimp only
  rw [each, tags, eraseDups_lanes hSome, List.map_singleton, all, numbers, maskOf_lanesOf]
  rfl

theorem dropLate_one (hOp : x.op = id) (ps : List (Nat × Pass)) : dropLate [lateOp id cls lanes la b t] [x] id lanes ps = ([], []) := by
  have untick_nil : ∀ ps : List (Nat × Pass), ps.foldl (fun ws p => untick ws p.2.lanes (p.1 + 1)) [] = [] := by
    intro ps
    induction ps with
    | nil => rfl
    | cons p ps ih => exact ih
  simp only [dropLate, lateOp, hOp, List.filter_cons, List.filter_nil, beq_self_eq_true, Bool.true_or, Bool.not_true, Bool.false_eq_true,
    if_false, untick_nil]
  rfl

theorem lateReady_one {w : Warp} (hOps : w.ops = [lateOp id cls lanes la b t]) (hWindows : w.windows = [x]) (hOp : x.op = id)
    (hLeft : x.left = [(lanes, la - n)]) (hBatch : w.batches = [b']) (hStands : b'.wait = .none) :
    w.lateReady (lateOp id cls lanes la b t) = true := by
  simp [Warp.lateReady, lateOp, lateDue, settled, hOps, hWindows, hOp, hLeft, hBatch, hStands]

/-- The warp whose failed word takes its trap: the word's lanes stand at it, with their followers to pass over. -/
theorem backTo_one {w : Warp} (hOps : w.ops = [lateOp id cls lanes la b t]) (hWindows : w.windows = [x]) (hOp : x.op = id)
    (hLeft : x.left = [(lanes, la - n)]) (hn : n ≤ la) (hBatch : w.batches = [b']) (hLanes : b'.lanes = lanes)
    (hStands : b'.wait = .none) (hSome : lanes ≠ 0#32) :
    w.backTo id la lanes b = { w with
      ops := [], windows := [],
      batches := [{ b with lanes := lanes, wait := .none, replay := [passedBy lanes n b'.spot] }] } := by
  unfold Warp.backTo
  rw [hOps, hWindows, hBatch, lanePasses_one hOp hLeft hn hLanes hStands hSome]
  dsimp only
  rw [dropLate_one hOp]
  simp [passedBy, hLanes, Batch.only]

/-! ## The trap delivered -/

theorem stopLanes_rest (r : Run) (cid wi : Nat) (c : Crew) (w : Warp) (lanes : Mask) :
    let t := stopLanes r cid wi c w lanes
    t.crews = r.crews ∧ t.blocks = r.blocks ∧ t.grids = r.grids := by
  unfold stopLanes
  split
  · split
    · exact ⟨rfl, rfl, rfl⟩
    · exact ⟨rfl, rfl, rfl⟩
  · exact ⟨rfl, rfl, rfl⟩

/-- The warp found where it stands, for a trap in its lanes. -/
theorem env?_found {m : Mgmt} {r : Run} {cid wi lead : Nat} {c : Crew} {w : Warp} {b : Batch} {bl : Block} {g : Grid}
    (hCrew : Assoc.get? r.crews cid = some c) (hWarp : c.warps[wi]? = some w) (hBatch : w.batch? lead = some b)
    (hBlock : Assoc.get? r.blocks c.block = some bl) (hGrid : Assoc.get? r.grids bl.grid = some g) :
    env? m r cid wi lead = some ⟨m, r, cid, wi, lead, c, w, b, bl, g, kernelOf g bl⟩ := by
  simp only [env?, hCrew, hWarp, hBatch, hBlock, hGrid, Option.bind_eq_bind, Option.bind_some, pure]

/-- The trap of a word that has failed, its followers finished, is delivered in the lanes that stand at the word again (R64). -/
theorem failLate_delivers {m : Mgmt} {r : Run} {cid wi la : Nat} {c : Crew} {w : Warp} {bl : Block} {g : Grid} {cls : OpClass}
    {lanes : Mask} {b B : Batch} {t : Trapping} (hCrew : Assoc.get? r.crews cid = some c) (hWarp : c.warps[wi]? = some w)
    (hBlock : Assoc.get? r.blocks c.block = some bl) (hGrid : Assoc.get? r.grids bl.grid = some g)
    (hOps : w.ops = [lateOp id cls lanes la b t]) (hReady : w.lateReady (lateOp id cls lanes la b t) = true)
    (hHere : c.status ≠ .saved) (hGoes : w.hostrec = none) (hPage : t.code ≠ tcHostPage)
    (hBack : (w.backTo id la lanes b).batches = [B]) :
    ∃ e r', failLate m r cid wi id = deliverTrap e r' B B.pc t ∧ e.cid = cid ∧ e.wi = wi ∧ e.g = g ∧ e.lead = lowLane B.lanes ∧
      e.w = w.backTo id la lanes b ∧ r'.warp? cid wi = some (w.backTo id la lanes b) := by
  obtain ⟨hCrews, hBlocks, hGrids⟩ := stopLanes_rest r cid wi c w lanes
  have stopped : Assoc.get? (stopLanes r cid wi c w lanes).crews cid = some c := by rw [hCrews]; exact hCrew
  have back := Run.get?_warp (stopLanes r cid wi c w lanes) (fun _ => w.backTo id la lanes b) stopped hWarp
  have there : (setAt c.warps wi (w.backTo id la lanes b))[wi]? = some (w.backTo id la lanes b) :=
    getElem?_setAt_self _ _ _ (List.getElem?_eq_some_iff.mp hWarp).1
  have stands : (w.backTo id la lanes b).batch? (lowLane B.lanes) = some B := by simp [Warp.batch?, hBack]
  obtain ⟨e, found, hCid, hWi, hGr, hLead, hW⟩ : ∃ e, env? m ((stopLanes r cid wi c w lanes).warp cid wi (fun _ => w.backTo id la lanes b))
      cid wi (lowLane B.lanes) = some e ∧ e.cid = cid ∧ e.wi = wi ∧ e.g = g ∧ e.lead = lowLane B.lanes ∧ e.w = w.backTo id la lanes b :=
    ⟨_, env?_found back there stands ((congrArg (Assoc.get? · _) hBlocks).trans hBlock)
      ((congrArg (Assoc.get? · _) hGrids).trans hGrid), rfl, rfl, rfl, rfl, rfl⟩
  have notSaved : (c.status == .saved) = false := beq_eq_false_iff_ne.mpr hHere
  unfold lateOp at hOps hReady
  refine ⟨e, _, ?_, hCid, hWi, hGr, hLead, hW, Run.warp?_of back there⟩
  unfold failLate
  rw [hCrew]
  simp only [Option.bind_some, hWarp, Option.map_some, hOps, List.find?_cons, beq_self_eq_true, hReady, notSaved, Bool.not_true,
    Bool.or_self, Bool.false_eq_true, if_false, hGoes, Option.isSome_none, hBack, List.getLast?_singleton, found, if_neg hPage]

end Sys2Proof.Proofs.LateTraps
end

section
/-! The late trap settled. -/
namespace Sys2Proof.Proofs.LateTraps

open Sys2Proof Sys2Proof.Machine Sys2Proof.Proofs.Completion Sys2Proof.Proofs.Happenings

/-- A failed operation is no outstanding load. -/
theorem completeLoad_late {m : Mgmt} {r : Run} {cid wi id la : Nat} {c : Crew} {w : Warp} {cls : OpClass} {lanes : Mask} {b : Batch}
    {t : Trapping} (hCrew : Assoc.get? r.crews cid = some c) (hWarp : c.warps[wi]? = some w) (hOps : w.ops = [lateOp id cls lanes la b t]) :
    completeLoad m r cid wi id = failLate m r cid wi id := by
  have none_there : warpOp r cid wi id .ldg = none := by
    simp [warpOp, hCrew, hWarp, hOps, lateOp, PendOp.failed]
  simp only [completeLoad, none_there]

/-- A word that has passed over all its followers goes on where they stood. -/
theorem resume_passed {b : Batch} {p : Pass} (h : ∀ y ∈ p.steps, y = none) : b.resume p = b.atSpot p.lanes p.next [] := by
  have all : p.skips = p.steps.length := by
    unfold Pass.skips
    rw [takeWhile_passed _ fun y hy => by rw [h y hy]; rfl]
  have last : p.again = none := by
    simp [Pass.again, all]
  simp only [Batch.resume, last]

/-- After a word of a batch that has followers to pass over, the groups that go on stand in the warp (R64). -/
theorem afterWord_seq {e : Env} {d : WordDef} {f : Flow} {w : Warp} {b : Batch} (hSeq : f.next = .seq) (hReplay : e.b.replay ≠ [])
    (hWarp : f.run.warp? e.cid e.wi = some w) (hOn : b ∈ e.b.onward d.bd) (hLanes : b.lanes ≠ 0#32) :
    ∃ w', (afterWord e d f).warp? e.cid e.wi = some w' ∧ b ∈ w'.batches := by
  unfold afterWord
  rw [hSeq]
  dsimp only
  rw [if_pos (Or.inr hReplay)]
  exact ⟨_, Run.warp?_warp _ hWarp, List.mem_append_right _ (List.mem_filter.mpr ⟨hOn, bne_iff_ne.mpr hLanes⟩)⟩

/-- Settles O57: the trap finds the lanes at the word with n followers to pass over, and the word done again goes past them. -/
theorem lateTrapSkips : Obligations.LateTrapSkips := by
  unfold Obligations.LateTrapSkips
  constructor
  · intro m r a c w bl g cls lanes la n b t x b' hCrew hWarp hBlock hGrid hOps hWindows hOp hLeft hn hBatch hLanes hStands hSome hGoes
      hSave hHere hPage hEcc hMop hReg hDisp
    have back := backTo_one hOps hWindows hOp hLeft hn hBatch hLanes hStands hSome
    obtain ⟨e, r', hFail, hCid, hWi, hGr, hLead, hW, hThere⟩ := failLate_delivers (m := m) hCrew hWarp hBlock hGrid hOps
      (lateReady_one hOps hWindows hOp hLeft hBatch hStands) hHere hGoes hPage (by rw [back])
    have saved : e.w.hsave.isSome = false := by rw [hW, back]; exact congrArg Option.isSome hSave
    rw [← hCid, ← hWi] at hThere
    have trapped := deliverTrap_host (restart := { b with lanes := lanes, wait := .none, replay := [passedBy lanes n b'.spot] })
      (origin := b.pc) hMop hEcc hReg (by rw [saved, hGr]; exact hDisp) hThere
    rw [hCid, hWi, hLead, back] at trapped
    refine ⟨_, _, _, happens_of (fun m r a => completeLoad m r a.crew a.warp a.op) (fun _ => rfl)
      ((completeLoad_late hCrew hWarp hOps).trans hFail), trapped, rfl, rfl, rfl, rfl, skipCount_passed _ _ _, redoMask_passed _ _ _,
      ?_, rfl, rfl, rfl, rfl, rfl⟩
    simp [Warp.replaceBatch, hSome, passedBy]
  · intro i s e d f p w hd hp hc hBody hSeq hReplay hPassed hLanes hWarp
    have onward : e.b.onward d.bd = [e.b.resume p] := by
      unfold Batch.onward
      rw [hReplay]
      rfl
    have lanes : (e.b.resume p).lanes = p.lanes := by
      rw [resume_passed hPassed]
      rfl
    obtain ⟨w', hAfter, hIn⟩ := afterWord_seq (d := d) hSeq (by rw [hReplay]; exact List.cons_ne_nil _ _) hWarp
      (show e.b.resume p ∈ e.b.onward d.bd by rw [onward]; exact List.mem_singleton_self _) (lanes ▸ hLanes)
    refine ⟨_, w', _, completes_of hd hBody s d hd hp hc ?_, hAfter, hIn, lanes, ?_⟩
    · rw [hSeq]
      exact { trap := (fun h => nomatch h), leave := (fun h => nomatch h) }
    · rw [resume_passed hPassed]
      rfl

end Sys2Proof.Proofs.LateTraps
end
